-- ==== Sys2Proof/Word.lean ====
section
/-! DEFINITION. The byte and byte-string types (R10, R11) that the commands carry. -/

namespace Sys2Proof

/-- One byte. -/
abbrev Byte := BitVec 8

/-- A string of bytes, the byte at the lowest offset first. -/
abbrev Bytes := List Byte

end Sys2Proof
end

