-- ==== Sys2Proof/Operand.lean ====
section
/-! DEFINITION. The operand types of the commands: what a message, a packet, a sideband access, a
measurement or the end of a timed act brings with it from outside. -/

namespace Sys2Proof

/-- Where a command message comes from: the front of a context's inbox (R428, R429), or the
management sideband, whose messages start when they arrive (R630). -/
inductive MsgRef where
  | inbox (ctx : Nat)
  | sideband (bytes : Bytes)
deriving DecidableEq, Repr

/-- A descriptor of a submitted program: job index j = 2 x partition + kind (R462), number of the
submission, descriptor index. -/
structure TaskRef where
  job : Nat
  sub : Nat
  desc : Nat
deriving DecidableEq, Repr

/-- What one fetch of a Vale line and its metadata shows the controller (R323, R307): the stored
line as it was written, the same after a correction by the stack's own ECC, or a line changed
outside the dies, whose tag fails (R322). -/
inductive Fetch where
  | good
  | corrected
  | bad
deriving DecidableEq, Repr

/-- One 64-bit word met with its stored check byte by a reader (R591, R592): the unit kind of R596,
its location, whether the word lies in a dirty line, whether the packet's header was correctable,
and the key id, job and Pass ends concerned. -/
structure EccReport where
  unit : Nat
  location : Nat
  data : BitVec 64
  check : BitVec 8
  dirty : Bool
  headerOk : Bool
  key : Nat
  jobId : Nat
  src : Nat
  dst : Nat
deriving DecidableEq, Repr

/-- The request kinds of the mesh, opcodes 0x0 to 0x3 of R82, and a packet of a reserved opcode, 0x7 to 0xF. -/
inductive ReqKind where
  | read64
  | read256
  | writeMask
  | writeFull
  | reserved (opcode : Nat)
deriving DecidableEq, Repr

/-- A core's request to the Plain cache (R82, R316): the job offset of a 64-byte unit (or of a
256-byte line), the byte mask and data of a write, the task on whose behalf it is made, and the tile-store address that a
256-byte read fills (R74, R75). -/
structure CoreReq where
  core : Nat
  thread : Nat
  tag : Nat
  kind : ReqKind
  job : Nat
  offset : Nat
  mask : BitVec 64
  data : Bytes
  task : Option TaskRef
  tile : Nat := 0
deriving DecidableEq, Repr

/-- The agents whose accesses reach a Vale controller (R325, R339). -/
inductive ValeAgent where
  | slice (block : Nat)
  | dma (engine : Nat)
  | ingress
  | tier
  | capture
  | sweep
deriving DecidableEq, Repr

/-- A request to a Vale controller (R82, R316): Vale address, length, anchor key id carried, agent,
and the task that caused it, if one did (R325). -/
structure ValeReq where
  address : Nat
  length : Nat
  key : Nat
  agent : ValeAgent
  task : Option TaskRef
deriving DecidableEq, Repr

/-- What the power manager measures in one interval (R549 to R554, R639): supply, the draw outside
the Plain, activity in thousandths by block, and temperatures in sixteenths of a degree. -/
structure PowerMeas where
  vinMv : Nat
  iinMa : Nat
  pinW : Nat
  noncoreMw : Nat
  activity : List (Nat × Nat)
  blockTemps : List (Nat × Int)
  stackTemps : List (Nat × Int)
  opticTemps : List (Nat × Int)
  inletTemp : Int
deriving DecidableEq, Repr

/-- What a boot meets that is not in the state (R569, R573, R548): the self-test, the read-back of
the image loads of slot A, slot B and the recovery set, the tags of K3 and K4, and the derate in
5 MHz steps that the ageing monitors of each core give (R94). -/
structure BootEnv where
  selfTestOk : Bool
  loadOkA : Bool
  loadOkB : Bool
  loadOkRecovery : Bool
  k3Ok : Bool
  k4Ok : Bool
  derates : List (Nat × Nat)
deriving DecidableEq, Repr

/-- How a step of the start order ends (R545, R548): what the boot meets at step 3, and the stacks
that fail initialisation at step 4. -/
structure StartEnv where
  boot : BootEnv
  stacksFailed : List Nat
deriving DecidableEq, Repr

/-- The tamper sources of R485, in the bit order of R635. -/
inductive TamperSource where
  | lidMesh
  | light
  | voltage
  | temperature
  | clock
deriving DecidableEq, Repr

/-- Which fence wait a timeout belongs to: a host wait by its context and cookie, or a program's
fence_wait descriptor (R452). -/
inductive WaitRef where
  | host (ctx : Nat) (cookie : Nat)
  | program (t : TaskRef)
deriving DecidableEq, Repr

/-- What destruction names: an object table entry, or a tensor table entry of a job (R442). -/
inductive ObjRef where
  | object (index : Nat)
  | tensor (job : Nat) (index : Nat)
deriving DecidableEq, Repr

/-- What a checkpoint read over RoCEv2 brings: bytes, or a failed read (R537 cause 9). -/
inductive ReadResult where
  | bytes (b : Bytes)
  | failed
deriving DecidableEq, Repr

end Sys2Proof
end

