-- ==== Sys2Proof/Syntax.lean ====
section
/-! DEFINITION. The commands of the Proend: one constructor for each row of spec/opcode_table.json, in the table's order,
each with the rule its row names. -/

namespace Sys2Proof

/-- The commands and events that change the Proend's state. -/
inductive Instr where
  /-- HELLO, R432. -/
  | hello (ctx : Nat)
  /-- QP_CREATE, R411. -/
  | qpCreate (ctx : Nat)
  /-- WINDOW_OPEN, R438. -/
  | windowOpen (ctx : Nat)
  /-- GROUP_CREATE, R440. -/
  | groupCreate (ctx : Nat)
  /-- STEPPE_ATTACH, R340. -/
  | steppeAttach (ctx : Nat)
  /-- TIER_MOVE_FETCH, R347. -/
  | tierMoveFetch (ctx : Nat)
  /-- TIER_MOVE_EVICT, R347. -/
  | tierMoveEvict (ctx : Nat)
  /-- JOB_CREATE, R50. -/
  | jobCreate (ctx : Nat)
  /-- JOB_DESTROY, R57. -/
  | jobDestroy (ctx : Nat)
  /-- TEARDOWN_STEP_DONE, R57. -/
  | teardownStepDone (job : Nat)
  /-- ATTEST, R501. -/
  | attest (ctx : Nat)
  /-- KEY_DELIVER, R504. -/
  | keyDeliver (ctx : Nat)
  /-- INGRESS, R41. -/
  | ingress (ctx : Nat)
  /-- INGRESS_COMPLETE, R16. -/
  | ingressComplete (job : Nat) (tensor : Nat)
  /-- TENSOR_DEFINE, R654. -/
  | tensorDefine (ctx : Nat)
  /-- TENSOR_RELEASE, R442. -/
  | tensorRelease (ctx : Nat)
  /-- PROGRAM_CREATE, R437. -/
  | programCreate (ctx : Nat)
  /-- PROGRAM_SUBMIT, R212. -/
  | programSubmit (ctx : Nat)
  /-- PROGRAM_ABORT, R661. -/
  | programAbort (ctx : Nat)
  /-- FENCE_CREATE, R437. -/
  | fenceCreate (ctx : Nat)
  /-- FENCE_IMPORT, R454. -/
  | fenceImport (ctx : Nat)
  /-- FENCE_SIGNAL, R450. -/
  | fenceSignal (ctx : Nat)
  /-- FENCE_WAIT, R449. -/
  | fenceWait (ctx : Nat)
  /-- FENCE_QUERY, R437. -/
  | fenceQuery (ctx : Nat)
  /-- OBJECT_DESTROY, R444. -/
  | objectDestroy (ctx : Nat)
  /-- OBJECT_FREE, R444. -/
  | objectFree (obj : ObjRef)
  /-- MESSAGE_WAIT_RELEASE, R431. -/
  | messageWaitRelease (ctx : Nat)
  /-- CKPT_SETUP, R518. -/
  | ckptSetup (ctx : Nat)
  /-- CKPT_TRIGGER, R520. -/
  | ckptTrigger (ctx : Nat)
  /-- CKPT_STATUS, R517. -/
  | ckptStatus (ctx : Nat)
  /-- RESTORE, R537. -/
  | restore (ctx : Nat) (manifest : ReadResult) (chunk : ReadResult)
  /-- STATE_IMPORT, R541. -/
  | stateImport (ctx : Nat) (manifest : ReadResult) (header : ReadResult) (index : ReadResult)
  /-- STATE_IMPORT_COMPLETE, R542. -/
  | stateImportComplete (job : Nat) (chunks : ReadResult)
  /-- CONFIG_ERASE, R465. -/
  | configErase (src : MsgRef)
  /-- CONFIG_WRITE, R466. -/
  | configWrite (src : MsgRef)
  /-- CONFIG_COMMIT, R464. -/
  | configCommit (src : MsgRef)
  /-- CONFIG_SELECT, R458. -/
  | configSelect (src : MsgRef)
  /-- CONFIG_ACTIVATE, R467. -/
  | configActivate (src : MsgRef)
  /-- LEDGER_ANCHOR, R479. -/
  | ledgerAnchor (ctx : Nat)
  /-- LEDGER_STREAM, R478. -/
  | ledgerStream (ctx : Nat)
  /-- LEDGER_STOP, R478. -/
  | ledgerStop (ctx : Nat)
  /-- CERT_READ, R512. -/
  | certRead (ctx : Nat)
  /-- JOB_KEY_SEAL, R509. -/
  | jobKeySeal (ctx : Nat)
  /-- JOB_KEY_UNSEAL, R510. -/
  | jobKeyUnseal (ctx : Nat)
  /-- FW_ERASE, R577. -/
  | fwErase (src : MsgRef)
  /-- FW_WRITE, R577. -/
  | fwWrite (src : MsgRef)
  /-- FW_COMMIT, R570. -/
  | fwCommit (src : MsgRef)
  /-- FW_ACTIVATE, R578. -/
  | fwActivate (src : MsgRef)
  /-- FW_RATCHET, R576. -/
  | fwRatchet (src : MsgRef)
  /-- REQ_WRITE, R577. -/
  | reqWrite (src : MsgRef)
  /-- LC_TRANSITION, R582. -/
  | lcTransition (src : MsgRef)
  /-- LC_RESET, R583. -/
  | lcReset (env : BootEnv)
  /-- DEBUG_OPEN, R586. -/
  | debugOpen (ctx : Nat)
  /-- DEBUG_CLOSE, R587. -/
  | debugClose (ctx : Nat)
  /-- FUNCTION_RESET, R562. -/
  | functionReset (src : MsgRef)
  /-- WARM_RESET, R562. -/
  | warmReset (src : MsgRef)
  /-- COLD_RESET, R562. -/
  | coldReset (src : MsgRef) (env : BootEnv)
  /-- NOP, R193. -/
  | nop (t : TaskRef)
  /-- SPAN_BEGIN, R204. -/
  | spanBegin (t : TaskRef)
  /-- SPAN_END, R205. -/
  | spanEnd (t : TaskRef)
  /-- SPAN_COMMIT, R170. -/
  | spanCommit (job : Nat) (sub : Nat) (span : Nat)
  /-- SPAN_DISCARD, R171. -/
  | spanDiscard (job : Nat) (sub : Nat) (span : Nat)
  /-- SPAN_RERUN, R175. -/
  | spanRerun (job : Nat) (sub : Nat) (span : Nat)
  /-- FENCE_WAIT_DESCRIPTOR, R206. -/
  | fenceWaitDescriptor (t : TaskRef)
  /-- FENCE_SIGNAL_DESCRIPTOR, R207. -/
  | fenceSignalDescriptor (t : TaskRef)
  /-- PHASE_HINT, R552. -/
  | phaseHint (t : TaskRef)
  /-- BUBBLE_OPEN, R209. -/
  | bubbleOpen (t : TaskRef)
  /-- BLOCK_LEND, R209. -/
  | blockLend (partition : Nat) (block : Nat)
  /-- BUBBLE_WINDOW_CLOSE, R21. -/
  | bubbleWindowClose (partition : Nat) (window : Nat)
  /-- BLOCK_RETURN, R21. -/
  | blockReturn (partition : Nat) (block : Nat)
  /-- MATMUL, R224. -/
  | matmul (t : TaskRef) (ecc : List EccReport)
  /-- MATMUL_DX, R224. -/
  | matmulDx (t : TaskRef)
  /-- MATMUL_DW, R224. -/
  | matmulDw (t : TaskRef)
  /-- MATMUL_ALT, R264. -/
  | matmulAlt (t : TaskRef)
  /-- ATTENTION_FWD, R229. -/
  | attentionFwd (t : TaskRef)
  /-- ATTENTION_BWD, R230. -/
  | attentionBwd (t : TaskRef)
  /-- NORM, R232. -/
  | norm (t : TaskRef)
  /-- NORM_BWD, R233. -/
  | normBwd (t : TaskRef)
  /-- SOFTMAX, R235. -/
  | softmax (t : TaskRef)
  /-- ELEMENTWISE, R236. -/
  | elementwise (t : TaskRef)
  /-- REDUCE, R238. -/
  | reduce (t : TaskRef)
  /-- CAST, R240. -/
  | cast (t : TaskRef)
  /-- TRANSPOSE_COPY, R240. -/
  | transposeCopy (t : TaskRef)
  /-- COPY, R240. -/
  | copy (t : TaskRef)
  /-- FILL, R240. -/
  | fill (t : TaskRef)
  /-- SCATTER_REDUCE, R241. -/
  | scatterReduce (t : TaskRef)
  /-- SADDLE_GATHER, R243. -/
  | saddleGather (t : TaskRef)
  /-- SADDLE_STAGING_RESUME, R91. -/
  | saddleStagingResume (slice : Nat) (set : Nat)
  /-- ALL_GATHER, R394. -/
  | allGather (t : TaskRef)
  /-- REDUCE_SCATTER, R392. -/
  | reduceScatter (t : TaskRef)
  /-- ALL_REDUCE, R393. -/
  | allReduce (t : TaskRef)
  /-- SEND, R249. -/
  | send (t : TaskRef)
  /-- RECEIVE, R249. -/
  | receive (t : TaskRef)
  /-- VERDICT, R250. -/
  | verdict (t : TaskRef)
  /-- VERDICT_COMPLETE, R24. -/
  | verdictComplete (job : Nat) (word : BitVec 64)
  /-- STASH, R252. -/
  | stash (t : TaskRef)
  /-- UNSTASH, R252. -/
  | unstash (t : TaskRef)
  /-- OPTIMISER_STEP, R660. -/
  | optimiserStep (t : TaskRef)
  /-- MOMENT_TASK, R290. -/
  | momentTask (t : TaskRef) (page : Nat)
  /-- WEIGHT_TASK, R291. -/
  | weightTask (t : TaskRef) (page : Nat)
  /-- DIGEST, R256. -/
  | digest (t : TaskRef)
  /-- STATISTICS, R257. -/
  | statistics (t : TaskRef)
  /-- RELEASE, R54. -/
  | release (t : TaskRef)
  /-- RELEASE_COMPLETE, R259. -/
  | releaseComplete (job : Nat) (release : Nat) (ok : Bool)
  /-- INGRESS_WAIT, R260. -/
  | ingressWait (t : TaskRef)
  /-- TASK_BOUNDARY, R72. -/
  | taskBoundary (t : TaskRef) (unit : Nat)
  /-- FENCE_WAIT_TIMEOUT, R452. -/
  | fenceWaitTimeout (wait : WaitRef)
  /-- COLLECTIVE_TIMEOUT, R389. -/
  | collectiveTimeout (t : TaskRef)
  /-- TRANSFER_TIMEOUT, R248. -/
  | transferTimeout (t : TaskRef)
  /-- FENCE_EVICTION_DONE, R448. -/
  | fenceEvictionDone (slot : Nat)
  /-- PLAIN_CACHE_ACCESS, R86. -/
  | plainCacheAccess (req : CoreReq) (ecc : List EccReport)
  /-- MISS_QUEUE_DEQUEUE, R93. -/
  | missQueueDequeue (slice : Nat)
  /-- LINE_FILL, R88. -/
  | lineFill (slice : Nat) (line : Nat) (first : Fetch) (second : Fetch) (ecc : List EccReport)
  /-- VALE_REQUEST_ACCEPT, R339. -/
  | valeRequestAccept (pchan : Nat)
  /-- VALE_READ, R323. -/
  | valeRead (req : ValeReq) (first : Fetch) (second : Fetch)
  /-- VALE_FULL_LINE_WRITE, R324. -/
  | valeFullLineWrite (req : ValeReq) (data : Bytes)
  /-- VALE_PARTIAL_WRITE, R325. -/
  | valePartialWrite (req : ValeReq) (mask : BitVec 256) (data : Bytes) (first : Fetch) (second : Fetch)
  /-- SWEEP_START, R331. -/
  | sweepStart
  /-- SWEEP_STEP, R332. -/
  | sweepStep (first : Fetch) (second : Fetch)
  /-- BLOCKED_WRITE_RESUME, R335. -/
  | blockedWriteResume
  /-- KEY_ID_RETIRE, R336. -/
  | keyIdRetire (key : Nat)
  /-- KEY_ID_FREE, R336. -/
  | keyIdFree (key : Nat)
  /-- FETCH_FRAME_RESUME, R347. -/
  | fetchFrameResume (job : Nat)
  /-- STEPPE_CHUNK_ARRIVAL, R346. -/
  | steppeChunkArrival (job : Nat) (page : Nat) (chunk : Nat) (record : Bytes)
  /-- EVICTION_COMPLETE, R348. -/
  | evictionComplete (job : Nat) (page : Nat)
  /-- BASIN_FOLD, R302. -/
  | basinFold (job : Nat) (basin : Nat)
  /-- PLP_HELLO, R360. -/
  | plpHello (port : Nat) (bytes : Bytes)
  /-- CREDIT_INIT, R370. -/
  | creditInit (port : Nat) (bytes : Bytes)
  /-- CREDIT_RETURN, R370. -/
  | creditReturn (port : Nat) (bytes : Bytes)
  /-- ACK, R353. -/
  | ack (port : Nat) (bytes : Bytes)
  /-- NAK, R354. -/
  | nak (port : Nat) (bytes : Bytes)
  /-- IDLE, R358. -/
  | idle (port : Nat) (bytes : Bytes)
  /-- ACK_TIMER, R354. -/
  | ackTimer (port : Nat)
  /-- CREDIT_RETURN_TIMER, R370. -/
  | creditReturnTimer (port : Nat)
  /-- IDLE_TIMER, R358. -/
  | idleTimer (port : Nat)
  /-- UNCORRECTABLE_CODEWORD, R354. -/
  | uncorrectableCodeword (port : Nat) (vc : Nat) (units : Nat) (forwarded : Option Nat)
  /-- ABORT_MARKER, R355. -/
  | abortMarker (port : Nat) (vc : Nat) (units : Nat)
  /-- TRANSIT_FORWARD, R375. -/
  | transitForward (port : Nat) (bytes : Bytes) (ecc : List EccReport)
  /-- PLP1_FORWARD, R361. -/
  | plp1Forward (port : Nat) (bytes : Bytes)
  /-- DATA, R368. -/
  | data (port : Nat) (bytes : Bytes) (ecc : List EccReport)
  /-- CLEAR_TO_SEND, R249. -/
  | clearToSend (port : Nat) (bytes : Bytes)
  /-- PLACEMENT_ACK, R249. -/
  | placementAck (port : Nat) (bytes : Bytes)
  /-- READ_REQUEST, R364. -/
  | readRequest (port : Nat) (bytes : Bytes)
  /-- READ_DATA, R243. -/
  | readData (port : Nat) (bytes : Bytes)
  /-- FENCE_SIGNAL_PACKET, R455. -/
  | fenceSignalPacket (port : Nat) (bytes : Bytes)
  /-- KEY_RETIREMENT, R382. -/
  | keyRetirement (port : Nat) (bytes : Bytes)
  /-- JOB_FAULT_NOTICE, R382. -/
  | jobFaultNotice (port : Nat) (bytes : Bytes)
  /-- ERROR_PACKET, R364. -/
  | errorPacket (port : Nat) (bytes : Bytes)
  /-- BARRIER_REQUEST, R522. -/
  | barrierRequest (port : Nat) (bytes : Bytes)
  /-- BARRIER_ENTER, R523. -/
  | barrierEnter (port : Nat) (bytes : Bytes)
  /-- MEMBER_ARRIVED, R524. -/
  | memberArrived (job : Nat) (arrived : Bool)
  /-- BARRIER_REPORT, R525. -/
  | barrierReport (port : Nat) (bytes : Bytes)
  /-- BARRIER_CONFIRM, R524. -/
  | barrierConfirm (port : Nat) (bytes : Bytes)
  /-- BARRIER_RELEASE, R526. -/
  | barrierRelease (port : Nat) (bytes : Bytes)
  /-- BARRIER_TIMEOUT, R525. -/
  | barrierTimeout (job : Nat)
  /-- SHARD_WRITE_COMPLETE, R529. -/
  | shardWriteComplete (job : Nat) (ok : Bool)
  /-- SHARD_DONE, R535. -/
  | shardDone (port : Nat) (bytes : Bytes)
  /-- MANIFEST_WRITE_COMPLETE, R535. -/
  | manifestWriteComplete (job : Nat) (ok : Bool)
  /-- MANIFEST_WRITTEN, R522. -/
  | manifestWritten (port : Nat) (bytes : Bytes)
  /-- ABANDON, R527. -/
  | abandon (port : Nat) (bytes : Bytes)
  /-- RESTORE_CHECK, R538. -/
  | restoreCheck (port : Nat) (bytes : Bytes)
  /-- RESTORE_GO, R539. -/
  | restoreGo (port : Nat) (bytes : Bytes)
  /-- RESTORE_REFUSE, R538. -/
  | restoreRefuse (port : Nat) (bytes : Bytes)
  /-- RESTORE_LOAD_COMPLETE, R539. -/
  | restoreLoadComplete (job : Nat) (shard : ReadResult)
  /-- RESTORE_DONE, R539. -/
  | restoreDone (port : Nat) (bytes : Bytes)
  /-- KEYING_REPORT_REQUEST, R506. -/
  | keyingReportRequest (sender : Nat) (jobId : Nat)
  /-- LEAD_REPORT, R506. -/
  | leadReport (sender : Nat) (jobId : Nat) (record : Bytes)
  /-- MEMBER_REPORT, R506. -/
  | memberReport (sender : Nat) (jobId : Nat) (record : Bytes)
  /-- JOB_KEY_DELIVERY, R508. -/
  | jobKeyDelivery (sender : Nat) (jobId : Nat) (record : Bytes)
  /-- KEYING_REFUSAL, R35. -/
  | keyingRefusal (sender : Nat) (jobId : Nat) (cause : Nat)
  /-- KEYING_RETRY_TIMER, R506. -/
  | keyingRetryTimer (job : Nat)
  /-- PORT_TRAINING, R356. -/
  | portTraining (port : Nat)
  /-- TRAINING_STEP_DONE, R356. -/
  | trainingStepDone (port : Nat) (reversed : Bool)
  /-- CLOCK_LOCK_TIMEOUT, R356. -/
  | clockLockTimeout (port : Nat)
  /-- FAST_RETRAIN, R357. -/
  | fastRetrain (port : Nat)
  /-- LIGHT_ABSENT, R384. -/
  | lightAbsent (port : Nat) (lane : Nat)
  /-- NO_VALID_PACKET, R384. -/
  | noValidPacket (port : Nat)
  /-- FULL_TRAINING_RETRY, R386. -/
  | fullTrainingRetry (port : Nat)
  /-- RDMA_WRITE, R413. -/
  | rdmaWrite (qp : Nat) (rkey : Nat) (offset : Nat) (data : Bytes) (fetches : List Fetch) (ecc : List EccReport)
  /-- RDMA_WRITE_WITH_IMMEDIATE, R412. -/
  | rdmaWriteWithImmediate (qp : Nat) (rkey : Nat) (offset : Nat) (data : Bytes) (imm : Bytes) (fetches : List Fetch)
  /-- RDMA_READ, R412. -/
  | rdmaRead (qp : Nat)
  /-- ATOMIC, R412. -/
  | atomic (qp : Nat)
  /-- RDMA_ACK, R424. -/
  | rdmaAck (qp : Nat) (segments : Nat) (ecc : List EccReport)
  /-- RC_NAK, R418. -/
  | rcNak (qp : Nat)
  /-- RC_ACK_TIMEOUT, R417. -/
  | rcAckTimeout (qp : Nat)
  /-- CONGESTION_EXPERIENCED, R419. -/
  | congestionExperienced (qp : Nat)
  /-- CONGESTION_NOTIFICATION, R420. -/
  | congestionNotification (qp : Nat)
  /-- RATE_PERIOD, R420. -/
  | ratePeriod (qp : Nat)
  /-- PAUSE, R421. -/
  | pause (port : Nat) (priority : Nat)
  /-- RESUME, R421. -/
  | resume (port : Nat) (priority : Nat)
  /-- ETH_LINK_LOSS, R426. -/
  | ethLinkLoss (port : Nat)
  /-- ETH_LINK_RETURN, R426. -/
  | ethLinkReturn (port : Nat)
  /-- POWER_INTERVAL, R551. -/
  | powerInterval (meas : PowerMeas)
  /-- RAIL_DROOP, R553. -/
  | railDroop (blocks : List Nat)
  /-- DROOP_REVOCATION_END, R553. -/
  | droopRevocationEnd
  /-- INPUT_DROOP, R544. -/
  | inputDroop (vinMv : Nat)
  /-- INPUT_UNDERVOLTAGE, R544. -/
  | inputUndervoltage (vinMv : Nat)
  /-- INPUT_OVERVOLTAGE, R544. -/
  | inputOvervoltage (vinMv : Nat)
  /-- INPUT_OVERVOLTAGE_TRIP, R544. -/
  | inputOvervoltageTrip (vinMv : Nat)
  /-- THERMTRIP, R556. -/
  | thermtrip (sensorClass : Nat) (sensor : Nat)
  /-- INLET_OVERTEMP, R561. -/
  | inletOvertemp (reading : Int)
  /-- POWER_ENABLE, R545. -/
  | powerEnable
  /-- START_STEP_DONE, R545. -/
  | startStepDone (env : StartEnv)
  /-- BLOCK_GROUP_START, R547. -/
  | blockGroupStart
  /-- BLOCK_RAIL_TIMEOUT, R548. -/
  | blockRailTimeout (block : Nat)
  /-- LASER_STEP, R545. -/
  | laserStep (failed : List Nat)
  /-- POWER_LOSS, R563. -/
  | powerLoss
  /-- BOARD_RESET, R610. -/
  | boardReset
  /-- RESET_L_RELEASE, R610. -/
  | resetLRelease
  /-- SYSCLK_LOSS, R614. -/
  | sysclkLoss
  /-- NETCLK_LOSS, R614. -/
  | netclkLoss
  /-- TAMPER_TRIP, R486. -/
  | tamperTrip (source : TamperSource)
  /-- TAMPER_SAMPLE, R485. -/
  | tamperSample (lid : Bool) (temperature : Bool)
  /-- CEILING_DERATE, R94. -/
  | ceilingDerate (derates : List (Nat × Nat))
  /-- CHECKPOINT_TIMER, R520. -/
  | checkpointTimer (job : Nat)
  /-- ACCOUNTING_AUDIT, R603. -/
  | accountingAudit
  /-- MICROCODE_RELOAD_DONE, R594. -/
  | microcodeReloadDone (quarter : Nat)
  /-- LEDGER_MIRROR_WRITE, R476. -/
  | ledgerMirrorWrite (ok : Bool)
  /-- GLEN_RESPONSE_DONE, R514. -/
  | glenResponseDone
  /-- LEDGER_SELECT_DONE, R645. -/
  | ledgerSelectDone
  /-- SH_SCAN_DONE, R646. -/
  | shScanDone
  /-- ALERT_STATUS_WRITE, R634. -/
  | alertStatusWrite (value : BitVec 32)
  /-- FAILWARN_WRITE, R635. -/
  | failwarnWrite (value : BitVec 32)
  /-- ACCESS_ERR_WRITE, R635. -/
  | accessErrWrite (value : BitVec 32)
  /-- FLAGS_WRITE, R128. -/
  | flagsWrite (job : Nat) (value : BitVec 32)
  /-- PWR_CAP_WRITE, R637. -/
  | pwrCapWrite (value : BitVec 32)
  /-- CURRENT_LIMIT_WRITE, R637. -/
  | currentLimitWrite (value : BitVec 32)
  /-- THROTTLE_TEMP_WRITE, R637. -/
  | throttleTempWrite (value : BitVec 32)
  /-- SWEEP_RATE_WRITE, R468. -/
  | sweepRateWrite (value : BitVec 32)
  /-- NLOG_SELECT_WRITE, R644. -/
  | nlogSelectWrite (value : BitVec 32)
  /-- ERR_SELECT_WRITE, R644. -/
  | errSelectWrite (value : BitVec 32)
  /-- LEDGER_SELECT_WRITE, R645. -/
  | ledgerSelectWrite (value : BitVec 32)
  /-- SH_PAGE_WRITE, R646. -/
  | shPageWrite (value : BitVec 32)
  /-- SH_SCAN, R646. -/
  | shScan (value : BitVec 32)
  /-- GLEN_CHAL_WRITE, R647. -/
  | glenChalWrite (value : BitVec 32)
  /-- COUNTER_LOW_READ, R628. -/
  | counterLowRead (address : Nat)
  /-- LEDGER_SEQ_LO_READ, R645. -/
  | ledgerSeqLoRead
  /-- REGISTER_WRITE, R12. -/
  | registerWrite (address : Nat) (value : BitVec 32)
  /-- SIDEBAND_RESULT, R626. -/
  | sidebandResult
  /-- ENTDAA, R611. -/
  | entdaa (address : Nat)
  /-- SETDASA, R611. -/
  | setdasa (address : Nat)
  /-- RSTDAA, R611. -/
  | rstdaa
  /-- ENEC, R611. -/
  | enec
  /-- DISEC, R611. -/
  | disec
  /-- GETPID, R611. -/
  | getpid
  /-- GETBCR, R611. -/
  | getbcr
  /-- GETDCR, R611. -/
  | getdcr
  /-- GETSTATUS, R611. -/
  | getstatus
  /-- RDMA_SEND, R412. -/
  | rdmaSend (qp : Nat) (bytes : Bytes)
  /-- RNR_NAK, R417. -/
  | rnrNak (qp : Nat)
  /-- NETCLK_RETURN, R614. -/
  | netclkReturn
  /-- VBAT_REMOVAL, R617. -/
  | vbatRemoval
  /-- TRAINING_STEP_TIMEOUT, R357. -/
  | trainingStepTimeout (port : Nat)
  /-- GLEN_OPERATION_COMPLETE, R481. -/
  | glenOperationComplete
  /-- FIRMWARE_ACTIVATION_DONE, R578. -/
  | firmwareActivationDone (ok : Bool)
  /-- CLOCK_STRETCH_END, R553. -/
  | clockStretchEnd
deriving DecidableEq, Repr

end Sys2Proof
end

