-- ==== Sys2Proof/WellFormed.lean ====
section
/-! DEFINITION. Which commands are well formed: every operand that names one of a fixed number of things names
one that exists. The meanings do not rest on it: an operand outside its range names nothing that the state holds. -/

namespace Sys2Proof

/-- Operand limits of a message reference: 4,096 contexts (R434). -/
def msgLimits : MsgRef → List (Nat × Nat)
  | .inbox c => [(c, 4096)]
  | .sideband _ => []

/-- Operand limits of a descriptor reference: 32 jobs (R462), 65,535 descriptors (R186). -/
def taskLimits (t : TaskRef) : List (Nat × Nat) := [(t.job, 32), (t.desc, 65535)]

/-- Operand limits of a wait reference. -/
def waitLimits : WaitRef → List (Nat × Nat)
  | .host c _ => [(c, 4096)]
  | .program t => taskLimits t

/-- Operand limits of an object reference: 65,536 object entries (R442), 65,535 tensors (R195). -/
def objLimits : ObjRef → List (Nat × Nat)
  | .object i => [(i, 65536)]
  | .tensor j i => [(j, 32), (i, 65535)]

/-- Operand limits of a request's kind: the reserved opcodes are 0x7 to 0xF (R82). -/
def kindLimits : ReqKind → List (Nat × Nat)
  | .reserved opcode => [(opcode, 16), (7 - opcode, 1)]
  | _ => []

/-- The operands of a command that name one of a fixed number of things, each with that number. -/
def Instr.limits : Instr → List (Nat × Nat)
  | .hello ctx => [(ctx, 4096)]
  | .qpCreate ctx => [(ctx, 4096)]
  | .windowOpen ctx => [(ctx, 4096)]
  | .groupCreate ctx => [(ctx, 4096)]
  | .steppeAttach ctx => [(ctx, 4096)]
  | .tierMoveFetch ctx => [(ctx, 4096)]
  | .tierMoveEvict ctx => [(ctx, 4096)]
  | .jobCreate ctx => [(ctx, 4096)]
  | .jobDestroy ctx => [(ctx, 4096)]
  | .teardownStepDone job => [(job, 32)]
  | .attest ctx => [(ctx, 4096)]
  | .keyDeliver ctx => [(ctx, 4096)]
  | .ingress ctx => [(ctx, 4096)]
  | .ingressComplete job tensor => [(job, 32)] ++ [(tensor, 65535)]
  | .tensorDefine ctx => [(ctx, 4096)]
  | .tensorRelease ctx => [(ctx, 4096)]
  | .programCreate ctx => [(ctx, 4096)]
  | .programSubmit ctx => [(ctx, 4096)]
  | .programAbort ctx => [(ctx, 4096)]
  | .fenceCreate ctx => [(ctx, 4096)]
  | .fenceImport ctx => [(ctx, 4096)]
  | .fenceSignal ctx => [(ctx, 4096)]
  | .fenceWait ctx => [(ctx, 4096)]
  | .fenceQuery ctx => [(ctx, 4096)]
  | .objectDestroy ctx => [(ctx, 4096)]
  | .objectFree obj => objLimits obj
  | .messageWaitRelease ctx => [(ctx, 4096)]
  | .ckptSetup ctx => [(ctx, 4096)]
  | .ckptTrigger ctx => [(ctx, 4096)]
  | .ckptStatus ctx => [(ctx, 4096)]
  | .restore ctx _ _ => [(ctx, 4096)]
  | .stateImport ctx _ _ _ => [(ctx, 4096)]
  | .stateImportComplete job _ => [(job, 32)]
  | .configErase src => msgLimits src
  | .configWrite src => msgLimits src
  | .configCommit src => msgLimits src
  | .configSelect src => msgLimits src
  | .configActivate src => msgLimits src
  | .ledgerAnchor ctx => [(ctx, 4096)]
  | .ledgerStream ctx => [(ctx, 4096)]
  | .ledgerStop ctx => [(ctx, 4096)]
  | .certRead ctx => [(ctx, 4096)]
  | .jobKeySeal ctx => [(ctx, 4096)]
  | .jobKeyUnseal ctx => [(ctx, 4096)]
  | .fwErase src => msgLimits src
  | .fwWrite src => msgLimits src
  | .fwCommit src => msgLimits src
  | .fwActivate src => msgLimits src
  | .fwRatchet src => msgLimits src
  | .reqWrite src => msgLimits src
  | .lcTransition src => msgLimits src
  | .lcReset _ => []
  | .debugOpen ctx => [(ctx, 4096)]
  | .debugClose ctx => [(ctx, 4096)]
  | .functionReset src => msgLimits src
  | .warmReset src => msgLimits src
  | .coldReset src _ => msgLimits src
  | .nop t => taskLimits t
  | .spanBegin t => taskLimits t
  | .spanEnd t => taskLimits t
  | .spanCommit job _ span => [(job, 32)] ++ [(span, 65535)]
  | .spanDiscard job _ span => [(job, 32)] ++ [(span, 65535)]
  | .spanRerun job _ span => [(job, 32)] ++ [(span, 65535)]
  | .fenceWaitDescriptor t => taskLimits t
  | .fenceSignalDescriptor t => taskLimits t
  | .phaseHint t => taskLimits t
  | .bubbleOpen t => taskLimits t
  | .blockLend partition block => [(partition, 16)] ++ [(block, 1000)]
  | .bubbleWindowClose partition _ => [(partition, 16)]
  | .blockReturn partition block => [(partition, 16)] ++ [(block, 1000)]
  | .matmul t _ => taskLimits t
  | .matmulDx t => taskLimits t
  | .matmulDw t => taskLimits t
  | .matmulAlt t => taskLimits t
  | .attentionFwd t => taskLimits t
  | .attentionBwd t => taskLimits t
  | .norm t => taskLimits t
  | .normBwd t => taskLimits t
  | .softmax t => taskLimits t
  | .elementwise t => taskLimits t
  | .reduce t => taskLimits t
  | .cast t => taskLimits t
  | .transposeCopy t => taskLimits t
  | .copy t => taskLimits t
  | .fill t => taskLimits t
  | .scatterReduce t => taskLimits t
  | .saddleGather t => taskLimits t
  | .saddleStagingResume slice set => [(slice, 1000)] ++ [(set, 64)]
  | .allGather t => taskLimits t
  | .reduceScatter t => taskLimits t
  | .allReduce t => taskLimits t
  | .send t => taskLimits t
  | .receive t => taskLimits t
  | .verdict t => taskLimits t
  | .verdictComplete job _ => [(job, 32)]
  | .stash t => taskLimits t
  | .unstash t => taskLimits t
  | .optimiserStep t => taskLimits t
  | .momentTask t _ => taskLimits t
  | .weightTask t _ => taskLimits t
  | .digest t => taskLimits t
  | .statistics t => taskLimits t
  | .release t => taskLimits t
  | .releaseComplete job _ _ => [(job, 32)]
  | .ingressWait t => taskLimits t
  | .taskBoundary t _ => taskLimits t
  | .fenceWaitTimeout wait => waitLimits wait
  | .collectiveTimeout t => taskLimits t
  | .transferTimeout t => taskLimits t
  | .fenceEvictionDone slot => [(slot, 65536)]
  | .plainCacheAccess req _ => [(req.job, 32), (req.core, 80000), (req.thread, 4), (req.offset, 2 ^ 40)] ++ kindLimits req.kind
  | .missQueueDequeue slice => [(slice, 1000)]
  | .lineFill slice _ _ _ _ => [(slice, 1000)]
  | .valeRequestAccept pchan => [(pchan, 384)]
  | .valeRead req _ _ => [(req.address, 540 * 2 ^ 30)]
  | .valeFullLineWrite req _ => [(req.address, 540 * 2 ^ 30)]
  | .valePartialWrite req _ _ _ _ => [(req.address, 540 * 2 ^ 30)]
  | .sweepStart => []
  | .sweepStep _ _ => []
  | .blockedWriteResume => []
  | .keyIdRetire key => [(key, 256)]
  | .keyIdFree key => [(key, 256)]
  | .fetchFrameResume job => [(job, 32)]
  | .steppeChunkArrival job page chunk _ => [(job, 32)] ++ [(page, 524288)] ++ [(chunk, 256)]
  | .evictionComplete job page => [(job, 32)] ++ [(page, 524288)]
  | .basinFold job basin => [(job, 32)] ++ [(basin, 65536)]
  | .plpHello port _ => [(port, 32)]
  | .creditInit port _ => [(port, 32)]
  | .creditReturn port _ => [(port, 32)]
  | .ack port _ => [(port, 32)]
  | .nak port _ => [(port, 32)]
  | .idle port _ => [(port, 32)]
  | .ackTimer port => [(port, 32)]
  | .creditReturnTimer port => [(port, 32)]
  | .idleTimer port => [(port, 32)]
  | .uncorrectableCodeword port vc _ _ => [(port, 32)] ++ [(vc, 8)]
  | .abortMarker port vc _ => [(port, 32)] ++ [(vc, 8)]
  | .transitForward port _ _ => [(port, 32)]
  | .plp1Forward port _ => [(port, 32)]
  | .data port _ _ => [(port, 32)]
  | .clearToSend port _ => [(port, 32)]
  | .placementAck port _ => [(port, 32)]
  | .readRequest port _ => [(port, 32)]
  | .readData port _ => [(port, 32)]
  | .fenceSignalPacket port _ => [(port, 32)]
  | .keyRetirement port _ => [(port, 32)]
  | .jobFaultNotice port _ => [(port, 32)]
  | .errorPacket port _ => [(port, 32)]
  | .barrierRequest port _ => [(port, 32)]
  | .barrierEnter port _ => [(port, 32)]
  | .memberArrived job _ => [(job, 32)]
  | .barrierReport port _ => [(port, 32)]
  | .barrierConfirm port _ => [(port, 32)]
  | .barrierRelease port _ => [(port, 32)]
  | .barrierTimeout job => [(job, 32)]
  | .shardWriteComplete job _ => [(job, 32)]
  | .shardDone port _ => [(port, 32)]
  | .manifestWriteComplete job _ => [(job, 32)]
  | .manifestWritten port _ => [(port, 32)]
  | .abandon port _ => [(port, 32)]
  | .restoreCheck port _ => [(port, 32)]
  | .restoreGo port _ => [(port, 32)]
  | .restoreRefuse port _ => [(port, 32)]
  | .restoreLoadComplete job _ => [(job, 32)]
  | .restoreDone port _ => [(port, 32)]
  | .keyingReportRequest sender _ => [(sender, 1048576)]
  | .leadReport sender _ _ => [(sender, 1048576)]
  | .memberReport sender _ _ => [(sender, 1048576)]
  | .jobKeyDelivery sender _ _ => [(sender, 1048576)]
  | .keyingRefusal sender _ _ => [(sender, 1048576)]
  | .keyingRetryTimer job => [(job, 32)]
  | .portTraining port => [(port, 32)]
  | .trainingStepDone port _ => [(port, 32)]
  | .clockLockTimeout port => [(port, 32)]
  | .fastRetrain port => [(port, 32)]
  | .lightAbsent port lane => [(port, 32)] ++ [(lane, 8)]
  | .noValidPacket port => [(port, 32)]
  | .fullTrainingRetry port => [(port, 32)]
  | .rdmaWrite qp _ _ _ _ _ => [(qp, 4096)]
  | .rdmaWriteWithImmediate qp _ _ _ _ _ => [(qp, 4096)]
  | .rdmaRead qp => [(qp, 4096)]
  | .atomic qp => [(qp, 4096)]
  | .rdmaAck qp _ _ => [(qp, 4096)]
  | .rcNak qp => [(qp, 4096)]
  | .rcAckTimeout qp => [(qp, 4096)]
  | .congestionExperienced qp => [(qp, 4096)]
  | .congestionNotification qp => [(qp, 4096)]
  | .ratePeriod qp => [(qp, 4096)]
  | .pause port priority => [(port, 4)] ++ [(priority, 8)]
  | .resume port priority => [(port, 4)] ++ [(priority, 8)]
  | .ethLinkLoss port => [(port, 4)]
  | .ethLinkReturn port => [(port, 4)]
  | .powerInterval _ => []
  | .railDroop _ => []
  | .droopRevocationEnd => []
  | .inputDroop _ => []
  | .inputUndervoltage _ => []
  | .inputOvervoltage _ => []
  | .inputOvervoltageTrip _ => []
  | .thermtrip _ _ => []
  | .inletOvertemp _ => []
  | .powerEnable => []
  | .startStepDone _ => []
  | .blockGroupStart => []
  | .blockRailTimeout block => [(block, 1000)]
  | .laserStep _ => []
  | .powerLoss => []
  | .boardReset => []
  | .resetLRelease => []
  | .sysclkLoss => []
  | .netclkLoss => []
  | .tamperTrip _ => []
  | .tamperSample _ _ => []
  | .ceilingDerate _ => []
  | .checkpointTimer job => [(job, 32)]
  | .accountingAudit => []
  | .microcodeReloadDone quarter => [(quarter, 4)]
  | .ledgerMirrorWrite _ => []
  | .glenResponseDone => []
  | .ledgerSelectDone => []
  | .shScanDone => []
  | .alertStatusWrite _ => []
  | .failwarnWrite _ => []
  | .accessErrWrite _ => []
  | .flagsWrite job _ => [(job, 32)]
  | .pwrCapWrite _ => []
  | .currentLimitWrite _ => []
  | .throttleTempWrite _ => []
  | .sweepRateWrite _ => []
  | .nlogSelectWrite _ => []
  | .errSelectWrite _ => []
  | .ledgerSelectWrite _ => []
  | .shPageWrite _ => []
  | .shScan _ => []
  | .glenChalWrite _ => []
  | .counterLowRead address => [(address, 65536)]
  | .ledgerSeqLoRead => []
  | .registerWrite address _ => [(address, 65536)]
  | .sidebandResult => []
  | .entdaa address => [(address, 128)]
  | .setdasa address => [(address, 128)]
  | .rstdaa => []
  | .enec => []
  | .disec => []
  | .getpid => []
  | .getbcr => []
  | .getdcr => []
  | .getstatus => []
  | .rdmaSend qp _ => [(qp, 4096)]
  | .rnrNak qp => [(qp, 4096)]
  | .netclkReturn => []
  | .vbatRemoval => []
  | .trainingStepTimeout port => [(port, 32)]
  | .glenOperationComplete => []
  | .firmwareActivationDone _ => []
  | .clockStretchEnd => []

/-- A command is well formed when each of these operands is in its range. -/
def Instr.wf (i : Instr) : Bool := i.limits.all fun p => decide (p.1 < p.2)

end Sys2Proof
end

