-- ==== Sys2Proof/Decode.lean ====
section
/-! DEFINITION. The command that a word spells by the opcode table's bits. No row of this hardware's table gives
any bits: its commands are messages, packets, register accesses and events, so no word spells one. -/

namespace Sys2Proof

/-- No row of the table gives bits. -/
def decodeTableWord (nbits w : Nat) : Option Instr :=
  match nbits, w with
  | _, _ => none

end Sys2Proof
end

