-- ==== Sys2Proof/Config.lean ====
section
/-! DEFINITION. What a unit fixes at manufacture and what the manual leaves open: constants with no
body, so that a statement holds for every value of them. Each is named in the assumption log. -/

namespace Sys2Proof.Config

/-- A fresh free byte string: the k-th of `n` bytes that hardware entropy or an unstated result
gives (log 1). -/
opaque freeBytes : Nat → Nat → Bytes

/-- A fresh free number (log 1). -/
opaque freeNat : Nat → Nat

/-- The rounding of a special-function result that no enclosure of the model's precision decides
(log 7): the function code, its argument bits and the target's bits. -/
opaque undecided : Nat → Nat → Nat → Nat

/-- The sign of an exact sum of which every term is −0 (R239, R241, log 35). -/
opaque zeroSumSign : Bool

/-- SLH-DSA-SHA2-256s verification of a signature over a message under a 64-byte key (FIPS 205, log 6). -/
opaque slh256Verify : Bytes → Bytes → Bytes → Bool

/-- SLH-DSA-SHA2-128f verification under a 32-byte key (FIPS 205, log 6). -/
opaque slh128Verify : Bytes → Bytes → Bytes → Bool

/-- SLH-DSA-SHA2-128f signature, 17,088 bytes, under 48 bytes of private key (FIPS 205, log 6). -/
opaque slh128Sign : Bytes → Bytes → Bytes

/-- The 32-byte public key of 48 bytes of SLH-DSA-SHA2-128f private key (log 6). -/
opaque slh128Public : Bytes → Bytes

/-- The 1,568-byte ML-KEM-1024 encapsulation key of a 64-byte seed (FIPS 203, log 6). -/
opaque kemPublic : Bytes → Bytes

/-- ML-KEM-1024 encapsulation to a key with 32 random bytes: ciphertext and shared secret (log 6). -/
opaque kemEncap : Bytes → Bytes → Bytes × Bytes

/-- ML-KEM-1024 decapsulation with a 64-byte seed (log 6). -/
opaque kemDecap : Bytes → Bytes → Bytes

/-- The fused unit identifier, 32 bytes (R499, log 5). -/
opaque unitId : Bytes

/-- The root that Glen generated in Blank state, 32 bytes (R483, log 5). -/
opaque root : Bytes

/-- M0, the SHA-256 of Glen's boot ROM (text before R494, log 5). -/
opaque romDigest : Bytes

/-- The identity certificate in flash, 29,920 bytes (R499, log 5). -/
opaque certificate : Bytes

/-- The four public keys in Glen's ROM, 64 bytes each: identity certification, firmware, life
cycle, debug (R567, log 5). -/
opaque romKey : Nat → Bytes

/-- The recovery set in flash: manifest followed by its images (R568, log 5). -/
opaque recoverySet : Bytes

/-- The family and hardware-type image keys once unwrapped (R569 step 2, log 5). -/
opaque imageKey : Nat → Bytes

/-- The fused ceiling step of each core, 0 to 28 (R94, R640, log 5). -/
opaque fusedStep : Nat → Fin 29

/-- The count of set bits in the fused security-version row at manufacture (R576, log 5). -/
opaque securityFuse : Fin 65

/-- The branches that vendor microcode resolves in one task, as address, target and whether the
branch was taken, with calls and returns as kinds 1 and 2 (R62, log 11). -/
opaque branchTrace : TaskRef → Nat → List (Nat × Nat × Bool × Nat)

/-- The first tile-store row that vendor microcode gives a task's operand streams, before it is cut to the rows that fit, and the
accumulator of its tiles where the manual names none (R130, log 91): task, unit, tile. -/
opaque cellChoice : TaskRef → Nat → Nat → Nat

/-- What a task other than a multiply leaves in the tile store of its core, and a task of attention in the accumulators (log 91): task,
unit, then accumulator and cell. -/
opaque tileLeft : TaskRef → Nat → Bytes
opaque accLeft : TaskRef → Nat → Nat → Nat → Nat

/-- The bytes of a capture's shard that hold thread state, to which the manual gives no layout (R515, log 8), by job id, serial and
offset. -/
opaque opaqueByte : Nat → Nat → Nat → Byte

/-- The I3C provisioned identifier and the characteristics registers that the manual gives no
value for (R611, log 20). -/
opaque i3cValue : Nat → Nat
/-- The serial of the factory image (R460, R461, log 5). -/
opaque factorySerial : Nat

/-- The digest of the factory image (R460, R461, log 5). -/
opaque factoryDigest : Bytes

/-- The virtual channel of a PLP 1 packet, whose place in the header the manual does not give (R362, log 31). -/
opaque plp1Channel : Bytes → Nat

/-- Which live port of a route's group a PLP 1 packet takes: R375 uses a source that R362 does not read (log 31). -/
opaque plp1Choice : Bytes → Nat

end Sys2Proof.Config
end

