-- ==== Sys2Proof/Machine/Bits.lean ====
section
/-! DEFINITION. Byte order (R10), bit ranges (R9) and the sparse tables that the state is made of. -/

namespace Sys2Proof.Machine

/-- The value of a little-endian byte string (R10). -/
def leNat : Bytes → Nat
  | [] => 0
  | b :: bs => b.toNat + 256 * leNat bs

/-- The `n` low bytes of `v`, least significant first (R10). -/
def leBytes : Nat → Nat → Bytes
  | 0, _ => []
  | n + 1, v => BitVec.ofNat 8 v :: leBytes n (v / 256)

/-- `n` zero bytes. -/
def zeros (n : Nat) : Bytes := List.replicate n 0

/-- The `n` bytes at offset `off`; bytes past the end are zero. -/
def sub (b : Bytes) (off n : Nat) : Bytes :=
  let x := (b.drop off).take n
  x ++ zeros (n - x.length)

/-- The little-endian number in the `n` bytes at offset `off`. -/
def rd (b : Bytes) (off n : Nat) : Nat := leNat ((b.drop off).take n)

/-- The signed value of a 32-bit word. -/
def sgn32 (n : Nat) : Int := (BitVec.ofNat 32 n).toInt

/-- Bit range [high:low] of a number (R9). -/
def bits (v high low : Nat) : Nat := (v / 2 ^ low) % 2 ^ (high + 1 - low)

/-- Bit `i` of a number, as a truth value. -/
def bit (v i : Nat) : Bool := (v / 2 ^ i) % 2 == 1

/-- The number of set bits among the `n` lowest (the population of R54). -/
def popcount : Nat → Nat → Nat
  | 0, _ => 0
  | n + 1, v => v % 2 + popcount n (v / 2)

/-- Every byte of the string is zero (R15). -/
def allZero (b : Bytes) : Bool := b.all (· == 0)

/-- The bytes of an ASCII text. -/
def ascii (t : String) : Bytes := t.toList.map fun c => BitVec.ofNat 8 c.toNat

/-- Rounding up to a whole number of `b`. -/
def ceilDiv (a b : Nat) : Nat := (a + b - 1) / b

/-- The list with element `i` replaced, where it exists. -/
def setAt {α : Type} : List α → Nat → α → List α
  | [], _, _ => []
  | _ :: xs, 0, v => v :: xs
  | x :: xs, i + 1, v => x :: setAt xs i v

/-- The bytes `new` written over `old` from offset `off` on. -/
def overlay (old : Bytes) (off : Nat) (new : Bytes) : Bytes :=
  sub old 0 off ++ new ++ old.drop (off + new.length)

/-- A sparse table: keys strictly rising. -/
abbrev Tab (α : Type) := List (Nat × α)

/-- The entry of key `k`. -/
def tget {α : Type} : Tab α → Nat → Option α
  | [], _ => none
  | (i, v) :: t, k => if i = k then some v else tget t k

/-- The entry of key `k`, or the value an unlisted key has. -/
def tgetD {α : Type} (t : Tab α) (k : Nat) (d : α) : α := (tget t k).getD d

/-- The table with key `k` at `v`. -/
def tset {α : Type} : Tab α → Nat → α → Tab α
  | [], k, v => [(k, v)]
  | (i, w) :: t, k, v =>
    if k < i then (k, v) :: (i, w) :: t
    else if k = i then (k, v) :: t
    else (i, w) :: tset t k v

/-- The table without key `k`. -/
def terase {α : Type} : Tab α → Nat → Tab α
  | [], _ => []
  | (i, w) :: t, k => if i = k then t else (i, w) :: terase t k

/-- The table with key `k` at `v`, where an unlisted key reads as `d`: writing `d` unlists it. -/
def tsetD {α : Type} [DecidableEq α] (t : Tab α) (k : Nat) (v d : α) : Tab α :=
  if v = d then terase t k else tset t k v

/-- The table with the entry of key `k` changed by `f`, where there is one. -/
def tmod {α : Type} : Tab α → Nat → (α → α) → Tab α
  | [], _, _ => []
  | (i, w) :: t, k, f => if i = k then (i, f w) :: t else (i, w) :: tmod t k f

/-- Keys strictly rising, all above `lo` where `lo` is given. -/
def tsorted {α : Type} : Option Nat → Tab α → Bool
  | _, [] => true
  | lo, (i, _) :: t => (match lo with | none => true | some l => decide (l < i)) && tsorted (some i) t

/-- Byte memory in canonical form: rising addresses, no listed zero (an unlisted byte reads 0). -/
abbrev Memory := List Host.Cell

/-- What an unlisted address reads as: zero, since every region is cleared to zeros under the
vacant key id before any job can be created (R337, R338). -/
def Memory.unlisted : Byte := 0

/-- The byte at an address. -/
def Memory.read (m : Memory) (a : Nat) : Byte := tgetD m a Memory.unlisted

/-- The memory with one byte written; the canonical form is kept. -/
def Memory.write (m : Memory) (a : Nat) (b : Byte) : Memory := tsetD m a b Memory.unlisted

/-- `n` bytes from address `a` on. -/
def Memory.readN (m : Memory) (a n : Nat) : Bytes := (List.range n).map fun i => m.read (a + i)

/-- A byte string written from address `a` on. -/
def Memory.writeN : Memory → Nat → Bytes → Memory
  | m, _, [] => m
  | m, a, b :: bs => Memory.writeN (m.write a b) (a + 1) bs

/-- The canonical form of memory. -/
def Memory.wf (m : Memory) : Bool := tsorted none m && m.all fun c => c.2 != Memory.unlisted

end Sys2Proof.Machine
end

