-- ==== Sys2Proof/Machine/Operands.lean ====
section
/-! DEFINITION. Operand forms: the number formats of R98 to R109, their decoding, and every
conversion of R117 to R122, exact values being rationals. -/

namespace Sys2Proof.Machine

/-- The four sticky flag events of R125. -/
structure NumFlags where
  overflow : Bool
  underflow : Bool
  inexact : Bool
  invalid : Bool
deriving DecidableEq, Repr

/-- No event. -/
def noFlags : NumFlags := ⟨false, false, false, false⟩

/-- The events of both. -/
def orFlags (a b : NumFlags) : NumFlags :=
  ⟨a.overflow || b.overflow, a.underflow || b.underflow, a.inexact || b.inexact, a.invalid || b.invalid⟩

/-- Only the invalid event, if `b`. -/
def invalidIf (b : Bool) : NumFlags := ⟨false, false, false, b⟩

/-- The flags as the bits of R641. -/
def flagBits (f : NumFlags) : Nat :=
  f.overflow.toNat + 2 * f.underflow.toNat + 4 * f.inexact.toNat + 8 * f.invalid.toNat

/-- A value: NaN (all NaNs are alike, R102), an infinity, a signed zero, or a nonzero exact number. -/
inductive Val where
  | nan
  | inf (neg : Bool)
  | zero (neg : Bool)
  | num (q : Rat)
deriving DecidableEq, Repr

/-- The formats of R98 and F19. -/
inductive Fmt where
  | e4m3 | e5m2 | fp16 | bf16 | fp32 | m48 | i32 | e8m0 | f19
deriving DecidableEq, Repr

/-- The format of a code of R98; reserved codes have none. -/
def fmtOf : Nat → Option Fmt
  | 0 => some .e4m3
  | 1 => some .e5m2
  | 2 => some .fp16
  | 3 => some .bf16
  | 4 => some .fp32
  | 5 => some .m48
  | 6 => some .i32
  | 7 => some .e8m0
  | _ => none

/-- Element size in bytes (R98, R199). -/
def fmtBytes : Fmt → Nat
  | .e4m3 | .e5m2 | .e8m0 => 1
  | .fp16 | .bf16 => 2
  | .fp32 | .i32 | .f19 => 4
  | .m48 => 6

/-- Fraction bits of a floating-point format (R103). -/
def fracBits : Fmt → Nat
  | .e4m3 => 3
  | .e5m2 => 2
  | .fp16 | .f19 => 10
  | .bf16 => 7
  | .fp32 => 23
  | .m48 => 39
  | .i32 | .e8m0 => 0

/-- Exponent bits (R103). -/
def expBits : Fmt → Nat
  | .e4m3 => 4
  | .e5m2 | .fp16 => 5
  | _ => 8

/-- Exponent bias (R103). -/
def bias (f : Fmt) : Nat := 2 ^ (expBits f - 1) - 1

/-- The format is one of the 8-bit ones, which carry block scales (text before R110). -/
def is8 : Fmt → Bool
  | .e4m3 | .e5m2 => true
  | _ => false

/-- The format is FP16 or BF16. -/
def is16 : Fmt → Bool
  | .fp16 | .bf16 => true
  | _ => false

/-- Two to an integer power. -/
def pow2 (e : Int) : Rat := if 0 ≤ e then (2 : Rat) ^ e.toNat else 1 / (2 : Rat) ^ (-e).toNat

/-- Absolute value. -/
def qabs (q : Rat) : Rat := if q < 0 then -q else q

/-- The exponent of the smallest normal (R103). -/
def emin (f : Fmt) : Int := 1 - (bias f : Int)

/-- The largest finite magnitude (R103). -/
def fmtMax : Fmt → Rat
  | .e4m3 => 448
  | f => (2 - pow2 (-(fracBits f : Int))) * pow2 (bias f)

/-- Canonical NaN encodings (R103). -/
def nanBits : Fmt → Nat
  | .e4m3 => 0x7F
  | .e5m2 => 0x7E
  | .fp16 => 0x7E00
  | .bf16 => 0x7FC0
  | .f19 => 0x3FE00
  | .fp32 => 0x7FC00000
  | .m48 => 0x7FC000000000
  | .i32 => 0
  | .e8m0 => 0xFF

/-- The sign bit's weight. -/
def signBit (f : Fmt) : Nat := 2 ^ (expBits f + fracBits f)

/-- The infinity encoding without sign. -/
def infBits (f : Fmt) : Nat := (2 ^ expBits f - 1) * 2 ^ fracBits f

/-- A value from a rational and the sign that a zero takes. -/
def ofRat (neg : Bool) (q : Rat) : Val := if q = 0 then .zero neg else .num q

/-- The decode rule of R103 with the special encodings of its table, for floating-point formats;
I32 by R109, E8M0 by R111. -/
def decodeBits (f : Fmt) (v : Nat) : Val :=
  match f with
  | .i32 => ofRat false (sgn32 v : Rat)
  | .e8m0 => if v = 0xFF then .nan else .num (pow2 ((v : Int) - 127))
  | f =>
    let fb := fracBits f
    let neg := v / signBit f % 2 == 1
    let e := v / 2 ^ fb % 2 ^ expBits f
    let fr := v % 2 ^ fb
    let s : Rat := if neg then -1 else 1
    let top := 2 ^ expBits f - 1
    if f = .e4m3 ∧ e = top ∧ fr = 7 then .nan
    else if f ≠ .e4m3 ∧ e = top then (if fr = 0 then .inf neg else .nan)
    else if e = 0 then ofRat neg (s * fr * pow2 (emin f - fb))
    else .num (s * (2 ^ fb + fr) * pow2 ((e : Int) - bias f - fb))

/-- M48 is malformed when its head encodes an infinity or a NaN and its tail is not zero (R108). -/
def m48Malformed (v : Nat) : Bool := v / 2 ^ 39 % 256 == 255 && v % 2 ^ 16 != 0

/-- A stored element read as a value, with the invalid event of a malformed M48 (R108). -/
def readElem (f : Fmt) (v : Nat) : Val × NumFlags :=
  if f = .m48 ∧ m48Malformed v then (.nan, invalidIf true) else (decodeBits f v, noFlags)

/-- The sign of a value; NaN counts as positive (R102). -/
def Val.neg? : Val → Bool
  | .nan => false
  | .inf n => n
  | .zero n => n
  | .num q => decide (q < 0)

/-- The value is NaN or an infinity. -/
def Val.nonFinite : Val → Bool
  | .nan | .inf _ => true
  | _ => false

/-- The exact rational of a finite value; 0 otherwise. -/
def Val.rat : Val → Rat
  | .num q => q
  | _ => 0

/-- floor(log2 x) of a positive rational. -/
def ilog2 (x : Rat) : Int :=
  let k : Int := (Nat.log2 x.num.natAbs : Int) - (Nat.log2 x.den : Int)
  if x < pow2 k then k - 1 else k

/-- ceil(log2 x) of a positive rational. -/
def clog2 (x : Rat) : Int := if pow2 (ilog2 x) = x then ilog2 x else ilog2 x + 1

/-- The nearest natural number to a rational that is not negative, ties to even (R99). -/
def roundHalfEven (x : Rat) : Nat :=
  let n := x.num.natAbs
  let fl := n / x.den
  let r := 2 * (n % x.den)
  if r < x.den then fl else if r > x.den then fl + 1 else if fl % 2 = 0 then fl else fl + 1

/-- The result of a conversion: encoding, events, and whether a finite value went beyond the
target's largest finite one (a saturation in the 8-bit formats, R118). -/
structure Conv where
  bits : Nat
  flags : NumFlags
  beyond : Bool
deriving DecidableEq, Repr

/-- The rounded magnitude and its quantum: m and q of convert (text before R117). -/
def quantum (f : Fmt) (a : Rat) : Int := max (ilog2 a) (emin f) - fracBits f

/-- The encoding of the magnitude m x 2^q in format f, where q is its quantum. -/
def packBits (f : Fmt) (neg : Bool) (m : Nat) (q : Int) : Nat :=
  let fb := fracBits f
  let s := if neg then signBit f else 0
  if m < 2 ^ fb then s + m
  else
    let m' := if m = 2 ^ (fb + 1) then 2 ^ fb else m
    let q' := if m = 2 ^ (fb + 1) then q + 1 else q
    s + ((q' + fb + bias f).toNat) * 2 ^ fb + (m' - 2 ^ fb)

/-- convert on an infinity: R118. -/
def convertInf (f : Fmt) (neg : Bool) : Conv :=
  match f with
  | .e4m3 => ⟨nanBits .e4m3, invalidIf true, false⟩
  | f => ⟨(if neg then signBit f else 0) + infBits f, noFlags, false⟩

/-- A finite result above the largest finite one: R118. -/
def convertOverflow (f : Fmt) (neg : Bool) : Conv :=
  let s := if neg then signBit f else 0
  let fl : NumFlags := ⟨true, false, true, false⟩
  match f with
  | .e4m3 => ⟨s + 0x7E, fl, true⟩
  | .e5m2 => ⟨s + 0x7B, fl, true⟩
  | f => ⟨s + infBits f, fl, true⟩

/-- convert of an exact nonzero number (text before R117): one rounding, tininess judged before
rounding. -/
def convertRat (f : Fmt) (x : Rat) : Conv :=
  let a := qabs x
  let neg := decide (x < 0)
  let q := quantum f a
  let m := roundHalfEven (a / pow2 q)
  let y := (m : Rat) * pow2 q
  let fl : NumFlags := ⟨false, y ≠ a && decide (a < pow2 (emin f)), y ≠ a, false⟩
  if y > fmtMax f then convertOverflow f neg else ⟨packBits f neg m q, fl, false⟩

/-- Conversion to I32 (R121). -/
def convertI32 (v : Val) : Conv :=
  match v with
  | .nan => ⟨0, invalidIf true, false⟩
  | .inf n => ⟨if n then 0x80000000 else 0x7FFFFFFF, invalidIf true, false⟩
  | .zero _ => ⟨0, noFlags, false⟩
  | .num x =>
    let m := roundHalfEven (qabs x)
    let n : Int := if x < 0 then -(m : Int) else m
    let fl : NumFlags := ⟨false, false, (n : Rat) ≠ x, false⟩
    if n > 2147483647 then ⟨0x7FFFFFFF, orFlags fl (invalidIf true), true⟩
    else if n < -2147483648 then ⟨0x80000000, orFlags fl (invalidIf true), true⟩
    else ⟨(BitVec.ofInt 32 n).toNat, fl, false⟩

/-- The conversion of R117, R118, R121 and R122 to a stored format. -/
def convert (f : Fmt) (v : Val) : Conv :=
  match f, v with
  | .i32, v => convertI32 v
  | f, .nan => ⟨nanBits f, noFlags, false⟩
  | f, .inf n => convertInf f n
  | f, .zero n => ⟨if n then signBit f else 0, noFlags, false⟩
  | f, .num x => convertRat f x

/-- The FP32 value and encoding of an exact value: the roundings marked fp32. -/
def fp32 (v : Val) : Conv := convert .fp32 v

/-- The value after one rounding to format f. -/
def roundTo (f : Fmt) (v : Val) : Val × NumFlags :=
  let c := convert f v
  (decodeBits f c.bits, c.flags)

/-- Narrowing of an FP32 operand to F19 by chop or round-to-nearest-even, as its container
(R104, R105, R106). -/
def narrowF19 (chop : Bool) (x : Nat) : Nat :=
  match decodeBits .fp32 x with
  | .nan => 0x7FC00000
  | .inf n => if n then 0xFF800000 else 0x7F800000
  | .zero n => if n then 0x80000000 else 0
  | .num q =>
    let s := if q < 0 then 0x80000000 else 0
    if chop then x / 2 ^ 13 * 2 ^ 13
    else
      let k := quantum .f19 (qabs q)
      let m := roundHalfEven (qabs q / pow2 k)
      if (m : Rat) * pow2 k > fmtMax .f19 then s + 0x7F7FE000
      else s + packBits .f19 false m k * 2 ^ 13

/-- Direct narrowing of an exact value to an F19 container, modes 1 and 2 of cast (R240): a finite
value beyond the F19 maximum becomes the maximum in both modes. -/
def narrowExact (chop : Bool) (v : Val) : Nat :=
  match v with
  | .nan => 0x7FC00000
  | .inf n => if n then 0xFF800000 else 0x7F800000
  | .zero n => if n then 0x80000000 else 0
  | .num q =>
    let s := if q < 0 then 0x80000000 else 0
    let k := quantum .f19 (qabs q)
    let r := qabs q / pow2 k
    let m := if chop then r.num.natAbs / r.den else roundHalfEven r
    if (m : Rat) * pow2 k > fmtMax .f19 then s + 0x7F7FE000 else s + packBits .f19 false m k * 2 ^ 13

/-- FP32 rounded up, as the amax field of R158 and the pushes of R156 are: the smallest FP32 not
below a rational that is not negative, which is +∞ above the largest finite one. -/
def fp32Up (a : Rat) : Nat :=
  if a ≤ 0 then 0
  else if a > fmtMax .fp32 then 0x7F800000
  else
    let q := quantum .fp32 a
    let r := a / pow2 q
    let m := (r.num.natAbs + r.den - 1) / r.den
    packBits .fp32 false m q

/-- Exact sum with the binary32 conventions of R138; the flag tells an infinity minus infinity. -/
def addVal : Val → Val → Val × Bool
  | .nan, _ => (.nan, false)
  | _, .nan => (.nan, false)
  | .inf a, .inf b => if a = b then (.inf a, false) else (.nan, true)
  | .inf a, _ => (.inf a, false)
  | _, .inf b => (.inf b, false)
  | .zero a, .zero b => (.zero (a && b), false)
  | .zero _, .num q => (.num q, false)
  | .num q, .zero _ => (.num q, false)
  | .num p, .num q => (ofRat false (p + q), false)

/-- The negation of a value. -/
def negVal : Val → Val
  | .nan => .nan
  | .inf n => .inf !n
  | .zero n => .zero !n
  | .num q => .num (-q)

/-- Exact product; the flag tells zero times infinity. -/
def mulVal (a b : Val) : Val × Bool :=
  let n := a.neg? != b.neg?
  match a, b with
  | .nan, _ => (.nan, false)
  | _, .nan => (.nan, false)
  | .inf _, .zero _ => (.nan, true)
  | .zero _, .inf _ => (.nan, true)
  | .inf _, _ => (.inf n, false)
  | _, .inf _ => (.inf n, false)
  | .zero _, _ => (.zero n, false)
  | _, .zero _ => (.zero n, false)
  | .num p, .num q => (.num (p * q), false)

/-- Exact quotient with the same conventions; the flag tells 0/0 or infinity/infinity. -/
def divVal (a b : Val) : Val × Bool :=
  let n := a.neg? != b.neg?
  match a, b with
  | .nan, _ => (.nan, false)
  | _, .nan => (.nan, false)
  | .inf _, .inf _ => (.nan, true)
  | .zero _, .zero _ => (.nan, true)
  | .inf _, _ => (.inf n, false)
  | _, .inf _ => (.zero n, false)
  | .zero _, _ => (.zero n, false)
  | _, .zero _ => (.inf n, false)
  | .num p, .num q => (.num (p / q), false)

/-- a is below b, by value, for values that are not NaN. -/
def ltVal : Val → Val → Bool
  | .inf true, .inf true => false
  | .inf true, _ => true
  | _, .inf true => false
  | .inf false, _ => false
  | _, .inf false => true
  | a, b => decide (a.rat < b.rat)

/-- The maximum of R123. -/
def maxVal (a b : Val) : Val :=
  match a, b with
  | .nan, _ => .nan
  | _, .nan => .nan
  | .zero x, .zero y => .zero (x && y)
  | a, b => if ltVal a b then b else a

/-- The minimum of R123. -/
def minVal (a b : Val) : Val :=
  match a, b with
  | .nan, _ => .nan
  | _, .nan => .nan
  | .zero x, .zero y => .zero (x || y)
  | a, b => if ltVal b a then b else a

/-- The magnitude of a value, never a negative zero. -/
def absVal : Val → Val
  | .nan => .nan
  | .inf _ => .inf false
  | .zero _ => .zero false
  | .num q => .num (qabs q)

end Sys2Proof.Machine
end

