-- ==== Sys2Proof/Machine/Real.lean ====
section
/-! DEFINITION. Correct rounding of the functions of R145, R236 and R651: a real result is an exact
value, or a family of open rational intervals that shrink with the precision asked for; it is rounded
once, when both ends of an interval round alike. -/

namespace Sys2Proof.Machine

/-- An open interval with rational ends, or a point when both ends are equal. -/
abbrev Iv := Rat × Rat

/-- A real result: an exact value, or its enclosure at each precision in bits. -/
inductive RealV where
  | val (v : Val)
  | iv (f : Nat → Iv)

/-- Integer square root: Newton steps from above. -/
def isqrtLoop : Nat → Nat → Nat → Nat
  | 0, _, x => x
  | k + 1, n, x =>
    let y := (x + n / x) / 2
    if y < x then isqrtLoop k n y else x

/-- The integer square root of `n`, rounded down. -/
def isqrt (n : Nat) : Nat := if n = 0 then 0 else isqrtLoop (2 * Nat.log2 n + 8) n (2 ^ (Nat.log2 n / 2 + 1))

/-- A positive rational rounded down to `p` significant bits. -/
def sigDown (p : Nat) (x : Rat) : Rat :=
  let u := pow2 (ilog2 x - p)
  ((x / u).floor : Rat) * u

/-- A positive rational rounded up to `p` significant bits. -/
def sigUp (p : Nat) (x : Rat) : Rat :=
  let u := pow2 (ilog2 x - p)
  (((x / u).floor + 1 : Int) : Rat) * u

/-- Sum of intervals. -/
def ivAdd (a b : Iv) : Iv := (a.1 + b.1, a.2 + b.2)

/-- Negated interval. -/
def ivNeg (a : Iv) : Iv := (-a.2, -a.1)

/-- An interval multiplied by a rational. -/
def ivScale (q : Rat) (a : Iv) : Iv := if q < 0 then (q * a.2, q * a.1) else (q * a.1, q * a.2)

/-- Product of intervals. -/
def ivMul (a b : Iv) : Iv :=
  let p := [a.1 * b.1, a.1 * b.2, a.2 * b.1, a.2 * b.2]
  (p.foldl min (a.1 * b.1), p.foldl max (a.1 * b.1))

/-- Reciprocal of an interval that does not hold zero. -/
def ivInv (a : Iv) : Iv := (1 / a.2, 1 / a.1)

/-- An integer in fixed point with `P` fraction bits and its error bound, as an interval. -/
def ivFix (P : Nat) (v e : Int) : Iv := ((v - e : Int) * pow2 (-(P : Int)), (v + e : Int) * pow2 (-(P : Int)))

/-- The Taylor sum of e^r in fixed point: fuel, index, term, sum. -/
def expSum (P : Nat) (r : Int) : Nat → Nat → Int → Int → Int
  | 0, _, _, acc => acc
  | k + 1, i, t, acc =>
    let t' := (t * r).fdiv ((i : Int) * 2 ^ P)
    expSum P r k (i + 1) t' (acc + t')

/-- Repeated squaring with outward rounding. -/
def ivSquare (P : Nat) : Nat → Iv → Iv
  | 0, a => a
  | k + 1, a => ivSquare P k (sigDown P (a.1 * a.1), sigUp P (a.2 * a.2))

/-- e^x. Above 2^14 every format overflows, and a stand-in far outside the formats takes the value's place; below −2^14 the value
lies between zero and a bound far below every format. -/
def expIv (p : Nat) (x : Rat) : Iv :=
  if x = 0 then (1, 1)
  else if x > 16384 then (pow2 20000, pow2 20001)
  else if x < -16384 then (0, pow2 (-20000))
  else
    let k := (ilog2 (qabs x) + 9).toNat
    let P := p + 2 * k + 30
    let r := (x * pow2 ((P : Int) - k)).floor
    let n := P / 8 + 4
    let s := expSum P r n 1 (2 ^ P) (2 ^ P)
    ivSquare P k (ivFix P s (2 * n + 8))

/-- The odd series of atanh (`sgn` = 1) or atan (`sgn` = -1): fuel, index, power, sum. -/
def oddSum (P : Nat) (z2 sgn : Int) : Nat → Nat → Int → Int → Int
  | 0, _, _, acc => acc
  | k + 1, i, t, acc =>
    oddSum P z2 sgn k (i + 1) (sgn * (t * z2).fdiv (2 ^ P)) (acc + t.fdiv (2 * i + 1))

/-- atanh or atan of a rational of magnitude at most 1/3, in fixed point, with its error bound. -/
def oddFix (P : Nat) (sgn : Int) (z : Rat) : Int × Int :=
  let t := (z * pow2 P).floor
  let z2 := (z * z * pow2 P).floor
  let n := P / 3 + 8
  (oddSum P z2 sgn n 0 t 0, 4 * n + 8)

/-- ln 2 in fixed point, with its error bound. -/
def ln2Fix (P : Nat) : Int × Int := let a := oddFix P 1 (1 / 3); (2 * a.1, 2 * a.2)

/-- ln x of a positive rational. -/
def lnIv (p : Nat) (x : Rat) : Iv :=
  if x = 1 then (0, 0)
  else
    let e0 := ilog2 x
    let m0 := x * pow2 (-e0)
    let e := if m0 > 4 / 3 then e0 + 1 else e0
    let m := x * pow2 (-e)
    let z := (m - 1) / (m + 1)
    let P := p + 40 + (if z = 0 then 0 else (-(ilog2 (qabs z))).toNat) + Nat.log2 (e.natAbs + 1)
    let a := oddFix P 1 z
    let l := ln2Fix P
    ivFix P (2 * a.1 + e * l.1) (2 * a.2 + e.natAbs * l.2)

/-- log2 x of a positive rational: exact at powers of two. -/
def log2Iv (p : Nat) (x : Rat) : Iv :=
  if pow2 (ilog2 x) = x then ((ilog2 x : Rat), (ilog2 x : Rat))
  else
    let a := lnIv (p + 20) x
    ivMul a (ivInv (lnIv (p + 20) 2))

/-- 2^x: exact at integers. -/
def exp2Iv (p : Nat) (x : Rat) : Iv :=
  if x.den = 1 ∧ qabs x ≤ 20000 then (pow2 x.num, pow2 x.num)
  else if qabs x > 16384 then expIv p (x * 2)
  else
    let n := x.floor
    let f := x - n
    let l := lnIv (p + 20) 2
    ivScale (pow2 n) ((expIv (p + 20) (l.1 * f)).1, (expIv (p + 20) (l.2 * f)).2)

/-- The square root of a rational that is not negative: exact where it is rational. -/
def sqrtIv (p : Nat) (x : Rat) : Iv :=
  let a := isqrt x.num.natAbs
  let b := isqrt x.den
  if a * a = x.num.natAbs ∧ b * b = x.den then ((a : Rat) / b, (a : Rat) / b)
  else
    let P := p + 10 + (-(ilog2 x)).toNat
    let s := isqrt (x * pow2 (2 * P)).floor.natAbs
    ivFix P s 0 |> fun (l, _) => (l, ((s : Rat) + 1) * pow2 (-(P : Int)))

/-- Pi in fixed point, with its error bound (Machin's formula). -/
def piFix (P : Nat) : Int × Int :=
  let a := oddFix P (-1) (1 / 5)
  let b := oddFix P (-1) (1 / 239)
  (16 * a.1 - 4 * b.1, 16 * a.2 + 4 * b.2)

/-- The Taylor sum of sin (from term r, index 1) or cos (from term 1, index 0). -/
def trigSum (P : Nat) (r2 : Int) : Nat → Nat → Int → Int → Int
  | 0, _, _, acc => acc
  | k + 1, i, t, acc =>
    let t' := -((t * r2).fdiv ((i + 1 : Int) * (i + 2) * 2 ^ P))
    trigSum P r2 k (i + 2) t' (acc + t')

/-- sin x (`c` = 0) or cos x (`c` = 1) of a nonzero rational; the argument is reduced exactly
(text after R146). -/
def trigIv (c : Nat) (p : Nat) (x : Rat) : Iv :=
  let P := p + 260 + 2 * (ilog2 (qabs x)).toNat
  let pi := piFix P
  let q := x * pow2 P * 2 / (pi.1 : Rat)
  let n := (q + 1 / 2).floor
  let r := (x * pow2 P).floor - (n * pi.1).fdiv 2
  let e := n.natAbs * pi.2 + 4
  let r2 := (r * r).fdiv (2 ^ P)
  let k := P / 4 + 8
  let s := trigSum P r2 k 1 r r
  let co := trigSum P r2 k 0 (2 ^ P) (2 ^ P)
  let err := 2 * e + 4 * k
  match ((n + c) % 4).toNat with
  | 0 => ivFix P s err
  | 1 => ivFix P co err
  | 2 => ivFix P (-s) err
  | _ => ivFix P (-co) err

/-- The sum of x^(2n+1) / (2n+1)!! in fixed point. -/
def phiSum (P : Nat) (x2 : Int) : Nat → Nat → Int → Int → Int
  | 0, _, _, acc => acc
  | k + 1, i, t, acc =>
    let t' := (t * x2).fdiv ((2 * i + 3 : Int) * 2 ^ P)
    phiSum P x2 k (i + 1) t' (acc + t')

/-- The standard normal density. -/
def densityIv (p : Nat) (x : Rat) : Iv :=
  let pi := piFix (p + 40)
  let lo := ((pi.1 - pi.2 : Int) : Rat) * pow2 (-((p + 40 : Nat) : Int))
  let hi := ((pi.1 + pi.2 : Int) : Rat) * pow2 (-((p + 40 : Nat) : Int))
  let r : Iv := ((sqrtIv (p + 20) (2 * lo)).1, (sqrtIv (p + 20) (2 * hi)).2)
  ivMul (expIv (p + 20) (-(x * x) / 2)) (ivInv r)

/-- The standard normal distribution function for a rational of magnitude at most 24. -/
def phiNear (p : Nat) (x : Rat) : Iv :=
  let P := p + 900
  let a := qabs x
  let t := (a * pow2 P).floor
  let x2 := (a * a * pow2 P).floor
  let k := 1300 + P
  let s := phiSum P x2 k 0 t t
  let d := densityIv P a
  let h := ivMul d (ivFix P s (4 * k * 2 ^ 450))
  let up : Iv := (1 / 2 + h.1, 1 / 2 + h.2)
  if x < 0 then (1 - up.2, 1 - up.1) else up

/-- The asymptotic sum of Mills' ratio, the terms (-1)^n (2n - 1)!! y^n in fixed point, with its last term. -/
def millsSum (P : Nat) (y : Int) : Nat → Nat → Int → Int → Int × Int
  | 0, _, t, acc => (t, acc)
  | k + 1, i, t, acc =>
    let t' := -((t * (2 * i + 1 : Int) * y).fdiv (2 ^ P))
    millsSum P y k (i + 1) t' (acc + t')

/-- The standard normal distribution function at -a, for a beyond 24: the density times Mills' ratio. The sum alternates, so
its last term bounds what it leaves out. -/
def tailIv (p : Nat) (a : Rat) : Iv :=
  let P := p + 60
  let r := millsSum P ((pow2 P / (a * a)).floor) 256 0 (2 ^ P) (2 ^ P)
  ivMul (densityIv p a) (ivScale (1 / a) (ivFix P r.2 (r.1.natAbs + 2 ^ 13)))

/-- The standard normal distribution function. -/
def phiIv (p : Nat) (x : Rat) : Iv :=
  if x > 24 then let q := tailIv p x; (1 - q.2, 1 - q.1)
  else if x < -24 then tailIv p (-x)
  else phiNear p x

/-- 1 / (1 + e^-x). -/
def sigmoidIv (p : Nat) (x : Rat) : Iv :=
  let e := expIv (p + 10) (-x)
  ivInv (1 + e.1, 1 + e.2)

/-- tanh x = (1 - e^-2|x|) / (1 + e^-2|x|), with more bits for a small argument. -/
def tanhIv (p : Nat) (x : Rat) : Iv :=
  let q := p + 20 + 2 * (-(ilog2 (qabs x))).toNat
  let e := expIv q (-2 * qabs x)
  let n := ivMul (1 - e.2, 1 - e.1) (ivInv (1 + e.1, 1 + e.2))
  if x < 0 then ivNeg n else n

/-- A power with a rational exponent that is not an integer, of a positive rational (R651). -/
def powIv (p : Nat) (b e : Rat) : Iv :=
  if b = 1 then (1, 1)
  else if pow2 (ilog2 b) = b then exp2Iv p (e * ilog2 b)
  else
    let l := ivScale e (lnIv (p + 40) b)
    ((expIv (p + 20) l.1).1, (expIv (p + 20) l.2).2)

/-- The end of an open interval as the formats see it: an end at zero is passed by values of the other end's sign that every format
rounds to zero. -/
def ivEnd (e other : Rat) : Rat := if e = 0 then (if other < 0 then -pow2 (-400) else pow2 (-400)) else e

/-- The result of rounding an enclosure, if both ends agree on the encoding, on an overflow and on tininess (R117, R118); a point rounds
as the exact value. -/
def roundIv (f : Fmt) (a : Iv) : Option Conv :=
  if a.1 = a.2 then some (convert f (ofRat false a.1))
  else if a.1 < 0 ∧ a.2 > 0 then none
  else
    let l := convertRat f (ivEnd a.1 a.2)
    let h := convertRat f (ivEnd a.2 a.1)
    let big := max (qabs a.1) (qabs a.2)
    let small := min (qabs a.1) (qabs a.2)
    let tiny := decide (big ≤ pow2 (emin f))
    if l.bits = h.bits ∧ l.beyond = h.beyond ∧ (tiny ∨ pow2 (emin f) ≤ small) then
      some ⟨l.bits, ⟨l.beyond, tiny, true, false⟩, l.beyond⟩
    else none

/-- One correct rounding of a real result (R145, R651). Where three precisions leave it undecided,
the result is a constant of Config (log 7). -/
def roundReal (f : Fmt) (key : Nat) : RealV → Conv
  | .val v => convert f v
  | .iv g =>
    match roundIv f (g 128) with
    | some c => c
    | none =>
      match roundIv f (g 640) with
      | some c => c
      | none =>
        match roundIv f (g 2600) with
        | some c => c
        | none => ⟨Config.undecided key (fracBits f) 0, ⟨false, false, true, false⟩, false⟩

/-- A real result multiplied by a rational. -/
def scaleReal (q : Rat) : RealV → RealV
  | .val v => .val (mulVal v (ofRat false q)).1
  | .iv f => .iv fun p => ivScale q (f p)

/-- The special functions of R145. -/
inductive Fn where
  | exp | exp2 | log | log2 | recip | sqrt | rsqrt | tanh | sigmoid | silu | gelu | sin | cos
deriving DecidableEq, Repr

/-- The results of R146 at zeros and infinities; the flag is the invalid event. -/
def fnSpecial (f : Fn) (v : Val) : Val × Bool :=
  match f, v with
  | _, .nan => (.nan, false)
  | .exp, .inf n | .exp2, .inf n => (if n then .zero false else .inf false, false)
  | .exp, _ | .exp2, _ => (.num 1, false)
  | .log, .zero _ | .log2, .zero _ => (.inf true, false)
  | .log, .inf false | .log2, .inf false => (.inf false, false)
  | .log, _ | .log2, _ => (.nan, true)
  | .recip, .zero n => (.inf n, false)
  | .recip, .inf n => (.zero n, false)
  | .recip, _ => (.nan, false)
  | .sqrt, .zero n => (.zero n, false)
  | .sqrt, .inf false => (.inf false, false)
  | .sqrt, _ => (.nan, true)
  | .rsqrt, .zero n => (.inf n, false)
  | .rsqrt, .inf false => (.zero false, false)
  | .rsqrt, _ => (.nan, true)
  | .tanh, .zero n => (.zero n, false)
  | .tanh, .inf n => (.num (if n then -1 else 1), false)
  | .tanh, _ => (.nan, false)
  | .sigmoid, .inf n => (if n then .zero false else .num 1, false)
  | .sigmoid, _ => (.num (1 / 2), false)
  | .silu, .zero n | .gelu, .zero n => (.zero n, false)
  | .silu, .inf n | .gelu, .inf n => (if n then .zero true else .inf false, false)
  | .silu, _ | .gelu, _ => (.nan, false)
  | .sin, .zero n => (.zero n, false)
  | .cos, .zero _ => (.num 1, false)
  | .sin, _ | .cos, _ => (.nan, true)

/-- A special function at a nonzero finite argument; the flag is the invalid event of its table. -/
def fnNum (f : Fn) (x : Rat) : RealV × Bool :=
  match f with
  | .exp => (.iv fun p => expIv p x, false)
  | .exp2 => (.iv fun p => exp2Iv p x, false)
  | .log => if x < 0 then (.val .nan, true) else (.iv fun p => lnIv p x, false)
  | .log2 => if x < 0 then (.val .nan, true) else (.iv fun p => log2Iv p x, false)
  | .recip => (.val (.num (1 / x)), false)
  | .sqrt => if x < 0 then (.val .nan, true) else (.iv fun p => sqrtIv p x, false)
  | .rsqrt => if x < 0 then (.val .nan, true) else (.iv fun p => ivInv (sqrtIv (p + 10) x), false)
  | .tanh => (.iv fun p => tanhIv p x, false)
  | .sigmoid => (.iv fun p => sigmoidIv p x, false)
  | .silu => (.iv fun p => ivScale x (sigmoidIv p x), false)
  | .gelu => (.iv fun p => ivScale x (phiIv p x), false)
  | .sin => (.iv fun p => trigIv 0 p x, false)
  | .cos => (.iv fun p => trigIv 1 p x, false)

/-- A special function of R145 at any value, with its invalid event. -/
def fnApply (f : Fn) (v : Val) : RealV × Bool :=
  match v with
  | .num q => fnNum f q
  | v => let r := fnSpecial f v; (.val r.1, r.2)

/-- A special function rounded once to a format. -/
def fnRound (t : Fmt) (f : Fn) (key : Nat) (v : Val) : Conv :=
  let r := fnApply f v
  let c := roundReal t key r.1
  { c with flags := orFlags c.flags (invalidIf r.2) }

end Sys2Proof.Machine
end

