-- ==== Sys2Proof/Machine/Crypto.lean ====
section
/-! DEFINITION. The symmetric primitives that the manual takes from published standards: SHA-256
(FIPS 180-4), HMAC, HKDF, AES-256 (FIPS 197), XTS and GCM (Standards table of Scope). -/

namespace Sys2Proof.Machine

/-- The first 32 fractional bits of the cube roots of the first 64 primes (FIPS 180-4). -/
def shaK : List (BitVec 32) :=
  [0x428a2f98, 0x71374491, 0xb5c0fbcf, 0xe9b5dba5, 0x3956c25b, 0x59f111f1, 0x923f82a4, 0xab1c5ed5] ++
  [0xd807aa98, 0x12835b01, 0x243185be, 0x550c7dc3, 0x72be5d74, 0x80deb1fe, 0x9bdc06a7, 0xc19bf174] ++
  [0xe49b69c1, 0xefbe4786, 0x0fc19dc6, 0x240ca1cc, 0x2de92c6f, 0x4a7484aa, 0x5cb0a9dc, 0x76f988da] ++
  [0x983e5152, 0xa831c66d, 0xb00327c8, 0xbf597fc7, 0xc6e00bf3, 0xd5a79147, 0x06ca6351, 0x14292967] ++
  [0x27b70a85, 0x2e1b2138, 0x4d2c6dfc, 0x53380d13, 0x650a7354, 0x766a0abb, 0x81c2c92e, 0x92722c85] ++
  [0xa2bfe8a1, 0xa81a664b, 0xc24b8b70, 0xc76c51a3, 0xd192e819, 0xd6990624, 0xf40e3585, 0x106aa070] ++
  [0x19a4c116, 0x1e376c08, 0x2748774c, 0x34b0bcb5, 0x391c0cb3, 0x4ed8aa4a, 0x5b9cca4f, 0x682e6ff3] ++
  [0x748f82ee, 0x78a5636f, 0x84c87814, 0x8cc70208, 0x90befffa, 0xa4506ceb, 0xbef9a3f7, 0xc67178f2]

/-- The initial hash value of SHA-256. -/
def shaInit : List (BitVec 32) :=
  [0x6a09e667, 0xbb67ae85, 0x3c6ef372, 0xa54ff53a, 0x510e527f, 0x9b05688c, 0x1f83d9ab, 0x5be0cd19]

/-- A big-endian 32-bit word. -/
def beWord : Bytes → BitVec 32
  | [a, b, c, d] => a ++ b ++ c ++ d
  | _ => 0

/-- The bytes of a number, most significant first. -/
def beBytes (n v : Nat) : Bytes := (leBytes n v).reverse

/-- The message schedule, newest word first. -/
def shaSchedule : Nat → List (BitVec 32) → List (BitVec 32)
  | 0, w => w
  | n + 1, w =>
    let a := w.getD 14 0
    let b := w.getD 1 0
    let s0 := a.rotateRight 7 ^^^ a.rotateRight 18 ^^^ a >>> 3
    let s1 := b.rotateRight 17 ^^^ b.rotateRight 19 ^^^ b >>> 10
    shaSchedule n ((w.getD 15 0 + s0 + w.getD 6 0 + s1) :: w)

/-- One round of the compression. -/
def shaRound (h : List (BitVec 32)) (kw : BitVec 32 × BitVec 32) : List (BitVec 32) :=
  match h with
  | [a, b, c, d, e, f, g, hh] =>
    let s1 := e.rotateRight 6 ^^^ e.rotateRight 11 ^^^ e.rotateRight 25
    let ch := (e &&& f) ^^^ (~~~ e &&& g)
    let t1 := hh + s1 + ch + kw.1 + kw.2
    let s0 := a.rotateRight 2 ^^^ a.rotateRight 13 ^^^ a.rotateRight 22
    let mj := (a &&& b) ^^^ (a &&& c) ^^^ (b &&& c)
    [t1 + s0 + mj, a, b, c, d + t1, e, f, g]
  | x => x

/-- The list cut into pieces of `n`, at most `fuel` of them. -/
def pieces {α : Type} (n : Nat) : Nat → List α → List (List α)
  | 0, _ => []
  | fuel + 1, l => match l with
    | [] => []
    | l => l.take n :: pieces n fuel (l.drop n)

/-- One 64-byte block compressed into the hash value. -/
def shaBlock (h : List (BitVec 32)) (blk : Bytes) : List (BitVec 32) :=
  let w := (shaSchedule 48 ((pieces 4 16 blk).map beWord).reverse).reverse
  let r := (shaK.zip w).foldl shaRound h
  (h.zip r).map fun p => p.1 + p.2

/-- SHA-256 of a byte string. -/
def sha256 (m : Bytes) : Bytes :=
  let padded := m ++ [0x80] ++ zeros ((119 - m.length % 64) % 64) ++ beBytes 8 (8 * m.length)
  ((pieces 64 padded.length padded).foldl shaBlock shaInit).flatMap fun w => beBytes 4 w.toNat

/-- The XOR of two byte strings of equal length. -/
def xorBytes (a b : Bytes) : Bytes := (a.zip b).map fun p => p.1 ^^^ p.2

/-- HMAC-SHA-256. -/
def hmac (key m : Bytes) : Bytes :=
  let k := sub (if key.length > 64 then sha256 key else key) 0 64
  sha256 (xorBytes k (List.replicate 64 0x5C) ++ sha256 (xorBytes k (List.replicate 64 0x36) ++ m))

/-- HKDF-Expand, `n` rounds of 32 bytes. -/
def hkdfExpand (prk info : Bytes) : Nat → Nat → Bytes → Bytes
  | 0, _, _ => []
  | n + 1, i, prev =>
    let t := hmac prk (prev ++ info ++ [BitVec.ofNat 8 i])
    t ++ hkdfExpand prk info n (i + 1) t

/-- The derivation of Glen: HKDF over HMAC-SHA-256 with the label in ASCII, a zero byte and the
context as the information (text before R494). -/
def derive (salt ikm : Bytes) (label : String) (context : Bytes) (length : Nat) : Bytes :=
  (hkdfExpand (hmac salt ikm) (ascii label ++ [0x00] ++ context) (ceilDiv length 32) 1 []).take length

/-- Multiplication by x in the field of AES. -/
def xtime (b : Byte) : Byte := (b <<< 1) ^^^ (if b.msb then 0x1B else 0)

/-- Multiplication in the field of AES, over the `n` low bits of the first factor. -/
def gmul : Nat → Byte → Byte → Byte
  | 0, _, _ => 0
  | n + 1, a, b => (if a.getLsbD 0 then b else 0) ^^^ gmul n (a >>> 1) (xtime b)

/-- The inverse in the field of AES, with 0 for 0: b to the power 254. -/
def ginv (b : Byte) : Byte :=
  let sq := fun x => gmul 8 x x
  let b2 := sq b
  let b4 := sq b2
  let b8 := sq b4
  let b16 := sq b8
  let b32 := sq b16
  let b64 := sq b32
  let m := gmul 8
  m (sq b64) (m b64 (m b32 (m b16 (m b8 (m b4 b2)))))

/-- The substitution box as a computation. -/
def sboxOf (b : Byte) : Byte :=
  let i := ginv b
  i ^^^ i.rotateLeft 1 ^^^ i.rotateLeft 2 ^^^ i.rotateLeft 3 ^^^ i.rotateLeft 4 ^^^ 0x63

/-- The substitution box of AES. -/
def sboxTable : Array Byte := ((List.range 256).map fun i => sboxOf (BitVec.ofNat 8 i)).toArray

/-- SubBytes on one byte. -/
def sbox (b : Byte) : Byte := sboxTable.getD b.toNat 0

/-- The key schedule of AES-256: words newest first, from word number `i` on. -/
def keySchedule : Nat → Nat → Byte → List Bytes → List Bytes
  | 0, _, _, w => w
  | n + 1, i, rc, w =>
    let t := w.headD []
    let t := if i % 8 = 0 then
        match t.map sbox with
        | [a, b, c, d] => [b ^^^ rc, c, d, a]
        | x => x
      else if i % 8 = 4 then t.map sbox else t
    keySchedule n (i + 1) (if i % 8 = 0 then xtime rc else rc) (xorBytes (w.getD 7 []) t :: w)

/-- The 15 round keys of AES-256. -/
def roundKeys (key : Bytes) : List Bytes :=
  let w := (keySchedule 52 8 1 (pieces 4 8 (sub key 0 32)).reverse).reverse
  (pieces 4 15 w).map List.flatten

/-- ShiftRows by the source position of each byte (column major). -/
def permute (p : List Nat) (s : Bytes) : Bytes := p.map fun i => s.getD i 0

/-- Source positions of ShiftRows. -/
def shiftRows : List Nat := [0, 5, 10, 15, 4, 9, 14, 3, 8, 13, 2, 7, 12, 1, 6, 11]

/-- One column times the circulant matrix of MixColumns with first row `m`. -/
def mixColumn (m : List Byte) (c : Bytes) : Bytes :=
  (List.range 4).map fun r =>
    (List.range 4).foldl (fun x j => x ^^^ gmul 8 (m.getD ((j + 4 - r) % 4) 0) (c.getD j 0)) 0

/-- MixColumns. -/
def mixColumns (m : List Byte) (s : Bytes) : Bytes := (pieces 4 4 s).flatMap (mixColumn m)

/-- AES-256 encryption of one block. -/
def aesEncrypt (rks : List Bytes) (blk : Bytes) : Bytes :=
  let s := xorBytes blk (rks.getD 0 [])
  let s := (List.range 13).foldl (fun s i =>
    xorBytes (mixColumns [2, 3, 1, 1] (permute shiftRows (s.map sbox))) (rks.getD (i + 1) [])) s
  xorBytes (permute shiftRows (s.map sbox)) (rks.getD 14 [])

/-- Doubling of an XTS tweak, little-endian. -/
def xtsDouble (t : Bytes) : Bytes :=
  let v := leNat t
  leBytes 16 ((2 * v) % 2 ^ 128 ^^^ (if v ≥ 2 ^ 127 then 0x87 else 0))

/-- XTS over whole blocks with the encrypted tweak `t`. -/
def xtsBlocks (f : Bytes → Bytes) (t : Bytes) : List Bytes → Bytes
  | [] => []
  | b :: bs => xorBytes (f (xorBytes b t)) t ++ xtsBlocks f (xtsDouble t) bs

/-- AES-256-XTS encryption of one data unit of whole blocks. -/
def xtsEncrypt (dataKey tweakKey tweak plain : Bytes) : Bytes :=
  xtsBlocks (aesEncrypt (roundKeys dataKey)) (aesEncrypt (roundKeys tweakKey) tweak)
    (pieces 16 (ceilDiv plain.length 16) plain)

/-- Multiplication in the field of GCM, over the bits of the first factor from the highest down. -/
def ghashMul : Nat → BitVec 128 → BitVec 128 → BitVec 128 → BitVec 128
  | 0, _, _, z => z
  | n + 1, x, v, z =>
    ghashMul n (x <<< 1) ((v >>> 1) ^^^ (if v.getLsbD 0 then 0xE1000000000000000000000000000000 else 0))
      (if x.msb then z ^^^ v else z)

/-- A 16-byte string as a number, first byte highest. -/
def beVec (b : Bytes) : BitVec 128 := BitVec.ofNat 128 (leNat (sub b 0 16).reverse)

/-- The string padded with zeros to whole blocks. -/
def pad16 (b : Bytes) : Bytes := b ++ zeros ((16 - b.length % 16) % 16)

/-- GHASH of additional data and ciphertext. -/
def ghash (h : BitVec 128) (aad ct : Bytes) : BitVec 128 :=
  let m := pad16 aad ++ pad16 ct ++ beBytes 8 (8 * aad.length) ++ beBytes 8 (8 * ct.length)
  (pieces 16 m.length m).foldl (fun y b => ghashMul 128 (y ^^^ beVec b) h 0) 0

/-- The key stream of GCM: `n` blocks from counter `i` on. -/
def gcmStream (rks : List Bytes) (iv : Bytes) : Nat → Nat → Bytes
  | 0, _ => []
  | n + 1, i => aesEncrypt rks (iv ++ beBytes 4 i) ++ gcmStream rks iv n (i + 1)

/-- The GCM tag over additional data and ciphertext. -/
def gcmTag (key iv aad ct : Bytes) : Bytes :=
  let rks := roundKeys key
  let h := beVec (aesEncrypt rks (zeros 16))
  xorBytes (beBytes 16 (ghash h aad ct).toNat) (aesEncrypt rks (sub iv 0 12 ++ beBytes 4 1))

/-- AES-256-GCM: the plaintext or ciphertext under the key stream. -/
def gcmCrypt (key iv x : Bytes) : Bytes :=
  xorBytes x (gcmStream (roundKeys key) (sub iv 0 12) (ceilDiv x.length 16) 2)

/-- AES-256-GCM decryption: the plaintext, if the tag verifies. -/
def gcmOpen (key iv aad ct tag : Bytes) : Option Bytes :=
  if gcmTag key iv aad ct = tag then some (gcmCrypt key iv ct) else none

/-- AES-256-GCM encryption: ciphertext followed by the tag. -/
def gcmSeal (key iv aad pt : Bytes) : Bytes × Bytes :=
  let ct := gcmCrypt key iv pt
  (ct, gcmTag key iv aad ct)

end Sys2Proof.Machine
end

