-- ==== Sys2Proof/Machine/State.lean ====
section
/-! DEFINITION. The state of one Proend as plain data, and the state right after power-enable. -/

namespace Sys2Proof.Machine

/-- What stops the Proend: conditions under which the manual defines no operation. -/
inductive Fault where
  /-- The supply is beyond the absolute maximum of R615; raised by the supply events. Safe: the
  model stops where R615 defines no operation. -/
  | beyondAbsoluteMaximum
deriving DecidableEq, Repr

/-- Commands that the model does not run. -/
inductive Refusal where
  /-- For a dispatch arm that has no meaning yet: none is left. Safe: nothing is claimed of the command. -/
  | notModelled (mnemonic : String)
deriving DecidableEq, Repr

/-- A message that has started: its context, or none on the management sideband (R630), and its bytes. -/
structure Msg where
  ctx : Option Nat := none
  bytes : Bytes := []
deriving DecidableEq, Repr

/-- The causes a NAK names (R412, R413, R417). -/
inductive NakCause where
  | receiverNotReady
  | remoteAccess
  | invalidRequest
  | remoteOperational
deriving DecidableEq, Repr

/-- The keying records of R506 to R508, which travel as Pass packets of R363 (log 18). -/
inductive KeyingKind where
  | reportRequest
  | leadReport
  | memberReport
  | jobKeyDelivery
  | refusal
  | retirement
deriving DecidableEq, Repr

/-- What the Proend has put out. -/
inductive Out where
  /-- An MHP completion, event or Ledger stream record on the queue pair of a context (R441, R478). -/
  | send (ctx : Nat) (bytes : Bytes)
  /-- An RDMA WRITE, with the immediate of a last release WRITE (R415). -/
  | rdmaWrite (qp : Nat) (address : Nat) (rkey : Nat) (bytes : Bytes) (imm : Option Nat)
  /-- An RDMA READ request (R416). -/
  | rdmaRead (qp : Nat) (address : Nat) (rkey : Nat) (length : Nat)
  /-- An acknowledgement of an inbound RDMA operation (R417). -/
  | rdmaAck (qp : Nat)
  /-- A NAK (R412, R413). -/
  | nak (qp : Nat) (cause : NakCause)
  /-- A retransmission of the oldest unacknowledged operation (R417, R424). -/
  | retransmit (qp : Nat)
  /-- A congestion notification packet (R419). -/
  | congestionNote (qp : Nat)
  /-- A pause or resume frame (R421). -/
  | pause (port : Nat) (priority : Nat) (on : Bool)
  /-- A packet on a Pass port, header and payload as R351 and R363 lay them out. -/
  | packet (port : Nat) (bytes : Bytes)
  /-- A keying record to a device. -/
  | keying (device : Nat) (jobId : Nat) (kind : KeyingKind) (record : Bytes)
  /-- An answer on the management sideband: the data of a read (R621). -/
  | sideband (bytes : Bytes)
  /-- An in-band interrupt with its mandatory byte (R634). -/
  | ibi (cause : Nat)
  /-- The answer to an I3C command (R611). -/
  | i3c (bytes : Bytes)
deriving DecidableEq, Repr

/-- A message that has started and not completed, by what it waits for. -/
inductive RunKind where
  /-- PROGRAM_SUBMIT: job index, submission number. -/
  | submit (job : Nat) (sub : Nat)
  /-- FW_ACTIVATE that waits for a capture, a restore or another activation to end (R578): slot. -/
  | fwWait (slot : Nat)
  /-- PROGRAM_ABORT: job index, program object. -/
  | abort (job : Nat) (prog : Nat)
  /-- OBJECT_DESTROY. -/
  | destroy (obj : Nat)
  /-- TENSOR_RELEASE: job index, tensor. -/
  | tensorRelease (job : Nat) (tensor : Nat)
  /-- FENCE_WAIT: fence object, value. -/
  | fenceWait (obj : Nat) (value : Nat)
  /-- FENCE_SIGNAL held by a slot load (R448). -/
  | fenceSignal (obj : Nat) (value : Nat)
  /-- INGRESS: job index, tensor. -/
  | ingress (job : Nat) (tensor : Nat)
  /-- TIER_MOVE: job index, first page, count, whether it evicts. -/
  | tierMove (job : Nat) (first : Nat) (count : Nat) (evict : Bool)
  /-- JOB_DESTROY. -/
  | jobDestroy (job : Nat)
  /-- RESTORE or STATE_IMPORT of a job. -/
  | restore (job : Nat)
  /-- A change that waits for its Ledger record (R476) or for Glen (R481); a reset or a wait for an
  activation (R469, R583). The number is its own. -/
  | ticket (number : Nat)
deriving DecidableEq, Repr

/-- A message in progress. -/
structure Running where
  msg : Msg := {}
  kind : RunKind
deriving DecidableEq, Repr

/-- A remote window of R413 and R438. -/
structure Window where
  job : Nat
  offset : Nat
  length : Nat
  qp : Nat
  random : Nat
deriving DecidableEq, Repr

/-- A collective group of R387. -/
structure Group where
  members : List Nat
  rank : Nat
  radices : List Nat
  timeout : Nat
  issued : Nat := 0
deriving DecidableEq, Repr

/-- A fence record of R448 to R454. -/
structure Fence where
  value : Nat
  faulted : Bool := false
  sharedContexts : Bool
  sharedDevices : Bool
  vc : Nat
  ignored : Nat := 0
deriving DecidableEq, Repr

/-- A fence proxy of R454, with the value it signalled last (R658). -/
structure Proxy where
  peer : Nat
  index : Nat
  generation : Nat
  vc : Nat
  last : Nat := 0
deriving DecidableEq, Repr

/-- What an object table entry holds, by kind (R446). -/
inductive ObjData where
  | queuePair (index : Nat)
  | window (w : Window)
  | group (g : Group)
  | program (offset : Nat) (length : Nat)
  | fence (f : Fence)
  | proxy (p : Proxy)
deriving DecidableEq, Repr

/-- A live or destroying object (R442). -/
structure Obj where
  job : Option Nat
  ctx : Nat
  destroying : Bool := false
  data : ObjData
deriving DecidableEq, Repr

/-- The object table: entries by index, generations (unlisted 0), free order (log 14), and the
resident fence slots of R448. -/
structure Objects where
  objs : Tab Obj := []
  gens : Tab Nat := []
  freed : List Nat := []
  nextFresh : Nat := 0
  resident : List Nat := []
  evicting : List Nat := []
  loads : List Nat := []
deriving DecidableEq, Repr

/-- An open context (R434, R435): negotiated major version (0 before HELLO), bound job id (0 for
none), partition, inbox. -/
structure Ctx where
  version : Nat := 0
  jobId : Nat := 0
  partition : Nat := 0
  inbox : List Bytes := []
deriving DecidableEq, Repr

/-- An operation that a queue pair carries until it is acknowledged (R415, R418): what it is, and
its segments with their DMA tags. -/
inductive FlightKind where
  | send
  | release (job : Nat) (number : Nat)
  | fetch (job : Nat) (page : Nat)
  | evict (job : Nat) (page : Nat)
  | shard (job : Nat)
  | manifest (job : Nat)
  | restoreRead (job : Nat)
deriving DecidableEq, Repr

/-- An operation in flight on a queue pair. -/
structure Flight where
  kind : FlightKind
  segments : Nat
deriving DecidableEq, Repr

/-- An operation that arrives on a queue pair (R412): a SEND without a target, else a WRITE to a remote key and offset, with its
immediate; the fetches show what reads of partly written lines find. -/
structure Inbound where
  target : Option (Nat × Nat) := none
  data : Bytes := []
  fetches : List Fetch := []
  imm : Option Bytes := none
deriving DecidableEq, Repr

/-- An RC queue pair that is not free (R410, R417, R420): its parameters, with the starting packet sequence numbers; its rate limiter;
the READs outstanding (R416); the operations in flight, whose unacknowledged segments hold tags of its DMA engine (R424), and the
tags cancelled by teardown (R602). -/
structure Qp where
  partition : Nat := 0
  port : Nat := 0
  cls : Nat := 0
  source : Nat := 0
  remoteQpn : Nat := 0
  remoteAddress : Bytes := []
  nextHop : Bytes := []
  mtu : Nat := 2
  timeout : Nat := 14
  retry : Nat := 7
  retriesLeft : Nat := 7
  sendPsn : Nat := 0
  recvPsn : Nat := 0
  ctx : Nat := 0
  obj : Nat := 0xFFFF
  error : Bool := false
  rate : Rat := 400
  target : Rat := 400
  alpha : Rat := 1
  quiet : Nat := 0
  lastNote : Option Nat := none
  flights : List Flight := []
  /-- RDMA READs that wait until fewer than 16 are outstanding (R416). -/
  readWaits : List (FlightKind × Nat × Out) := []
  quarantined : Nat := 0
  held : List Inbound := []
deriving DecidableEq, Repr

/-- An Ethernet port (R408, R421, R650): `paused` are the priorities that its peer has paused, `pausing` those that this Proend has; what
waits for a resume stands in `waiting` with its priority and queue pair, in order. -/
structure EthPort where
  link : Bool := false
  dark : Bool := true
  failed : Bool := false
  paused : List Nat := []
  pausing : List Nat := []
  waiting : List (Nat × Nat × Out) := []
  counters : List Nat := [0, 0, 0, 0, 0, 0, 0]
deriving DecidableEq, Repr

/-- The Ethernet side. -/
structure Eth where
  qps : Tab Qp := []
  ports : List EthPort := [{}, {}, {}, {}]
  sendsLost : Nat := 0
deriving DecidableEq, Repr

/-- A partition entry of R462. -/
structure PartCfg where
  enabled : Bool := false
  col0 : Nat := 0
  row0 : Nat := 0
  width : Nat := 0
  height : Nat := 0
deriving DecidableEq, Repr

/-- A carve-out record of R462. -/
structure Carve where
  regions : List Nat := []
  regionMap : Tab Nat := []
  dirBase : Nat := 0
  dirCount : Nat := 0
  controlGib : Nat := 1
  basinGib : Nat := 8
  basinSlot : Nat := 0
  spillSlot : Nat := 0
  spillGib : Nat := 8
  promotionSlot : Nat := 0xFFFF
deriving DecidableEq, Repr

/-- A numeric-defaults record of R185. -/
structure NumCfg where
  speculation : Nat := 2
  sticky : Nat := 100
  promotedFp16 : Bool := false
  gradBf16 : Bool := false
  chop : Bool := false
  expInit : Nat := 16
  expMin : Nat := 0
  expMax : Nat := 24
  growth : Nat := 2000
  skipLimit : Nat := 16
  history : Nat := 8
  margin : Nat := 1
  block : Nat := 2
  promotionGib : Nat := 2
deriving DecidableEq, Repr

/-- A checkpoint-trigger record of R462. -/
structure TrigCfg where
  timer : Nat := 0
  steps : Nat := 0
  warnings : Nat := 0x1F
  thermalMargin : Nat := 5
  droops : Nat := 10
  correctable : Nat := 1000
  laneErrors : Nat := 100
deriving DecidableEq, Repr

/-- An Ethernet port record of R462; source and bootstrap entries as their bytes. -/
structure EthCfg where
  mask : Nat := 0
  pfc : Nat := 0
  weights : Nat := 0x242
  pcp : Nat := 0
  dscp : Nat := 0
  sources : Tab Bytes := []
  boots : Tab Bytes := []
deriving DecidableEq, Repr

/-- The Pass section of R462. -/
structure PassCfg where
  address : Nat := 0
  ports : List Nat := List.replicate 32 0
  allot : List Nat := List.replicate 8 1920
  routes : List Nat := []
deriving DecidableEq, Repr

/-- The Power section of R462. -/
structure PowerCfg where
  cap : Nat := 4400
  current : Nat := 140
  throttle : Nat := 100
  hints : Bool := true
  shares : List Nat := List.replicate 16 100
deriving DecidableEq, Repr

/-- A configuration image in structured form (R461, R462). -/
structure Image where
  lock : Bool := false
  serial : Nat := 0
  digest : Bytes := []
  parts : List PartCfg := []
  carves : Tab Carve := []
  mbSlots : List Nat := []
  policySlots : List Nat := []
  pass : PassCfg := {}
  eth : List EthCfg := [{}, {}, {}, {}]
  power : PowerCfg := {}
  numeric : Tab NumCfg := []
  sweepRate : Nat := 8
  triggers : Tab TrigCfg := []
deriving DecidableEq, Repr

/-- The factory image of R460; its digest and serial are the unit's (log 5). -/
def factoryImage : Image where
  serial := Sys2Proof.Config.factorySerial
  digest := Sys2Proof.Config.factoryDigest
  parts := { enabled := true, width := 20, height := 50 } :: List.replicate 15 {}
  carves := [(0, {
    regions := List.range 540
    regionMap := (List.range 512).map fun i => (i, i)
    dirCount := 524288
    controlGib := 4
    basinSlot := 4
    spillSlot := 12
    promotionSlot := 20 })]
  mbSlots := List.replicate 32 0x80
  policySlots := List.replicate 32 0x80
  numeric := (List.range 32).map fun j => (j, {})
  triggers := (List.range 32).map fun j => (j, {})

/-- An ingress that holds a tensor's root unreadable: the destination that it names, and whether it has failed and waits for the
host to issue it again (R16, R17). -/
structure IngressMark where
  dst : Nat
  failed : Bool := false
deriving DecidableEq, Repr

/-- A tensor table entry (R195) with its owner mask (R44), the ingress commands that hold it unreadable
(R16, R17), its state header entries by page (R287; unlisted: 0 and 0), and the shared-pool units
that they take (R653). -/
structure TensorE where
  raw : Bytes
  mask : Nat := 0
  ingress : List IngressMark := []
  headers : Tab (Nat × Nat) := []
  units : Nat := 0
  /-- What imports have placed, as ranges along the shard dimension (R542). -/
  covered : List (Nat × Nat) := []
deriving DecidableEq, Repr

/-- A scale-journal entry (R269). -/
structure JournalE where
  tensor : Nat
  generation : Nat
  old : Nat
  new : Nat
deriving DecidableEq, Repr

/-- A commit-log entry (R267). -/
structure CommitE where
  span : Nat
  rung : Nat
  calibrated : Bool
  generation : Nat
deriving DecidableEq, Repr

/-- A promotion-table entry (R179, R180). -/
structure PromoE where
  prog : Nat
  span : Nat
  rung : Nat
  count : Nat
deriving DecidableEq, Repr

/-- What the last verdict concluded (R24, R293): its step, the loss-scale exponent in effect during
that step, and whether the step is skipped. -/
structure Verdict where
  step : Nat
  exponent : Nat
  skipped : Bool
deriving DecidableEq, Repr

/-- The numeric state of a job (R156, R160 to R162, R179 to R183, R266 to R272). -/
structure NumState where
  exponent : Nat := 0
  clean : Nat := 0
  skips : Nat := 0
  verdicts : Nat := 0
  last : Option Verdict := none
  /-- What the verdicts of steps with an open optimiser_step concluded, the last among them (R293). -/
  held : List Verdict := []
  word : Nat := 0
  maxima : Tab Rat := []
  log : List Bytes := []
  logHead : Nat := 0
  lost : Nat := 0
  promotions : Tab PromoE := []
  journal : List JournalE := []
  generation : Nat := 0
  /-- Program object and span id of the calibration reruns of the step (R172). -/
  calibrated : List (Nat × Nat) := []
  occupied : List Nat := []
  /-- Slot strides of the programs whose stashes occupy the slots (R199, R271). -/
  slotStrides : Tab Nat := []
  commits : Tab (List CommitE) := []
  /-- Slots of programs that a numeric fault of the step, an abort or a teardown has stopped (R272). -/
  stoppedSlots : List Nat := []
  leaked : Nat := 0
deriving DecidableEq, Repr

/-- Where a failing write belongs (R169, R172, R183): the tensor, the cause, the core, and whether it
was an overflow of an output conversion to a calibration-mode tensor of a finite value. -/
structure Failure where
  tensor : Nat
  cause : Nat
  core : Nat
  calibration : Bool
deriving DecidableEq, Repr

/-- The state of one span of a submitted program (R165 to R181). -/
structure SpanSt where
  id : Nat
  first : Nat
  last : Nat
  base : Nat
  rung : Nat
  attempt : Nat := 0
  failures : List Failure := []
  committed : Bool := false
  discarded : Bool := false
  calibrated : Bool := false
  started : Bool := false
  recompute : Option Nat := none
  stats : Tab Bytes := []
  maxima : Tab Rat := []
  mismatches : List Nat := []
deriving DecidableEq, Repr

/-- What a write has counted for its statistics record (R158). -/
structure StatSum where
  elements : Nat := 0
  zeroCount : Nat := 0
  saturations : Nat := 0
  nonFinite : Nat := 0
  amax : Rat := 0
deriving DecidableEq, Repr

/-- The state of one descriptor (R190 to R192, R659): waiting is unlisted; running with its units and
those at their boundary, or with the pages of an optimiser_step that have ended or whose moment task
has run; retired; `written` counts the masters that an optimiser_step has written. The outputs of a gap descriptor that began while blocks of its map were not lent are written at its last boundary
(R73, R211): `late`. -/
structure DescSt where
  retired : Bool := false
  late : Bool := false
  units : Nat := 0
  ended : List Nat := []
  moments : List Nat := []
  start : Nat := 0
  finished : Nat := 0
  unchanged : Nat := 0
  written : StatSum := {}
deriving DecidableEq, Repr

/-- A submitted program: its copy (R188), its descriptors' states, its spans, and the status that it
will complete with once it has been stopped. -/
structure Sub where
  prog : Nat
  generation : Nat
  hdr : Bytes
  descs : List Bytes
  maps : List Bytes
  state : Tab DescSt := []
  spans : List SpanSt := []
  stop : Option Nat := none
  stopDesc : Nat := 0xFFFF
  finished : Nat := 0
  unchanged : Nat := 0
deriving DecidableEq, Repr

/-- What one member of a collective has sent of one transfer (R395): its rank, the bytes so far, and whether the last
packet has come. -/
structure Transfer where
  rank : Nat
  bytes : Bytes := []
  done : Bool := false
deriving DecidableEq, Repr

/-- A collective or verdict in progress (R389 to R395, R250): its descriptor, opcode, channel and tag, the group as it
was when it began, the level in progress, the parts of R392 by chunk, the bytes that an all_gather or a verdict sends,
the transfers so far in the order they came, and the error-feedback values to write (R402, R403). -/
structure Coll where
  task : TaskRef
  kind : Nat
  vc : Nat
  tag : Nat
  members : List Nat
  rank : Nat
  radices : List Nat
  level : Nat := 1
  parts : Tab (List Val) := []
  own : Bytes := []
  got : List Transfer := []
  feedback : Tab Val := []
  mask : Nat := 0
deriving DecidableEq, Repr

/-- A send or receive in progress (R248, R249). -/
structure Xfer where
  task : TaskRef
  peer : Nat
  tag : Nat
  vc : Nat
  isSend : Bool
  cleared : Bool := false
  got : Bytes := []
  mask : Nat := 0
deriving DecidableEq, Repr

/-- A Saddle gather in progress (R242 to R244, R404): its descriptor, the group as it was when it began, the logical_id
read, its transfer tag and the bytes of a shard, whether it brings master shards for a promoted operand (R297) instead of the destination's
bytes, and by rank the next byte to ask for, the requests outstanding, the bytes still to come, and the bytes of master
shards; the read data that the staging ways hold back (R91). -/
structure Gather where
  task : TaskRef
  members : List Nat
  rank : Nat
  logical : Nat
  tag : Nat
  size : Nat
  master : Bool := false
  next : Tab Nat := []
  outstanding : Tab Nat := []
  left : Tab Nat := []
  shards : Tab Bytes := []
  waiting : List (Nat × Nat × Bytes) := []
  mask : Nat := 0
deriving DecidableEq, Repr

/-- A release that passed the Narrows and is transmitting (R58, R259). -/
structure ReleaseSt where
  number : Nat
  task : TaskRef
  qp : Nat
  bytes : Nat
  mask : Nat
deriving DecidableEq, Repr

/-- The gate and the owners of a job (R36, R40, R53 to R56). -/
structure Narrows where
  delivered : Tab Nat := []
  ingressSeq : Tab Nat := []
  releaseSeq : Nat := 1
  perStep : Tab Nat := []
  refused : Tab Nat := []
  allowed : Nat := 0
  releases : List ReleaseSt := []
  nextRelease : Nat := 0
deriving DecidableEq, Repr

/-- The states of R33 that a held job can be in; a job that is Gone is not held. -/
inductive Phase where
  | created
  | keyed
  | closing
deriving DecidableEq, Repr

/-- A tier-page fetch in progress (R346): its frame and the chunks that have verified. -/
structure FetchSt where
  frame : Nat
  chunks : List Nat := []
deriving DecidableEq, Repr

/-- The Steppe tier and the Basin of a job (R300 to R303, R340, R345 to R349). -/
structure Tier where
  extents : List Bytes := []
  failed : List Nat := []
  clock : Nat := 0
  framesUsed : List Nat := []
  fetches : Tab FetchSt := []
  frameWaits : List Nat := []
  waitsCounted : Nat := 0
  refusals : Nat := 0
  thenFetch : List Nat := []
  /-- Basin pages: window page, in order of allocation, by Basin page index. -/
  basin : List (Nat × Nat) := []
  /-- Parameter pages whose gradient has been written in the step and not yet consumed (R299): model-tensor number and page. -/
  graded : List (Nat × Nat) := []
deriving DecidableEq, Repr

/-- Phases of a capture on one member (R522 to R535). -/
inductive CapPhase where
  | none
  | entered
  | released
  | sharded
deriving DecidableEq, Repr

/-- The lead's book of one barrier (R525, R535): the latest report of each member by device address, as its round and its
value; the round of the last confirm, the successive rounds with unchanged counts, those counts; the parts of shard done by
member; whether the manifest is being written. -/
structure LeadSt where
  reports : Tab (Nat × Nat) := []
  round : Nat := 0
  steady : Nat := 0
  counts : Nat × Nat := (0, 0)
  parts : Tab (Tab Nat) := []
  manifestWriting : Bool := false
deriving DecidableEq, Repr

/-- A piece of a shard's section (R534): bytes as they stood at the barrier, or bytes of Vale that the capture engine reads
later, with their job offset. -/
structure Piece where
  lit : Bytes := []
  offset : Nat := 0
  address : Nat := 0
  length : Nat := 0
deriving DecidableEq, Repr

/-- A section of a shard (R534). -/
structure Section where
  kind : Nat
  base : Nat := 0
  pieces : List Piece := []
deriving DecidableEq, Repr

/-- Capture state of a job (R515 to R535): the setup record and its blobs, the serial, the phase, whether this member has
arrived and the round it last answered, data packets sent and placed, wanted descriptors, the lead's book; the capture units
pending and spilled by unit, bytes of core images, sections and omitted job offsets, and the pages whose resting images are
still to be copied (R530); spill stall in ns and since when a write waits; triggers counted by R28; last serial with a
manifest; verdict count at the last capture; when the timer started; warning causes that have fired, with the time since when
their condition has been false (0: it holds); verdict count at the barrier; CKPT_TRIGGER messages; the cause and the times of
enter and release. -/
structure Capture where
  setup : Bytes := []
  blobs : List Bytes := []
  serial : Nat := 0
  phase : CapPhase := .none
  arrived : Bool := false
  reportRound : Nat := 0
  sent : Nat := 0
  placed : Nat := 0
  wanted : List TaskRef := []
  lead : LeadSt := {}
  units : List Nat := []
  spilled : Tab Bytes := []
  coreImages : Nat := 0
  sections : List Section := []
  omitted : List (Nat × Nat) := []
  images : List Nat := []
  clean : Bool := false
  stall : Nat := 0
  stallSince : Option Nat := none
  counted : Nat := 0
  lastManifest : Nat := 0
  lastStep : Nat := 0
  since : Nat := 0
  fired : Tab Nat := []
  step : Nat := 0
  trigger : List Msg := []
  cause : Nat := 0
  enteredAt : Nat := 0
  releasedAt : Nat := 0
deriving DecidableEq, Repr

/-- A restore or import in progress (R536 to R542): its message, record, manifest and shard header; whether it is an import,
with the tensor index read; this member's cause and the shard's step; on the lead the dones of members by device address;
whether restore go has come and the sections are loaded. -/
structure RestoreSt where
  msg : Msg
  record : Bytes
  manifest : Bytes := []
  header : Bytes := []
  imported : Bool := false
  index : Bytes := []
  cause : Nat := 0
  step : Nat := 0
  done : Tab Nat := []
  going : Bool := false
  loaded : Bool := false
deriving DecidableEq, Repr

/-- Key exchange of a member with its lead (R34, R504 to R511), and of a lead with its members: the report signed at
creation, the secret that a member encapsulated to its lead, the deliveries discarded, whether the lead has refused this
member; the members keyed and the members refused. -/
structure Keying where
  report : Bytes := []
  seed : Bytes := []
  discarded : Nat := 0
  refusedHere : Bool := false
  members : List Nat := []
  /-- Unit identifiers of the members served, by device address. -/
  units : Tab Bytes := []
  refusedMembers : List Nat := []
deriving DecidableEq, Repr

/-- Keys of a job that Glen or the engines hold (R328, R329, R381, R495). -/
structure JobKeys where
  anchor : Nat := 0
  newest : Nat := 0
  allocations : Nat := 0
  link : Nat := 0
  owners : Tab Bytes := []
  secret : Bytes := []
deriving DecidableEq, Repr

/-- A job on this Proend (R32, R33, R470). -/
structure Job where
  id : Nat
  phase : Phase := .created
  fault : Option Nat := none
  policy : Bytes := []
  digest : Bytes := []
  lead : Nat := 0
  isLead : Bool := false
  awaitUnseal : Bool := false
  eventCtx : Nat := 0
  port : Nat := 0xFF
  keys : JobKeys := {}
  carve : Carve := {}
  cfg : NumCfg := {}
  mbSlots : List Nat := []
  tensors : Tab TensorE := []
  hist : Tab Bytes := []
  num : NumState := {}
  subs : Tab Sub := []
  nextSub : Nat := 0
  narrows : Narrows := {}
  tier : Tier := {}
  colls : List Coll := []
  xfers : List Xfer := []
  /-- Clear-to-sends that no send has used yet: peer, tag, bytes expected (R249). -/
  clears : List (Nat × Nat × Nat) := []
  gathers : List Gather := []
  passSeq : Nat := 0
  /-- The last seq accepted, by 4 x source + channel pair (R368). -/
  replay : Tab Nat := []
  /-- The peers of the sends and receives that the job has submitted (R382). -/
  peers : List Nat := []
  capture : Capture := {}
  restore : Option RestoreSt := none
  /-- Restore checks that have reached the lead: cause and step by device address (R537). -/
  checks : Tab (Nat × Nat) := []
  keying : Keying := {}
  teardown : Option (Nat × Nat) := none
  counters : Tab Nat := []
deriving DecidableEq, Repr

/-- One bubble window (R209, R210, R275 to R277). -/
structure Bubble where
  number : Nat
  task : TaskRef
  blocks : List Nat
  lentAny : Bool := false
deriving DecidableEq, Repr

/-- The bubble windows of a partition (R209, R279). -/
structure Bubbles where
  windows : List Bubble := []
  next : Nat := 0
  lent : List Nat := []
  opened : Nat := 0
  unused : Nat := 0
  /-- Block-time lent, block-time of gap tasks on lent blocks, and time of primary descriptors that wait for blocks lent beyond their
  windows (R279). -/
  lentNs : Nat := 0
  gapNs : Nat := 0
  delayNs : Nat := 0
deriving DecidableEq, Repr

/-- A mesh flit (R79): 512 bits of payload and one check byte for each 64-bit word of it. -/
structure Flit where
  payload : Bytes
  check : Bytes
deriving DecidableEq, Repr

/-- A line of a core's L1 (R62, R71): the 64-byte unit of its job's address space that it holds, and its bytes. -/
structure L1Line where
  unit : Nat
  data : Bytes
deriving DecidableEq, Repr

/-- What a block switch loads into a core for the incoming job (R77 step 4): its job index, key ids and carve-out. -/
structure CoreJob where
  job : Nat
  anchor : Nat
  newest : Nat
  carve : Carve
deriving DecidableEq, Repr

/-- The new moments of a page that its moment task leaves in the tile store (R294): descriptor, page, bytes by job offset. -/
structure Kept where
  task : TaskRef
  page : Nat
  bytes : List (Nat × Bytes)
deriving DecidableEq, Repr

/-- A core that has run (R62 to R77, R126, R130): predictor, caches, stores, threads and flags. An unlisted core holds this
structure's default. L1 lines stand least recently used first; `waiting` are the threads with an L1 miss out, `regWaits` those that
wait for a miss register (R71), `slotWaits` those that wait for a place in the array's issue queue, `issue` the threads whose array
instructions stand in that queue (R63); `issuing` is the thread that issues, none while the core stalls (R64); `lost` counts the core
cycles that switches and mispredictions cost (R63, R68); `unacked` are the L1 units written back whose home slice has not answered
(R72); `responses` the header of the last response to each tag (R82); `fill` the flits of the fill buffer with the tile-store address
that each goes to (R75); `acc` the 128 FP32 values of each accumulator by its number (R130); `kept` by thread the new moments that a
moment task has left in the tile store for its weight task: descriptor, page, and bytes by job offset (R294). -/
structure CoreSt where
  counters : Tab Nat := []
  returns : List (Nat × Nat) := []
  icache : List (Nat × Bytes) := []
  l1 : List L1Line := []
  l1Misses : Nat := 0
  threads : Tab (TaskRef × Nat) := []
  waiting : List Nat := []
  regWaits : List Nat := []
  slotWaits : List Nat := []
  issue : List Nat := []
  issuing : Option Nat := none
  lost : Nat := 0
  unacked : List Nat := []
  responses : Tab Nat := []
  tile : Memory := []
  acc : Tab (List Nat) := []
  kept : Tab Kept := []
  fill : List (Nat × Flit) := []
  loaded : Option CoreJob := none
  flags : NumFlags := ⟨false, false, false, false⟩
  gapFlags : NumFlags := ⟨false, false, false, false⟩
  derate : Nat := 0
deriving DecidableEq, Repr

/-- A line of a Plain cache slice (R88 to R90): job index, line of the job's address space, 256 bytes,
valid mask, dirty, and the gathers that staged it. -/
structure CLine where
  job : Nat
  line : Nat
  data : Bytes
  valid : Nat
  dirty : Bool := false
  staged : Option TaskRef := none
deriving DecidableEq, Repr

/-- A miss register (R92): the line, the requests merged, oldest first, and the pseudo-channel that its Vale read went
to; none while the access waits for its page (R345) or for a place in the queue of R339; the header of that read (R82, R85). -/
structure MissReg where
  job : Nat
  line : Nat
  reqs : List CoreReq
  pchan : Option Nat := none
  request : Nat := 0
deriving DecidableEq, Repr

/-- The Plain cache (R86 to R93, R343): lines by slice, set and way; tree bits by slice and set;
miss registers, miss queues and directory caches by slice; requests that the mesh holds before a slice without credits, by slice and
side of its router (R80, R81, R93); gathers held by R91. -/
structure Cache where
  lines : Tab CLine := []
  plru : Tab Nat := []
  miss : Tab (List MissReg) := []
  queue : Tab (List CoreReq) := []
  inputs : Tab (List CoreReq) := []
  dirCache : Tab (List Nat) := []
  holds : Tab (List TaskRef) := []
deriving DecidableEq, Repr

/-- A Vale region (R328, R329, R332): owner, key id, previous key id while under a sweep. -/
structure Region where
  owner : Option Nat := none
  key : Nat := 0
  previous : Option Nat := none
deriving DecidableEq, Repr

/-- A memory key id that is not free (R328): its job, and whether it is retiring. -/
structure KeyId where
  job : Nat
  retiring : Bool := false
  cleared : Bool := false
deriving DecidableEq, Repr

/-- The sweep in progress (R332, R334): region, next line, stored cursor. -/
structure Sweep where
  region : Nat
  next : Nat := 0
  cursor : Nat := 0
deriving DecidableEq, Repr

/-- A request that a controller or its routers hold (R312, R335, R339, R529): a write, or a read behind one of the same line; whether it
holds a tag, whether it waits for spill space; the request of an agent that it is, which is to be answered, with what its fetches show. -/
structure Blocked where
  region : Nat
  address : Nat
  mask : Nat
  data : Bytes
  isRead : Bool := false
  tag : Bool := false
  spill : Bool := false
  req : Option ValeReq := none
  fetches : Fetch × Fetch := (.good, .good)
deriving DecidableEq, Repr

/-- A controller's answer to an agent's request (R82, R316, R323, R325): its status and the bytes read. -/
structure ValeAnswer where
  req : ValeReq
  status : Nat
  data : Bytes
deriving DecidableEq, Repr

/-- The books of one pseudo-channel (R339): tags held, and the slice reads, by slice and line, that wait for one. -/
structure Pchan where
  held : Nat := 0
  waiting : List (Nat × Nat) := []
deriving DecidableEq, Repr

/-- Vale: plaintext bytes, line metadata (counter and key id; unlisted 0 and the vacant id), regions,
key ids, sweeps, held requests, request tags (log 10); the lines damaged outside the dies whose damage a read has met and no write has
replaced (R326, R595); lines whose read failed for a write or an access, with the access of R596, not yet reported; the last answer. -/
structure Vale where
  mem : Memory := []
  lineMeta : Tab (Nat × Nat) := []
  regions : Tab Region := []
  keyIds : Tab KeyId := []
  sweepQueue : List Nat := []
  sweep : Option Sweep := none
  sweepWaits : Bool := false
  /-- SWEEP_RATE (R648). -/
  rate : Nat := 8
  blocked : List Blocked := []
  tags : Tab Pchan := []
  damaged : List Nat := []
  failing : List (Nat × Nat) := []
  answer : Option ValeAnswer := none
deriving DecidableEq, Repr

/-- States of a tier directory entry (R342). -/
inductive DirState where
  | resting
  | resident
  | fetching
  | evicting
deriving DecidableEq, Repr

/-- A tier directory entry (R342); unlisted entries hold this structure's default (R343). -/
structure DirE where
  version : Nat := 0
  basin : Nat := 0
  frame : Nat := 0
  gradient : Bool := false
  basinValid : Bool := false
  pinned : Bool := false
  dirty : Bool := false
  st : DirState := .resting
deriving DecidableEq, Repr

/-- The error log, its counters and the warnings (R596 to R599, R603). -/
structure Errors where
  log : List Bytes := []
  number : Nat := 0
  lost : Nat := 0
  lastCorrectable : Tab Nat := []
  suppressed : Tab Nat := []
  counters : Tab (Nat × Nat × Nat) := []
  minutes : Tab Nat := []
  droops : List Nat := []
  keyFault : Bool := false
  /-- A core's derate would have taken it below 700 MHz (R96). -/
  ceilingMargin : Bool := false
  accounting : Bool := false
  reloads : List Nat := []
deriving DecidableEq, Repr

/-- A key slot that is not empty (R488, R489): its material and attribute word. -/
structure KeySlot where
  material : Bytes
  attr : Nat
deriving DecidableEq, Repr

/-- A Glen operation that waits or runs (R481): an ATTEST with the job offset, or 0xFFFFFFFFFF for a
keying report; a message that needs Glen; a keying record from a device; the sideband challenge. -/
inductive GlenOp where
  | attest (ticket : Nat) (j : Nat) (offset : Nat) (report : Bytes)
  | message (ticket : Nat) (m : Msg)
  | record (sender : Nat) (jobId : Nat) (kind : KeyingKind) (bytes : Bytes)
  /-- The sideband challenge (R514). -/
  | challenge
deriving DecidableEq, Repr

/-- Glen (R481 to R514): root with its check value, measurement of the current boot, slots, the
operation in progress and those that wait, tamper state, the sideband mailbox. -/
structure Glen where
  root : Bytes := Sys2Proof.Config.root
  /-- The stored check value (R484). -/
  check : Bytes := (hmac Sys2Proof.Config.root (ascii "mutrum check")).take 4
  rootLost : Bool := false
  /-- The Ledger holds the record of the loss (R487). -/
  lossRecorded : Bool := false
  tamper : Nat := 0
  tamperLatched : Bool := false
  measurement : Bytes := zeros 32
  slots : Tab KeySlot := []
  current : Option GlenOp := none
  queue : List GlenOp := []
  challenge : List Nat := [0, 0, 0, 0, 0, 0, 0, 0]
  response : Bytes := zeros 32
  status : Bytes := zeros 16
  busy : Bool := false
  ready : Bool := false
  lastResponse : Option Nat := none
  slotSelect : Nat := 0
  requestBuffer : List (Nat × Bytes) := []
deriving DecidableEq, Repr

/-- The firmware that a boot put into effect (R569 to R579): slot (0 A, 1 B, 2 recovery), the
manifest's signed part. -/
structure FwEffect where
  slot : Nat
  manifest : Bytes
deriving DecidableEq, Repr

/-- A change that takes effect once its Ledger record is in the mirror (R476). -/
inductive Change where
  | configSelect (slot : Nat)
  | configActivate (slot : Nat) (img : Image)
  | createJob (j : Nat) (job : Job) (slots : List (Nat × KeySlot))
  | ownerKey (j : Nat) (owner : Nat) (serial : Nat) (key : Bytes) (slot : Nat)
  | jobKey (j : Nat) (secret : Bytes) (slots : List (Nat × KeySlot))
  | sweepKey (j : Nat) (key : Nat) (slot : KeySlot)
  | fwCommit (slot : Nat)
  | fwActivate (set : FwEffect)
  | fwRatchet (count : Nat)
  /-- A mark or step of the life-cycle transition in progress: 0 the intent mark, n step n, 31 the done mark. -/
  | lifeCycle (mark : Nat)
  | debugOpen (scope : Nat) (token : Bytes)
  | debugClose
deriving DecidableEq, Repr

/-- A deferred change: the record it waits for, and the ticket of its message (R476). -/
structure Deferred where
  seq : Nat
  ticket : Nat
  change : Change
deriving DecidableEq, Repr

/-- The Ledger (R473 to R480): ring of the latest records by number, next number, digest of the head,
mirror contents by number, the next record to mirror, failed writes, fault, lost count, anchor
offset, streams by context with the next record of each, deferred changes. -/
structure Ledger where
  ring : Tab Bytes := []
  next : Nat := 0
  headDigest : Bytes := zeros 32
  mirror : Tab Bytes := []
  mirrored : Nat := 0
  failures : Nat := 0
  mirrorFault : Bool := false
  lost : Nat := 0
  offset : Int := 0
  anchored : Bool := false
  streams : Tab Nat := []
  deferred : List Deferred := []
deriving DecidableEq, Repr

/-- A user slot of the flash (R457, R465, R466): bytes written since the erase by offset, the validity
mark, and the writer: a context, or 4096 for the sideband. -/
structure FlashSlot where
  written : List (Nat × Bytes) := []
  valid : Bool := false
  writer : Option Nat := none
deriving DecidableEq, Repr

/-- The configuration side of the NV flash and the image in effect (R457 to R472). -/
structure ConfigSt where
  slots : List FlashSlot := [{}, {}]
  pointers : List (Option (Nat × Nat)) := [none, none]
  image : Image := factoryImage
  source : Nat := 2
  locked : Bool := false
deriving DecidableEq, Repr

/-- Firmware slots, pointer and activation (R457, R568, R578); the contents of the microcode store of each quarter (R70). -/
structure Firmware where
  slots : List FlashSlot := [{}, {}]
  pointers : List (Option (Nat × Nat)) := [none, none]
  effect : Option FwEffect := none
  /-- The activation in progress: its ticket and set. -/
  activating : Option (Nat × FwEffect) := none
  microcode : List Bytes := [[], [], [], []]
deriving DecidableEq, Repr

/-- Life cycle and debug (R581 to R587): the fuse rows of Blank to Test, Test to Production, Test to
End-of-life and Production to End-of-life; the security-version count; the stored request; the seal
record; the transition in progress; a cold reset that is due; debug scopes and the token digest. -/
structure LifeCycle where
  rows : List Nat := [0x80000007, 0x80000007, 0, 0]
  /-- The state in effect: a new one takes effect at a boot (R583). -/
  current : Nat := 2
  security : Nat := Sys2Proof.Config.securityFuse.val
  request : Bytes := []
  sealRecord : Bytes := []
  ticket : Option Nat := none
  resetDue : Bool := false
  debugOpen : Bool := false
  scope : Nat := 0
  token : Bytes := []
deriving DecidableEq, Repr

/-- States of a Pass port (R356 to R358, R384 to R386). -/
inductive PortState where
  | dark
  | training
  | up
  | down
deriving DecidableEq, Repr

/-- A Pass port (R351 to R386, R649). Counts are by virtual channel. -/
structure PassPort where
  st : PortState := .dark
  step : Nat := 0
  fast : Bool := false
  plp : Nat := 0
  half : Bool := false
  reversed : Bool := false
  peer : Nat := 0
  peerValid : Bool := false
  helloSeen : Bool := false
  initSeen : Bool := false
  /-- Its lasers are lit (R545); it has been down since it was last up (R386); failures of R360. -/
  lit : Bool := false
  lost : Bool := false
  helloFails : Nat := 0
  outSeq : Nat := 0
  inSeq : Nat := 0
  replay : List (Nat × Bytes) := []
  /-- Egress queues by channel: each packet, and the ingress port and channel whose buffer holds it (R370, R372). -/
  queues : Tab (List (Bytes × Option (Nat × Nat))) := []
  /-- The channel whose turn is next (R372). -/
  turn : Nat := 0
  credits : Tab Nat := []
  held : Tab Nat := []
  toReturn : Tab Nat := []
  /-- Packets that wait in the receive buffer in the order they came (R373): the job of one that this Proend has checked, as
  header and plaintext, or none for one in transit, as it came. -/
  waiting : List (Option Nat × Bytes) := []
  nakSent : Bool := false
  /-- Times of the failed fast retrains that count (R357). -/
  fastFails : List Nat := []
  fullFails : Nat := 0
  second : Nat := 0
  codewords : Nat := 0
  counters : List Nat := List.replicate 10 0
deriving DecidableEq, Repr

/-- A link key id that is not free (R381): its job index, and the ports where a peer has announced its retirement (R60,
R382). -/
structure LinkKey where
  job : Nat
  jobId : Nat
  retired : List Nat := []
  cleared : Bool := false
deriving DecidableEq, Repr

/-- The Pass fabric side. -/
structure Pass where
  ports : List PassPort := List.replicate 32 {}
  linkKeys : Tab LinkKey := []
deriving DecidableEq, Repr

/-- A phase hint taken (R552): when it begins, its partition, level and duration in µs. -/
structure Hint where
  partition : Nat
  task : TaskRef
  lead : Nat
  level : Nat
  duration : Nat
  taken : Nat := 0
deriving DecidableEq, Repr

/-- Power, supply and heat (R543 to R561, R636 to R639). Temperatures in sixteenths of a degree. -/
structure Power where
  mainPower : Bool := true
  railsOn : Bool := false
  vbat : Bool := true
  sysclk : Bool := true
  netclk : Bool := true
  resetHeld : Bool := false
  cap : Nat := 4400
  current : Nat := 140
  throttle : Nat := 100
  vinMv : Nat := 0
  iinMa : Nat := 0
  pinW : Nat := 0
  /-- The draw outside the Plain over the last interval, in mW (R549). -/
  noncoreMw : Nat := 0
  /-- Activities of blocks over the last interval, in thousandths (R550). -/
  activity : Tab Nat := []
  /-- Alert causes of the supply, the inlet and SYSCLK that occurred and still hold, by ALERT_STATUS bit (R633, R634). -/
  holds : Nat := 0
  budget : Nat := 0
  granted : Nat := 0
  freq : Tab Nat := []
  /-- What R554 takes from a block's frequency, in half MHz, and the blocks that still lose. -/
  blockCut : Tab Nat := []
  blockHot : List Nat := []
  blockTemp : Tab Int := []
  stackTemp : Tab Int := []
  opticTemp : Tab Int := []
  inletTemp : Option Int := none
  blockStarted : Tab Nat := []
  /-- The throttle counters of R558 in µs, at 8 x row + reason. -/
  throttleUs : Tab Nat := []
  railDroops : Nat := 0
  inputDroops : Nat := 0
  overVoltage : Nat := 0
  revoked : Bool := false
  stretched : List Nat := []
  stackHalved : List Nat := []
  /-- Blocks whose array issue is held, and the block in turn by partition (R551). -/
  issueHeld : List Nat := []
  turn : Tab Nat := []
  hints : List Hint := []
  hintsIgnored : Tab Nat := []
  /-- The compute-die, Vale and laser rails were turned off, and stay so until a cold start (R544, R556, R614). -/
  shut : Bool := false
  tripped : Bool := false
  tripClass : Nat := 0
  tripIndex : Nat := 0
deriving DecidableEq, Repr

/-- The start order (R545 to R548, R571, R632, R635). -/
structure Start where
  step : Nat := 0
  ready : Bool := false
  bootHold : Bool := false
  selfTestFailed : Bool := false
  /-- The start order follows a cold reset and not a power-up (R475). -/
  cold : Bool := false
  /-- The order runs after a warm reset (R548). -/
  warm : Bool := false
  groups : Nat := 0
  /-- Blocks that an activation left to start (R468, R547). -/
  toStart : List Nat := []
  lasers : Nat := 0
  blockFailed : List Nat := []
  stackFailed : List Nat := []
  laserFailed : List Nat := []
deriving DecidableEq, Repr

/-- Alert state, windows and the sideband mailbox (R626 to R635, R643 to R647). -/
structure Mgmt where
  alert : Nat := 0
  alertIbi : Nat := 0x3FFF
  failWarn : Nat := 0
  accessErr : Nat := 0
  /-- The high words latched, by the address of the counter's low word (R628). -/
  high : Tab Nat := []
  nlogJob : Nat := 0
  nlogSelect : Nat := 0
  nlogStatus : Nat := 0
  nlogData : Bytes := zeros 32
  errSelect : Nat := 0
  errStatus : Nat := 0
  errData : Bytes := zeros 64
  ledgerSelect : Nat := 0
  ledgerStatus : Nat := 0
  ledgerData : Bytes := zeros 128
  /-- A selection that the mirror serves (R645). -/
  ledgerFetch : Option Nat := none
  ledgerHigh : Nat := 0
  ledgerHead : Bytes := zeros 32
  shJob : Nat := 0
  shTensor : Nat := 0
  shPage : Nat := 0
  shStatus : Nat := 0
  shMoment : Nat := 0
  shWeight : Nat := 0
  shStart : Nat := 0
  shScanStep : Nat := 0
  shScanKt : Nat := 0
  shFirst : Nat := 0
  shRun : Nat := 0
  /-- Job counters of R642 that are kept after teardown, by job index. -/
  kept : Tab (List Nat) := []
  result : Bytes := zeros 64
  busy : Bool := false
deriving DecidableEq, Repr

/-- The I3C target (R611, R634). -/
structure I3c where
  address : Option Nat := none
  ibiEnabled : Bool := false
deriving DecidableEq, Repr

/-- What waits for an activation, an update or a life-cycle step to end (R469, R564, R637): a message, or a write of a power
register by its offset. -/
inductive Held where
  | message (m : Msg)
  | power (offset : Nat) (value : Nat)
deriving DecidableEq, Repr

/-- What goes on once every job is Gone (R562, R582, R586): a warm reset, with the message that asked for it; the opening of
debug scopes; the first step of an End-of-life transition. -/
inductive AfterJobs where
  | warmReset (m : Option Msg)
  | debugOpen (ticket : Nat) (scope : Nat) (token : Bytes)
  | lifeCycle
deriving DecidableEq, Repr

/-- The state of one Proend: everything the manual gives it, the commands that wait, the outputs so
far, and the counter of free values (log 1). -/
structure State where
  pending : List Instr := []
  free : Nat := 0
  sent : List Out := []
  timeNs : Nat := 0
  boot : Nat := 1
  start : Start := {}
  power : Power := {}
  cores : Tab CoreSt := []
  cache : Cache := {}
  vale : Vale := {}
  dir : Tab DirE := []
  jobs : Tab Job := []
  bubbles : Tab Bubbles := []
  ctxs : Tab Ctx := []
  objects : Objects := {}
  running : List Running := []
  held : List Held := []
  afterJobs : List AfterJobs := []
  tickets : Nat := 0
  eth : Eth := {}
  pass : Pass := {}
  config : ConfigSt := {}
  glen : Glen := {}
  fw : Firmware := {}
  lc : LifeCycle := {}
  ledger : Ledger := {}
  errors : Errors := {}
  mgmt : Mgmt := {}
  i3c : I3c := {}
deriving DecidableEq, Repr

/-- Record 0 of the Ledger, written at manufacture (R474, R475). -/
def record0 : Bytes :=
  zeros 28 ++ [0x0E, 1, 0, 0xFF, 0xFF, 0xFF, 0xFF] ++ zeros 5 ++
  sub Sys2Proof.Config.unitId 0 32 ++ [0x12, 0x80, 0xB0] ++ zeros 21 ++ zeros 32

/-- The state right after power-enable (R545): main power on, no step of the start order ended, every
register at the value INVENTORY.md lists. -/
def State.reset : State where
  ledger := {
    ring := [(0, record0)]
    next := 1
    headDigest := sha256 record0
    mirror := [(0, record0)]
    mirrored := 1 }

end Sys2Proof.Machine
end

