-- ==== Sys2Proof/Machine/Ops.lean ====
section
/-! DEFINITION. The shared operations on the state: outputs, free values, messages and completions,
events, the Ledger, alerts, jobs, objects and fences. -/

namespace Sys2Proof.Machine

/-- Put something out. -/
def emit (o : Out) (s : State) : State := { s with sent := s.sent ++ [o] }

/-- Take a fresh free byte string (log 1). -/
def freshBytes (n : Nat) (s : State) : Bytes × State :=
  (sub (Config.freeBytes s.free n) 0 n, { s with free := s.free + 1 })

/-- Take a fresh free number (log 1). -/
def freshNat (s : State) : Nat × State := (Config.freeNat s.free, { s with free := s.free + 1 })

/-- The device address (R461). -/
def deviceAddress (s : State) : Nat := s.config.image.pass.address

/-! ### Jobs -/

/-- Partition of a job index (R462). -/
def partOf (j : Nat) : Nat := j / 2

/-- The job index is a gap job's (R462). -/
def isGap (j : Nat) : Bool := j % 2 == 1

/-- Change a job, where it is held. -/
def modJob (j : Nat) (f : Job → Job) (s : State) : State := { s with jobs := tmod s.jobs j f }

/-- The index of the job with an id. -/
def jobIndex (s : State) (id : Nat) : Option Nat := (s.jobs.find? fun p => p.2.id == id).map (·.1)

/-- A partition holds a job in any state (text before R467). -/
def occupied (s : State) (p : Nat) : Bool := s.jobs.any fun x => x.1 / 2 == p

/-- A partition is occupied, or a job creation that waits for its records will occupy it: the check of R467 and the application are
one step with respect to it (R469). -/
def taken (s : State) (p : Nat) : Bool :=
  occupied s p || s.ledger.deferred.any fun d => match d.change with | .createJob j _ _ => j / 2 == p | _ => false

/-- A job creation that waits for its records takes a place or an id (R52, R476). -/
def creating (s : State) (j id : Nat) : Bool :=
  s.ledger.deferred.any fun d => match d.change with | .createJob k b _ => k == j || b.id == id | _ => false

/-- Change the numeric state of a job. -/
def modNum (j : Nat) (f : NumState → NumState) (s : State) : State :=
  modJob j (fun b => { b with num := f b.num }) s

/-- Change a submission of a job. -/
def modSub (j k : Nat) (f : Sub → Sub) (s : State) : State :=
  modJob j (fun b => { b with subs := tmod b.subs k f }) s

/-- A submission of a job. -/
def getSub (s : State) (j k : Nat) : Option Sub := (tget s.jobs j).bind fun b => tget b.subs k

/-! ### Ledger -/

/-- A Ledger record of R473 without its chain field. -/
def recordBody (s : State) (kind action principal port ctx part flags jobId : Nat) (detail : Bytes) : Bytes :=
  leBytes 8 s.ledger.next ++ leBytes 8 s.timeNs ++ leBytes 8 (s.ledger.offset % 2 ^ 64).toNat ++
  leBytes 4 s.boot ++ leBytes 1 kind ++ leBytes 1 action ++ leBytes 1 principal ++ leBytes 1 port ++
  leBytes 2 ctx ++ leBytes 1 part ++ leBytes 1 (flags + s.ledger.anchored.toNat) ++ leBytes 4 jobId ++
  sub detail 0 56

/-- Append a record: it chains from the head (R474), enters the ring, whose oldest record goes when
8,192 are held, counting it lost if it was not mirrored (R476, R480). -/
def appendRecord (body : Bytes) (l : Ledger) : Ledger :=
  let rec128 := body ++ l.headDigest
  let old := if l.next < 8192 then l.ring else terase l.ring (l.next - 8192)
  let gone := decide (8192 ≤ l.next ∧ l.mirrored ≤ l.next - 8192)
  { l with
    ring := tset old l.next rec128
    next := l.next + 1
    headDigest := sha256 rec128
    lost := l.lost + gone.toNat }

/-- Write a Ledger record; flag bit 1 marks one written before its change takes effect (R473). -/
def ledger (kind action principal port ctx part : Nat) (before : Bool) (jobId : Nat) (detail : Bytes)
    (s : State) : State :=
  let body := recordBody s kind action principal port ctx part (2 * before.toNat) jobId detail
  { s with ledger := appendRecord body s.ledger }

/-- A Ledger record of the Proend itself (principal 0x00, internal port, no context). -/
def ledgerSelf (kind action part : Nat) (before : Bool) (jobId : Nat) (detail : Bytes) (s : State) : State :=
  ledger kind action 0x00 0xFF 0xFFFF part before jobId detail s

/-! ### Alerts -/

/-- Set ALERT_STATUS bits; a bit that was clear and is enabled sends an in-band interrupt (R633, R634). -/
def alert (mask : Nat) (s : State) : State :=
  let new := mask &&& (0x3FFF ^^^ (s.mgmt.alert &&& 0x3FFF)) &&& s.mgmt.alertIbi
  let s1 := { s with mgmt := { s.mgmt with alert := s.mgmt.alert ||| mask } }
  if s.i3c.ibiEnabled ∧ s.i3c.address.isSome then
    ((List.range 14).filter fun i => bit new i).foldl (fun s i => emit (.ibi i) s) s1
  else s1

/-! ### Messages -/

/-- Message type (R430). -/
def msgType (b : Bytes) : Nat := rd b 2 1

/-- Message flags. -/
def msgFlags (b : Bytes) : Nat := rd b 3 1

/-- The header's job id. -/
def msgJob (b : Bytes) : Nat := rd b 16 4

/-- The header's object index. -/
def msgObj (b : Bytes) : Nat := rd b 20 2

/-- The header's object generation. -/
def msgGen (b : Bytes) : Nat := rd b 22 1

/-- `n` bytes of the args from byte `i` on, as a number. -/
def arg (b : Bytes) (i n : Nat) : Nat := rd b (48 + i) n

/-- The body of a message (R427). -/
def msgBody (b : Bytes) : Bytes := b.drop 64

/-- A live queue pair of the control class that serves a context (R441). -/
def servingQp (s : State) (ctx : Nat) : Option Nat :=
  (s.eth.qps.find? fun p => p.2.ctx == ctx && p.2.cls == 0 && !p.2.error).map (·.1)

/-! ### What goes out on a queue pair (R421, R422) -/

/-- Change an Ethernet port. -/
def modEth (n : Nat) (f : EthPort → EthPort) (s : State) : State :=
  { s with eth := { s.eth with ports := setAt s.eth.ports n (f (s.eth.ports.getD n {})) } }

/-- The priority of a queue pair's frames: its port's code point for its class (R421, R422, log 36). -/
def qpPriority (s : State) (p : Qp) : Nat := (s.config.image.eth.getD p.port {}).pcp / 8 ^ p.cls % 8

/-- Put something out on a queue pair; on a priority that the peer has paused it waits for the resume (R421). -/
def putOut (q : Nat) (o : Out) (s : State) : State :=
  match tget s.eth.qps q with
  | none => emit o s
  | some p =>
    let k := qpPriority s p
    if (s.eth.ports.getD p.port {}).paused.contains k then modEth p.port (fun e => { e with waiting := e.waiting ++ [(k, q, o)] }) s
    else emit o s

/-- Send MHP bytes on a context; a send that no queue pair can carry is lost and counted (R441). -/
def sendCtx (ctx : Nat) (b : Bytes) (s : State) : State :=
  match servingQp s ctx with
  | none => { s with eth := { s.eth with sendsLost := s.eth.sendsLost + 1 } }
  | some q => putOut q (.send ctx b)
      { s with eth := { s.eth with qps := tmod s.eth.qps q fun p => { p with flights := p.flights ++ [⟨.send, 1⟩] } } }

/-- The layout of R441. -/
def frame (version ctx typ bodyLen cookie jobId obj gen status desc tensor : Nat) (result : Bytes) : Bytes :=
  [0, BitVec.ofNat 8 version, BitVec.ofNat 8 typ, 0] ++ leBytes 2 ctx ++ leBytes 2 bodyLen ++ leBytes 8 cookie ++
  leBytes 4 jobId ++ leBytes 2 obj ++ leBytes 1 gen ++ leBytes 1 status ++ leBytes 2 desc ++ leBytes 2 tensor ++
  zeros 4 ++ sub result 0 32

/-- The negotiated version of a context. -/
def ctxVersion (s : State) (ctx : Nat) : Nat := ((tget s.ctxs ctx).map (·.version)).getD 0

/-- An event of R441 and R658 to a context, naming an object or 0xFFFF, its generation, and a descriptor index or 0xFFFF (log 32). -/
def eventOn (ctx code jobId obj gen desc : Nat) (body : Bytes) (s : State) : State :=
  sendCtx ctx (frame (ctxVersion s ctx) ctx 0xC1 body.length 0 jobId obj gen code desc 0xFFFF [] ++ body) s

/-- An event that names a descriptor index or 0xFFFF. -/
def eventAt (ctx code jobId desc : Nat) (body : Bytes) (s : State) : State := eventOn ctx code jobId 0xFFFF 0 desc body s

/-- An event that names no descriptor. -/
def event (ctx code jobId : Nat) (body : Bytes) (s : State) : State := eventAt ctx code jobId 0xFFFF body s

/-- An event to a job's event context (text after R441). -/
def jobEvent (j code : Nat) (body : Bytes) (s : State) : State :=
  match tget s.jobs j with
  | none => s
  | some b => event b.eventCtx code b.id body s

/-- An event of no job, to the management context of each enabled partition. -/
def mgmtEvent (code : Nat) (body : Bytes) (s : State) : State :=
  ((List.range 16).filter fun p => ((s.config.image.parts.getD p {}).enabled)).foldl
    (fun t p => event p code 0 body t) s

/-- A body of 32 bytes that begins with the time (R658). -/
def timed (s : State) (rest : Bytes) : Bytes := leBytes 8 s.timeNs ++ sub rest 0 24

/-! ### Objects and fences -/

/-- The generation of an object table entry. -/
def genOf (s : State) (i : Nat) : Nat := tgetD s.objects.gens i 0

/-- The object at an index. -/
def objAt (s : State) (i : Nat) : Option Obj := tget s.objects.objs i

/-- Change an object. -/
def modObj (i : Nat) (f : Obj → Obj) (s : State) : State :=
  { s with objects := { s.objects with objs := tmod s.objects.objs i f } }

/-- An event to a job's event context about one of its fences or proxies (R450, R455). -/
def fenceEvent (j code i : Nat) (body : Bytes) (s : State) : State :=
  match tget s.jobs j with
  | none => s
  | some b => eventOn b.eventCtx code b.id i (genOf s i) 0xFFFF body s

/-- The fence at an index. -/
def fenceAt (s : State) (i : Nat) : Option Fence :=
  match objAt s i with
  | some { data := .fence f, .. } => some f
  | _ => none

/-- The next entry that a create takes: entries never used in increasing order, then in the order they
were freed (R445, log 14). -/
def freeEntry (s : State) : Option Nat :=
  if s.objects.nextFresh < 65536 then some s.objects.nextFresh else s.objects.freed.head?

/-- Put an object into the entry that `freeEntry` gives. -/
def putObject (i : Nat) (o : Obj) (s : State) : State :=
  { s with objects := { s.objects with
      objs := tset s.objects.objs i o
      nextFresh := if s.objects.nextFresh < 65536 then s.objects.nextFresh + 1 else 65536
      freed := if s.objects.nextFresh < 65536 then s.objects.freed else s.objects.freed.drop 1 } }

/-- Free an entry: its generation rises by one modulo 256 (R444). -/
def freeObject (i : Nat) (s : State) : State :=
  { s with objects := { s.objects with
      objs := terase s.objects.objs i
      gens := tsetD s.objects.gens i ((genOf s i + 1) % 256) 0
      freed := s.objects.freed ++ [i]
      resident := s.objects.resident.filter (· != i)
      evicting := s.objects.evicting.filter (· != i)
      loads := s.objects.loads.filter (· != i) } }

/-- The comparison of R449: a fence with value `c` has reached `v`. -/
def reached (c v : Nat) : Bool := decide ((c + 2 ^ 64 - v % 2 ^ 64) % 2 ^ 64 < 2 ^ 63)

/-- A signal of value `v` on a fence in the normal or faulted state (R450, R451); the flag tells that
the fence faults now. -/
def signalFence (f : Fence) (v : Nat) : Fence × Bool :=
  let d := (v % 2 ^ 64 + 2 ^ 64 - f.value) % 2 ^ 64
  if f.faulted then ({ f with ignored := f.ignored + 1 }, false)
  else if d = 0 ∨ 2 ^ 63 ≤ d then ({ f with ignored := f.ignored + 1 }, false)
  else if d ≤ 2 ^ 62 then ({ f with value := v % 2 ^ 64 }, false)
  else ({ f with faulted := true }, true)

/-- Bring a fence into a resident slot (R448): a resident fence becomes the most recently used, and an
eviction of it is abandoned; a load takes a free slot, or starts an eviction of the least recently used
fence that no signal or wait has reached, at most two at once, and waits. -/
def touchSlot (i : Nat) (o : Objects) : Objects :=
  if i ∈ o.resident then
    let o := { o with resident := o.resident.filter (· != i) ++ [i] }
    if i ∈ o.evicting then
      let rest := o.evicting.filter (· != i)
      match o.resident.find? fun r => !(rest.contains r) && r != i with
      | none => { o with evicting := rest }
      | some v => { o with evicting := rest ++ [v] }
    else o
  else if o.resident.length < 64 then { o with resident := o.resident ++ [i] }
  else if i ∈ o.loads then o
  else
    let o := { o with loads := o.loads ++ [i] }
    if 2 ≤ o.evicting.length then o
    else
      match o.resident.find? fun r => !(o.evicting.contains r) with
      | none => o
      | some v => { o with evicting := o.evicting ++ [v] }

/-- Bring a fence into a slot. -/
def touchFence (i : Nat) (s : State) : State := { s with objects := touchSlot i s.objects }

/-- Apply a signal to the fence object at an index (R450); a fence that faults sends event 0x0B. -/
def applySignal (i v : Nat) (s : State) : State :=
  match objAt s i with
  | some { data := .fence f, job := job, .. } =>
    let r := signalFence f v
    let s1 := touchFence i (modObj i (fun o => { o with data := .fence r.1 }) s)
    if r.2 then
      fenceEvent (job.getD 0) 0x0B i
        (timed s (leBytes 2 i ++ leBytes 1 (genOf s i) ++ zeros 5 ++ leBytes 8 f.value ++ leBytes 8 v)) s1
    else s1
  | _ => s

/-- A message may name an object: one of no job, or one of the job that it concerns, by a context that is bound to that job or
manages its partition (R32, R435; the status of a refusal by log 99); a fence that is not shared with contexts only from the context that created it (R453). -/
def mayName (s : State) (ctx : Option Nat) (jobId : Nat) (o : Obj) : Bool :=
  (match o.data, ctx with
    | .fence f, some c => f.sharedContexts || c == o.ctx
    | _, _ => true) &&
  match o.job with
  | none => true
  | some j =>
    let id := ((tget s.jobs j).map (·.id)).getD 0
    (jobId == 0 || jobId == id) &&
      match ctx with
      | none => true
      | some c => c == partOf j && decide (c < 16) || ((tget s.ctxs c).map (·.jobId)) == some id

/-- The signal fence of a message is signalled at completion, with any status (R430); one that is not
valid, or that the message may not name, is ignored. -/
def signalOf (m : Msg) (s : State) : State :=
  if bit (msgFlags m.bytes) 2 then
    let i := rd m.bytes 36 2
    match objAt s i with
    | none => s
    | some o =>
      match o.data with
      | .fence _ =>
        if genOf s i = rd m.bytes 38 1 ∧ mayName s m.ctx (msgJob m.bytes) o then applySignal i (rd m.bytes 40 8) s else s
      | _ => s
  else s

/-- What a completion carries besides its status (R441). -/
structure Answer where
  obj : Nat := 0xFFFF
  gen : Nat := 0
  desc : Nat := 0xFFFF
  tensor : Nat := 0xFFFF
  result : Bytes := []

/-- The bytes of a completion (R441): descriptor and tensor stand for statuses 0x40 to 0x69 only. -/
def completionBytes (s : State) (m : Msg) (status : Nat) (a : Answer) : Bytes :=
  let ctx := rd m.bytes 4 2
  frame (match m.ctx with | some c => ctxVersion s c | none => 3) ctx 0xC0 0 (rd m.bytes 8 8) (msgJob m.bytes)
    a.obj a.gen status (if 0x40 ≤ status ∧ status ≤ 0x69 then a.desc else 0xFFFF)
    (if 0x40 ≤ status ∧ status ≤ 0x69 then a.tensor else 0xFFFF) a.result

/-- Deliver a completion: on the message's context, or in the sideband's result registers (R626, R630).
Success completes only where flags bit 0 asks for it; failures always do (R430). -/
def deliver (m : Msg) (status : Nat) (a : Answer) (s : State) : State :=
  if status = 0 ∧ ¬ bit (msgFlags m.bytes) 0 ∧ m.ctx.isSome then s
  else
    match m.ctx with
    | some c => sendCtx c (completionBytes s m status a) s
    | none => { s with mgmt := { s.mgmt with result := completionBytes s m status a, busy := false } }

/-- Complete a message with a status, an object and a result, and signal its signal fence. -/
def completeWith (m : Msg) (status : Nat) (a : Answer) (s : State) : State := signalOf m (deliver m status a s)

/-- Complete a message that names its header's object. -/
def complete (m : Msg) (status : Nat) (s : State) : State :=
  completeWith m status { obj := msgObj m.bytes, gen := if msgObj m.bytes = 0xFFFF then 0 else msgGen m.bytes } s

/-- Complete a message with 32 bytes of result. -/
def completeResult (m : Msg) (status : Nat) (result : Bytes) (s : State) : State :=
  completeWith m status { obj := msgObj m.bytes, gen := msgGen m.bytes, result } s

/-- Keep a message running under a kind. -/
def keepRunning (m : Msg) (k : RunKind) (s : State) : State := { s with running := s.running ++ [⟨m, k⟩] }

/-- Take the first running message of a kind out. -/
def takeRunning (k : RunKind) (s : State) : Option Msg × State :=
  match s.running.find? (fun r => r.kind == k) with
  | none => (none, s)
  | some r => (some r.msg, { s with running := s.running.erase r })

/-- Complete the running message of a kind, where there is one. -/
def finish (k : RunKind) (status : Nat) (a : Answer) (s : State) : State :=
  match takeRunning k s with
  | (none, s) => s
  | (some m, s) => completeWith m status { a with obj := msgObj m.bytes, gen := msgGen m.bytes } s

/-- A fresh ticket. -/
def newTicket (s : State) : Nat × State := (s.tickets, { s with tickets := s.tickets + 1 })

/-- Types that run only under MHP 3 (R437). -/
def mhp3Only (t : Nat) : Bool :=
  t == 0x04 || t == 0x05 || t == 0x06 || (0x10 ≤ t && t ≤ 0x14) || t == 0x41 || (0x60 ≤ t && t ≤ 0x8F)

/-- Types listed in R437, R465, R512, R517 and R577. -/
def knownType (t : Nat) : Bool :=
  [0x01, 0x02, 0x03, 0x04, 0x05, 0x06, 0x10, 0x11, 0x12, 0x13, 0x14, 0x20, 0x21, 0x30, 0x31, 0x32, 0x40, 0x41,
   0x42, 0x43, 0x44, 0x4F, 0x60, 0x61, 0x62, 0x63, 0x64, 0x70, 0x71, 0x72, 0x73, 0x74, 0x78, 0x79, 0x7A, 0x80,
   0x81, 0x82, 0x83, 0x84, 0x85, 0x86, 0x87, 0x88, 0x89, 0x8A, 0x8B, 0x8C].contains t

/-- How many bytes of args a type uses (R437 and its sister tables); later ones are reserved (R15). -/
def argsUsed (t : Nat) : Nat :=
  match t with
  | 0x01 => 1 | 0x03 => 13 | 0x04 => 15 | 0x06 => 9 | 0x10 => 16 | 0x12 => 16 | 0x13 => 6 | 0x14 => 16
  | 0x20 => 2 | 0x21 => 2 | 0x30 => 9 | 0x40 => 10 | 0x41 => 7 | 0x42 => 8 | 0x43 => 12
  | 0x70 => 1 | 0x71 => 5 | 0x72 => 1 | 0x73 => 1 | 0x74 => 1 | 0x78 => 8 | 0x79 => 8
  | 0x80 => 5 | 0x81 => 5 | 0x82 => 5 | 0x83 => 1 | 0x84 => 5 | 0x85 => 1 | 0x86 => 1 | 0x88 => 4 | 0x8C => 2
  | _ => 0

/-- The reserved fields of the header are zero (R15, R430). -/
def headerClean (b : Bytes) : Bool :=
  decide (msgFlags b / 8 = 0) && decide (rd b 4 2 / 4096 = 0) && rd b 7 1 / 4 == 0 && rd b 23 1 == 0 &&
  rd b 27 1 == 0 && rd b 39 1 == 0 && allZero ((b.drop (48 + argsUsed (msgType b))).take (16 - argsUsed (msgType b)))

/-- The wait of R431 on a message: proceed, wait, or complete with 0x1E. -/
inductive WaitState where
  | go
  | hold
  | dead
deriving DecidableEq, Repr

/-- What R431 and R449 say of a message's wait fence now. -/
def waitState (s : State) (b : Bytes) : WaitState :=
  if bit (msgFlags b) 1 then
    let i := rd b 24 2
    match objAt s i with
    | some { data := .fence f, .. } =>
      if genOf s i ≠ rd b 26 1 ∨ f.faulted then .dead
      else if reached f.value (rd b 28 8) then .go else .hold
    | _ => .dead
  else .go

/-- The front of a context's inbox taken out. -/
def popInbox (ctx : Nat) (s : State) : State :=
  { s with ctxs := tmod s.ctxs ctx fun c => { c with inbox := c.inbox.drop 1 } }

/-- The Proend answers only the sideband before it is ready (R546); a held reset, a lost supply or a trip
stops it as well. -/
def alive (s : State) : Bool := s.start.ready && s.power.mainPower && s.power.railsOn && !s.power.resetHeld

/-- The partition that a context serves. -/
def ctxPart (s : State) (ctx : Nat) : Nat := ((tget s.ctxs ctx).map (·.partition)).getD 0

/-- Binding of R435: the message concerns no job, or its context is bound to that job, or it is the
management context of the job's partition. -/
def bindingOk (s : State) (ctx : Nat) (jobId : Nat) : Bool :=
  jobId == 0 ||
  match tget s.ctxs ctx with
  | none => false
  | some c => c.jobId == jobId ||
      (decide (ctx < 16) && (match jobIndex s jobId with | none => true | some j => partOf j == ctx))

/-- The checks that every message but HELLO meets when it starts (R432, R433, R15, R435): the status of
the first that fails. -/
def startCheck (s : State) (ctx : Nat) (b : Bytes) : Option Nat :=
  let v := ctxVersion s ctx
  if v = 0 ∨ rd b 1 1 ≠ v ∨ rd b 0 1 ≠ 0 then some 0x10
  else if v = 2 ∧ mhp3Only (msgType b) then some 0x1C
  else if ¬ headerClean b then some 0x12
  else if ¬ bindingOk s ctx (msgJob b) then some 0x13
  else none

/-- Start the front message of a context, if it is of the type and not held by its wait fence (R428,
R429, R431). -/
def withMessage (ctx typ : Nat) (body : Msg → State → State) (s : State) : State :=
  if ¬ alive s then s
  else
    match ((tget s.ctxs ctx).map (·.inbox)).getD [] with
    | [] => s
    | b :: _ =>
      if msgType b ≠ typ then s
      else
        let m : Msg := ⟨some ctx, b⟩
        match waitState s b with
        | .hold => s
        | .dead => complete m 0x1E (popInbox ctx s)
        | .go =>
          match startCheck s ctx b with
          | some st => complete m st (popInbox ctx s)
          | none => body m (popInbox ctx s)

/-- The message types that the sideband may send (R630). -/
def sidebandType (t : Nat) : Bool := (0x70 ≤ t && t ≤ 0x74) || (0x83 ≤ t && t ≤ 0x89) || t == 0x8C

/-- Start a message of the sideband (R626, R627, R630): one of a wrong length is no message, one behind another is discarded, and
one of a type that the sideband may not send completes with 0x13. -/
def fromSideband (b : Bytes) (typ : Nat) (body : Msg → State → State) (s : State) : State :=
  if ¬ s.power.mainPower ∨ s.power.resetHeld then s
  else if b.length < 64 ∨ 1024 < b.length then { s with mgmt := { s.mgmt with accessErr := s.mgmt.accessErr ||| 4 } }
  else if s.mgmt.busy then s
  else
    let t := { s with mgmt := { s.mgmt with busy := true } }
    if ¬ sidebandType (msgType b) then complete ⟨none, b⟩ 0x13 t
    else if msgType b ≠ typ then s
    else if b.length - 64 ≠ rd b 6 2 ∨ ¬ headerClean b then complete ⟨none, b⟩ 0x12 t
    else if rd b 4 2 ≠ 0 then complete ⟨none, b⟩ 0x13 t
    else body ⟨none, b⟩ t

/-- As `withMessage`, for the messages that the sideband may also send (R466, R577, R630). -/
def withMsgRef (src : MsgRef) (typ : Nat) (body : Msg → State → State) (s : State) : State :=
  match src with
  | .inbox ctx => withMessage ctx typ body s
  | .sideband b => fromSideband b typ body s

/-- Only a management context, or the sideband, may send the message (R465, R577). -/
def isManagement (m : Msg) : Bool := match m.ctx with | none => true | some c => decide (c < 16)

/-- Principal and port of a message for the Ledger (R475). -/
def originOf (s : State) (m : Msg) : Nat × Nat × Nat :=
  match m.ctx with
  | none => (0x03, 0x40, 0xFFFF)
  | some c =>
    (if c < 16 then 0x01 else 0x02, ((servingQp s c).bind fun q => (tget s.eth.qps q).map (·.port)).getD 0, c)

/-- A Ledger record for a message. -/
def ledgerFor (m : Msg) (kind action part : Nat) (before : Bool) (jobId : Nat) (detail : Bytes) (s : State) : State :=
  let o := originOf s m
  ledger kind action o.1 o.2.1 o.2.2 part before jobId detail s

/-- A change that must be recorded before its effect (R476): refused with 0x1A in mirror fault (R480);
otherwise its record, already the head, is awaited under a ticket. -/
def deferChange (m : Msg) (c : Change) (s : State) : State :=
  let t := newTicket s
  let s := keepRunning m (.ticket t.1) t.2
  { s with ledger := { s.ledger with deferred := s.ledger.deferred ++ [⟨s.ledger.next - 1, t.1, c⟩] } }

end Sys2Proof.Machine
end

