-- ==== Sys2Proof/Machine/Mem.lean ====
section
/-! DEFINITION. The job's address space (R313 to R316), Vale lines with their counters, sweeps and
copy-before-write (R317 to R335, R528), and the Plain cache through which operations write (R86 to R91). -/

namespace Sys2Proof.Machine

/-! ### Translation -/

/-- The block indices of a partition, sorted (R5, R86): block b lies at column b mod 20, row b div 20. -/
def partBlocks (p : PartCfg) : List Nat :=
  (List.range p.height).flatMap fun r => (List.range p.width).map fun c => (p.row0 + r) * 20 + p.col0 + c

/-- The partition entry of a job index. -/
def partCfg (s : State) (j : Nat) : PartCfg := s.config.image.parts.getD (partOf j) {}

/-- The carve-out record of a job index: that of the job held, or the image's before one is created. -/
def carveOf (s : State) (j : Nat) : Carve :=
  match tget s.jobs j with
  | some b => b.carve
  | none => tgetD s.config.image.carves j {}

/-- The regions of the state pool, in increasing order (R314). -/
def poolRegions (c : Carve) : List Nat := c.regions.filter fun r => !(c.regionMap.any fun p => p.2 == r)

/-- The Vale address of a frame of the state pool (R314). -/
def frameAddress (c : Carve) (f : Nat) : Option Nat :=
  ((poolRegions c)[f / 1024]?).map fun r => r * 2 ^ 30 + f % 1024 * 2 ^ 20

/-- The Vale address of an offset in the direct half (R313). -/
def directAddress (c : Carve) (off : Nat) : Option Nat :=
  (tget c.regionMap (off / 2 ^ 30)).map fun r => r * 2 ^ 30 + off % 2 ^ 30

/-- The directory entry of a window page of a job (R314). -/
def dirAt (s : State) (j page : Nat) : DirE := tgetD s.dir ((carveOf s j).dirBase + page) {}

/-- The 16 bytes of a directory entry (R342). -/
def dirEntry (e : DirE) : Bytes :=
  let st := match e.st with | .resting => 0 | .resident => 1 | .fetching => 2 | .evicting => 3
  leBytes 4 (st + 4 * e.dirty.toNat + 8 * e.pinned.toNat + 16 * e.basinValid.toNat + 32 * e.gradient.toNat + 256 * (e.frame % 2 ^ 20)) ++
  leBytes 2 (if e.basinValid then e.basin else 0) ++ zeros 2 ++ leBytes 5 e.version ++ zeros 3

/-- Change a directory entry. -/
def modDir (j page : Nat) (f : DirE → DirE) (s : State) : State :=
  let k := (carveOf s j).dirBase + page
  { s with dir := tsetD s.dir k (f (tgetD s.dir k {})) {} }

/-- The job offset of a Basin page (R300, R301). -/
def basinOffset (c : Carve) (b : Nat) : Nat := c.basinSlot * 2 ^ 30 + b * 2 ^ 20

/-- The window page of a job offset, if it lies in the window (R313). -/
def windowPage (off : Nat) : Option Nat := if 2 ^ 39 ≤ off then some ((off - 2 ^ 39) / 2 ^ 20) else none

/-- The Vale address that an offset has now: the direct half through the region map; a window page
through its Basin page while it has one (R300, R303), else through its frame while it holds one. -/
def translate (s : State) (j off : Nat) : Option Nat :=
  let c := carveOf s j
  match windowPage off with
  | none => directAddress c off
  | some p =>
    let e := dirAt s j p
    if e.basinValid then directAddress c (basinOffset c e.basin + off % 2 ^ 20)
    else if e.st = .resident ∨ e.st = .evicting then (frameAddress c e.frame).map (· + off % 2 ^ 20)
    else none

/-- The offset is one that R313 to R315 map for the carve-out, outside its control area (R436). -/
def mappedIn (c : Carve) (off : Nat) : Bool :=
  match windowPage off with
  | none => (tget c.regionMap (off / 2 ^ 30)).isSome && decide (c.controlGib * 2 ^ 30 ≤ off)
  | some p => decide (p < c.dirCount)

/-- A byte range lies in mapped space outside the control area: judged at each 1 MiB step and at its end. -/
def rangeIn (c : Carve) (off len : Nat) : Bool :=
  decide (off + len ≤ 2 ^ 40) &&
  (len == 0 ||
    ((List.range ((off + len - 1) / 2 ^ 20 - off / 2 ^ 20 + 1)).all fun k =>
      mappedIn c ((off / 2 ^ 20 + k) * 2 ^ 20)))

/-- The same for a held job. -/
def rangeOk (s : State) (j off len : Nat) : Bool := rangeIn (carveOf s j) off len

/-! ### Vale lines -/

/-- Metadata of a line: counter and key id (R317). -/
def metaOf (s : State) (l : Nat) : Nat × Nat := tgetD s.vale.lineMeta l (0, 0)

/-- A region's entry. -/
def regionOf (s : State) (r : Nat) : Region := tgetD s.vale.regions r {}

/-- Stack, pseudo-channel and local line of a line (R310). -/
def place (l : Nat) : Nat × Nat × Nat :=
  let g := l / 384
  let p := (l % 384 + 13 * g) % 384
  (p / 32, p % 32, g)

/-- The region of a line. -/
def lineRegion (l : Nat) : Nat := l / 2 ^ 22

/-- The bytes of its pseudo-channel at which line `l` and its metadata stand (R311). -/
def channelBytes (l : Nat) : Nat × Nat := (256 * (place l).2.2, 0x5A000000 + 16 * (place l).2.2)

/-- The controllers' key tables hold no key under a key id: its entry was cleared (R594). -/
def keyCleared (s : State) (k : Nat) : Bool := ((tget s.vale.keyIds k).map (·.cleared)).getD false

/-- The metadata key id is one that a read accepts (R320), and its key is there. -/
def metaOk (s : State) (l : Nat) : Bool :=
  let r := regionOf s (lineRegion l)
  let k := (metaOf s l).2
  (k == r.key || r.previous == some k || k == 0) && !keyCleared s k

/-- Every read of a line fails: its metadata is not accepted, or it is damaged and nothing has replaced it (R320, R326, R595). -/
def lineBad (s : State) (l : Nat) : Bool := s.vale.damaged.contains l || !metaOk s l

/-! ### Request tags (R339) -/

/-- The number of a line's pseudo-channel, 0 to 383. -/
def pchanOf (l : Nat) : Nat := (place l).1 * 32 + (place l).2.1

/-- The books of a pseudo-channel. -/
def pchanAt (s : State) (p : Nat) : Pchan := tgetD s.vale.tags p {}

/-- Change them. -/
def modPchan (p : Nat) (f : Pchan → Pchan) (s : State) : State :=
  { s with vale := { s.vale with tags := tsetD s.vale.tags p (f (pchanAt s p)) {} } }

/-- A line's pseudo-channel takes a request now: a tag is free, and none waits for one. -/
def tagFree (s : State) (l : Nat) : Bool := decide ((pchanAt s (pchanOf l)).held < 256) && (pchanAt s (pchanOf l)).waiting.isEmpty

/-- A response leaves: its tag is free. -/
def freeTagOf (p : Nat) (s : State) : State := modPchan p (fun x => { x with held := x.held - 1 }) s

/-- A region joins the sweep queue, unless it is in it or being swept (R330). -/
def joinQueue (r : Nat) (v : Vale) : Vale :=
  if v.sweepQueue.contains r ∨ (v.sweep.any fun w => w.region == r) then v
  else { v with sweepQueue := v.sweepQueue ++ [r] }

/-- A region moves to the head of the queue, behind a sweep in progress, be it of the same region (R335). -/
def headQueue (r : Nat) (v : Vale) : Vale := { v with sweepQueue := r :: v.sweepQueue.filter (· != r) }

/-- The counter and key id that a write under key `k` leaves (R321). -/
def nextMeta (stored : Nat × Nat) (k : Nat) : Nat × Nat :=
  if stored.2 = k then (stored.1 + 1, k) else (0, k)

/-- The masked bytes of a line, written over memory. -/
def maskedWrite (mem : Memory) (base mask : Nat) : Nat → Bytes → Memory
  | _, [] => mem
  | i, b :: bs => maskedWrite (if bit mask i then mem.write (base + i) b else mem) base mask (i + 1) bs

/-- Spill capacity left for unit copies, in bytes (R526, R529). -/
def spillFree (b : Job) : Nat :=
  b.carve.spillGib * 2 ^ 30 - b.capture.coreImages - b.capture.spilled.length * 4096

/-- Copy-before-write (R528): the unit of a line that a capture still has pending is copied to the spill
region first. The flag is false where the spill region is full and the write waits (R529). -/
def spillUnit (l : Nat) (s : State) : State × Bool :=
  match (regionOf s (lineRegion l)).owner with
  | none => (s, true)
  | some j =>
    match tget s.jobs j with
    | none => (s, true)
    | some b =>
      if b.capture.units.contains (l / 16) then
        if spillFree b < 4096 then (s, false)
        else
          (modJob j (fun b => { b with capture := { b.capture with
            units := b.capture.units.filter (· != l / 16)
            spilled := tset b.capture.spilled (l / 16) (s.vale.mem.readN (l / 16 * 4096) 4096) } }) s, true)
      else (s, true)

/-- The write of a line's masked bytes. -/
def writeOf (l mask : Nat) (data : Bytes) : Blocked := { region := lineRegion l, address := l * 256, mask, data }

/-- Hold a request back; it takes a tag where one is free (R335, R339). -/
def holdRequest (x : Blocked) (s : State) : State :=
  let l := x.address / 256
  let tag := x.tag || tagFree s l
  let s := if tag && !x.tag then modPchan (pchanOf l) (fun p => { p with held := p.held + 1 }) s else s
  { s with vale := { s.vale with blocked := s.vale.blocked ++ [{ x with tag }] } }

/-- A controller answers an agent. -/
def answerVale (req : Option ValeReq) (status : Nat) (data : Bytes) (s : State) : State :=
  match req with
  | none => s
  | some r => { s with vale := { s.vale with answer := some ⟨r, status, data⟩ } }

/-- A write of a job's region begins to wait for spill space (R529). -/
def startStall (r : Nat) (s : State) : State :=
  match (regionOf s r).owner with
  | none => s
  | some j => modJob j (fun b => { b with capture := { b.capture with
      stallSince := some (b.capture.stallSince.getD s.timeNs) } }) s

/-- All 256 bytes of a line. -/
def fullMask : Nat := 2 ^ 256 - 1

/-- A write to a Vale line under its region's key id (R321, R324, R325, R330, R335): it waits where the stored counter is exhausted or
the spill region is full. A partial write reads the line first: one whose line fails leaves it as it is, for the job to fault. -/
def performWrite (x : Blocked) (s : State) : State :=
  let l := x.address / 256
  let r := lineRegion l
  let k := (regionOf s r).key
  let m := metaOf s l
  if x.mask ≠ fullMask ∧ lineBad s l then
    answerVale x.req 1 [] { s with vale := { s.vale with failing := s.vale.failing ++ [(l, 1)] } }
  else if m.2 = k ∧ m.1 = 0xFFFFFFFF then
    let t := holdRequest { x with spill := false } s
    { t with vale := headQueue r t.vale }
  else
    match spillUnit l s with
    | (_, false) => holdRequest { x with spill := true } (startStall r s)
    | (s, true) =>
      let n := nextMeta m k
      let v := { s.vale with
        mem := maskedWrite s.vale.mem (l * 256) x.mask 0 x.data
        lineMeta := tsetD s.vale.lineMeta l n (0, 0)
        damaged := if x.mask = fullMask then s.vale.damaged.filter (· != l) else s.vale.damaged }
      answerVale x.req 0 [] { s with vale := if 0xFFFF0000 ≤ n.1 then joinQueue r v else v }

/-- A request waits: one of the same line is held before it, or its pseudo-channel has no tag for it (R312, R339). -/
def mustWait (l : Nat) (s : State) : Bool := (s.vale.blocked.any fun x => x.address == l * 256) || !tagFree s l

/-- A write to a Vale line by a slice or an engine. -/
def valeLineWrite (l mask : Nat) (data : Bytes) (s : State) : State :=
  if mustWait l s then holdRequest (writeOf l mask data) s else performWrite (writeOf l mask data) s

/-- The byte at a Vale address that a read arriving now returns: that of the last write held before it, else the stored one (R312). -/
def valeByte (s : State) (a : Nat) : Byte :=
  match s.vale.blocked.reverse.find? fun x => !x.isRead && x.address == a / 256 * 256 && bit x.mask (a % 256) with
  | some x => x.data.getD (a % 256) 0
  | none => s.vale.mem.read a

/-- `n` such bytes. -/
def valeBytes (s : State) (a n : Nat) : Bytes := (List.range n).map fun i => valeByte s (a + i)

/-- The mask of `n` bytes from byte `i` on. -/
def maskOf (i n : Nat) : Nat := (2 ^ n - 1) * 2 ^ i

/-- A write by an engine straight to Vale, by lines (R324, R325): fuel, Vale address, bytes. -/
def valeWrite : Nat → Nat → Bytes → State → State
  | 0, _, _, s => s
  | _ + 1, _, [], s => s
  | k + 1, a, b, s =>
    let i := a % 256
    let n := min (256 - i) b.length
    valeWrite k (a + n) (b.drop n) (valeLineWrite (a / 256) (maskOf i n) (zeros i ++ b.take n) s)

/-! ### The Plain cache -/

/-- The home slice of a job offset (R86). -/
def homeSlice (blocks : List Nat) (off : Nat) : Nat :=
  let line := off / 256
  let fold := (line ^^^ (line / 2 ^ 11) ^^^ (line / 2 ^ 22)) % 2 ^ 32
  blocks.getD (fold % blocks.length) 0

/-- The home slice of an offset of a job. -/
def sliceOf (s : State) (j off : Nat) : Nat := homeSlice (partBlocks (partCfg s j)) off

/-- The set of a line in its slice: its low 6 bits (log 21). -/
def setOf (line : Nat) : Nat := line % 64

/-- The key of a way. -/
def wayKey (slice set way : Nat) : Nat := (slice * 64 + set) * 16 + way

/-- The way that holds a line, if one does. -/
def findWay (c : Cache) (slice j line : Nat) : Option Nat :=
  (List.range 16).find? fun w =>
    match tget c.lines (wayKey slice (setOf line) w) with
    | some x => x.job == j && x.line == line
    | none => false

/-- Tree bits after an access to a way: every node on its path points away from it (R90). -/
def plruTouch (bits16 way : Nat) : Nat :=
  let step := fun (acc : Nat × Nat) (k : Nat) =>
    let d := way / 2 ^ (3 - k) % 2
    let cleared := if bit acc.1 acc.2 then acc.1 - 2 ^ acc.2 else acc.1
    (if d = 0 then cleared + 2 ^ acc.2 else cleared, 2 * acc.2 + d)
  ((List.range 4).foldl step (bits16, 1)).1

/-- The victim way: follow the tree bits, leaving a subtree whose ways are all staged (R90). -/
def plruVictim (bits16 : Nat) (staged : Nat → Bool) : Nat :=
  let step := fun (acc : Nat × Nat) (k : Nat) =>
    let d := if bit bits16 acc.1 then 1 else 0
    let base := (2 * acc.2 + d) * 2 ^ (3 - k)
    let d := if (List.range (2 ^ (3 - k))).all fun i => staged (base + i) then 1 - d else d
    (2 * acc.1 + d, 2 * acc.2 + d)
  ((List.range 4).foldl step (1, 0)).2

/-- Write a line back to Vale if it is dirty: a full-line write if every byte is valid, else a partial one
(R89). -/
def writeBack (x : CLine) (s : State) : State :=
  if x.dirty then
    match translate s x.job (x.line * 256) with
    | none => s
    | some a => valeLineWrite (a / 256) (if x.valid = fullMask then fullMask else x.valid) x.data s
  else s

/-- Replace a way. -/
def setWay (key : Nat) (x : Option CLine) (s : State) : State :=
  { s with cache := { s.cache with
      lines := match x with | some x => tset s.cache.lines key x | none => terase s.cache.lines key } }

/-- Note an access to a way in its set's tree. -/
def touchWay (slice set way : Nat) (s : State) : State :=
  let k := slice * 64 + set
  { s with cache := { s.cache with plru := tsetD s.cache.plru k (plruTouch (tgetD s.cache.plru k 0) way) 0 } }

/-- A way for a new line of a set: a free one, or the victim of R90 after its write-back (R89). -/
def allocWay (slice set : Nat) (s : State) : Nat × State :=
  match (List.range 16).find? fun w => (tget s.cache.lines (wayKey slice set w)).isNone with
  | some w => (w, s)
  | none =>
    let w := plruVictim (tgetD s.cache.plru (slice * 64 + set) 0) fun w =>
      ((tget s.cache.lines (wayKey slice set w)).bind (·.staged)).isSome
    match tget s.cache.lines (wayKey slice set w) with
    | none => (w, s)
    | some x => (w, setWay (wayKey slice set w) none (writeBack x s))

/-- Bytes merged under a mask. -/
def mergeMask (old : Bytes) (mask : Nat) (new : Bytes) : Bytes :=
  (List.range 256).map fun i => if bit mask i then new.getD i 0 else old.getD i 0

/-- A write of part of one line by a task, through its home slice (R88): a hit merges under the mask, a
miss allocates the line without reading Vale. -/
def cacheLineWrite (j line mask : Nat) (data : Bytes) (s : State) : State :=
  let slice := sliceOf s j (line * 256)
  let set := setOf line
  match findWay s.cache slice j line with
  | some w =>
    match tget s.cache.lines (wayKey slice set w) with
    | none => s
    | some x =>
      touchWay slice set w (setWay (wayKey slice set w)
        (some { x with data := mergeMask x.data mask data, valid := x.valid ||| mask, dirty := true }) s)
  | none =>
    let a := allocWay slice set s
    touchWay slice set a.1 (setWay (wayKey slice set a.1)
      (some ⟨j, line, mergeMask (zeros 256) mask data, mask, true, none⟩) a.2)

/-- The cached copy of a line of a job. -/
def cachedLine (s : State) (j line : Nat) : Option CLine :=
  let slice := sliceOf s j (line * 256)
  (findWay s.cache slice j line).bind fun w => tget s.cache.lines (wayKey slice (setOf line) w)

/-- The byte at a job offset: the slice's copy where it is valid, else Vale's; an offset with no place
reads as zero, which only a page that rests does, and no operation reads one before it is resident. -/
def peek (s : State) (j off : Nat) : Byte :=
  let below := match translate s j off with | some a => valeByte s a | none => 0
  match cachedLine s j (off / 256) with
  | some x => if bit x.valid (off % 256) then x.data.getD (off % 256) 0 else below
  | none => below

/-- `n` bytes from a job offset on. -/
def peekN (s : State) (j off n : Nat) : Bytes := (List.range n).map fun i => peek s j (off + i)

/-- A read of a job offset goes to Vale: the slice holds no valid copy of its byte. -/
def readsVale (s : State) (j off : Nat) : Bool :=
  match cachedLine s j (off / 256) with
  | some x => !(bit x.valid (off % 256))
  | none => true

/-- The first line that a read of job offsets meets in Vale and that fails (R320, R323, R326). -/
def badLine (s : State) (j : Nat) (offs : List Nat) : Option Nat :=
  offs.findSome? fun o => (translate s j o).bind fun a => if lineBad s (a / 256) && readsVale s j o then some (a / 256) else none

/-- A job offset in each line of a range. -/
def rangeOffsets (off n : Nat) : List Nat := if n = 0 then [] else off :: (List.range ((off + n - 1) / 256 - off / 256)).map fun i => (off / 256 + i + 1) * 256

/-- A window page is written: its entry is dirty (R342). -/
def markDirty (j off : Nat) (s : State) : State :=
  match windowPage off with
  | none => s
  | some p => if (dirAt s j p).st = .resident ∧ ¬ (dirAt s j p).basinValid then modDir j p (fun e => { e with dirty := true }) s else s

/-- A task writes bytes at a job offset, through the Plain cache: fuel, offset, bytes. -/
def pokeLines : Nat → Nat → Nat → Bytes → State → State
  | 0, _, _, _, s => s
  | _ + 1, _, _, [], s => s
  | k + 1, j, off, b, s =>
    let i := off % 256
    let n := min (256 - i) b.length
    pokeLines k j (off + n) (b.drop n)
      (markDirty j off (cacheLineWrite j (off / 256) (maskOf i n) (zeros i ++ b.take n) s))

/-- A task writes bytes at a job offset. -/
def poke (j off : Nat) (b : Bytes) (s : State) : State := pokeLines (b.length / 256 + 3) j off b s

/-- Bytes that an engine writes also replace those of a cached copy (log 21). -/
def refreshLine (j line mask : Nat) (data : Bytes) (s : State) : State :=
  let slice := sliceOf s j (line * 256)
  match findWay s.cache slice j line with
  | none => s
  | some w =>
    let k := wayKey slice (setOf line) w
    match tget s.cache.lines k with
    | none => s
    | some x => setWay k (some { x with data := mergeMask x.data (mask &&& x.valid) data }) s

/-- An engine (DMA, ingress, tier, capture, Saddle) writes bytes at a job offset straight to Vale. -/
def engineLines : Nat → Nat → Nat → Bytes → State → State
  | 0, _, _, _, s => s
  | _ + 1, _, _, [], s => s
  | k + 1, j, off, b, s =>
    let i := off % 256
    let n := min (256 - i) b.length
    let d := zeros i ++ b.take n
    let s := match translate s j off with
      | none => s
      | some a => refreshLine j (off / 256) (maskOf i n) d (valeLineWrite (a / 256) (maskOf i n) d s)
    engineLines k j (off + n) (b.drop n) (markDirty j off s)

/-- An engine writes bytes at a job offset. -/
def engineWrite (j off : Nat) (b : Bytes) (s : State) : State := engineLines (b.length / 256 + 3) j off b s

/-- Write back and drop every cached line that satisfies a test (R57 step 6, R302, R348, R524). -/
def flushLines (keep : Bool) (p : CLine → Bool) (s : State) : State :=
  s.cache.lines.foldl (fun t kx =>
    if p kx.2 then
      let t := writeBack kx.2 t
      setWay kx.1 (if keep then some { kx.2 with dirty := false } else none) t
    else t) s

end Sys2Proof.Machine
end

