-- ==== Sys2Proof/Machine/Fabric.lean ====
section
/-! DEFINITION. Pass packets (R363, R364), their protection (R366), sequence numbers (R367), credits and egress
queues (R365, R369 to R372), the replay buffer (R353) and routes (R374, R375). -/

namespace Sys2Proof.Machine

/-! ### Header fields (R363) -/

def pType (b : Bytes) : Nat := rd b 0 1 % 16
def pVersion (b : Bytes) : Nat := rd b 0 1 / 16
def pVc (b : Bytes) : Nat := rd b 1 1 % 8
def pLast (b : Bytes) : Bool := bit (rd b 1 1) 3
def pLength (b : Bytes) : Nat := rd b 2 2 % 8192
def pDst (b : Bytes) : Nat := rd b 4 3 % 2 ^ 20
def pSrc (b : Bytes) : Nat := rd b 7 3 % 2 ^ 20
def pHops (b : Bytes) : Nat := rd b 9 2 / 16 % 64
def pJob (b : Bytes) : Nat := rd b 12 4
def pMask (b : Bytes) : Nat := rd b 16 2
def pTag (b : Bytes) : Nat := rd b 18 2
def pOffset (b : Bytes) : Nat := rd b 20 4
def pSeq (b : Bytes) : Nat := rd b 24 8

/-- The reserved bits of the header are zero, and its length is that of the packet. -/
def headerWhole (b : Bytes) : Bool :=
  rd b 1 1 / 16 == 0 && rd b 2 2 / 8192 == 0 && rd b 6 1 / 16 == 0 && rd b 10 1 / 4 == 0 && rd b 11 1 == 0 &&
  pLength b ≤ 4096 && b.length == 48 + pLength b

/-- The payload of a packet. -/
def pPayload (b : Bytes) : Bytes := sub b 32 (pLength b)

/-- What a packet says besides its source, hops and sequence. -/
structure Packet where
  typ : Nat
  vc : Nat
  dst : Nat
  mask : Nat := 0
  tag : Nat := 0
  offset : Nat := 0
  last : Bool := true
  payload : Bytes := []

/-- The 32 header bytes of R363. -/
def header (p : Packet) (src jobId seq : Nat) : Bytes :=
  leBytes 1 (p.typ + 32) ++ leBytes 1 (p.vc % 8 + 8 * p.last.toNat) ++ leBytes 2 p.payload.length ++
  leBytes 3 (p.dst % 2 ^ 20) ++ leBytes 3 (src % 2 ^ 20) ++
  leBytes 2 0 ++ leBytes 4 jobId ++ leBytes 2 p.mask ++ leBytes 2 p.tag ++ leBytes 4 p.offset ++ leBytes 8 seq

/-- The header with its hop count at a value (R363 bits 81 to 76). -/
def setHops (h : Nat) (b : Bytes) : Bytes :=
  let v := rd b 9 2
  overlay b 9 (leBytes 2 (v % 16 + h % 64 * 16 + v / 1024 * 1024))

/-- The header with its virtual channel at a value. -/
def setVc (vc : Nat) (b : Bytes) : Bytes := overlay b 1 (leBytes 1 (rd b 1 1 / 8 * 8 + vc % 8))

/-- The additional data of R366: the header with hops and the low bit of vc at zero. -/
def aadOf (b : Bytes) : Bytes := sub (setVc (pVc b / 2 * 2) (setHops 0 b)) 0 32

/-- Response-class types (R364). -/
def isResponse (t : Nat) : Bool := [2, 3, 5, 7, 8].contains t

/-- The initialisation vector of R366. -/
def pIv (b : Bytes) : Bytes := leBytes 4 (pSrc b) ++ leBytes 8 (pSeq b)

/-! ### Keys (R381, R494) -/

/-- The salt A of a job (text before R494). -/
def saltA (b : Job) : Bytes := sha256 (sub b.policy 0x420 256)

/-- The job's link key. -/
def linkKey (b : Job) : Bytes := derive (saltA b) b.keys.secret "mutrum link" (leBytes 4 b.id) 32

/-- The job's Steppe key. -/
def steppeKey (b : Job) : Bytes := derive (saltA b) b.keys.secret "mutrum steppe" (leBytes 4 b.id) 32

/-- The job's checkpoint key. -/
def ckptKey (b : Job) : Bytes := derive (saltA b) b.keys.secret "mutrum ckpt" (leBytes 4 b.id) 64

/-! ### Ports -/

/-- A Pass port. -/
def portAt (s : State) (n : Nat) : PassPort := s.pass.ports.getD n {}

/-- Change a Pass port. -/
def modPort (n : Nat) (f : PassPort → PassPort) (s : State) : State :=
  { s with pass := { s.pass with ports := setAt s.pass.ports n (f (portAt s n)) } }

/-- Add one to a port counter of R649: 0 codewords, 1 replays, 2 fast retrains, 3 full trainings, 4 malformed,
5 unknown job, 6 no route, 7 hop limit, 8 PLP 1 drops, 9 late packets. -/
def bumpPort (n i : Nat) (s : State) : State :=
  modPort n (fun p => { p with counters := setAt p.counters i (p.counters.getD i 0 + 1) }) s

/-- Configuration of a port: role in bits 1 and 0, ring number in bits 5 to 2, dateline in bit 6 (R352). -/
def portCfg (s : State) (n : Nat) : Nat := s.config.image.pass.ports.getD n 0

/-- Role of a port: 0 unused, 1 fabric, 2 mixed. -/
def portRole (s : State) (n : Nat) : Nat := portCfg s n % 4

/-- Credit units of a packet by its bytes (R365). -/
def creditUnits (b : Bytes) : Nat := ceilDiv b.length 64

/-- Bytes of the replay buffer in use (R353): each packet with its link prefix. -/
def replayBytes (p : PassPort) : Nat := p.replay.foldl (fun a x => a + x.2.length + 4) 0

/-- The sender's count covers a packet (R370): a request-class packet leaves the response reserve alone. -/
def covers (p : PassPort) (vc : Nat) (b : Bytes) : Bool :=
  let have' := tgetD p.credits vc 0
  let need := creditUnits b
  decide (if pVersion b = 2 ∧ isResponse (pType b) then need ≤ have' else need + 128 ≤ have')

/-- Put a packet on the wire: the next link sequence, the replay buffer, the credits (R352, R353, R370). -/
def wire (n vc : Nat) (b : Bytes) (s : State) : State :=
  let p := portAt s n
  let q := (p.outSeq + 1) % 65536
  emit (.packet n (leBytes 2 q ++ [0, 0] ++ b))
    (modPort n (fun p => { p with
      outSeq := q
      replay := p.replay ++ [(q, b)]
      credits := tsetD p.credits vc (tgetD p.credits vc 0 - creditUnits b) 0 }) s)

/-- Give back the units of a packet that a channel's buffer held (R370). -/
def freeBuffer (port vc units : Nat) (s : State) : State :=
  modPort port (fun p => { p with
    held := tsetD p.held vc (tgetD p.held vc 0 - units) 0
    toReturn := tsetD p.toReturn vc (tgetD p.toReturn vc 0 + units) 0 }) s

/-- A packet in transit has left: the ingress buffer that held it gives its units back (R370). -/
def leaveBuffer (origin : Option (Nat × Nat)) (b : Bytes) (s : State) : State :=
  match origin with
  | none => s
  | some (port, vc) => freeBuffer port vc (creditUnits b) s

/-- The head packet of a channel may go: the port is up, its credit covers the packet and the replay buffer holds it (R353, R370). -/
def headGoes (p : PassPort) (vc : Nat) : Bool :=
  match tgetD p.queues vc [] with
  | [] => false
  | x :: _ => p.st == .up && covers p vc x.1 && decide (replayBytes p + x.1.length + 4 ≤ 262144)

/-- The channel that is served next: the first in turn whose head packet may go (R372). -/
def nextChannel (p : PassPort) : Option Nat := ((List.range 8).map fun i => (p.turn + i) % 8).find? (headGoes p)

/-- Serve a port's channels in round-robin order, one packet a turn, while one may go (R372): fuel. -/
def serve : Nat → Nat → State → State
  | 0, _, s => s
  | k + 1, n, s =>
    match nextChannel (portAt s n) with
    | none => s
    | some vc =>
      match tgetD (portAt s n).queues vc [] with
      | [] => s
      | (b, origin) :: rest =>
        serve k n (leaveBuffer origin b (wire n vc b
          (modPort n (fun p => { p with queues := tsetD p.queues vc rest [], turn := (vc + 1) % 8 }) s)))

/-- Serve a port's channels while a packet of one may go (R372). -/
def drainPort (n : Nat) (s : State) : State := serve (((portAt s n).queues.map fun q => q.2.length).sum + 1) n s

/-- Queue a packet at an egress port, with the buffer that holds it, and serve the port (R372). -/
def egress (n vc : Nat) (origin : Option (Nat × Nat)) (b : Bytes) (s : State) : State :=
  drainPort n (modPort n (fun p => { p with queues := tsetD p.queues vc (tgetD p.queues vc [] ++ [(b, origin)]) [] }) s)

/-! ### Routes (R374, R375) -/

/-- Fields of a route entry (R374). -/
def rPrefix (e : Nat) : Nat := bits e 63 44
def rLength (e : Nat) : Nat := bits e 43 39
def rBase (e : Nat) : Nat := bits e 38 34
def rCount (e : Nat) : Nat := 2 ^ bits e 33 32
def rLocal (e : Nat) : Bool := bit e 31
def rDrop (e : Nat) : Bool := bit e 30
def rValid (e : Nat) : Bool := bit e 0

/-- Valid entry of greatest length whose top bits are the destination's. -/
def lookup (routes : List Nat) (dst : Nat) : Option Nat :=
  routes.foldl (fun best e =>
    if rValid e ∧ rPrefix e / 2 ^ (20 - rLength e) = dst / 2 ^ (20 - rLength e) then
      match best with
      | none => some e
      | some b => if rLength b < rLength e then some e else some b
    else best) none

/-- What a packet's route says (R375). -/
inductive Route where
  | noRoute
  | hopLimit
  | here
  | out (port : Nat) (vc : Nat)
deriving DecidableEq, Repr

/-- route of R375 for a destination, source, channel and hop count, arriving on a port or local. A port that runs PLP 1 takes no such
packet (R361); one that a group leads to it has no route (log 31). -/
def route (s : State) (dst src vc hops : Nat) (inPort : Option Nat) : Route :=
  match lookup s.config.image.pass.routes dst with
  | none => .noRoute
  | some e =>
    if rDrop e then .noRoute
    else if rLocal e then .here
    else if hops = 63 then .hopLimit
    else
      let live := ((List.range (rCount e)).map (· + rBase e)).filter fun n => (portAt s n).st == .up
      if live.isEmpty then .noRoute
      else
        let h := ((src * 0x9E37) ^^^ dst ^^^ (vc / 2)) % live.length
        let out := live.getD h 0
        if (portAt s out).plp = 1 then .noRoute
        else
        let vc' := match inPort with
          | none => vc
          | some i =>
            if portCfg s out / 4 % 16 ≠ portCfg s i / 4 % 16 then vc / 2 * 2
            else if bit (portCfg s i) 6 then vc / 2 * 2 + 1 else vc
        .out out vc'

/-! ### Origination -/

/-- Build, protect and send a packet of a job, counting data packets (R366, R367, R375, R522). The flag is false where the sequence counter is at
its limit or no port leads to the destination. -/
def originate (j : Nat) (p : Packet) (s : State) : State × Bool :=
  match tget s.jobs j with
  | none => (s, false)
  | some b =>
    if b.passSeq = 2 ^ 64 - 1 then (s, false)
    else
      let src := deviceAddress s
      let hdr := header p src b.id b.passSeq
      let sealed' := gcmSeal (linkKey b) (pIv hdr) (aadOf hdr) p.payload
      let pkt := hdr ++ sealed'.1 ++ sealed'.2
      let counted := p.typ == 1 || p.typ == 5
      let s := modJob j (fun b => { b with
        passSeq := b.passSeq + 1
        capture := if counted then { b.capture with sent := b.capture.sent + 1 } else b.capture }) s
      match route s p.dst src p.vc 0 none with
      | .out n vc => (egress n vc none (setHops 1 (setVc vc pkt)) s, true)
      | .here => (emit (.packet 32 ([0, 0, 0, 0] ++ pkt)) s, true)
      | _ => (s, false)

/-- The payload of a transfer cut into packets of 4,096 bytes, the last one marked (text after R404). -/
def cutTransfer (typ vc dst mask tag : Nat) (data : Bytes) : List Packet :=
  let n := max 1 (ceilDiv data.length 4096)
  (List.range n).map fun i =>
    { typ, vc, dst, mask, tag, offset := i * 64, last := i + 1 == n, payload := (data.drop (4096 * i)).take 4096 }

/-! ### Peers (R382) -/

/-- The peers of a job: members of its groups, peers of the sends and receives that it has submitted, and of shared fences. -/
def jobPeers (s : State) (j : Nat) : List Nat :=
  let objs := s.objects.objs.flatMap fun p =>
    if p.2.job = some j then
      match p.2.data with
      | .group g => g.members
      | .proxy q => [q.peer]
      | _ => []
    else []
  let descs := ((tget s.jobs j).map (·.peers)).getD []
  (objs ++ descs).eraseDups.filter (· != deviceAddress s)

/-- A job-control packet to every peer of a job (R382). -/
def controlAll (j : Nat) (payload : Bytes) (s : State) : State :=
  (jobPeers s j).foldl (fun t a => (originate j { typ := 7, vc := 0, dst := a, payload := sub payload 0 16 } t).1) s

end Sys2Proof.Machine
end

