-- ==== Sys2Proof/Machine/Image.lean ====
section
/-! DEFINITION. The flash slots, the binary form of a configuration image (R461, R462) and its validation (R464). -/

namespace Sys2Proof.Machine

/-! ### Flash (R457, R466, log 19) -/

/-- The part of a written piece that falls into a window of the flash from an offset on. -/
def patch (off : Nat) (acc : Bytes) (p : Nat × Bytes) : Bytes :=
  let n := acc.length
  if p.1 + p.2.length ≤ off ∨ off + n ≤ p.1 then acc
  else if p.1 ≤ off then
    let x := (p.2.drop (off - p.1)).take n
    x ++ acc.drop x.length
  else
    let x := p.2.take (off + n - p.1)
    acc.take (p.1 - off) ++ x ++ acc.drop (p.1 - off + x.length)

/-- `n` bytes of a slot from an offset on: what was written, and 0xFF where nothing was. -/
def flashRead (f : FlashSlot) (off n : Nat) : Bytes := f.written.foldl (patch off) (List.replicate n 0xFF)

/-- A range touches a byte written since the erase (R466). -/
def flashTouched (f : FlashSlot) (off n : Nat) : Bool :=
  f.written.any fun p => decide (p.1 < off + n) && decide (off < p.1 + p.2.length)

/-- A slot of a list of slots. -/
def slotOf (l : List FlashSlot) (i : Nat) : FlashSlot := l.getD i {}

/-! ### The parts of an image (R461, R462) -/

/-- No entry, in the result of a check. -/
def noEntry : Nat := 0xFFFFFFFF

/-- A failed check of R464: its number, the section or 0, the entry. -/
abbrev CheckFail := Nat × Nat × Nat

/-- Offset and length of the section in the i-th directory entry. -/
def secAt (b : Bytes) (i : Nat) : Nat × Nat := (rd b (132 + 16 * i) 4, rd b (136 + 16 * i) 4)

/-- The bytes of a section. -/
def secBytes (b : Bytes) (i : Nat) : Bytes := sub b (secAt b i).1 (secAt b i).2

/-- The length of each section; that of the routes section depends on its count. -/
def secLength (b : Bytes) (i : Nat) : Nat :=
  if i = 4 then 4 + 8 * rd b (secAt b 4).1 4
  else [128, 35840, 64, 96, 0, 4160, 24, 512, 8, 1024].getD i 0

/-- A partition entry. -/
def readPart (e : Bytes) : PartCfg where
  enabled := bit (rd e 0 1) 0
  col0 := rd e 1 1
  row0 := rd e 2 1
  width := rd e 3 1
  height := rd e 4 1

/-- A carve-out record. -/
def readCarve (e : Bytes) : Carve where
  regions := (List.range 540).filter fun n => bit (rd e (n / 8) 1) (n % 8)
  regionMap := ((List.range 512).map fun s => (s, rd e (0x48 + 2 * s) 2)).filter fun p => p.2 != 0xFFFF
  dirBase := rd e 0x448 4
  dirCount := rd e 0x44C 4
  controlGib := rd e 0x450 1
  basinGib := rd e 0x451 1
  basinSlot := rd e 0x452 2
  spillSlot := rd e 0x454 2
  spillGib := rd e 0x456 1
  promotionSlot := rd e 0x458 2

/-- An Ethernet port record; entries of zeros are not listed. -/
def readEth (e : Bytes) : EthCfg where
  mask := rd e 0 2
  pfc := rd e 2 1
  weights := rd e 4 2
  pcp := rd e 6 2
  dscp := rd e 8 4
  sources := ((List.range 16).map fun i => (i, sub e (0x10 + 24 * i) 24)).filter fun p => !(allZero p.2)
  boots := ((List.range 16).map fun i => (i, sub e (0x190 + 40 * i) 40)).filter fun p => !(allZero p.2)

/-- A numeric-defaults record. -/
def readNum (e : Bytes) : NumCfg where
  speculation := rd e 0 1
  sticky := rd e 1 2
  promotedFp16 := bit (rd e 3 1) 0
  gradBf16 := bit (rd e 3 1) 1
  chop := bits (rd e 3 1) 3 2 == 2
  expInit := rd e 4 1
  expMin := rd e 5 1
  expMax := rd e 6 1
  growth := rd e 8 2
  skipLimit := rd e 10 1
  history := rd e 11 1
  margin := rd e 12 1
  block := rd e 13 1
  promotionGib := rd e 14 1

/-- A checkpoint-trigger record. -/
def readTrig (e : Bytes) : TrigCfg where
  timer := rd e 0 4
  steps := rd e 4 4
  warnings := rd e 8 1
  thermalMargin := rd e 9 1
  droops := rd e 10 2
  correctable := rd e 12 4
  laneErrors := rd e 16 4

/-- The image in structured form. -/
def readImage (b : Bytes) : Image where
  lock := bit (rd b 0x0E 1) 0
  serial := rd b 0x10 8
  digest := sub b 0x20 32
  parts := (List.range 16).map fun p => readPart (sub (secBytes b 0) (8 * p) 8)
  carves := (((List.range 32).map fun j => (j, sub (secBytes b 1) (1120 * j) 1120)).filter fun p => !(allZero p.2)).map
    fun (p : Nat × Bytes) => (p.1, readCarve p.2)
  mbSlots := (List.range 32).map fun i => rd (secBytes b 2) i 1
  policySlots := (List.range 32).map fun i => rd (secBytes b 2) (32 + i) 1
  pass := {
    address := rd (secBytes b 3) 0 4
    ports := (List.range 32).map fun n => rd (secBytes b 3) (4 + 2 * n) 2
    allot := (List.range 8).map fun v => rd (secBytes b 3) (0x44 + 2 * v) 2
    routes := (List.range (rd (secBytes b 4) 0 4)).map fun i => rd (secBytes b 4) (4 + 8 * i) 8 }
  eth := (List.range 4).map fun q => readEth (sub (secBytes b 5) (1040 * q) 1040)
  power := {
    cap := rd (secBytes b 6) 0 2
    current := rd (secBytes b 6) 2 2
    throttle := rd (secBytes b 6) 4 1
    hints := bit (rd (secBytes b 6) 5 1) 0
    shares := (List.range 16).map fun p => rd (secBytes b 6) (8 + p) 1 }
  numeric := (List.range 32).map fun j => (j, readNum (sub (secBytes b 7) (16 * j) 16))
  sweepRate := rd (secBytes b 8) 0 1
  triggers := (List.range 32).map fun j => (j, readTrig (sub (secBytes b 9) (32 * j) 32))

/-! ### Validation (R464) -/

/-- A check that a condition holds. -/
def need (ok : Bool) (f : CheckFail) : Option CheckFail := if ok then none else some f

/-- The first of several entries that fails. -/
def needAll (n check sec : Nat) (ok : Nat → Bool) : Option CheckFail :=
  ((List.range n).find? fun i => !(ok i)).map fun i => (check, sec, i)

/-- Checks 0x01 to 0x03: the header and the digest over the whole image with its own field at zero. -/
def checkHeader (b : Bytes) : Option CheckFail :=
  let n := rd b 8 4
  (need (sub b 0 4 == [0x4D, 0x43, 0x46, 0x47] && rd b 4 2 == 0x0200 && rd b 6 2 == 128 && decide (n ≤ 2 ^ 20)) (1, 0, noEntry)).or
    ((need (rd b 0x18 2 == 0x8012 && rd b 0x1A 1 == 0xB0) (2, 0, noEntry)).or
      (need (sha256 (overlay (sub b 0 n) 0x20 (zeros 32)) == sub b 0x20 32) (3, 0, noEntry)))

/-- Check 0x04: ten sections in increasing id, each with its version and length, inside the image and apart from each other
and from the header and directory. -/
def checkDirectory (b : Bytes) : Option CheckFail :=
  let one := fun (i : Nat) =>
    let s := secAt b i
    rd b (128 + 16 * i) 2 == i + 1 && rd b (130 + 16 * i) 2 == 1 && rd b (140 + 16 * i) 4 == 0 && decide (288 ≤ s.1) &&
    decide (s.1 + s.2 ≤ rd b 8 4) && s.2 == secLength b i &&
    (List.range i).all fun k => decide (s.1 + s.2 ≤ (secAt b k).1) || decide ((secAt b k).1 + (secAt b k).2 ≤ s.1)
  (need (rd b 0x0C 2 == 10) (4, 0, noEntry)).or
    (((List.range 10).find? fun i => !(one i)).map fun i => (4, i + 1, noEntry))

/-- Check 0x05 on an Ethernet port record. -/
def ethReserved (e : Bytes) : Bool :=
  rd e 3 1 == 0 && rd e 4 2 / 2 ^ 12 == 0 && rd e 6 2 / 2 ^ 12 == 0 && rd e 8 4 / 2 ^ 24 == 0 && rd e 12 4 == 0 &&
  ((List.range 16).all fun i =>
    let s := sub e (0x10 + 24 * i) 24
    bits (rd s 16 1) 3 2 == 0 && bits (rd s 17 2) 14 12 == 0 && allZero (s.drop 19)) &&
  (List.range 16).all fun i =>
    let s := sub e (0x190 + 40 * i) 40
    rd s 16 1 / 4 == 0 && rd s 30 2 == 0 && rd s 38 2 == 0

/-- Check 0x05: every reserved field is zero (R15). -/
def checkReserved (b : Bytes) : Option CheckFail :=
  let entry := fun (i size k : Nat) => sub (secBytes b i) (size * k) size
  (need (rd b 0x0E 1 / 2 == 0 && rd b 0x0F 1 == 0 && allZero (sub b 0x1B 5) && allZero (sub b 0x40 64)) (5, 0, noEntry)).or <|
  (needAll 16 5 1 fun p => rd (entry 0 8 p) 0 1 / 2 == 0 && rd (entry 0 8 p) 5 3 == 0).or <|
  (needAll 32 5 2 fun j =>
    let e := entry 1 1120 j
    rd e 67 1 / 16 == 0 && rd e 0x44 4 == 0 && rd e 0x457 1 == 0 && allZero (sub e 0x45A 6)).or <|
  (needAll 64 5 3 fun i => bits (rd (secBytes b 2) i 1) 6 5 == 0).or <|
  (need (rd (secBytes b 3) 0 4 / 2 ^ 20 == 0 && allZero (sub (secBytes b 3) 0x54 12)) (5, 4, noEntry)).or <|
  (needAll 32 5 4 fun n => rd (secBytes b 3) (4 + 2 * n) 2 / 128 == 0).or <|
  (needAll (rd (secBytes b 4) 0 4) 5 5 fun i => bits (rd (secBytes b 4) (4 + 8 * i) 8) 29 1 == 0).or <|
  (needAll 4 5 6 fun q => ethReserved (entry 5 1040 q)).or <|
  (need (rd (secBytes b 6) 5 1 / 2 == 0 && rd (secBytes b 6) 6 2 == 0) (5, 7, noEntry)).or <|
  (needAll 32 5 8 fun j => rd (entry 7 16 j) 3 1 / 16 == 0 && rd (entry 7 16 j) 7 1 == 0 && rd (entry 7 16 j) 15 1 == 0).or <|
  (need (allZero (sub (secBytes b 8) 1 7)) (5, 9, noEntry)).or <|
  needAll 32 5 10 fun j => allZero (sub (entry 9 32 j) 20 12)

/-- A partition is enabled. -/
def partOn (img : Image) (p : Nat) : Bool := (img.parts.getD p {}).enabled

/-- Two rectangles share a block. -/
def rectsMeet (a b : PartCfg) : Bool :=
  decide (a.col0 < b.col0 + b.width) && decide (b.col0 < a.col0 + a.width) &&
  decide (a.row0 < b.row0 + b.height) && decide (b.row0 < a.row0 + a.height)

/-- Check 0x06: enabled rectangles lie in the grid and apart from each other. -/
def checkParts (img : Image) : Option CheckFail :=
  needAll 16 6 1 fun p =>
    let e := img.parts.getD p {}
    !e.enabled || (decide (1 ≤ e.width) && decide (1 ≤ e.height) && decide (e.col0 + e.width ≤ 20) && decide (e.row0 + e.height ≤ 50) &&
      (List.range 16).all fun q => q == p || !(partOn img q) || !(rectsMeet e (img.parts.getD q {})))

/-- The areas of a carve-out in direct slots: first slot and count. -/
def carveAreas (img : Image) (j : Nat) (c : Carve) : List (Nat × Nat) :=
  let promo := (tgetD img.numeric j {}).promotionGib
  [(0, c.controlGib), (c.basinSlot, c.basinGib), (c.spillSlot, c.spillGib)] ++ (if promo = 0 then [] else [(c.promotionSlot, promo)])

/-- Check 0x07 on one record. -/
def carveOk (img : Image) (j : Nat) (c : Carve) : Bool :=
  let areas := carveAreas img j c
  let named := c.regionMap.map (·.2)
  partOn img (j / 2) && (j % 2 == 0 || (tget img.carves (j - 1)).isSome) &&
  (img.carves.all fun o => o.1 == j || o.2.regions.all fun r => !(c.regions.contains r)) &&
  named.all (fun r => c.regions.contains r) && named.eraseDups.length == named.length &&
  decide (1 ≤ c.controlGib) && decide (c.controlGib ≤ 32) && decide (1 ≤ c.basinGib) && decide (c.basinGib ≤ 64) &&
  decide (1 ≤ c.spillGib) && decide (c.spillGib ≤ 64) && ((tgetD img.numeric j {}).promotionGib != 0 || c.promotionSlot == 0xFFFF) &&
  (areas.all fun a => (List.range a.2).all fun k => (tget c.regionMap (a.1 + k)).isSome) &&
  (List.range areas.length).all fun i => (List.range i).all fun k =>
    let x := areas.getD i (0, 0)
    let y := areas.getD k (0, 0)
    decide (x.1 + x.2 ≤ y.1) || decide (y.1 + y.2 ≤ x.1)

/-- Check 0x08 on one record: directory allotments stay inside the directory and apart. -/
def allotOk (img : Image) (j : Nat) (c : Carve) : Bool :=
  decide (c.dirBase + c.dirCount ≤ 524288) &&
  img.carves.all fun o => o.1 == j || c.dirCount == 0 || o.2.dirCount == 0 ||
    decide (c.dirBase + c.dirCount ≤ o.2.dirBase) || decide (o.2.dirBase + o.2.dirCount ≤ c.dirBase)

/-- Checks 0x07 to 0x09. -/
def checkCarves (img : Image) : Option CheckFail :=
  let on := fun (f : Nat → Carve → Bool) (j : Nat) => match tget img.carves j with | none => true | some c => f j c
  (needAll 32 7 2 (on (carveOk img))).or <|
  (needAll 32 8 2 (on (allotOk img))).or <|
  needAll 64 9 3 fun i =>
    let x := (img.mbSlots ++ img.policySlots).getD i 0
    !(bit x 7) || (partOn img (x % 16) && (tget img.carves (2 * (x % 16) + (bit x 4).toNat)).isSome)

/-- Checks 0x0A and 0x0B: the Pass section and the routes. -/
def checkPass (img : Image) : Option CheckFail :=
  let a := img.pass.allot
  let r := img.pass.routes
  (needAll 32 0x0A 4 fun n => decide (img.pass.ports.getD n 0 % 4 ≤ 2)).or <|
  (needAll 8 0x0A 4 fun v => a.getD v 0 == 0 || (decide (65 ≤ a.getD v 0) && decide (a.getD v 0 ≤ 15360))).or <|
  (need (decide (a.sum ≤ 15360)) (0x0A, 4, noEntry)).or <|
  (need (decide (r.length ≤ 65536)) (0x0B, 5, noEntry)).or <|
  needAll r.length 0x0B 5 fun i =>
    let e := r.getD i 0
    decide (rLength e ≤ 20) && rPrefix e % 2 ^ (20 - rLength e) == 0 && decide (rBase e + rCount e ≤ 32) && !(rLocal e && rDrop e) &&
    (!(rValid e) || (List.range i).all fun k =>
      let o := r.getD k 0
      !(rValid o) || rPrefix o != rPrefix e || rLength o != rLength e)

/-- Check 0x0C on one port. -/
def ethOk (img : Image) (e : EthCfg) : Bool :=
  ((List.range 16).all fun p => !(bit e.mask p) || partOn img p) &&
  ((List.range 3).all fun k => decide (1 ≤ e.weights / 16 ^ k % 16)) &&
  e.boots.all fun x =>
    !(bit (rd x.2 16 1) 0) ||
    ((match tget e.sources (rd x.2 17 1) with
      | some s => decide (rd x.2 17 1 < 16) && bit (rd s 16 1) 0 && rd s 16 1 / 16 == x.1
      | none => false) &&
     decide (rd x.2 21 1 ≤ 2) && decide (10 ≤ rd x.2 22 1) && decide (rd x.2 22 1 ≤ 20) && decide (rd x.2 23 1 ≤ 7))

/-- Check 0x0D. -/
def checkPower (p : PowerCfg) : Option CheckFail :=
  (need (decide (800 ≤ p.cap) && decide (p.cap ≤ 4400) && decide (40 ≤ p.current) && decide (p.current ≤ 140) &&
    decide (85 ≤ p.throttle) && decide (p.throttle ≤ 105)) (0x0D, 7, noEntry)).or <|
  needAll 16 0x0D 7 fun i => decide (1 ≤ p.shares.getD i 0) && decide (p.shares.getD i 0 ≤ 100)

/-- Check 0x0E on one record: the ranges of R185; the promotion area lies in mapped slots by check 0x07. -/
def numOk (e : Bytes) : Bool :=
  let n := readNum e
  let mode := bits (rd e 3 1) 3 2
  decide (n.speculation ≤ 2) && (mode == 1 || mode == 2) && decide (n.expMax ≤ 32) && decide (n.expMin ≤ n.expInit) &&
  decide (n.expInit ≤ n.expMax) && decide (1 ≤ n.growth) && decide (1 ≤ n.skipLimit) && decide (1 ≤ n.history) &&
  decide (n.history ≤ 14) && decide (n.margin ≤ 3) && decide (1 ≤ n.block) && decide (n.block ≤ 4) && decide (n.promotionGib ≤ 16)

/-- Check 0x10 on one record. -/
def trigOk (t : TrigCfg) : Bool :=
  (t.timer == 0 || (decide (10 ≤ t.timer) && decide (t.timer ≤ 86400))) && decide (1 ≤ t.thermalMargin) && decide (t.thermalMargin ≤ 20)

/-- The first check of R464 that an image fails. -/
def imageFault (b : Bytes) : Option CheckFail :=
  (checkHeader b).or <| (checkDirectory b).or <| (checkReserved b).or <|
  let img := readImage b
  (checkParts img).or <| (checkCarves img).or <| (checkPass img).or <|
  (needAll 4 0x0C 6 fun q => ethOk img (img.eth.getD q {})).or <| (checkPower img.power).or <|
  (needAll 32 0x0E 8 fun j => numOk (sub (secBytes b 7) (16 * j) 16)).or <|
  (need (decide (1 ≤ img.sweepRate) && decide (img.sweepRate ≤ 32)) (0x0F, 9, noEntry)).or <|
  needAll 32 0x10 10 fun j => trigOk (tgetD img.triggers j {})

/-- The image in a user slot: the bytes that its header counts, at most 1 MiB. -/
def slotImage (f : FlashSlot) : Bytes := flashRead f 0 (min (rd (flashRead f 8 4) 0 4) (2 ^ 20))

end Sys2Proof.Machine
end

