-- ==== Sys2Proof/Machine/Firmware.lean ====
section
/-! DEFINITION. Firmware sets and their checks, the boot measurement, and the acceptance of an activation (R568, R570, R572, R574
to R578, R588). -/

namespace Sys2Proof.Machine

/-! ### What a measurement stands on -/

/-- Material of a slot. -/
def slotMaterial (s : State) (n : Nat) : Bytes := ((tget s.glen.slots n).map (·.material)).getD []

/-- The life-cycle state from the fuse rows (R581): 0 Blank, 1 Test, 2 Production, 3 End-of-life. -/
def lifeCycleOf (rows : List Nat) : Nat :=
  let complete := fun (i : Nat) => bit (rows.getD i 0) 31
  if complete 2 ∨ complete 3 then 3 else if complete 1 then 2 else if complete 0 then 1 else 0

/-- The life-cycle state in effect (R583). -/
def lifeCycle (s : State) : Nat := s.lc.current

/-- The accepted digests of a policy (R496). -/
def accepts (policy m : Bytes) : Bool := (List.range (rd policy 0x12 1)).any fun i => sub policy (0x420 + 32 * i) 32 == m

/-! ### Manifests (R574) -/

/-- The signed part of a manifest. -/
def signedLength : Nat := 0x380

/-- Security version and serial of a manifest. -/
def mSecurity (m : Bytes) : Nat := rd m 8 1
def mSerial (m : Bytes) : Nat := rd m 0x10 8
def mMajor (m : Bytes) : Nat := rd m 5 1

/-- The i-th image entry. -/
def mEntry (m : Bytes) (i : Nat) : Bytes := sub m (0x80 + 128 * i) 128

/-- Type and version of an entry. -/
def eType (e : Bytes) : Nat := rd e 0 2
def eVersion (e : Bytes) : Nat := rd e 4 4

/-- The boot measurement that a manifest gives with a life-cycle state (R572). -/
def measureWith (m : Bytes) (state : Nat) : Bytes :=
  sha256 (ascii "mutrum boot" ++ [0] ++ sub Config.romDigest 0 32 ++ sha256 m ++ leBytes 1 (mSecurity m) ++ leBytes 1 state)

/-! ### Checks (R570, R575, R577) -/

/-- The manifest's form: magic, a native or hardware-type-bound format, six entries in increasing type, a security version in
range. -/
def manifestForm (m : Bytes) : Bool :=
  sub m 0 4 == [0x4D, 0x46, 0x57, 0x4D] && (rd m 4 2 == 0x0200 || rd m 4 2 == 0x0100) && rd m 6 2 == 6 && decide (mSecurity m ≤ 64) &&
  (List.range 6).all fun i => eType (mEntry m i) == i + 1

/-- An image decrypts under its tag to the plaintext of its digest. -/
def imageOpens (read : Nat → Nat → Bytes) (key e : Bytes) : Bool :=
  match gcmOpen key (sub e 16 12) (sub e 0 16) (read (rd e 8 4) (rd e 12 4)) (sub e 32 16) with
  | none => false
  | some p => sha256 p == sub e 48 32

/-- The plaintext of the image of a type in a set, which its checks have found to open (R570). -/
def imagePlain (read : Nat → Nat → Bytes) (key : Nat → Option Bytes) (typ : Nat) : Bytes :=
  let m := read 0 signedLength
  let e := mEntry m (typ - 1)
  (((key (mMajor m)).bind fun k => gcmOpen k (sub e 16 12) (sub e 0 16) (read (rd e 8 4) (rd e 12 4)) (sub e 32 16))).getD []

/-- The four microcode stores load the control-unit microcode of a set: the image of type 1 (R70, R569). -/
def loadStores (read : Nat → Nat → Bytes) (key : Nat → Option Bytes) : List Bytes := List.replicate 4 (imagePlain read key 1)

/-- The first entry outside whose range another's version lies: that type and version (R575). -/
def unqualified (m : Bytes) : Option (Nat × Nat) :=
  (List.range 6).findSome? fun i => (List.range 6).findSome? fun t =>
    let v := eVersion (mEntry m t)
    let e := mEntry m i
    if t = i ∨ (rd e (80 + 8 * t) 4 ≤ v ∧ v ≤ rd e (84 + 8 * t) 4) then none else some (t + 1, v)

/-- Why a set fails R570, as FW_COMMIT numbers the causes: cause, image type and version found. The reader gives the set's bytes,
the keys are those of the two formats, and the last argument is the least security version. -/
def setFault (read : Nat → Nat → Bytes) (key : Nat → Option Bytes) (least : Nat) : Option (Nat × Nat × Nat) :=
  let m := read 0 signedLength
  let bad := fun (ok : Bytes → Bool) => ((List.range 6).map (mEntry m)).find? fun e => !(ok e)
  if ¬ manifestForm m then some (1, 0, 0)
  else if ¬ Config.slh256Verify (sub (Config.romKey 1) 0 64) m (read signedLength 29792) then some (2, 0, 0)
  else if rd m 0x18 2 ≠ 0x8012 then some (3, 0, 0)
  else
    match bad fun e => ((key (mMajor m)).map fun k => imageOpens read k e).getD false with
    | some e => some (4, eType e, eVersion e)
    | none =>
      match bad fun e => bit (rd e 2 2) 2 with
      | some e => some (5, eType e, eVersion e)
      | none =>
        match unqualified m with
        | some (t, v) => some (6, t, v)
        | none => if mSecurity m < least then some (7, 0, 0) else none

/-- Result bytes of a failed check (R577). -/
def fwResult (f : Nat × Nat × Nat) : Bytes := leBytes 1 f.1 ++ [0] ++ leBytes 2 f.2.1 ++ leBytes 4 f.2.2

/-- A firmware slot: 64 MiB, whose last 4 KiB hold the validity mark (R568). -/
def fwSlotSize : Nat := 64 * 2 ^ 20 - 4096

/-- The image keys that Glen holds, by format: K3 native, K4 hardware-type-bound (R488). -/
def heldKey (s : State) (major : Nat) : Option Bytes :=
  if major = 2 then (tget s.glen.slots 3).map (·.material) else if major = 1 then (tget s.glen.slots 4).map (·.material) else none

/-- Why the set in a slot fails. -/
def slotFault (s : State) (slot : Nat) : Option (Nat × Nat × Nat) :=
  setFault (flashRead (slotOf s.fw.slots slot)) (heldKey s) s.lc.security

/-- Detail of a kind 0x07 record (R588). -/
def fwDetail (m : Bytes) (slot cause : Nat) : Bytes :=
  sha256 m ++ leBytes 8 (mSerial m) ++ leBytes 1 (mSecurity m) ++ leBytes 1 slot ++ leBytes 1 cause

/-- The signed part of the manifest in a slot. -/
def slotManifest (s : State) (slot : Nat) : Bytes := flashRead (slotOf s.fw.slots slot) 0 signedLength

/-! ### FW_ACTIVATE (R578) -/

/-- An activation of a configuration image waits for its record (R469). -/
def configBusy (s : State) : Bool :=
  s.ledger.deferred.any fun d => match d.change with | .configActivate _ _ => true | _ => false

/-- An activation of a firmware set waits for its record or runs. -/
def fwRunning (s : State) : Bool :=
  s.fw.activating.isSome || s.ledger.deferred.any fun d => match d.change with | .fwActivate _ => true | _ => false

/-- What an FW_ACTIVATE waits for. -/
def fwWaits (s : State) : Bool :=
  configBusy s || fwRunning s || s.jobs.any fun b => b.2.capture.phase != .none || b.2.restore.isSome

/-- Some job of the Proend has a policy that does not list the measurement of a new set (R578). -/
def fwUnlisted (s : State) (new : Bytes) : Bool := s.jobs.any fun b => !(accepts b.2.policy (measureWith new (lifeCycle s)))

/-- Judge an FW_ACTIVATE whose wait is over: refused where a job's policy does not list the new measurement or the set fails its
checks; else its record is written, and it takes effect when that is in the mirror. -/
def fwActivateRun (m : Msg) (slot : Nat) (s : State) : State :=
  let new := slotManifest s slot
  let refuse := fun (cause : Nat) (s : State) => ledgerFor m 0x07 5 0xFF false 0 (fwDetail new slot cause) s
  if s.ledger.mirrorFault then complete m 0x1A s
  else if ¬ (slotOf s.fw.slots slot).valid then complete m 0x12 s
  else if fwUnlisted s new then complete m 0x18 (refuse 0 s)
  else
    match slotFault s slot with
    | some f => completeResult m 0x12 (fwResult f) (refuse f.1 s)
    | none => deferChange m (.fwActivate ⟨slot, new⟩) (ledgerFor m 0x07 2 0xFF true 0 (fwDetail new slot 0) s)

/-- Start an FW_ACTIVATE: one that a policy refuses completes at once, and any other waits where R578 says so. -/
def fwActivateBody (m : Msg) (s : State) : State :=
  let slot := arg m.bytes 0 1
  if ¬ isManagement m then complete m 0x13 s
  else if 1 < slot ∨ ¬ (slotOf s.fw.slots slot).valid then complete m 0x12 s
  else if fwWaits s ∧ ¬ fwUnlisted s (slotManifest s slot) then keepRunning m (.fwWait slot) s
  else fwActivateRun m slot s

end Sys2Proof.Machine
end

