-- ==== Sys2Proof/Machine/Tensor.lean ====
section
/-! DEFINITION. Tensors: the descriptor's fields (R195 to R199), logical values (R110 to R116), writes with
their block scales (R150 to R153, R652), scale history (R155 to R157) and statistics records (R158). -/

namespace Sys2Proof.Machine

/-! ### Descriptor fields (R195) -/

def tBase (b : Bytes) : Nat := rd b 0 5
def tFmt (b : Bytes) : Nat := rd b 5 1 % 16
def tRank (b : Bytes) : Nat := rd b 5 1 / 16 % 8
def tBlockCode (b : Bytes) : Nat := rd b 6 1 % 8
def tBf16Scale (b : Bytes) : Bool := bit (rd b 6 1) 3
def tFixed (b : Bytes) : Bool := bit (rd b 6 1) 4
def tDynamic (b : Bytes) : Bool := bit (rd b 6 1) 5
def tMargin (b : Bytes) : Nat := rd b 7 1 % 4
def tMarginSet (b : Bytes) : Bool := bit (rd b 7 1) 2
def tHistory (b : Bytes) : Nat := rd b 7 1 / 8 % 16
def tFixedScale (b : Bytes) : Nat := rd b 8 1
def tReadOnly (b : Bytes) : Bool := bit (rd b 9 1) 0
def tSlotIndexed (b : Bytes) : Bool := bit (rd b 9 1) 1
def tTag (b : Bytes) : Nat := rd b 10 2
def tParent (b : Bytes) : Nat := rd b 14 2
def tExt (b : Bytes) (i : Nat) : Nat := rd b (16 + 3 * i) 3
def tStride (b : Bytes) (i : Nat) : Nat := rd b (31 + 4 * (i - 1)) 4
def tScaleBits (b : Bytes) : Nat := rd b 48 4
def tScaleTensor (b : Bytes) : Nat := rd b 52 2
def tRecord (b : Bytes) : Nat := rd b 54 2
def tLogical (b : Bytes) : Nat := rd b 56 4
def tOrigin (b : Bytes) : Nat := rd b 60 3
def tShard (b : Bytes) : Nat := rd b 63 1 % 8

/-- Extents of the dimensions below the rank. -/
def tExts (b : Bytes) : List Nat := (List.range (tRank b)).map (tExt b)

/-- A tensor table entry of a job. -/
def tensorAt (s : State) (j i : Nat) : Option TensorE := (tget s.jobs j).bind fun b => tget b.tensors i

/-- Change a tensor table entry. -/
def modTensor (j i : Nat) (f : TensorE → TensorE) (s : State) : State :=
  modJob j (fun b => { b with tensors := tmod b.tensors i f }) s

/-- Follow the parent links: fuel, index. -/
def parentRoot (ts : Tab TensorE) : Nat → Nat → Nat
  | 0, i => i
  | k + 1, i =>
    match tget ts i with
    | none => i
    | some e => if tParent e.raw = 0xFFFF then i else parentRoot ts k (tParent e.raw)

/-- The data tensor that names an entry as its scale tensor. -/
def scaledBy (ts : Tab TensorE) (i : Nat) : Option Nat := (ts.find? fun p => tScaleTensor p.2.raw == i && p.1 != i).map (·.1)

/-- The root of an entry (R198): that of the data tensors whose scale tensor it is, or the end of its own parent links, or, where
these end at a scale tensor, the root of the data tensors of that one. -/
def rootOf (ts : Tab TensorE) (i : Nat) : Nat :=
  match scaledBy ts i with
  | some p => parentRoot ts ts.length p
  | none =>
    let e := parentRoot ts ts.length i
    match scaledBy ts e with
    | some p => parentRoot ts ts.length p
    | none => e

/-- The owner mask that an entry reads with: its root's (R198). -/
def ownerMask (s : State) (j i : Nat) : Nat :=
  match tget s.jobs j with
  | none => 0
  | some b => ((tget b.tensors (rootOf b.tensors i)).map (·.mask)).getD 0

/-- OR owner bits into an entry's root (R43, R44, R198). -/
def orMask (j i mask : Nat) (s : State) : State :=
  match tget s.jobs j with
  | none => s
  | some b => modTensor j (rootOf b.tensors i) (fun e => { e with mask := e.mask ||| mask }) s

/-- A tensor as an operation sees it: extents and byte strides of its dimensions, effective base, format,
exact tensor scale, block size, scale kind, fixed scale, and its scale tensor's base and strides. -/
structure TV where
  idx : Nat
  fmt : Fmt
  ext : List Nat
  stride : List Nat
  base : Nat
  ts : Rat
  block : Nat
  bf16 : Bool
  fixed : Option Nat
  scaleBase : Nat
  scaleStride : List Nat
  /-- Elements of the root's block that a view's last block leaves out along dimension 0 (R652). -/
  tail : Nat := 0

/-- Number of elements of a list of extents. -/
def product (l : List Nat) : Nat := l.foldl (· * ·) 1

/-- Elements of a tensor. -/
def TV.count (v : TV) : Nat := product v.ext

/-- Byte strides: the element size, then the descriptor's in units of 64 bytes. -/
def strides (b : Bytes) : List Nat :=
  (List.range (tRank b)).map fun i =>
    if i = 0 then fmtBytes ((fmtOf (tFmt b)).getD .fp32) else tStride b i * 64

/-- The effective base of R199. -/
def effBase (b : Bytes) (slot slotStride : Nat) : Nat :=
  tBase b + (if tSlotIndexed b then slot * slotStride else 0)

/-- The block size of a block code, with the job default for 0 (R195, R185). -/
def blockSize (code dflt : Nat) : Nat := 8 * 2 ^ (if code = 0 then dflt else code)

/-- The current tensor scale as FP32 bits: the record's for a dynamic tensor (R197). -/
def scaleBits (b : Job) (raw : Bytes) : Nat :=
  if tDynamic raw then ((tget b.hist (tRecord raw)).map fun h => rd h 0 4).getD (tScaleBits raw)
  else tScaleBits raw

/-- The scale of a dynamic tensor for a recomputation whose commit entry holds a generation (R269). -/
def journalScale (b : Job) (i g : Nat) (raw : Bytes) : Nat :=
  let es := b.num.journal.filter fun e => e.tensor == i
  match (es.filter fun e => decide (e.generation ≤ g)).getLast?, es.head? with
  | some e, _ => e.new
  | none, some e => e.old
  | none, none => scaleBits b raw

/-- The index of a byte distance in a tensor's strides, from the highest dimension down. -/
def indexAt (ext stride : List Nat) (delta : Nat) : List Nat :=
  ((ext.zip stride).reverse.foldl (fun (acc : List Nat × Nat) e =>
    let i := if e.2 = 0 then 0 else min (acc.2 / e.2) (e.1 - 1)
    (i :: acc.1, acc.2 - i * e.2)) ([], delta)).1

/-- The elements of its root's last touched block that a view leaves out along dimension 0 (R652). -/
def blockTail (ts : Tab TensorE) (i : Nat) (raw : Bytes) (block : Nat) : Nat :=
  let e0 := tExt raw 0
  if tParent raw = 0xFFFF ∨ e0 % block = 0 then 0
  else
    match tget ts (parentRoot ts ts.length i) with
    | none => 0
    | some r =>
      let start := (indexAt (tExts r.raw) (strides r.raw) (tBase raw - tBase r.raw)).headD 0
      min (block - e0 % block) (tExt r.raw 0 - (start + e0))

/-- A tensor as seen by a program with a slot, at the current scales or at those of a generation. -/
def viewOf (b : Job) (slot slotStride : Nat) (gen : Option Nat) (i : Nat) : Option TV :=
  (tget b.tensors i).bind fun e =>
    (fmtOf (tFmt e.raw)).map fun f =>
      let sc := tget b.tensors (tScaleTensor e.raw)
      let bitsTs := match gen with
        | some g => if tDynamic e.raw then journalScale b i g e.raw else tScaleBits e.raw
        | none => scaleBits b e.raw
      { idx := i, fmt := f, ext := tExts e.raw, stride := strides e.raw,
        base := effBase e.raw slot slotStride,
        ts := (decodeBits .fp32 bitsTs).rat,
        block := blockSize (tBlockCode e.raw) b.cfg.block,
        bf16 := tBf16Scale e.raw,
        fixed := if tFixed e.raw then some (tFixedScale e.raw) else none,
        scaleBase := (sc.map fun c => effBase c.raw slot slotStride).getD 0,
        scaleStride := (sc.map fun c => strides c.raw).getD []
        tail := if is8 f then blockTail b.tensors i e.raw (blockSize (tBlockCode e.raw) b.cfg.block) else 0 }

/-! ### Elements -/

/-- The index of element `n` in element order: dimension 0 innermost. -/
def indexOf : List Nat → Nat → List Nat
  | [], _ => []
  | e :: es, n => n % e :: indexOf es (n / e)

/-- The element number of an index. -/
def flatten : List Nat → List Nat → Nat
  | e :: es, i :: is => i + e * flatten es is
  | _, _ => 0

/-- The sum of index times stride. -/
def dotIdx : List Nat → List Nat → Nat
  | i :: is, s :: ss => i * s + dotIdx is ss
  | _, _ => 0

/-- The job offset of an element. -/
def elemAddr (v : TV) (ix : List Nat) : Nat := v.base + dotIdx ix v.stride

/-- The job offset of an element's block scale (R196). -/
def scaleAddr (v : TV) (ix : List Nat) : Nat :=
  v.scaleBase + dotIdx (match ix with | [] => [] | i :: is => i / v.block :: is) v.scaleStride

/-- A byte source: a job offset's byte. -/
abbrev Src := Nat → Byte

/-- `n` bytes of a source as a little-endian number. -/
def srcNum (m : Src) (a n : Nat) : Nat := leNat ((List.range n).map fun i => m (a + i))

/-- A block scale read from storage: none for a scale whose block reads as NaN, with the invalid event of a
bad BF16 scale (R111, R112). -/
def readScale (bf16 : Bool) (bits8 : Nat) : Option Rat × Bool :=
  if bf16 then
    match decodeBits .bf16 bits8 with
    | .nan => (none, false)
    | .num q => if pow2 (-126) ≤ q then (some q, false) else (none, true)
    | _ => (none, true)
  else if bits8 = 0xFF then (none, false) else (some (pow2 ((bits8 : Int) - 127)), false)

/-- The logical value without the tensor scale of an element: decode times block scale, exact (R114). -/
def rawValue (m : Src) (v : TV) (ix : List Nat) : Val × NumFlags :=
  let e := readElem v.fmt (srcNum m (elemAddr v ix) (fmtBytes v.fmt))
  if is8 v.fmt then
    let sc := readScale v.bf16 (srcNum m (scaleAddr v ix) (if v.bf16 then 2 else 1))
    match sc.1 with
    | none => (.nan, orFlags e.2 (invalidIf sc.2))
    | some q => ((mulVal e.1 (.num q)).1, e.2)
  else e

/-- The logical value of R114. -/
def logical (m : Src) (v : TV) (ix : List Nat) : Val × NumFlags :=
  let r := rawValue m v ix
  ((mulVal r.1 (ofRat false v.ts)).1, r.2)

/-- The logical value by element number. -/
def logicalN (m : Src) (v : TV) (n : Nat) : Val × NumFlags := logical m v (indexOf v.ext n)

/-! ### Writes -/

/-- A real result as a value: an enclosure by its middle at 640 bits (log 7). -/
def approx : RealV → Val
  | .val v => v
  | .iv f => let a := f 640; ofRat (decide (a.1 < 0)) ((a.1 + a.2) / 2)

/-- What a write produced, for flags, statistics and the numeric guard. -/
structure WriteSum where
  flags : NumFlags := noFlags
  /-- The events by element. -/
  events : List (List Nat × NumFlags) := []
  elements : Nat := 0
  zeroCount : Nat := 0
  saturations : Nat := 0
  nonFinite : Nat := 0
  amax : Rat := 0
  /-- A finite value became non-finite in conversion to a 16-bit or wider format (R172). -/
  overflowed : Bool := false
  /-- A non-finite value was already non-finite before conversion. -/
  wasNonFinite : Bool := false

/-- Add events at an element. -/
def addEvent (w : WriteSum) (ix : List Nat) (f : NumFlags) : WriteSum :=
  if f = noFlags then w else { w with flags := orFlags w.flags f, events := w.events ++ [(ix, f)] }

/-- Add one encoded element to the sum. -/
def addElem (w : WriteSum) (f : Fmt) (ix : List Nat) (v : Val) (c : Conv) : WriteSum :=
  let d := decodeBits f c.bits
  let w := addEvent w ix c.flags
  { flags := w.flags
    events := w.events
    elements := w.elements + 1
    zeroCount := w.zeroCount + (match d with | .zero _ => 1 | _ => 0)
    saturations := w.saturations + (if is8 f && c.beyond then 1 else 0)
    nonFinite := w.nonFinite + d.nonFinite.toNat
    amax := if v.nonFinite then w.amax else max w.amax (qabs v.rat)
    overflowed := w.overflowed || (d.nonFinite && !v.nonFinite)
    wasNonFinite := w.wasNonFinite || (d.nonFinite && v.nonFinite) }

/-- The E8M0 scale of R150. -/
def chooseE8m0 (f : Fmt) (ts amax : Rat) : Nat :=
  if amax = 0 then 0x7F
  else (min 127 (max (-127) (clog2 (amax / (ts * fmtMax f)))) + 127).toNat

/-- The BF16 scale of R152: the smallest positive normal one that holds the block, or the largest. -/
def chooseBf16 (f : Fmt) (ts amax : Rat) : Nat :=
  if amax = 0 then 0x3F80
  else
    let x := amax / (ts * fmtMax f)
    if x ≤ pow2 (-126) then 0x0080
    else if x > fmtMax .bf16 then 0x7F7F
    else
      let q := quantum .bf16 x
      let m := ((x / pow2 q).num.natAbs + (x / pow2 q).den - 1) / (x / pow2 q).den
      min (packBits .bf16 false m q) 0x7F7F

/-- The scale that a largest magnitude of a block takes (R150, R152). -/
def scaleOfMax (v : TV) (a : Rat) : Nat := if v.bf16 then chooseBf16 v.fmt v.ts a else chooseE8m0 v.fmt v.ts a

/-- The bounds of a real result's magnitude at a precision. -/
def absIv (p : Nat) : RealV → Iv
  | .val v => (qabs v.rat, qabs v.rat)
  | .iv f =>
    let a := f p
    (if a.1 < 0 ∧ a.2 > 0 then 0 else min (qabs a.1) (qabs a.2), max (qabs a.1) (qabs a.2))

/-- The scale of a block's real results where a precision decides it. -/
def scaleAt (v : TV) (vals : List RealV) (p : Nat) : Option Nat :=
  let bounds := vals.map (absIv p)
  let lo := scaleOfMax v (bounds.foldl (fun a b => max a b.1) 0)
  if lo = scaleOfMax v (bounds.foldl (fun a b => max a b.2) 0) then some lo else none

/-- The chosen scale of a block of finite real results, by the least of three precisions that decides it, else by the values' middles
(R651, log 7). -/
def chooseReal (v : TV) (vals : List RealV) : Nat :=
  (([128, 640, 2600].filterMap (scaleAt v vals)).head?).getD
    (scaleOfMax v (vals.foldl (fun a x => max a (qabs (approx x).rat)) 0))

/-- A block's chosen scale, or none for a non-finite block with its invalid event (R116, R152). -/
def chooseScale (v : TV) (vals : List RealV) : Option Nat × Bool :=
  if vals.any fun x => (approx x).nonFinite then
    (none, vals.any (fun x => match approx x with | .inf _ => true | _ => false) && !(vals.any fun x => approx x == .nan))
  else (some (chooseReal v vals), false)

/-- The scale bits of fixed mode (R152, R195). -/
def fixedBits (v : TV) (e : Nat) : Nat := if v.bf16 then (e % 256) * 128 else e

/-- Bytes to store: job offset and value bytes, in order. -/
abbrev Stores := List (Nat × Bytes)

/-- Encode one block of an 8-bit tensor (R115, R116, R150 to R153, R651, R652): the elements of the block with
their new values, none where the write leaves one, which is read again for the scale (R112, R153). -/
def encodeBlock (m : Src) (v : TV) (ixs : List (List Nat)) (news : List (Option RealV)) (w : WriteSum) :
    Stores × WriteSum :=
  if news.all Option.isNone then ([], w)
  else
    let nb := if v.bf16 then 2 else 1
    let at0 := scaleAddr v (ixs.headD [])
    match v.fixed with
    | some e =>
      let sb := fixedBits v e
      let q := ((readScale v.bf16 sb).1).getD 1
      (ixs.zip news).foldl (fun acc p =>
        match p.2 with
        | none => acc
        | some r =>
          let c := roundReal v.fmt 6 (scaleReal (1 / (v.ts * q)) r)
          (acc.1 ++ [(elemAddr v p.1, leBytes 1 c.bits)], addElem acc.2 v.fmt p.1 (approx r) c))
        (if news.all Option.isSome then [(at0, leBytes nb sb)] else [], w)
    | none =>
      let vals : List (RealV × NumFlags) := (ixs.zip news).map fun p =>
        match p.2 with | some r => (r, noFlags) | none => let x := logical m v p.1; (.val x.1, x.2)
      let w := (ixs.zip vals).foldl (fun w p => addEvent w p.1 p.2.2) w
      let ch := chooseScale v (vals.map (·.1))
      match ch.1 with
      | none =>
        let c : Conv := ⟨nanBits v.fmt, invalidIf ch.2, false⟩
        (ixs.zip vals).foldl (fun acc p =>
          (acc.1 ++ [(elemAddr v p.1, leBytes 1 c.bits)],
            { addElem acc.2 v.fmt p.1 (approx p.2.1) c with wasNonFinite := true, overflowed := acc.2.overflowed }))
          ([(at0, leBytes nb (if v.bf16 then 0x7FC0 else 0xFF))], w)
      | some sb =>
        let q := ((readScale v.bf16 sb).1).getD 1
        (ixs.zip vals).foldl (fun acc p =>
          let c := roundReal v.fmt 6 (scaleReal (1 / (v.ts * q)) p.2.1)
          (acc.1 ++ [(elemAddr v p.1, leBytes 1 c.bits)], addElem acc.2 v.fmt p.1 (approx p.2.1) c))
          ([(at0, leBytes nb sb)], w)

/-- Encode one element of a tensor without block scales (R115, R217). -/
def encodeElem (v : TV) (key : Nat) (ix : List Nat) (r : RealV) (w : WriteSum) : Stores × WriteSum :=
  let c := roundReal v.fmt key (scaleReal (1 / v.ts) r)
  ([(elemAddr v ix, leBytes (fmtBytes v.fmt) c.bits)], addElem w v.fmt ix (approx r) c)

/-- Rows of a tensor: its indices in dimensions 1 and up, dimension 1 innermost (R216). -/
def rowsOf (v : TV) : Nat := product (v.ext.drop 1)

/-- Encode a whole tensor from its new values in element order, none for an element not written. -/
def encodeTensor (m : Src) (v : TV) (news : Nat → Option RealV) : Stores × WriteSum :=
  let e0 := v.ext.headD 1
  (List.range (rowsOf v)).foldl (fun acc row =>
    let rowIx := indexOf (v.ext.drop 1) row
    if is8 v.fmt then
      (List.range (ceilDiv e0 v.block)).foldl (fun acc k =>
        let is := (List.range (min v.block (e0 + v.tail - k * v.block))).map fun i => k * v.block + i
        let r := encodeBlock m v (is.map fun i => i :: rowIx) (is.map fun i => if i < e0 then news (row * e0 + i) else none) acc.2
        (acc.1 ++ r.1, r.2)) acc
    else
      (List.range e0).foldl (fun acc i =>
        match news (row * e0 + i) with
        | none => acc
        | some x =>
          let r := encodeElem v (row * e0 + i) (i :: rowIx) x acc.2
          (acc.1 ++ r.1, r.2)) acc) ([], {})

/-- Store encoded bytes at job offsets, by a task. -/
def applyStores (j : Nat) (st : Stores) (s : State) : State := st.foldl (fun t p => poke j p.1 p.2 t) s

/-! ### Scale history -/

/-- A fresh scale-history record (R155, R197): scale, no history, length and margin. -/
def freshRecord (scale len margin : Nat) : Bytes :=
  leBytes 4 scale ++ [0, 0] ++ leBytes 1 len ++ leBytes 1 margin ++ zeros 56

/-- The record's tensor is in calibration mode (R157). -/
def inCalibration (b : Job) (raw : Bytes) : Bool :=
  tDynamic raw && (match tget b.hist (tRecord raw) with | some h => rd h 4 1 == 0 | none => false)

/-- The scale, as FP32 bits, of a largest value and a margin for a format's maximum (R156). -/
def scaleFor (fm : Rat) (margin : Nat) (a : Rat) : Nat :=
  let e := clog2 (a * (2 : Rat) ^ margin / fm)
  (convertRat .fp32 (pow2 (min 127 (max (-126) e)))).bits

/-- next_scale of R156 over a record. -/
def nextScale (f : Fmt) (h : Bytes) : Nat :=
  let a := (List.range (rd h 4 1)).foldl (fun m i => max m (decodeBits .fp32 (rd h (8 + 4 * i) 4)).rat) 0
  if a = 0 then rd h 0 4 else scaleFor (fmtMax f) (rd h 7 1) a

/-- Push a step maximum, rounded up to FP32 and at most its largest finite value, keeping the newest H, and set the scale (R155, R156). -/
def pushMax (f : Fmt) (a : Rat) (h : Bytes) : Bytes :=
  let len := rd h 6 1
  let next := rd h 5 1
  let valid := min len (rd h 4 1 + 1)
  let h1 := overlay h (8 + 4 * next) (leBytes 4 (min (fp32Up a) 0x7F7FFFFF))
  let h2 := overlay h1 4 (leBytes 1 valid ++ leBytes 1 ((next + 1) % max len 1))
  overlay h2 0 (leBytes 4 (nextScale f h2))

/-- The record of R158. -/
def statRecord (w : WriteSum) (step span tensor fmtCode : Nat) (calibration promoted : Bool) : Bytes :=
  let sat := fun n => min n 0xFFFFFFFF
  leBytes 4 (sat w.elements) ++ leBytes 4 (sat w.zeroCount) ++ leBytes 4 (sat w.saturations) ++
  leBytes 4 (sat w.nonFinite) ++ leBytes 4 (fp32Up w.amax) ++ leBytes 4 (step % 2 ^ 32) ++ leBytes 2 span ++
  leBytes 2 tensor ++ leBytes 1 fmtCode ++ leBytes 1 (calibration.toNat + 2 * promoted.toNat) ++ zeros 2

end Sys2Proof.Machine
end

