-- ==== Sys2Proof/Machine/Array.lean ====
section
/-! DEFINITION. The cell array (R130 to R143): chunk sums, accumulation, operand fills with the
conversions of R219, R176 and F19 narrowing, the multiplies of R223 to R226 and attention (R227 to R230). -/

namespace Sys2Proof.Machine

/-- Events of an operation's arithmetic, at the unit whose task meets them: the position of an output, the part of a split reduction and
the index of an element that tell the unit; flags (R125, R126), an accumulation overflow (R139), a non-finite special-function result
(R169). -/
structure Event where
  out : Nat := 0
  part : Nat := 0
  ix : List Nat
  flags : NumFlags
  ovf : Bool := false
  special : Bool := false

/-- The events of a list that tell something. -/
def someEvents (l : List Event) : List Event := l.filter fun e => decide (e.flags ≠ noFlags) || e.ovf || e.special

/-- What an operation computes: the new values of each output tensor in element order, and the events of its arithmetic. -/
structure OpOut where
  outs : List (TV × Array (Option RealV)) := []
  events : List Event := []

/-- An accumulation overflow came up (R139). -/
def OpOut.accOverflow (o : OpOut) : Bool := o.events.any (·.ovf)

/-- A special function gave a non-finite result (R169). -/
def OpOut.specialBad (o : OpOut) : Bool := o.events.any (·.special)

/-- The union of the events' flags. -/
def OpOut.flags (o : OpOut) : NumFlags := o.events.foldl (fun f e => orFlags f e.flags) noFlags

/-- chunk_sum of R137: the exact sum of the products, and the invalid event. -/
def chunkSum (ps : List (Val × Val)) : Val × Bool :=
  if ps.any fun p => p.1 == .nan || p.2 == .nan then (.nan, false)
  else
    let pr := ps.map fun p => mulVal p.1 p.2
    if pr.any (·.2) then (.nan, true)
    else
      let vs := pr.map (·.1)
      let pos := vs.any (· == .inf false)
      let neg := vs.any (· == .inf true)
      if pos && neg then (.nan, true)
      else if pos then (.inf false, false)
      else if neg then (.inf true, false)
      else
        let sum := vs.foldl (fun a v => a + v.rat) 0
        if sum = 0 then (.zero (vs.all (· == .zero true)), false) else (.num sum, false)

/-- An accumulator: value, events, accumulation overflow. -/
structure Acc where
  v : Val
  flags : NumFlags := noFlags
  ovf : Bool := false

/-- One chunk added to an accumulator: one rounding of the sum, one of the addition (R136, R138, R139). -/
def accChunk (a : Acc) (ps : List (Val × Val)) : Acc :=
  let cs := chunkSum ps
  let c := roundTo .fp32 cs.1
  let sum := addVal a.v c.1
  let r := roundTo .fp32 sum.1
  let finite := fun (v : Val) => !v.nonFinite
  { v := r.1
    flags := orFlags (orFlags a.flags (invalidIf (cs.2 || sum.2))) (orFlags c.2 r.2)
    ovf := a.ovf || (finite cs.1 && c.1.nonFinite) || (finite a.v && finite c.1 && r.1.nonFinite) }

/-- The array procedure of R136 from an initial accumulator value, over the reduction in chunks of 16. -/
def arrayRun (init : Val) (a b : List Val) : Acc :=
  (pieces 16 (a.length / 16 + 1) (a.zip b)).foldl accChunk { v := init }

/-- The chunks of each part of a reduction (R135, R143): one part in the chained form, parts of q chunks in the split form. -/
def chunkParts {α : Type} (parts : Nat) (l : List α) : List (List (List α)) :=
  let chunks := pieces 16 (l.length / 16 + 1) l
  if parts ≤ 1 then [chunks]
  else
    let q := ceilDiv chunks.length parts
    (List.range parts).map fun kp => (chunks.drop (kp * q)).take q

/-- A partial tile added to a sum: one rounding (R143). -/
def addPart (x y : Acc) : Acc :=
  let sum := addVal x.v y.v
  let r := roundTo .fp32 sum.1
  { v := r.1
    flags := orFlags x.flags (orFlags r.2 (invalidIf sum.2))
    ovf := x.ovf || (!x.v.nonFinite && !y.v.nonFinite && r.1.nonFinite) }

/-- The partial tiles added in increasing order, with the events of the additions alone (R143). -/
def sumParts (l : List Acc) : Acc :=
  match l with
  | [] => { v := .zero false }
  | t :: ts => ts.foldl addPart { v := t.v }

/-! ### Operands -/

/-- How a fill prepares an operand (R105, R176, R219). -/
inductive FillMode where
  /-- As stored. -/
  | stored
  /-- FP32 narrowed to F19. -/
  | f19 (chop : Bool)
  /-- Re-encoded in an 8-bit format in blocks along the reduction dimension. -/
  | reblock (f : Fmt)
  /-- Rebuilt in a format under a fresh power-of-two tensor scale, and narrowed to F19 if asked. -/
  | rebuild (f : Fmt) (margin : Nat) (narrow : Option Bool)

/-- An operand element in the tile store: its value for the array, the events of its fill, its encoding and its block's E8M0 scale
(R132, R134). -/
structure FillElem where
  val : Val
  flags : NumFlags := noFlags
  bits : Nat := 0
  scale : Nat := 0x7F

/-- The values of filled elements. -/
def fillVals (l : List FillElem) : List Val := l.map (·.val)

/-- The events of filled elements. -/
def fillFlags (l : List FillElem) : NumFlags := l.foldl (fun f e => orFlags f e.flags) noFlags

/-- A block of values re-encoded in an 8-bit format with a chosen E8M0 scale (R116, R150, R219): values over
the tensor scale, decoded with their block scale. -/
def reblockVals (f : Fmt) (ts : Rat) (vals : List Val) : List FillElem :=
  if vals.any Val.nonFinite then
    let bad := vals.any (fun x => match x with | .inf _ => true | _ => false) && !(vals.any (· == .nan))
    vals.map fun _ => ⟨.nan, invalidIf bad, nanBits f, 0xFF⟩
  else
    let amax := vals.foldl (fun a x => max a (qabs x.rat)) 0
    let sc := chooseE8m0 f ts amax
    let q := pow2 ((sc : Int) - 127)
    vals.map fun x =>
      let c := convert f (mulVal x (.num (1 / (ts * q)))).1
      ⟨(mulVal (decodeBits f c.bits) (.num q)).1, c.flags, c.bits, sc⟩

/-- The largest finite magnitude of an operand's values (R176). -/
def amaxOf (v : TV) (val : List Nat → Val × NumFlags) : Rat :=
  (List.range v.count).foldl (fun (a : Rat) n =>
    let x := (val (indexOf v.ext n)).1
    if x.nonFinite then a else max a (qabs x.rat)) 0

/-- The fresh power-of-two tensor scale of R176. -/
def freshScale (f : Fmt) (margin : Nat) (amax : Rat) : Rat :=
  if amax = 0 then 1 else (decodeBits .fp32 (scaleFor (fmtMax f) margin amax)).rat

/-- A filled operand matrix: rows of elements along the reduction, the tensor scale to apply after, the format in the tile store,
whether F19 narrowing chops, and the size of its blocks. -/
structure Operand where
  rows : List (List FillElem)
  ts : Rat
  fmt : Fmt
  chop : Bool := false
  block : Nat := 16

/-- Row `i` of a filled operand. -/
def Operand.row (o : Operand) (i : Nat) : List FillElem := o.rows.getD i []

/-- An element of an operand as stored. -/
def storedElem (m : Src) (v : TV) (x : List Nat) : FillElem :=
  let r := rawValue m v x
  ⟨r.1, r.2, srcNum m (elemAddr v x) (fmtBytes v.fmt), if is8 v.fmt then srcNum m (scaleAddr v x) 1 else 0x7F⟩

/-- Fill an operand: its values, rows and reduction counts, and the tensor index of each (row, k). The values are what a
rebuilt operand is made from: a tensor's logical values, or master weights (R176). -/
def fillFrom (m : Src) (v : TV) (val : List Nat → Val × NumFlags) (mode : FillMode) (blockSz rows red : Nat)
    (ix : Nat → Nat → List Nat) : Operand :=
  let each := fun (g : List Nat → FillElem) => (List.range rows).map fun i => (List.range red).map fun k => g (ix i k)
  match mode with
  | .stored => ⟨each (storedElem m v), v.ts, v.fmt, false, v.block⟩
  | .f19 chop =>
    ⟨each fun x =>
      let b := srcNum m (elemAddr v x) 4
      ⟨decodeBits .fp32 (narrowF19 chop b), noFlags, b, 0x7F⟩, v.ts, .fp32, chop, 16⟩
  | .reblock f =>
    ⟨(List.range rows).map fun i =>
      let l := (List.range red).map fun k => logical m v (ix i k)
      let cs := ((pieces blockSz (red / blockSz + 1) (l.map (·.1))).map (reblockVals f v.ts)).flatten
      (l.zip cs).map fun x => { x.2 with flags := orFlags x.1.2 x.2.flags }, v.ts, f, false, blockSz⟩
  | .rebuild f margin narrow =>
    let q := freshScale f margin (amaxOf v val)
    ⟨each fun x =>
      let l := val x
      let c := convert f (mulVal l.1 (.num (1 / q))).1
      let e := match narrow with | some chop => decodeBits .fp32 (narrowF19 chop c.bits) | none => decodeBits f c.bits
      ⟨e, orFlags l.2 c.flags, c.bits, 0x7F⟩, q, f, narrow.getD false, 16⟩

/-- Fill an operand from its tensor's own values. -/
def fillOperand (m : Src) (v : TV) (mode : FillMode) (blockSz rows red : Nat) (ix : Nat → Nat → List Nat) : Operand :=
  fillFrom m v (logical m v) mode blockSz rows red ix

/-- The value of an addend (R224). -/
def addendValue (m : Src) (add : Option TV) (ix : List Nat) : Val × NumFlags :=
  match add with
  | none => (.zero true, noFlags)
  | some t => logical m t ix

/-- One element of a product (R136, R143, R224): the value to write, and its events at an index. -/
def productElem (m : Src) (parts : Nat) (a b : Operand) (i j : Nat) (add : Option TV) (ix : List Nat) : Val × List Event :=
  let ps := chunkParts parts ((a.row i).zip (b.row j))
  let tiles := ps.map fun p => (p.map fun c => c.map fun x => (x.1.val, x.2.val)).foldl accChunk { v := .zero false }
  let fills := ps.map fun p => p.flatten.foldl (fun f x => orFlags f (orFlags x.1.flags x.2.flags)) noFlags
  let acc := sumParts tiles
  let v := (mulVal acc.v (ofRat false (a.ts * b.ts))).1
  let ad := addendValue m add ix
  let sum := match add with | none => (v, false) | some _ => addVal v ad.1
  (sum.1, someEvents (⟨0, 0, ix, orFlags acc.flags (orFlags ad.2 (invalidIf sum.2)), acc.ovf, false⟩ ::
    ((tiles.zip fills).zipIdx.map fun t => ⟨0, t.2, ix, orFlags t.1.1.flags t.1.2, t.1.1.ovf, false⟩)))

/-- multiply of R224 over every batch index (R656): the operands of a batch, the output and the addend.
The output has the rows of b innermost, then the rows of a. -/
def multiply (m : Src) (out : TV) (opA opB : List Nat → Operand) (add : Option TV) (parts : Nat) : OpOut :=
  (List.range (product (out.ext.drop 2))).foldl (fun o bi =>
    let bix := indexOf (out.ext.drop 2) bi
    let a := opA bix
    let b := opB bix
    (List.range (out.ext.getD 1 1)).foldl (fun o i =>
      (List.range (out.ext.getD 0 1)).foldl (fun o j =>
        let e := productElem m parts a b i j add ((j :: i :: bix).take out.ext.length)
        { outs := o.outs.map fun p => (p.1, p.2.push (some (.val e.1))), events := o.events ++ e.2 }) o) o)
    { outs := [(out, #[])] }

/-- Indices of an operand whose reduction dimension is innermost (`true`) or second. -/
def operandIx (inner : Bool) (batch : List Nat) (rank : Nat) (i k : Nat) : List Nat :=
  (if inner then k :: i :: batch else i :: k :: batch).take rank

/-- Array classes (R130). -/
inductive Cls where
  | c8 | c16 | cF19
deriving DecidableEq, Repr

/-- The class of a stored format, where it has one. -/
def clsOf : Fmt → Option Cls
  | .e4m3 | .e5m2 => some .c8
  | .fp16 | .bf16 => some .c16
  | .fp32 => some .cF19
  | _ => none

/-- The promoted 16-bit format of a job (R185). -/
def promotedFmt (c : NumCfg) : Fmt := if c.promotedFp16 then .fp16 else .bf16

/-- The gradient format of a job (R185). -/
def gradFmt (c : NumCfg) : Fmt := if c.gradBf16 then .bf16 else .fp16

/-- F19 narrowing of a field code (R105, R223): 0 the job's default, 1 nearest even, 2 chop. -/
def narrowCode (c : NumCfg) (code : Nat) : Bool := if code = 0 then c.chop else code == 2

/-- The fill of a matmul operand (R176, R177): as stored at its span's base rung, and rebuilt at a promoted one. -/
def forwardMode (c : NumCfg) (v : TV) (margin : Nat) (promoted : Option Nat) (chop : Bool) : FillMode :=
  match promoted, clsOf v.fmt with
  | none, some .cF19 => .f19 chop
  | none, _ => .stored
  | some 1, _ => .rebuild (promotedFmt c) margin none
  | some _, _ => .rebuild .fp32 margin (some chop)

/-- The kind of operand that R219 distinguishes. -/
inductive FillRole where
  | gradient | probability | other
deriving DecidableEq, Repr

/-- The conversion of R219 for a class field, an operand and whether its blocks lie along the reduction. -/
def backwardMode (c : NumCfg) (cls : Nat) (role : FillRole) (v : TV) (margin : Nat) (along : Bool) : FillMode :=
  if cls = 0 then
    if is8 v.fmt then (if along then .stored else .reblock v.fmt)
    else if role = .gradient then .reblock .e5m2 else .reblock .e4m3
  else if is8 v.fmt then .rebuild (gradFmt c) margin none else .stored

/-! ### Attention (R227 to R230) -/

/-- The fields that both attention operations share. -/
structure AttnP where
  qPos : Nat
  kPos : Nat
  window : Nat
  causal : Bool
  sigma : Rat

/-- Visibility of R228. -/
def visible (p : AttnP) (i j : Nat) : Bool :=
  let qp := p.qPos + i
  let kp := p.kPos + j
  (!p.causal || decide (kp ≤ qp)) && (p.window == 0 || decide (qp < kp + p.window))

/-- exp rounded to FP16 of an FP32-rounded difference (R229); the flag tells a non-finite result. -/
def expFp16 (a b : Val) : Val × NumFlags × Bool :=
  let d := addVal a (negVal b)
  let r := roundTo .fp32 d.1
  let c := fnRound .fp16 .exp 1 r.1
  let v := decodeBits .fp16 c.bits
  (v, orFlags (orFlags (invalidIf d.2) r.2) c.flags, v.nonFinite)

/-- A list's exact sum with the binary32 conventions (R138). -/
def sumVals (l : List Val) : Val × Bool :=
  l.foldl (fun a v => let r := addVal a.1 v; (r.1, a.2 || r.2)) (.zero true, false)

/-- The exact sum as R229, R230, R239 and R241 take it: +0 for no term, and, where every term is −0, a zero of a sign that the manual
does not state (log 35). A NaN term gives NaN with no event (R125, R239). -/
def exactSum (l : List Val) : Val × Bool :=
  if l.isEmpty then (.zero false, false)
  else if l.any (· == .nan) then (.nan, false)
  else if l.all (· == .zero true) then (.zero Config.zeroSumSign, false)
  else sumVals l

/-- A dot product by R136 with its scales, rounded once to FP32 (R229). -/
def scaledDot (a b : List Val) (q : Rat) : Val × NumFlags × Bool :=
  let acc := arrayRun (.zero false) a b
  let r := roundTo .fp32 (mulVal acc.v (ofRat false q)).1
  (r.1, orFlags acc.flags r.2, acc.ovf)

/-- A list of FP16 values converted on fill along the reduction, with tensor scale 1 (R219). -/
def fillList (c8 : Bool) (f : Fmt) (blockSz : Nat) (l : List Val) : List Val × NumFlags :=
  if c8 then
    let x := ((pieces blockSz (l.length / blockSz + 1) l).map (reblockVals f 1)).flatten
    (fillVals x, fillFlags x)
  else (l, noFlags)

/-- The state of one query row of attention_fwd. -/
structure AttnRow where
  m : Val := .inf true
  l : Val := .zero false
  acc : List Val
  flags : NumFlags := noFlags
  ovf : Bool := false
  bad : Bool := false

/-- One key block of R229 for one query row: keys of the block with scores, values re-blocked along the
keys by `vcol`. -/
def attnBlock (c8 : Bool) (blockSz : Nat) (r : AttnRow) (scores : List Val) (vcol : List (List Val)) : AttnRow :=
  let mNew := scores.foldl maxVal r.m
  if mNew == .inf true then r
  else
    let c := expFp16 r.m mNew
    let ps := scores.map fun s => expFp16 s mNew
    let p := ps.map (·.1)
    let sum := exactSum p
    let lc := mulVal r.l c.1
    let ls := addVal lc.1 sum.1
    let l := roundTo .fp32 ls.1
    let pn := fillList c8 .e4m3 blockSz p
    let acc := (r.acc.zip vcol).map fun av =>
      let sc := mulVal av.1 c.1
      let x := roundTo .fp32 sc.1
      let y := arrayRun x.1 pn.1 av.2
      (y.v, orFlags (orFlags x.2 (invalidIf sc.2)) y.flags, y.ovf)
    { m := mNew
      l := l.1
      acc := acc.map (·.1)
      flags := orFlags (orFlags (orFlags r.flags c.2.1) (orFlags l.2 pn.2))
        (orFlags ((ps.map fun x => x.2.1).foldl orFlags (invalidIf (lc.2 || ls.2 || sum.2)))
          ((acc.map fun x => x.2.1).foldl orFlags noFlags))
      ovf := r.ovf || acc.any fun x => x.2.2
      bad := r.bad || c.2.2 || ps.any fun x => x.2.2 }

/-- The values of a tensor's row: index i in dimension 1, head h in dimension 2. -/
def headRow (m : Src) (v : TV) (mode : FillMode) (blockSz i h : Nat) : Operand :=
  fillOperand m v mode blockSz 1 (v.ext.getD 0 1) fun _ k => [k, i, h].take v.ext.length

/-- A key block of V as columns along the keys, one per element of the head dimension. -/
def valueCols (m : Src) (v : TV) (mode : FillMode) (blockSz k0 n h : Nat) : Operand :=
  fillOperand m v mode blockSz (v.ext.getD 0 1) n fun d k => [d, k0 + k, h].take v.ext.length

/-- The fills of attention at a class: Q and K along the head dimension, V along the keys. -/
structure AttnModes where
  q : FillMode
  k : FillMode
  v : FillMode
  c8 : Bool

/-- The classes of the fills of attention_fwd (text before R227, R176, R219): by its operands at its span's base rung, and rebuilt at a
promoted one. -/
def attnForward (c : NumCfg) (q k v : TV) (margin : TV → Nat) (promoted : Option Nat) : AttnModes :=
  match promoted with
  | none =>
    if is8 q.fmt ∧ is8 k.fmt then ⟨.stored, .stored, if is8 v.fmt then .reblock v.fmt else .reblock .e4m3, true⟩
    else
      let md := fun (t : TV) => if is16 t.fmt then FillMode.stored else .rebuild (gradFmt c) (margin t) none
      ⟨md q, md k, md v, false⟩
  | some n =>
    let md := fun (t : TV) => forwardMode c t (margin t) (some n) c.chop
    ⟨md q, md k, md v, false⟩

/-- attention_fwd (R229): outputs O and the row statistics. -/
def attentionFwd (m : Src) (md : AttnModes) (blockSz : Nat) (p : AttnP) (o q k v st : TV) : OpOut :=
  let lq := q.ext.getD 1 1
  let lk := k.ext.getD 1 1
  let h := q.ext.getD 2 1
  let hkv := k.ext.getD 2 1
  let d := q.ext.getD 0 1
  let keyRows := (List.range hkv).map fun g => (List.range lk).map fun j => headRow m k md.k blockSz j g
  let blocks := (List.range hkv).map fun g => (List.range (ceilDiv lk 128)).map fun b =>
    valueCols m v md.v blockSz (b * 128) (min 128 (lk - b * 128)) g
  let none' : Operand := ⟨[], 1, .fp32, false, 16⟩
  (List.range h).foldl (fun acc hh =>
    let g := hh / (h / hkv)
    (List.range lq).foldl (fun acc i =>
      let qr := headRow m q md.q blockSz i hh
      let r := (List.range (ceilDiv lk 128)).foldl (fun (r : AttnRow) b =>
        let js := (List.range (min 128 (lk - b * 128))).map fun x => b * 128 + x
        if js.any (visible p i) then
          let sc := js.map fun j =>
            if visible p i j then
              let kr := ((keyRows.getD g []).getD j none')
              let x := scaledDot (fillVals (qr.row 0)) (fillVals (kr.row 0)) (qr.ts * kr.ts * p.sigma)
              (x.1, orFlags x.2.1 (fillFlags (kr.row 0)), x.2.2)
            else (.inf true, noFlags, false)
          let vb := (blocks.getD g []).getD b none'
          let r := { r with
            flags := orFlags (orFlags r.flags ((vb.rows.map fillFlags).foldl orFlags noFlags)) ((sc.map fun x => x.2.1).foldl orFlags noFlags)
            ovf := r.ovf || sc.any fun x => x.2.2 }
          attnBlock md.c8 blockSz r (sc.map (·.1)) (vb.rows.map fillVals)
        else r) { acc := List.replicate d (.zero false), flags := fillFlags (qr.row 0) }
      let vt := ((blocks.getD g []).headD none').ts
      let dead := match r.l with | .zero _ => true | _ => false
      let os := r.acc.map fun a =>
        if dead then (Val.zero false, false) else divVal (mulVal a (ofRat false vt)).1 r.l
      let stats : List Val := if dead then [.inf true, .zero false] else [r.m, r.l]
      { outs := match acc.outs with
          | [x, y] => [(x.1, os.foldl (fun a v => a.push (some (.val v.1))) x.2),
                       (y.1, stats.foldl (fun a v => a.push (some (.val v))) y.2)]
          | l => l
        events := acc.events ++ someEvents
          [⟨0, 0, [0, i, hh], orFlags r.flags (invalidIf (os.any (·.2))), r.ovf, r.bad⟩] }) acc)
    { outs := [(o, #[]), (st, #[])] }

/-- The fills of attention_bwd by its class field (R219). -/
structure BwdModes where
  q : FillMode
  k : FillMode
  v : FillMode
  dO : FillMode
  qT : FillMode
  kT : FillMode
  dOT : FillMode
  c8 : Bool

/-- The fills of attention_bwd. -/
def attnBackward (c : NumCfg) (cls : Nat) (q k v dO : TV) (margin : TV → Nat) : BwdModes :=
  let md := fun (role : FillRole) (t : TV) (along : Bool) => backwardMode c cls role t (margin t) along
  { q := md .other q true, k := md .other k true, v := md .other v true, dO := md .gradient dO true
    qT := md .other q false, kT := md .other k false, dOT := md .gradient dO false, c8 := cls == 0 }

/-- The terms of one query row against one key block (R230): p and ds, as FP16 values. The exponential is the FP16 result that R229
takes, which R230 does not say (log 97), and a key that is not visible has the score −∞. -/
def bwdTerms (p : AttnP) (i : Nat) (js : List Nat) (scores dps : List Val) (mRow lRow dRow : Val) :
    List (Val × Val) × NumFlags × Bool :=
  ((js.zip (scores.zip dps)).foldl (fun acc x =>
    let a := addVal (if visible p i x.1 then x.2.1 else .inf true) (negVal mRow)
    let e := roundTo .fp32 a.1
    let ex := fnRound .fp16 .exp 2 e.1
    let dv := divVal (decodeBits .fp16 ex.bits) lRow
    let pr := roundTo .fp16 dv.1
    let df := addVal x.2.2 (negVal dRow)
    let p1 := mulVal pr.1 df.1
    let ds := roundTo .fp16 (mulVal p1.1 (.num p.sigma)).1
    (acc.1 ++ [(pr.1, ds.1)],
      orFlags (orFlags acc.2.1 (orFlags e.2 ex.flags))
        (orFlags (orFlags pr.2 ds.2) (invalidIf (a.2 || dv.2 || df.2 || p1.2))),
      acc.2.2 || (decodeBits .fp16 ex.bits).nonFinite)) ([], noFlags, false))

/-- One query row of attention_bwd: its index, head and the terms of each key, with what came up in forming them. -/
structure BwdRow where
  i : Nat
  h : Nat
  terms : List (Val × Val)
  flags : NumFlags := noFlags
  ovf : Bool := false
  bad : Bool := false

/-- D of R230 for a row: the exact sum of the products of dO and O, rounded once to FP32. -/
def rowDot (m : Src) (dO o : TV) (h i : Nat) : Val × NumFlags :=
  let pr := (List.range (dO.ext.getD 0 1)).map fun x =>
    let a := logical m dO ([x, i, h].take dO.ext.length)
    let b := logical m o ([x, i, h].take o.ext.length)
    let c := mulVal a.1 b.1
    (c.1, orFlags (orFlags a.2 b.2) (invalidIf c.2))
  let sm := exactSum (pr.map (·.1))
  let r := roundTo .fp32 sm.1
  (r.1, (pr.map (·.2)).foldl orFlags (orFlags r.2 (invalidIf sm.2)))

/-- The rows of a key head's queries against a key block, in increasing order of head and row (R230, R657). -/
def bwdRows (m : Src) (md : BwdModes) (blockSz : Nat) (p : AttnP) (q k v dO o st : TV) (g b : Nat) : List BwdRow :=
  let lk := k.ext.getD 1 1
  let per := q.ext.getD 2 1 / k.ext.getD 2 1
  let js := (List.range (min 128 (lk - b * 128))).map fun x => b * 128 + x
  let stat := fun (a h i : Nat) => logical m st ([a, i, h].take st.ext.length)
  (List.range per).flatMap fun y => (List.range (q.ext.getD 1 1)).map fun i =>
    let hh := g * per + y
    let qr := headRow m q md.q blockSz i hh
    let dr := headRow m dO md.dO blockSz i hh
    let sc := js.map fun j =>
      let kr := headRow m k md.k blockSz j g
      let x := scaledDot (fillVals (qr.row 0)) (fillVals (kr.row 0)) (qr.ts * kr.ts * p.sigma)
      if visible p i j then (x.1, orFlags x.2.1 (fillFlags (kr.row 0)), x.2.2) else (.inf true, noFlags, false)
    let dp := js.map fun j =>
      let vr := headRow m v md.v blockSz j g
      let a := arrayRun (.zero false) (fillVals (dr.row 0)) (fillVals (vr.row 0))
      ((mulVal a.v (ofRat false (dr.ts * vr.ts))).1, orFlags a.flags (fillFlags (vr.row 0)), a.ovf)
    let dd := rowDot m dO o hh i
    let mr := stat 0 hh i
    let lr := stat 1 hh i
    let t := bwdTerms p i js (sc.map (·.1)) (dp.map (·.1)) mr.1 lr.1 dd.1
    let reads := [t.2.1, dd.2, mr.2, lr.2, fillFlags (qr.row 0), fillFlags (dr.row 0)]
    { i := i, h := hh, terms := t.1
      flags := (reads ++ (sc.map fun x => x.2.1) ++ dp.map fun x => x.2.1).foldl orFlags noFlags
      ovf := (sc.any fun x => x.2.2) || dp.any fun x => x.2.2
      bad := t.2.2 }

/-- An element of dK or dV: the sum over a key head's query rows, chained over its query tiles in increasing order of head and row, with
both factors converted on fill in blocks along the rows of a head (R143, R219, R230). -/
def bwdColumn (m : Src) (c8 : Bool) (blockSz : Nat) (rows : List BwdRow) (useDs : Bool) (x : Nat) (t : TV) (f : FillMode) (e : Nat) : Acc :=
  let heads := (rows.map (·.h)).eraseDups
  heads.foldl (fun (a : Acc) h =>
    let rs := rows.filter fun r => r.h == h
    let w := fillList c8 (if useDs then .e5m2 else .e4m3) blockSz
      (rs.map fun r => let y := r.terms.getD x (.zero false, .zero false); if useDs then y.2 else y.1)
    let z := (fillOperand m t f blockSz 1 rs.length fun _ kk => [e, kk, h].take t.ext.length).row 0
    let n := (pieces 16 (rs.length / 16 + 1) (w.1.zip (fillVals z))).foldl accChunk a
    { n with flags := orFlags n.flags (orFlags w.2 (fillFlags z)) }) { v := .zero false }

/-- attention_bwd (R230): outputs dQ, dK, dV. A key head's query tiles are those of its query heads in
increasing order; dK and dV are chained over them, dQ is the split-form sum over key blocks. -/
def attentionBwd (m : Src) (md : BwdModes) (blockSz : Nat) (p : AttnP)
    (dq dk dv q k v dO o st : TV) : OpOut :=
  let lq := q.ext.getD 1 1
  let lk := k.ext.getD 1 1
  let h := q.ext.getD 2 1
  let hkv := k.ext.getD 2 1
  let d := q.ext.getD 0 1
  let per := h / hkv
  let nb := ceilDiv lk 128
  let ts := fun (t : TV) (f : FillMode) => (headRow m t f blockSz 0 0).ts
  let table := (List.range hkv).map fun g => (List.range nb).map fun b => bwdRows m md blockSz p q k v dO o st g b
  let rowsAt := fun (g b : Nat) => (table.getD g []).getD b []
  let keyOut := fun (useDs : Bool) (t : TV) (f : FillMode) =>
    (List.range hkv).flatMap fun g => (List.range lk).flatMap fun j => (List.range d).map fun e =>
      let a := bwdColumn m md.c8 blockSz (rowsAt g (j / 128)) useDs (j % 128) t f e
      ({ a with v := (mulVal a.v (ofRat false (ts t f))).1 }, [e, j, g])
  let dvOut := keyOut false dO md.dOT
  let dkOut := keyOut true q md.qT
  let dqOut := (List.range h).flatMap fun hh => (List.range lq).flatMap fun i => (List.range d).map fun e =>
    let g := hh / per
    let parts := (List.range nb).map fun b =>
      let r := (rowsAt g b).getD ((hh - g * per) * lq + i) { i := 0, h := 0, terms := [] }
      let w := fillList md.c8 .e5m2 blockSz (r.terms.map (·.2))
      let z := (fillOperand m k md.kT blockSz 1 w.1.length fun _ kk => [e, b * 128 + kk, g].take k.ext.length).row 0
      let a := arrayRun (.zero false) w.1 (fillVals z)
      { a with flags := orFlags a.flags (orFlags w.2 (fillFlags z)) }
    let a := sumParts parts
    ({ a with v := (mulVal a.v (ofRat false (ts k md.kT))).1 }, parts, [e, i, hh])
  let ofAcc := fun (n part : Nat) (ix : List Nat) (a : Acc) => (⟨n, part, ix, a.flags, a.ovf, false⟩ : Event)
  let ofRows := table.zipIdx.flatMap fun g => g.1.zipIdx.flatMap fun b =>
    b.1.map fun r => (⟨1, 0, [0, b.2 * 128, g.2], r.flags, r.ovf, r.bad⟩ : Event)
  { outs := [(dq, (dqOut.map fun a => some (RealV.val a.1.v)).toArray),
             (dk, (dkOut.map fun a => some (RealV.val a.1.v)).toArray),
             (dv, (dvOut.map fun a => some (RealV.val a.1.v)).toArray)]
    events := someEvents (ofRows ++
      (dqOut.flatMap fun a => ofAcc 0 0 a.2.2 a.1 ::
        (a.2.1.zipIdx.map fun b => ofAcc 1 0 [0, b.2 * 128, a.2.2.getD 2 0 / per] b.1)) ++
      (dkOut.map fun a => ofAcc 1 0 a.2 a.1) ++ dvOut.map fun a => ofAcc 2 0 a.2 a.1) }

end Sys2Proof.Machine
end

