-- ==== Sys2Proof/Machine/Vector.lean ====
section
/-! DEFINITION. The element and row operations: normalisation (R231 to R233), softmax and loss (R234, R235),
element-wise (R236, R237), reduce (R238, R239), casts, copies and fills (R240), scatter-reduce (R241), digest
and statistics (R256, R257), and the optimiser's tasks (R284, R290, R291). -/

namespace Sys2Proof.Machine

/-- Gather a list of results with their events. -/
def gatherFlags {α : Type} (l : List (α × NumFlags)) : List α × NumFlags :=
  (l.map (·.1), (l.map (·.2)).foldl orFlags noFlags)

/-- The values of row `r` of a tensor, along dimension 0. -/
def rowValues (m : Src) (v : TV) (r : Nat) : List Val × NumFlags :=
  let e0 := v.ext.headD 1
  gatherFlags ((List.range e0).map fun i => logicalN m v (r * e0 + i))

/-- A vector's element: γ, β (R231). -/
def vecAt (m : Src) (v : TV) (i : Nat) : Val × NumFlags := logicalN m v i

/-- An output of one tensor from its elements in order: each with its events and whether a special function gave a non-finite result. -/
def oneOut (v : TV) (els : List (RealV × NumFlags × Bool)) : OpOut :=
  { outs := [(v, (els.map fun e => some e.1).toArray)]
    events := someEvents (els.zipIdx.map fun e => ⟨0, 0, indexOf v.ext e.2, e.1.2.1, false, e.1.2.2⟩) }

/-- Events of the rows of an output. -/
def rowEvents (v : TV) (l : List NumFlags) : List Event :=
  someEvents (l.zipIdx.map fun f => ⟨0, 0, 0 :: indexOf (v.ext.drop 1) f.2, f.1, false, false⟩)

/-- The rule of R232, R233 and R235 for a row with non-finite inputs: canonical NaN, invalid unless it held
a NaN. -/
def rowInvalid (l : List Val) : NumFlags := invalidIf (!(l.any (· == .nan)))

/-! ### Normalisation -/

/-- A value a·r + b, r = 1/√q, by the binary32 conventions where γ or β are not finite (R232). -/
def normElem (dx : Rat) (q : Rat) (g : Val) (beta : Option Val) : RealV × Bool :=
  let a := mulVal (ofRat false dx) g
  match a.1, beta with
  | .num x, none => (.iv fun p => ivScale x (ivInv (sqrtIv (p + 20) q)), a.2)
  | .num x, some (.num b) => (.iv fun p => ivAdd (ivScale x (ivInv (sqrtIv (p + 40) q))) (b, b), a.2)
  | .num x, some (.zero _) => (.iv fun p => ivScale x (ivInv (sqrtIv (p + 20) q)), a.2)
  | v, none => (.val v, a.2)
  | v, some b => let r := addVal v b; (.val r.1, a.2 || r.2)

/-- norm (R232): y, and the row statistics where they are asked for. -/
def normOp (m : Src) (layer : Bool) (eps : Rat) (y x g : TV) (beta st : Option TV) : OpOut :=
  let d := x.ext.headD 1
  let rows := (List.range (rowsOf x)).map fun r =>
    let xs := rowValues m x r
    if xs.1.any Val.nonFinite then
      ((List.replicate d (RealV.val .nan), [RealV.val .nan, RealV.val .nan]), orFlags xs.2 (rowInvalid xs.1))
    else
      let sum := xs.1.foldl (fun a v => a + v.rat) 0
      let mu : Rat := if layer then sum / d else 0
      let var := (xs.1.foldl (fun a v => a + (v.rat - mu) * (v.rat - mu)) 0) / d
      let q := var + eps
      let ys := (List.range d).map fun i =>
        let gi := vecAt m g i
        let bi := beta.map fun b => vecAt m b i
        let e := normElem ((xs.1.getD i (.zero false)).rat - mu) q gi.1 (bi.map (·.1))
        (e.1, orFlags (orFlags gi.2 ((bi.map (·.2)).getD noFlags)) (invalidIf e.2))
      let ys := gatherFlags ys
      ((ys.1, [RealV.val (ofRat false mu), RealV.iv fun p => ivInv (sqrtIv (p + 10) q)]), orFlags xs.2 ys.2)
  { outs := (y, ((rows.flatMap fun r => r.1.1).map some).toArray) ::
      (match st with | none => [] | some t => [(t, ((rows.flatMap fun r => r.1.2).map some).toArray)])
    events := rowEvents y (rows.map (·.2)) }

/-- norm_bwd (R233): dx and dγ; a unit holds 16 rows (R216). -/
def normBwdOp (m : Src) (layer : Bool) (dx dg dy x g st : TV) : OpOut :=
  let d := x.ext.headD 1
  let rows := (List.range (rowsOf x)).map fun r =>
    let xs := rowValues m x r
    let dys := rowValues m dy r
    let ss := rowValues m st r
    let all := xs.1 ++ dys.1 ++ ss.1
    let fl := orFlags xs.2 (orFlags dys.2 ss.2)
    if all.any Val.nonFinite then
      ((List.replicate d (RealV.val .nan), none), orFlags fl (rowInvalid all))
    else
      let mu := (ss.1.getD 0 (.zero false)).rat
      let rr := (ss.1.getD 1 (.zero false)).rat
      let xh := xs.1.map fun v => (v.rat - mu) * rr
      let gam := gatherFlags ((List.range d).map (vecAt m g))
      if gam.1.any Val.nonFinite then
        let gv := (gam.1.zip dys.1).map fun p => mulVal p.1 p.2
        let gx := (gv.zip xh).map fun p => mulVal p.1.1 (ofRat false p.2)
        let a := sumVals (gx.map (·.1))
        let b := if layer then sumVals (gv.map (·.1)) else (.zero false, false)
        let an := mulVal a.1 (.num (1 / (d : Rat)))
        let bn := mulVal b.1 (.num (1 / (d : Rat)))
        let out := (gv.zip xh).map fun p =>
          let t1 := addVal p.1.1 (negVal bn.1)
          let t2 := mulVal (ofRat false p.2) an.1
          let t3 := addVal t1.1 (negVal t2.1)
          let t4 := mulVal (ofRat false rr) t3.1
          (RealV.val t4.1, invalidIf (p.1.2 || t1.2 || t2.2 || t3.2 || t4.2))
        let out := gatherFlags out
        ((out.1, some (dys.1.zip xh |>.map fun p => p.1.rat * p.2)),
          orFlags (orFlags fl gam.2) (orFlags out.2 (invalidIf (a.2 || b.2 || gx.any (·.2)))))
      else
        let gg := (gam.1.zip dys.1).map fun p => p.1.rat * p.2.rat
        let a := (gg.zip xh).foldl (fun (a : Rat) p => a + p.1 * p.2) 0 / (d : Rat)
        let b : Rat := if layer then gg.foldl (· + ·) (0 : Rat) / (d : Rat) else 0
        ((((gg.zip xh).map fun p => RealV.val (ofRat false (rr * (p.1 - b - p.2 * a)))),
          some (dys.1.zip xh |>.map fun p => p.1.rat * p.2)), orFlags fl gam.2)
  let units := pieces 16 (rows.length / 16 + 1) (rows.map fun r => r.1.2)
  let parts : List (List Val × NumFlags) := units.map fun u =>
    if u.any Option.isNone then (List.replicate d .nan, noFlags)
    else gatherFlags ((List.range d).map fun i =>
      roundTo .fp32 (ofRat false (u.foldl (fun a r => a + (r.getD []).getD i 0) (0 : Rat))))
  let dgv := (List.range d).map fun i =>
    let old := logicalN m dg i
    parts.foldl (fun acc p =>
      let s := addVal acc.1 (p.1.getD i (.zero false))
      let r := roundTo .fp32 s.1
      (r.1, orFlags acc.2 (orFlags r.2 (invalidIf s.2)))) old
  { outs := [(dx, ((rows.flatMap fun r => r.1.1).map some).toArray), (dg, (dgv.map fun v => some (RealV.val v.1)).toArray)]
    events := rowEvents dx (rows.map (·.2)) ++
      someEvents ((parts.zipIdx.map fun p => ⟨0, 0, 0 :: indexOf (dx.ext.drop 1) (16 * p.2), p.1.2, false, false⟩) ++
        dgv.zipIdx.map fun v => ⟨1, 0, [v.2], v.1.2, false, false⟩) }

/-! ### Softmax and loss -/

/-- The largest value of a row. -/
def rowTop (zs : List Rat) : Rat := zs.foldl max (zs.headD 0)

/-- The sum of e^(z_j − z) over j, z the largest value of the row: all j, or all but one (R235). -/
def expSumIv (p : Nat) (zs : List Rat) (skip : Option Nat) : Iv :=
  (zs.zipIdx).foldl (fun a zj => if skip == some zj.2 then a else ivAdd a (expIv (p + 20) (zj.1 - rowTop zs))) (0, 0)

/-- A probability of R235. -/
def probOf (zs : List Rat) (i : Nat) : RealV :=
  if zs.length = 1 then .val (.num 1)
  else .iv fun p => ivMul (expIv (p + 20) (zs.getD i 0 - rowTop zs)) (ivInv (expSumIv p zs none))

/-- The loss of a row at its label, −ln p[k] (R235). -/
def lossOf (zs : List Rat) (k : Nat) : RealV :=
  if zs.length = 1 then .val (.zero false)
  else .iv fun p =>
    let s := expSumIv p zs none
    let top := rowTop zs - zs.getD k 0
    (top + (lnIv (p + 20) s.1).1, top + (lnIv (p + 20) s.2).2)

/-- softmax (R235): mode 0 with no labels, mode 1 with labels and the loss tensor. `scale` is 2^L over q. -/
def softmaxOp (m : Src) (c scale : Rat) (y x : TV) (labels loss : Option TV) : OpOut :=
  let d := x.ext.headD 1
  let rows := (List.range (rowsOf x)).map fun r =>
    let xs := rowValues m x r
    let bad := xs.1.any Val.nonFinite
    let zs := xs.1.map fun v => v.rat * c
    let nanRow := ((List.replicate d (RealV.val .nan), RealV.val .nan), orFlags xs.2 (rowInvalid xs.1))
    match labels with
    | none =>
      if bad then nanRow
      else (((List.range d).map fun i => probOf zs i, RealV.val .nan), xs.2)
    | some lt =>
      let t := match (logicalN m lt r).1 with | .num q => q.floor | _ => (0 : Int)
      if t < 0 then ((List.replicate d (RealV.val (.zero false)), RealV.val (.zero false)), noFlags)
      else if (d : Int) ≤ t then ((List.replicate d (RealV.val .nan), RealV.val .nan), invalidIf true)
      else if bad then nanRow
      else
        let k := t.toNat
        let g := (List.range d).map fun i =>
          if i = k then
            if d = 1 then RealV.val (.zero false)
            else RealV.iv fun p => ivScale (-(c * scale)) (ivMul (expSumIv p zs (some k)) (ivInv (expSumIv p zs none)))
          else scaleReal (c * scale) (probOf zs i)
        ((g, lossOf zs k), xs.2)
  { outs := (y, ((rows.flatMap fun r => r.1.1).map some).toArray) ::
      (match loss with | none => [] | some t => [(t, (rows.map fun r => some r.1.2).toArray)])
    events := rowEvents y (rows.map (·.2)) }

/-! ### Element-wise -/

/-- The index of a broadcast operand (R236). -/
def broadcastIx (v : TV) (ix : List Nat) : List Nat := (v.ext.zip ix).map fun p => if p.1 = 1 then 0 else p.2

/-- silu′ (R236). -/
def siluD (v : Val) : RealV :=
  match v with
  | .nan => .val .nan
  | .inf n => .val (if n then .zero false else .num 1)
  | .zero _ => .val (.num (1 / 2))
  | .num x => .iv fun p =>
      let s := sigmoidIv (p + 20) x
      let t := ivScale x (1 - s.2, 1 - s.1)
      ivMul s (1 + t.1, 1 + t.2)

/-- gelu′ (R236). -/
def geluD (v : Val) : RealV :=
  match v with
  | .nan => .val .nan
  | .inf n => .val (if n then .zero false else .num 1)
  | .zero _ => .val (.num (1 / 2))
  | .num x => .iv fun p => ivAdd (phiIv (p + 40) x) (ivScale x (densityIv (p + 40) x))

/-- A real result times a value, by the binary32 conventions (R236). -/
def mulReal (r : RealV) (v : Val) : RealV × Bool :=
  match r, v with
  | .val a, v => let x := mulVal a v; (.val x.1, x.2)
  | .iv f, .num q => (.iv fun p => ivScale q (f p), false)
  | .iv f, v => let x := mulVal (approx (.iv f)) v; (.val x.1, x.2)

/-- The functions of codes 0x10 to 0x1C. -/
def fnOfCode : Nat → Option Fn
  | 0x10 => some .exp | 0x11 => some .exp2 | 0x12 => some .log | 0x13 => some .log2 | 0x14 => some .recip
  | 0x15 => some .sqrt | 0x16 => some .rsqrt | 0x17 => some .tanh | 0x18 => some .sigmoid | 0x19 => some .silu
  | 0x1A => some .gelu | 0x1B => some .sin | 0x1C => some .cos
  | _ => none

/-- One element of the codes that take a, b and c (R236): result, invalid event, non-finite special result. -/
def elementFn (code : Nat) (alpha beta : Val) (yf : Fmt) (a b : Val) (c : Option Val) : RealV × NumFlags × Bool :=
  let pure2 := fun (r : Val × Bool) => (RealV.val r.1, invalidIf r.2, false)
  match code with
  | 0x00 => pure2 (addVal a b)
  | 0x01 => pure2 (addVal a (negVal b))
  | 0x02 => pure2 (mulVal a b)
  | 0x03 => let x := mulVal a b; let y := addVal x.1 (c.getD (.zero true)); (.val y.1, invalidIf (x.2 || y.2), false)
  | 0x04 => (.val (maxVal a b), noFlags, false)
  | 0x05 => (.val (minVal a b), noFlags, false)
  | 0x06 => let x := mulVal alpha a; let y := addVal x.1 beta; (.val y.1, invalidIf (x.2 || y.2), false)
  | 0x07 => (.val (maxVal a (.zero false)), noFlags, false)
  | 0x08 => (.val (if a != .nan && ltVal (.zero false) a then b else .zero false), noFlags, false)
  | 0x20 =>
    let s := fnRound yf .silu 0x20 a
    let v := decodeBits yf s.bits
    let x := mulVal v b
    (.val x.1, orFlags s.flags (invalidIf x.2), v.nonFinite)
  | 0x21 | 0x22 =>
    let d := if code = 0x21 then siluD a else geluD a
    let x := mulReal d b
    match c with
    | none => (x.1, invalidIf x.2, (approx d).nonFinite)
    | some c => let y := mulReal x.1 c; (y.1, invalidIf (x.2 || y.2), (approx d).nonFinite)
  | code =>
    match fnOfCode code with
    | none => (.val .nan, noFlags, false)
    | some f =>
      let r := fnApply f a
      let bad := match r.1 with | .val v => v.nonFinite | .iv _ => false
      (r.1, invalidIf r.2, bad)

/-- The rotation of R237 for element `ix` of y: cosine and sine of its angle, at y's format. -/
def rotary (yf : Fmt) (alpha : Rat) (e0 pos i : Nat) : (Val × Val) × NumFlags :=
  let th := roundReal .fp32 3 (if i = 0 then .val (.num 1)
    else .iv fun p => powIv p alpha (-(2 * (i : Rat)) / (e0 : Rat)))
  let ph := roundTo .fp32 (mulVal (ofRat false (pos : Rat)) (decodeBits .fp32 th.bits)).1
  let cs := fnRound yf .cos 4 ph.1
  let sn := fnRound yf .sin 5 ph.1
  ((decodeBits yf cs.bits, decodeBits yf sn.bits), orFlags (orFlags th.flags ph.2) (orFlags cs.flags sn.flags))

/-- A NaN made from operands of which one is a NaN is no invalid event (R125). -/
def quietIf (nan : Bool) (f : NumFlags) : NumFlags := if nan then { f with invalid := false } else f

/-- elementwise (R236, R237). -/
def elementwiseOp (m : Src) (code : Nat) (alpha beta : Val) (pos0 : Nat) (y a : TV) (b c : Option TV) : OpOut :=
  let e0 := y.ext.headD 1
  let els := (List.range y.count).map fun n =>
    let ix := indexOf y.ext n
    if code = 0x30 then
      let i := n % e0
      let r := rotary y.fmt alpha.rat e0 (pos0 + ix.getD 1 0) (i / 2)
      let ix0 := (i / 2 * 2) :: ix.drop 1
      let ix1 := (i / 2 * 2 + 1) :: ix.drop 1
      let u := logical m a (broadcastIx a ix0)
      let v := logical m a (broadcastIx a ix1)
      let p := if i % 2 = 0 then mulVal u.1 r.1.1 else mulVal u.1 r.1.2
      let q := if i % 2 = 0 then mulVal v.1 r.1.2 else mulVal v.1 r.1.1
      let z := addVal p.1 (if i % 2 = 0 then negVal q.1 else q.1)
      (RealV.val z.1,
        orFlags (orFlags u.2 v.2) (orFlags r.2 (quietIf (u.1 == .nan || v.1 == .nan) (invalidIf (p.2 || q.2 || z.2)))),
        r.1.1.nonFinite || r.1.2.nonFinite)
    else
      let x := logical m a (broadcastIx a ix)
      let bv := b.map fun t => logical m t (broadcastIx t ix)
      let cv := c.map fun t => logical m t (broadcastIx t ix)
      let r := elementFn code alpha beta y.fmt x.1 ((bv.map (·.1)).getD (.zero false)) (cv.map (·.1))
      let nan := [x.1, alpha, beta].contains .nan || bv.map (·.1) == some .nan || cv.map (·.1) == some .nan
      (r.1, orFlags (orFlags x.2 ((bv.map (·.2)).getD noFlags)) (orFlags ((cv.map (·.2)).getD noFlags) (quietIf nan r.2.1)), r.2.2)
  oneOut y els

/-! ### Reduce, cast, copy, fill, scatter -/

/-- reduce (R238, R239) over the dimensions that a mask marks. -/
def reduceOp (m : Src) (op mask : Nat) (y x : TV) : OpOut :=
  let redExt := x.ext.zipIdx.map fun e => if bit mask e.2 then e.1 else 1
  let els := (List.range y.count).map fun n =>
    let yi := indexOf y.ext n
    let vals := gatherFlags ((List.range (product redExt)).map fun k =>
      let ri := indexOf redExt k
      logical m x ((yi.zip ri).map fun p => p.1 + p.2))
    let r := match op with
      | 0 => exactSum vals.1
      | 1 => (match vals.1 with | [] => .nan | v :: vs => vs.foldl maxVal v, false)
      | 2 => (match vals.1 with | [] => .nan | v :: vs => vs.foldl minVal v, false)
      | 3 => exactSum (vals.1.map fun v => (mulVal v v).1)
      | 4 => let s := exactSum vals.1; ((mulVal s.1 (.num (1 / (product redExt : Rat)))).1, s.2)
      | _ => ((vals.1.map absVal).foldl maxVal (.zero false), false)
    (RealV.val r.1, orFlags vals.2 (invalidIf r.2), false)
  oneOut y els

/-- cast (R240): mode 0 plain, 1 and 2 narrow to F19 directly. -/
def castOp (m : Src) (mode : Nat) (y x : TV) : OpOut :=
  oneOut y ((List.range y.count).map fun n =>
    let v := logicalN m x n
    if mode = 0 then (RealV.val v.1, v.2, false)
    else
      let f := decodeBits .fp32 (narrowExact (mode == 1) (mulVal v.1 (.num (1 / y.ts))).1)
      (RealV.val (mulVal f (.num y.ts)).1, v.2, false))

/-- transpose_copy (R240). -/
def transposeOp (m : Src) (y x : TV) : OpOut :=
  oneOut y ((List.range y.count).map fun n =>
    let v := match indexOf y.ext n with
      | i :: j :: r => logical m x (j :: i :: r)
      | ix => logical m x ix
    (RealV.val v.1, v.2, false))

/-- copy (R240), with an index tensor or none. -/
def copyOp (m : Src) (y x : TV) (index : Option TV) : OpOut :=
  oneOut y ((List.range y.count).map fun n =>
    match index with
    | none => let v := logicalN m x n; (RealV.val v.1, v.2, false)
    | some t =>
      match indexOf y.ext n with
      | i :: r :: rest =>
        let k := match (logicalN m t r).1 with | .num q => q.floor | _ => (0 : Int)
        if k < 0 ∨ (x.ext.getD 1 1 : Int) ≤ k then (RealV.val .nan, invalidIf true, false)
        else let v := logical m x (i :: k.toNat :: rest); (RealV.val v.1, v.2, false)
      | ix => let v := logical m x ix; (RealV.val v.1, v.2, false))

/-- fill (R240). -/
def fillOp (y : TV) (v : Val) : OpOut := oneOut y (List.replicate y.count (.val v, noFlags, false))

/-- scatter_reduce (R241): rows that no source names are not written. -/
def scatterOp (m : Src) (y x index : TV) : OpOut :=
  let e0 := y.ext.headD 1
  let rows := y.ext.getD 1 1
  let ids := (List.range index.count).map fun i =>
    match (logicalN m index i).1 with | .num q => q.floor | _ => (0 : Int)
  let bad := ids.any fun i => decide (i < -1) || decide ((rows : Int) ≤ i)
  let els := (List.range y.count).map fun n =>
    let ix := indexOf y.ext n
    let r := n / e0 % rows
    let src := (ids.zipIdx).filter fun p => p.1 == (r : Int)
    if src.isEmpty then (none, noFlags)
    else
      let old := logical m y ix
      let vs := gatherFlags (src.map fun p => logical m x (ix.headD 0 :: p.2 :: ix.drop 2))
      let s := exactSum (old.1 :: vs.1)
      (some (RealV.val s.1), orFlags (orFlags old.2 vs.2) (invalidIf s.2))
  { outs := [(y, (els.map (·.1)).toArray)]
    events := someEvents (⟨0, 0, [], invalidIf bad, false, false⟩ ::
      els.zipIdx.map fun e => ⟨0, 0, indexOf y.ext e.2, e.1.2, false, false⟩) }

/-- The stored encodings of a tensor in element order (R256, R259). -/
def storedBytes (m : Src) (v : TV) : Bytes :=
  (List.range v.count).flatMap fun n =>
    leBytes (fmtBytes v.fmt) (srcNum m (elemAddr v (indexOf v.ext n)) (fmtBytes v.fmt))

/-- statistics over current values (R257), with the events of their reads by element. -/
def statisticsOf (m : Src) (v : TV) : WriteSum × List Event :=
  (List.range v.count).foldl (fun acc n =>
    let ix := indexOf v.ext n
    let x := logical m v ix
    let e := srcNum m (elemAddr v ix) (fmtBytes v.fmt)
    let d := (readElem v.fmt e).1
    let top := is8 v.fmt && decide (qabs d.rat = fmtMax v.fmt)
    ({ acc.1 with
        elements := acc.1.elements + 1
        zeroCount := acc.1.zeroCount + (match d with | .zero _ => 1 | _ => 0)
        saturations := acc.1.saturations + top.toNat
        nonFinite := acc.1.nonFinite + x.1.nonFinite.toNat
        amax := if x.1.nonFinite then acc.1.amax else max acc.1.amax (qabs x.1.rat) },
      acc.2 ++ someEvents [⟨0, 0, ix, x.2, false, false⟩])) ({}, [])

/-! ### The optimiser (R284, R290, R291) -/

/-- The elements of a page as runs along dimension 0 (R284). -/
def pageRuns (ext : List Nat) (page : Nat) : List (List (List Nat)) :=
  match ext with
  | [n] => [(List.range (min 4096 (n - 4096 * page))).map fun i => [4096 * page + i]]
  | k :: n :: rest =>
    let kt := page % (k / 128)
    let nt := page / (k / 128) % (n / 32)
    let bix := indexOf rest (page / (k / 128) / (n / 32))
    (List.range 32).map fun c => (List.range 128).map fun i => (128 * kt + i) :: (32 * nt + c) :: bix
  | [] => []

/-- The same page as runs of the transposed copy, along n (R284). -/
def pageRunsT (ext : List Nat) (page : Nat) : List (List (List Nat)) :=
  match ext with
  | k :: n :: rest =>
    let kt := page % (k / 128)
    let nt := page / (k / 128) % (n / 32)
    let bix := indexOf rest (page / (k / 128) / (n / 32))
    (List.range 128).map fun i => (List.range 32).map fun c => (32 * nt + c) :: (128 * kt + i) :: bix
  | _ => []

/-- Pages of a master tensor (R284). -/
def pageCount (ext : List Nat) : Nat :=
  match ext with
  | [n] => ceilDiv n 4096
  | k :: n :: rest => k / 128 * (n / 32) * product rest
  | [] => 0

/-- Encode runs of elements, in blocks for 8-bit tensors. -/
def encodeRuns (m : Src) (v : TV) (runs : List (List (List Nat))) (val : List Nat → RealV) : Stores × WriteSum :=
  runs.foldl (fun acc run =>
    if is8 v.fmt then
      (pieces v.block (run.length / v.block + 1) run).foldl (fun acc blk =>
        let r := encodeBlock m v blk (blk.map fun ix => some (val ix)) acc.2
        (acc.1 ++ r.1, r.2)) acc
    else
      run.foldl (fun acc ix =>
        let r := encodeElem v 6 ix (val ix) acc.2
        (acc.1 ++ r.1, r.2)) acc) ([], {})

/-- The parameters of an optimiser_step (R253), exact. -/
structure OptP where
  adam : Bool
  lr : Rat
  beta1 : Rat
  beta2 : Rat
  eps : Rat
  wd : Rat
  mult : Rat

/-- The moment task of a page (R290): stores and events. -/
def momentStores (m : Src) (p : OptP) (gm : Rat) (t1 : TV) (t2 : Option TV) (t3 : TV) (page : Nat) :
    Stores × NumFlags :=
  let runs := pageRuns t1.ext page
  let g := fun (ix : List Nat) =>
    let x := logical m t3 ix
    let y := mulVal x.1 (ofRat false gm)
    let r := roundTo .fp32 y.1
    (r.1, orFlags x.2 (orFlags r.2 (invalidIf y.2)))
  let q := fun (k : Rat) (v : Val) => (mulVal (ofRat false k) v)
  let m1 := fun (ix : List Nat) =>
    let old := logical m t1 ix
    let a := q p.beta1 old.1
    let b := if p.adam then q (1 - p.beta1) (g ix).1 else ((g ix).1, false)
    let s := addVal a.1 b.1
    (s.1, orFlags old.2 (invalidIf (a.2 || b.2 || s.2)))
  let v1 := fun (t : TV) (ix : List Nat) =>
    let old := logical m t ix
    let gg := mulVal (g ix).1 (g ix).1
    let a := q p.beta2 old.1
    let b := q (1 - p.beta2) gg.1
    let s := addVal a.1 b.1
    (s.1, orFlags old.2 (invalidIf (gg.2 || a.2 || b.2 || s.2)))
  let e1 := encodeRuns m t1 runs fun ix => .val (m1 ix).1
  let e2 := match t2 with | none => (([], {}) : Stores × WriteSum) | some t => encodeRuns m t runs fun ix => .val (v1 t ix).1
  let fl := runs.flatten.foldl (fun f ix =>
    orFlags f (orFlags (g ix).2 (orFlags (m1 ix).2 (match t2 with | none => noFlags | some t => (v1 t ix).2)))) noFlags
  (e1.1 ++ e2.1, orFlags fl (orFlags e1.2.flags e2.2.flags))

/-- c of R291: fp32(1 − β^(n+1)), with its events. -/
def biasCorr (beta : Rat) (n : Nat) : Rat × NumFlags :=
  let r := if beta = 0 then RealV.val (.num 1)
    else if n < 4096 then .val (ofRat false (1 - beta ^ (n + 1)))
    else .iv fun p =>
      let l := ivScale ((n + 1 : Nat) : Rat) (lnIv (p + 80) beta)
      (1 - (expIv (p + 20) l.2).2, 1 - (expIv (p + 20) l.1).1)
  let c := roundReal .fp32 7 r
  ((decodeBits .fp32 c.bits).rat, c.flags)

/-- u of R291 for stored moments, with the conventions it lists. -/
def updateOf (p : OptP) (c1 c2 : Rat) (m1 v1 : Val) : Val × NumFlags :=
  let a := mulVal m1 (.num (1 / c1))
  let q := mulVal v1 (.num (1 / c2))
  match a.1, q.1 with
  | .nan, _ => (.nan, noFlags)
  | _, .nan => (.nan, noFlags)
  | x, .inf false => let r := divVal x (.inf false); (r.1, invalidIf r.2)
  | _, .inf true => (.nan, invalidIf true)
  | .num x, .num y =>
    if y < 0 then (.nan, invalidIf true)
    else
      let r := roundReal .fp32 8 (.iv fun k =>
        let s := sqrtIv (k + 40) y
        ivScale x (ivInv (s.1 + p.eps, s.2 + p.eps)))
      (decodeBits .fp32 r.bits, r.flags)
  | x, .num y =>
    if y < 0 then (.nan, invalidIf true)
    else (x, noFlags)
  | x, .zero _ =>
    let r := divVal x (.num p.eps)
    let c := roundTo .fp32 r.1
    (c.1, orFlags c.2 (invalidIf r.2))

/-- What the weight task of a page does (R291): its stores, its events and what the write of the masters counts (R158). -/
structure WeightOut where
  stores : Stores
  flags : NumFlags
  sum : WriteSum

/-- The weight task of a page (R291), the moments read through a source of their own (R294). -/
def weightStores (m mo : Src) (p : OptP) (n : Nat) (t0 t1 : TV) (t2 : Option TV) (t4 : TV) (t5 : Option TV)
    (page : Nat) : WeightOut :=
  let c1 := biasCorr p.beta1 n
  let c2 := biasCorr p.beta2 n
  let w1 := fun (ix : List Nat) =>
    let w := logical m t0 ix
    let mv := logical mo t1 ix
    let u := match t2 with
      | none => (mv.1, noFlags)
      | some t => let v := logical mo t ix; let r := updateOf p c1.1 c2.1 mv.1 v.1; (r.1, orFlags (orFlags c1.2 c2.2) (orFlags r.2 v.2))
    let d := mulVal (ofRat false p.wd) w.1
    let s := addVal u.1 d.1
    let l := mulVal (ofRat false p.lr) s.1
    let r := addVal w.1 (negVal l.1)
    let c := roundTo .m48 r.1
    (c.1, orFlags (orFlags w.2 (orFlags mv.2 u.2)) (orFlags c.2 (invalidIf (d.2 || s.2 || l.2 || r.2))))
  let runs := pageRuns t0.ext page
  let e0 := encodeRuns m t0 runs fun ix => .val (w1 ix).1
  let e4 := encodeRuns m t4 runs fun ix => .val (w1 ix).1
  let swap := fun (ix : List Nat) => match ix with | a :: b :: r => b :: a :: r | l => l
  let e5 := match t5 with
    | none => (([], {}) : Stores × WriteSum)
    | some t => encodeRuns m t (pageRunsT t0.ext page) fun ix => .val (w1 (swap ix)).1
  let fl := runs.flatten.foldl (fun f ix => orFlags f (w1 ix).2) noFlags
  ⟨e0.1 ++ e4.1 ++ e5.1, orFlags fl (orFlags e4.2.flags e5.2.flags), e0.2⟩

/-- +0 in every gradient element of a page (R255). -/
def zeroGradient (t3 : TV) (page : Nat) : Stores :=
  (pageRuns t3.ext page).flatten.map fun ix => (elemAddr t3 ix, zeros (fmtBytes t3.fmt))

end Sys2Proof.Machine
end

