-- ==== Sys2Proof/Machine/Check.lean ====
section
/-! DEFINITION. Descriptor programs (R186, R191, R193, R201 to R203, R213 to R215) and the submission checks
of R212, in their order. -/

namespace Sys2Proof.Machine

/-! ### Program, descriptor and tile-map fields -/

/-- Program header fields (R186). -/
def hVersion (h : Bytes) : Nat := rd h 0 2
def hSlot (h : Bytes) : Nat := rd h 3 1
def hCount (h : Bytes) : Nat := rd h 4 2
def hMaps (h : Bytes) : Nat := rd h 6 2
def hDescOff (h : Bytes) : Nat := rd h 8 8
def hMapOff (h : Bytes) : Nat := rd h 16 8
def hStride (h : Bytes) : Nat := rd h 24 8

/-- Common descriptor header (R191). -/
def dOp (d : Bytes) : Nat := rd d 0 2
def dBarrier (d : Bytes) : Bool := bit (rd d 2 1) 0
def dDeps (d : Bytes) : Nat := rd d 3 1
def dDep (d : Bytes) (i : Nat) : Nat := rd d (4 + 2 * i) 2
def dMap (d : Bytes) : Nat := rd d 12 2
def dStats (d : Bytes) : Nat := rd d 14 2
/-- Tensor slot t`i` (R215). -/
def dT (d : Bytes) (i : Nat) : Nat := rd d (16 + 2 * i) 2

/-- Tile-map fields (R201). -/
def mCol (m : Bytes) : Nat := rd m 0 1
def mRow (m : Bytes) : Nat := rd m 1 1
def mWidth (m : Bytes) : Nat := rd m 2 1
def mHeight (m : Bytes) : Nat := rd m 3 1
def mTilesM (m : Bytes) : Nat := rd m 4 4
def mTilesN (m : Bytes) : Nat := rd m 8 4
def mParts (m : Bytes) : Nat := rd m 12 2
def mForm (m : Bytes) : Nat := rd m 14 1
def mGroup (m : Bytes) : Nat := rd m 15 1
def mThreads (m : Bytes) : Nat := rd m 16 1

/-- Units of a tile map (R202). -/
def mUnits (m : Bytes) : Nat := mParts m * mTilesM m * ceilDiv (mTilesN m) (mGroup m)

/-- The cores of a tile map's rectangle, sorted by core index (R4, R202): core (c, r) is r × 320 + c. -/
def mCores (p : PartCfg) (m : Bytes) : List Nat :=
  (List.range (5 * mHeight m)).flatMap fun r =>
    (List.range (16 * mWidth m)).map fun c =>
      (5 * (p.row0 + mRow m) + r) * 320 + 16 * (p.col0 + mCol m) + c

/-- The core of a unit (R202). -/
def unitCore (p : PartCfg) (m : Bytes) (unit : Nat) : Nat :=
  let cs := mCores p m
  cs.getD (unit % cs.length) 0

/-! ### What each opcode names (R215, R218) -/

/-- A slot's use: read, written, both. -/
inductive Use where
  | reads | writes | both
deriving DecidableEq, Repr

/-- The slots that a descriptor uses: slot, use, and whether it must be named. -/
def slotUses (d : Bytes) : List (Nat × Use × Bool) :=
  let b28 := rd d 28 1
  match dOp d with
  | 0x10 | 0x11 | 0x12 => [(0, .writes, true), (1, .reads, true), (2, .reads, true), (5, .reads, false)]
  | 0x13 => [(0, .writes, true), (1, .reads, true), (2, .reads, true), (3, .writes, true), (4, .reads, true), (5, .reads, false)]
  | 0x14 => [(0, .writes, true), (1, .reads, true), (2, .reads, true), (3, .reads, true), (4, .writes, true)]
  | 0x15 => [(0, .writes, true), (1, .writes, true), (2, .writes, true), (3, .reads, true), (4, .reads, true), (5, .reads, true)]
  | 0x16 => [(0, .writes, true), (1, .reads, true), (2, .reads, true), (3, .reads, false), (4, .writes, false)]
  | 0x17 => [(0, .writes, true), (1, .both, true), (2, .reads, true), (3, .reads, true), (4, .reads, true), (5, .reads, true)]
  | 0x18 => if b28 = 1 then [(0, .writes, true), (1, .reads, true), (2, .reads, true), (3, .writes, false)]
      else [(0, .writes, true), (1, .reads, true)]
  | 0x19 =>
    let two := [0, 1, 2, 4, 5, 8, 0x20].contains b28
    if b28 = 3 then [(0, .writes, true), (1, .reads, true), (2, .reads, true), (3, .reads, true)]
    else if b28 = 0x21 ∨ b28 = 0x22 then [(0, .writes, true), (1, .reads, true), (2, .reads, true), (3, .reads, false)]
    else if two then [(0, .writes, true), (1, .reads, true), (2, .reads, true)]
    else [(0, .writes, true), (1, .reads, true)]
  | 0x1A | 0x1B | 0x1C | 0x27 | 0x28 | 0x2B => [(0, .writes, true), (1, .reads, true)]
  | 0x1D => [(0, .writes, true), (1, .reads, true), (2, .reads, false)]
  | 0x1E => [(0, .writes, true)]
  | 0x1F => [(0, .both, true), (1, .reads, true), (2, .reads, true)]
  | 0x20 => [(0, .writes, true), (1, .reads, true)]
  | 0x21 | 0x22 | 0x23 =>
    [(0, if bit (rd d 32 1) 7 then .both else .writes, true), (1, .reads, true), (2, .both, false)]
  | 0x24 | 0x2C | 0x2D => [(1, .reads, true)]
  | 0x25 => [(0, .writes, true)]
  | 0x26 => [(0, .writes, false)]
  | 0x29 =>
    [(0, .both, true), (1, .both, true), (2, .both, b28 == 0), (3, .both, true), (4, .writes, true), (5, .writes, false)]
  | 0x2A => [(0, .writes, true), (1, .reads, true), (2, .reads, false)]
  | _ => []

/-- Tensors that a descriptor reads (R218), without scale tensors. -/
def opReads (d : Bytes) : List Nat :=
  ((slotUses d).filterMap fun u => if u.2.1 = .writes ∨ dT d u.1 = 0xFFFF then none else some (dT d u.1)) ++
  (if dOp d = 0x15 then [rd d 28 2, rd d 30 2, rd d 32 2] else [])

/-- Tensors that a descriptor writes, its statistics destination among them. -/
def opWrites (d : Bytes) : List Nat :=
  ((slotUses d).filterMap fun u => if u.2.1 = .reads ∨ dT d u.1 = 0xFFFF then none else some (dT d u.1)) ++
  (if dOp d < 0x10 ∨ dStats d = 0xFFFF then [] else [dStats d])

/-- Every tensor that a descriptor names. -/
def opNames (d : Bytes) : List Nat := (opReads d ++ opWrites d).eraseDups

/-- Opcodes that are defined (R193, R213). -/
def opDefined (n : Nat) : Bool := n ≤ 6 || (0x10 ≤ n && n ≤ 0x2D)

/-- Opcodes that R213 admits inside a span. -/
def inSpanOk (d : Bytes) : Bool :=
  match dOp d with
  | 0x18 => rd d 28 1 == 0
  | n => n < 0x10 || [0x10, 0x14, 0x16, 0x19, 0x1A, 0x1B, 0x1C, 0x1D, 0x1E, 0x20, 0x27, 0x28, 0x2A, 0x2B].contains n

/-- The backward operations of R214. -/
def isBackward (d : Bytes) : Bool :=
  [0x11, 0x12, 0x13, 0x15, 0x17, 0x1F].contains (dOp d) || (dOp d == 0x18 && rd d 28 1 == 1)

/-- Bytes `i` to `k - 1` are zero. -/
def zeroIn (d : Bytes) (i k : Nat) : Bool := allZero ((d.drop i).take (k - i))

/-- The operation's own fields hold listed values and its reserved bytes are zero (R193, R215). -/
def fieldsOk (d : Bytes) : Bool :=
  let b28 := rd d 28 1
  let b29 := rd d 29 1
  let used := (slotUses d).map (·.1)
  let slots := (List.range 6).all fun i => used.contains i || dT d i == 0xFFFF
  let cls := b28 < 2
  match dOp d with
  | 0 => zeroIn d 16 64
  | 1 | 2 => zeroIn d 18 64
  | 3 => zeroIn d 19 24 && zeroIn d 36 64
  | 4 => zeroIn d 19 24 && zeroIn d 32 64
  | 5 => zeroIn d 19 20 && zeroIn d 24 64
  | 6 => zeroIn d 24 64
  | 0x10 => slots && b28 < 16 && b28 % 4 != 3 && b28 / 4 != 3 && zeroIn d 29 64
  | 0x11 | 0x12 | 0x13 => slots && cls && zeroIn d 29 64
  | 0x14 => slots && zeroIn d 28 36 && rd d 36 4 < 2 ^ 20 && rd d 40 4 < 2 ^ 20 && rd d 44 4 < 2 ^ 20 &&
      rd d 48 1 < 2 && zeroIn d 49 52 && zeroIn d 56 64
  | 0x15 => slots && rd d 34 1 < 2 && zeroIn d 35 36 && rd d 36 4 < 2 ^ 20 && rd d 40 4 < 2 ^ 20 &&
      rd d 44 4 < 2 ^ 20 && rd d 48 1 < 2 && zeroIn d 49 52 && zeroIn d 56 64
  | 0x16 => slots && cls && zeroIn d 29 32 && zeroIn d 36 64
  | 0x17 => slots && cls && zeroIn d 29 64
  | 0x18 => slots && cls && zeroIn d 29 32 && (b28 == 1 || zeroIn d 36 40) && zeroIn d 40 64
  | 0x19 => slots && (b28 ≤ 8 || (0x10 ≤ b28 && b28 ≤ 0x1C) || (0x20 ≤ b28 && b28 ≤ 0x22) || b28 == 0x30) &&
      zeroIn d 29 32 && (b28 == 6 || b28 == 0x30 || zeroIn d 32 36) && (b28 == 6 || zeroIn d 36 40) &&
      (if b28 = 0x30 then rd d 40 4 < 2 ^ 20 else zeroIn d 40 44) && zeroIn d 44 64
  | 0x1A => slots && b28 ≤ 5 && b29 < 32 && zeroIn d 30 64
  | 0x1B => slots && b28 ≤ 2 && zeroIn d 29 64
  | 0x1C | 0x1D | 0x1F | 0x2B | 0x27 | 0x2D => slots && zeroIn d 28 64
  | 0x1E => slots && zeroIn d 28 32 && zeroIn d 36 64
  | 0x20 => slots && rd d 31 1 < 2 && zeroIn d 32 64
  | 0x21 | 0x22 | 0x23 => slots && rd d 31 1 < 8 && rd d 32 1 % 128 < 3 && zeroIn d 33 64
  | 0x24 | 0x25 => slots && rd d 28 4 < 2 ^ 20 && rd d 32 1 < 8 && zeroIn d 33 34 && zeroIn d 40 64
  | 0x26 => slots && zeroIn d 31 32 && zeroIn d 40 64
  | 0x28 => slots && cls && zeroIn d 29 64
  | 0x29 => slots && cls && b29 < 2 && zeroIn d 30 32 && (b28 == 0 || zeroIn d 40 44) && (b29 == 0 || zeroIn d 52 56)
  | 0x2A => slots && cls && zeroIn d 29 64
  | 0x2C => slots && cls && (b28 == 1 || b29 == 0) && b29 < 16 && zeroIn d 44 64
  | _ => true

/-! ### Byte ranges and order -/

/-- The two intervals of a tensor's byte range (R199), as start and end. -/
def interval (raw : Bytes) (slot stride : Nat) : Nat × Nat :=
  let base := effBase raw slot stride
  (base, base + tExt raw 0 * fmtBytes ((fmtOf (tFmt raw)).getD .fp32) +
    ((List.range (tRank raw - 1)).foldl (fun a i => a + (tExt raw (i + 1) - 1) * tStride raw (i + 1) * 64) 0))

/-- All intervals of an entry. -/
def byteRange (ts : Tab TensorE) (slot stride i : Nat) : List (Nat × Nat) :=
  match tget ts i with
  | none => []
  | some e =>
    interval e.raw slot stride ::
      (match tget ts (tScaleTensor e.raw) with | none => [] | some c => [interval c.raw slot stride])

/-- Two ranges overlap (R199). -/
def overlaps (a b : List (Nat × Nat)) : Bool :=
  a.any fun x => b.any fun y => decide (x.1 < y.2) && decide (y.1 < x.2)

/-- The ancestors of each descriptor as a bit mask (R191, R192). -/
def ancestors (ds : List Bytes) : List Nat :=
  ds.foldl (fun acc d =>
    let i := acc.length
    let m := if dBarrier d then 2 ^ i - 1
      else (List.range (dDeps d)).foldl (fun m k => let p := i - dDep d k; m ||| 2 ^ p ||| acc.getD p 0) 0
    acc ++ [m]) []

/-- The spans of a program as id, first and last index (R204); where the brackets break R204, the descriptor at
which they do: a misplaced bracket, or the span_begin that no span_end follows. -/
def spanList (ds : List Bytes) : Except Nat (List (Nat × Nat × Nat)) :=
  let step := fun (acc : Except Nat (List (Nat × Nat × Nat) × Option (Nat × Nat × Bool))) (x : Bytes × Nat) =>
    acc.bind fun (done, cur) =>
      let id := rd x.1 16 2
      match dOp x.1, cur with
      | 1, none => if id = 0xFFFF ∨ done.any (fun s => s.1 == id) then .error x.2 else .ok (done, some (id, x.2, false))
      | 1, some _ => .error x.2
      | 2, some (i, f, true) => if i = id then .ok (done ++ [(i, f, x.2)], none) else .error x.2
      | 2, _ => .error x.2
      | n, some (i, f, c) => .ok (done, some (i, f, c || decide (0x10 ≤ n)))
      | _, none => .ok (done, none)
  match ds.zipIdx.foldl step (.ok ([], none)) with
  | .ok (done, none) => .ok done
  | .ok (_, some x) => .error x.2.1
  | .error i => .error i

/-- The position of the span holding descriptor `i`. -/
def spanOf (sp : List (Nat × Nat × Nat)) (i : Nat) : Option Nat :=
  (sp.zipIdx.find? fun x => x.1.2.1 ≤ i && i ≤ x.1.2.2).map (·.2)

/-! ### The checks -/

/-- Where a check fails: status, descriptor index, tensor. -/
structure Refused where
  status : Nat
  desc : Nat := 0xFFFF
  tensor : Nat := 0xFFFF

/-- What the checks look at. -/
structure Prog where
  j : Nat
  job : Job
  part : PartCfg
  hdr : Bytes
  ds : List Bytes
  maps : List Bytes

/-- A tensor's raw descriptor. -/
def Prog.raw (p : Prog) (i : Nat) : Bytes := ((tget p.job.tensors i).map (·.raw)).getD []

/-- Format of a tensor. -/
def Prog.fmt (p : Prog) (i : Nat) : Option Fmt := if (tget p.job.tensors i).isSome then fmtOf (tFmt (p.raw i)) else none

/-- Extents of a tensor. -/
def Prog.ext (p : Prog) (i : Nat) : List Nat := tExts (p.raw i)

/-- The named tensors with their parents and scale tensors (R196, R198). -/
def Prog.closure (p : Prog) : Nat → List Nat → List Nat
  | 0, l => l
  | k + 1, l =>
    let more := l.flatMap fun i =>
      match tget p.job.tensors i with
      | none => []
      | some e => [tParent e.raw, tScaleTensor e.raw].filter (· != 0xFFFF)
    let l' := (l ++ more).eraseDups
    if l'.length = l.length then l else Prog.closure p k l'

/-- The first descriptor that fails a check, with the tensor concerned. -/
def Prog.first (p : Prog) (status : Nat) (f : Nat → Bytes → Option Nat) : Option Refused :=
  (p.ds.zipIdx).findSome? fun x => (f x.2 x.1).map fun t => ⟨status, x.2, t⟩

/-- A check on whole descriptors. -/
def Prog.all (p : Prog) (status : Nat) (f : Nat → Bytes → Bool) : Option Refused :=
  p.first status fun i d => if f i d then none else some 0xFFFF

/-- A check on every named tensor. -/
def Prog.tensors (p : Prog) (status : Nat) (f : Nat → Bool) : Option Refused :=
  p.first status fun _ d => (p.closure 8 (opNames d)).find? fun t => !f t

/-- FP32 bits are positive, finite and normal (R113). -/
def normalFp32 (b : Nat) : Bool := b < 2 ^ 31 && 1 ≤ b / 2 ^ 23 && b / 2 ^ 23 ≤ 254

/-- FP32 bits are finite. -/
def finiteFp32 (b : Nat) : Bool := b / 2 ^ 23 % 256 != 255

/-- FP32 bits are positive and finite. -/
def positiveFp32 (b : Nat) : Bool := finiteFp32 b && 1 ≤ b && b < 2 ^ 31

/-- Where the scale of the block at a byte distance from the first element of an 8-bit tensor stands, as a distance from the
first scale of its scale tensor (R196). -/
def scaleDistance (data scale : Bytes) (blk d : Nat) : Nat :=
  match indexAt (tExts data) (strides data) d with
  | [] => 0
  | i :: rest => dotIdx (i / blk :: rest) (strides scale)

/-- A scale view covers exactly the blocks that a data view covers: it begins at the first's scale, each of its strides is that of
the data view's, and its extents are the data view's in blocks (R196). -/
def scaleViewOk (data scale view scaleView : Bytes) (blk : Nat) : Bool :=
  let at0 := tBase view - tBase data
  let s0 := scaleDistance data scale blk at0
  tBase scaleView == tBase scale + s0 &&
  ((List.range (tRank view - 1)).all fun k =>
    tExt view (k + 1) ≤ 1 ||
    tStride scaleView (k + 1) * 64 + s0 == scaleDistance data scale blk (at0 + tStride view (k + 1) * 64)) &&
  tExts scaleView == (match tExts view with | [] => [] | x :: xs => ceilDiv x blk :: xs)

/-- A view of an 8-bit tensor meets R196. -/
def viewOk (b : Job) (raw : Bytes) : Bool :=
  match tget b.tensors (tParent raw) with
  | none => true
  | some p =>
    if ¬ ((fmtOf (tFmt p.raw)).map is8).getD false then true
    else
      let blk := blockSize (tBlockCode p.raw) b.cfg.block
      let start := (indexAt (tExts p.raw) (strides p.raw) (tBase raw - tBase p.raw)).headD 0
      tFmt raw == tFmt p.raw && blockSize (tBlockCode raw) b.cfg.block == blk && tBf16Scale raw == tBf16Scale p.raw &&
      tFixed raw == tFixed p.raw && tBase p.raw ≤ tBase raw && start % blk == 0 &&
      (tScaleTensor raw == tScaleTensor p.raw ||
        (match tget b.tensors (tScaleTensor raw), tget b.tensors (tScaleTensor p.raw) with
         | some sv, some sp =>
           tParent sv.raw == tScaleTensor p.raw && scaleViewOk p.raw sp.raw raw sv.raw blk
         | _, _ => false))

/-- Layout of a tensor (R195, R196, R199): rank, extents, alignment, intervals inside the mapped space,
inside its parent's, those of a view's scales inside those of its parent's scales, and the conditions on a view of an 8-bit tensor. -/
def layoutOk (p : Prog) (i : Nat) : Bool :=
  let slot := if hSlot p.hdr = 0xFF then 0 else hSlot p.hdr
  let b := p.raw i
  let iv := interval b slot (hStride p.hdr)
  let inside := fun (x y : Nat × Nat) => y.1 ≤ x.1 && x.2 ≤ y.2
  1 ≤ tRank b && tRank b ≤ 5 && (tExts b).all (1 ≤ ·) && tBase b % 64 == 0 &&
  rangeIn p.job.carve iv.1 (iv.2 - iv.1) &&
  (!(tFixed b && tBf16Scale b) || (1 ≤ tFixedScale b)) && tFixedScale b ≤ 0xFE &&
  ((tget p.job.tensors (tParent b)).isNone ||
    (inside iv (interval (p.raw (tParent b)) slot (hStride p.hdr)) &&
     ((tget p.job.tensors (tScaleTensor b)).isNone || (tget p.job.tensors (tScaleTensor (p.raw (tParent b)))).isNone ||
       inside (interval (p.raw (tScaleTensor b)) slot (hStride p.hdr))
         (interval (p.raw (tScaleTensor (p.raw (tParent b)))) slot (hStride p.hdr))))) &&
  viewOk p.job b &&
  (match p.fmt i with
   | none => false
   | some f =>
     if is8 f then
       match tget p.job.tensors (tScaleTensor b) with
       | none => false
       | some c =>
         let bs := blockSize (tBlockCode b) p.job.cfg.block
         fmtOf (tFmt c.raw) == (if tBf16Scale b then some .bf16 else some .e8m0) &&
         tExts c.raw == (match tExts b with | [] => [] | e :: es => ceilDiv e bs :: es)
     else tScaleTensor b == 0xFFFF)

/-- A view's chain, the entry itself first. -/
def chainOf (ts : Tab TensorE) : Nat → Nat → List Nat
  | 0, i => [i]
  | k + 1, i =>
    match tget ts i with
    | none => [i]
    | some e => if tParent e.raw = 0xFFFF then [i] else i :: chainOf ts k (tParent e.raw)

/-- A write through an entry of a view's chain covers all of another entry of it (R154): as many elements in the same interval. -/
def coversWhole (p : Prog) (t u : Nat) : Bool :=
  t == u || (product (p.ext t) == product (p.ext u) && interval (p.raw t) 0 0 == interval (p.raw u) 0 0)

/-- Shapes equal. -/
def Prog.same (p : Prog) (a b : Nat) : Bool := p.ext a == p.ext b

/-- Extents in every dimension are 1 or those of y (R236). -/
def broadcasts (y a : List Nat) : Bool :=
  a.length ≤ y.length && (y.zip (a ++ List.replicate (y.length - a.length) 1)).all fun x => x.2 == 1 || x.1 == x.2

/-- Members of the group that a descriptor names, from the object table. -/
def groupSize (s : State) (i : Nat) : Option Nat :=
  match objAt s i with
  | some { data := .group g, .. } => some g.members.length
  | _ => none

/-- An optional slot is absent or meets a test. -/
def optSlot (i : Nat) (f : Nat → Bool) : Bool := i == 0xFFFF || f i

/-- The 16-bit or FP32 formats of a gradient or reduction. -/
def fmtIn (p : Prog) (i : Nat) (l : List Fmt) : Bool := match p.fmt i with | some f => l.contains f | none => false

/-- A tensor of the parameter-state window (R292). -/
def inWindow (p : Prog) (i : Nat) : Bool := 2 ^ 39 ≤ tBase (p.raw i)

/-- A view that covers whole pages of its root (R288), of so many elements along its first two dimensions, judged from its offset,
extents and strides. -/
def wholePages (p : Prog) (i u0 u1 : Nat) : Bool :=
  let b := p.raw i
  if tParent b = 0xFFFF then true
  else
    let r := p.raw (rootOf p.job.tensors i)
    let d := tBase b - tBase r
    let strideOk := (List.range (min (tRank b) (tRank r) - 1)).all fun k => tStride b (k + 1) == tStride r (k + 1)
    let f := fmtBytes ((fmtOf (tFmt b)).getD .fp32)
    let col := tStride r 1 * 64
    if tRank b = 1 ∨ tRank r = 1 then
      let o := d / f
      tRank b == tRank r && d % f == 0 && o % 4096 == 0 && (tExt b 0 % 4096 == 0 || o + tExt b 0 == tExt r 0)
    else
      let pl := if tRank r < 3 then col * tExt r 1 else tStride r 2 * 64
      let inPlane := if pl = 0 then d else d % pl
      let n0 := if col = 0 then 0 else inPlane / col
      let k0 := (if col = 0 then inPlane else inPlane % col) / f
      strideOk && (if col = 0 then true else (inPlane % col) % f == 0) &&
      k0 % u0 == 0 && (tExt b 0 % u0 == 0 || k0 + tExt b 0 == tExt r 0) &&
      n0 % u1 == 0 && (tExt b 1 % u1 == 0 || n0 + tExt b 1 == tExt r 1)

/-- The shard that a state tensor's root is (R282): its shard dimension where it has more than one, and its origin, a multiple of its
extent along it. -/
def shardOk (p : Prog) (origin i dim : Nat) : Bool :=
  let r := p.raw (rootOf p.job.tensors i)
  tOrigin r == origin && (tRank r == 1 || (tShard r == dim && tOrigin r % max (tExt r dim) 1 == 0))

/-- The tensor that the first failing condition concerns; 0xFFFF where it concerns none. A condition that
relates two tensors is taken to concern the one whose shape, format or range its rule fixes (log 33). -/
def failing (l : List (Nat × Bool)) : Option Nat := (l.find? fun x => !x.2).map (·.1)

/-- State-tensor conditions of an optimiser_step (R253, R282, R283, R286, R288, R292). -/
def optimiserFails (p : Prog) (d : Bytes) : Option Nat :=
  let t := dT d
  let e := p.ext (t 0)
  let adam := rd d 28 1 == 0
  let f := fun (i : Nat) => rd d i 4
  let moment := fun (i : Nat) =>
    p.fmt i == some .e4m3 && tBf16Scale (p.raw i) && blockSize (tBlockCode (p.raw i)) p.job.cfg.block == 64
  let copyF := fun (i : Nat) => fmtIn p i [.e4m3, .e5m2, .fp16, .bf16] && (!(fmtIn p i [.e4m3, .e5m2]) ||
    (!tFixed (p.raw i) && !tBf16Scale (p.raw i)))
  let origin := tOrigin (p.raw (rootOf p.job.tensors (t 0)))
  let common := fun (i : Nat) => inWindow p i && !tDynamic (p.raw i) && wholePages p i 128 32 && shardOk p origin i 1
  let shape := match e with
    | [n] => n % 64 == 0 && t 5 == 0xFFFF
    | k :: n :: _ => k % 128 == 0 && n % 32 == 0 && t 5 != 0xFFFF
    | [] => false
  let turned := match e with
    | k :: n :: rest => n :: k :: rest
    | l => l
  failing
    [(0xFFFF, positiveFp32 (f 32) && positiveFp32 (f 44)),
     (0xFFFF, finiteFp32 (f 48) && f 48 < 2 ^ 31 && finiteFp32 (f 52) && f 52 < 2 ^ 31),
     (0xFFFF, if adam then f 36 < 0x3F800000 && f 40 < 0x3F800000 && t 2 != 0xFFFF else f 36 ≤ 0x3F800000 && t 2 == 0xFFFF),
     (t 0, p.fmt (t 0) == some .m48 && tScaleBits (p.raw (t 0)) == 0x3F800000 && common (t 0)),
     (t 1, moment (t 1) && p.ext (t 1) == e && common (t 1)),
     (t 2, optSlot (t 2) fun i => moment i && p.ext i == e && common i),
     (t 3, fmtIn p (t 3) [.fp16, .bf16] && p.ext (t 3) == e && common (t 3)),
     (t 4, copyF (t 4) && p.ext (t 4) == e && common (t 4)),
     (t 5, optSlot (t 5) fun i => copyF i && p.ext i == turned && inWindow p i && !tDynamic (p.raw i) && wholePages p i 32 128 && shardOk p origin i 0 &&
       (!(fmtIn p i [.e4m3, .e5m2]) || blockSize (tBlockCode (p.raw i)) p.job.cfg.block ≤ 32)),
     (t 0, shape)]

/-- One product's shapes (R223): output, first operand, second operand, and the operands' reduced dimension. -/
def productOk (o a b : List Nat) (dim : Nat) : Bool :=
  2 ≤ o.length && o.length == a.length && o.length == b.length && o.drop 2 == a.drop 2 && o.drop 2 == b.drop 2 &&
  a.getD dim 0 == b.getD dim 0 && o.getD 0 0 == b.getD (1 - dim) 0 && o.getD 1 0 == a.getD (1 - dim) 0

/-- The conditions of R223 and R265 on a multiply. -/
def multiplyFails (p : Prog) (d : Bytes) : Option Nat :=
  let t := dT d
  let e := fun (i : Nat) => p.ext (t i)
  let grad := fun (i : Nat) => p.fmt (t i) == some (gradFmt p.job.cfg)
  let dim := if dOp d = 0x12 then 1 else 0
  let both := decide (dOp d = 0x13)
  failing
    [(t 0, productOk (e 0) (e 1) (e 2) dim),
     (t 3, !both || productOk (e 3) (e 1) (e 4) 1),
     (t 5, optSlot (t 5) fun a => p.ext a == e (if both then 3 else 0)),
     (t 0, dOp d == 0x10 || grad 0),
     (t 3, !both || grad 3)]

/-- The conditions of R227, R228 and R265 on an attention operation; a dimension that a tensor does not have counts as extent 1. -/
def attentionFails (p : Prog) (d : Bytes) : Option Nat :=
  let t := dT d
  let f := fun (i : Nat) => rd d i 4
  let fwd := decide (dOp d = 0x14)
  let qi := t (if fwd then 1 else 3)
  let ki := t (if fwd then 2 else 4)
  let vi := t (if fwd then 3 else 5)
  let whole := fun (l : List Nat) => l ++ List.replicate (3 - l.length) 1
  let q := p.ext qi
  let k := p.ext ki
  let st := if fwd then t 4 else rd d 32 2
  let grad := fun (i : Nat) => fwd || p.fmt i == some (gradFmt p.job.cfg)
  failing
    [(qi, 1 ≤ q.length && q.length ≤ 3 && q.headD 0 % 16 == 0 && 16 ≤ q.headD 0 && q.headD 0 ≤ 256),
     (ki, 1 ≤ k.length && k.length ≤ 3 && k.headD 0 == q.headD 0 && q.getD 2 1 % (max (k.getD 2 1) 1) == 0),
     (vi, p.ext vi == k),
     (0xFFFF, normalFp32 (f 52)),
     (t 0, p.ext (t 0) == q),
     (t 1, fwd || p.ext (t 1) == k),
     (t 2, fwd || p.ext (t 2) == k),
     (rd d 28 2, fwd || (p.ext (rd d 28 2) == q && fmtIn p (rd d 28 2) [.fp16, .bf16])),
     (rd d 30 2, fwd || p.ext (rd d 30 2) == q),
     (st, whole (p.ext st) == [2, q.getD 1 1, q.getD 2 1] && p.fmt st == some .fp32),
     (qi, f 36 + q.getD 1 1 ≤ 1048576),
     (ki, f 40 + k.getD 1 1 ≤ 1048576),
     (t 0, grad (t 0)), (t 1, grad (t 1)), (t 2, grad (t 2))]

/-- The conditions of R231, R234, R236 to R238, R240 and R241 on the vector operations. -/
def vectorFails (p : Prog) (d : Bytes) : Option Nat :=
  let t := dT d
  let e := fun (i : Nat) => p.ext (t i)
  let f := fun (i : Nat) => rd d i 4
  let rows := fun (i : Nat) => product ((e i).drop 1)
  let line := fun (a x : List Nat) => a.headD 0 == x.headD 0 && product a == x.headD 0
  let row := fun (i : Nat) (x : List Nat) => line (e i) x
  match dOp d with
  | 0x16 => failing
    [(t 0, e 0 == e 1), (t 2, row 2 (e 1)), (t 3, optSlot (t 3) fun a => line (p.ext a) (e 1)),
     (t 4, optSlot (t 4) fun a => p.ext a == [2, rows 1] && p.fmt a == some .fp32), (0xFFFF, positiveFp32 (f 32))]
  | 0x17 => failing
    [(t 0, e 0 == e 3), (t 2, e 2 == e 3), (t 1, row 1 (e 3)), (t 4, row 4 (e 3)),
     (t 5, e 5 == [2, rows 3] && p.fmt (t 5) == some .fp32), (t 0, p.fmt (t 0) == some (gradFmt p.job.cfg)),
     (t 1, p.fmt (t 1) == some .fp32)]
  | 0x18 =>
    let loss := rd d 28 1 != 0
    failing
    [(t 0, e 0 == e 1), (0xFFFF, normalFp32 (f 32)), (t 0, !loss || fmtIn p (t 0) [.fp16, .bf16]),
     (0xFFFF, !loss || normalFp32 (f 36)),
     (t 2, !loss || (e 2 == [1, rows 1] && p.fmt (t 2) == some .i32)),
     (t 3, !loss || optSlot (t 3) fun a => p.ext a == [1, rows 1] && p.fmt a == some .fp32)]
  | 0x19 =>
    let c := rd d 28 1
    failing
    [(t 1, broadcasts (e 0) (e 1)), (t 2, optSlot (t 2) fun a => broadcasts (e 0) (p.ext a)),
     (t 3, optSlot (t 3) fun a => broadcasts (e 0) (p.ext a)),
     (0xFFFF, c != 0x30 || normalFp32 (f 32)), (t 1, c != 0x30 || ((e 1).headD 1 % 2 == 0 && (e 0).headD 1 % 2 == 0)),
     (t 0, c < 0x10 || fmtIn p (t 0) [.fp16, .bf16])]
  | 0x1A =>
    let k := rd d 29 1
    failing
    [(0xFFFF, 1 ≤ k && k < 2 ^ (e 1).length),
     (t 0, e 0 == ((e 1).zipIdx.map fun x => if bit k x.2 then 1 else x.1))]
  | 0x1B => failing [(t 0, e 0 == e 1), (t 0, rd d 28 1 == 0 || p.fmt (t 0) == some .fp32)]
  | 0x1C => failing [(t 0, match e 1 with | a :: b :: r => e 0 == b :: a :: r | _ => false)]
  | 0x1D =>
    if t 2 = 0xFFFF then failing [(t 0, e 0 == e 1)]
    else failing
      [(t 0, 2 ≤ (e 0).length && 2 ≤ (e 1).length && (e 0).headD 0 == (e 1).headD 1 && (e 0).drop 2 == (e 1).drop 2),
       (t 2, p.fmt (t 2) == some .i32 && product (e 2) == (e 0).getD 1 0)]
  | 0x1F => failing
    [(t 0, 2 ≤ (e 0).length && 2 ≤ (e 1).length && (e 0).headD 0 == (e 1).headD 1 && (e 0).drop 2 == (e 1).drop 2),
     (t 2, p.fmt (t 2) == some .i32 && product (e 2) == (e 1).getD 1 0)]
  | _ => none

/-- The conditions of R242 to R247 on a gather and the collectives. -/
def groupFails (s : State) (p : Prog) (d : Bytes) : Option Nat :=
  let t := dT d
  let e := fun (i : Nat) => p.ext (t i)
  let sd := tShard (p.raw (t 1))
  let longer := fun (g : Nat) => (e 1).zipIdx.map fun x => if x.2 = sd then x.1 * g else x.1
  let shorter := fun (g : Nat) => (e 1).zipIdx.map fun x => if x.2 = sd then x.1 / (max g 1) else x.1
  let members := groupSize s (rd d 28 2)
  let given := fun (f : Nat → Bool) => match members with | none => true | some g => f g
  let block := fun (i : Nat) => blockSize (tBlockCode (p.raw i)) p.job.cfg.block
  if dOp d = 0x20 then
    failing
    [(t 0, tLogical (p.raw (t 0)) == 0 && p.fmt (t 0) == p.fmt (t 1) && block (t 0) == block (t 1) &&
       tBf16Scale (p.raw (t 0)) == tBf16Scale (p.raw (t 1))),
     (t 1, !(fmtIn p (t 1) [.e4m3, .e5m2]) || sd != 0 || (e 1).headD 0 % block (t 1) == 0),
     (t 1, sd < (e 1).length), (t 0, given fun g => e 0 == longer g)]
  else
    let nar := rd d 32 1 % 4
    let red := dOp d != 0x21
    failing
    [(t 1, !red || fmtIn p (t 1) [.fp16, .bf16, .fp32]), (t 0, p.fmt (t 0) == p.fmt (t 1)),
     (t 0, dOp d != 0x23 || e 0 == e 1),
     (t 1, nar == 0 || (red && fmtIn p (t 1) [.fp16, .bf16])),
     (t 2, (nar != 0 || t 2 == 0xFFFF) && optSlot (t 2) fun a => p.ext a == e 1 && fmtIn p a [.fp16, .bf16]),
     (t 1, dOp d == 0x23 || sd < (e 1).length),
     (t 1, dOp d != 0x22 || given fun g => (e 1).getD sd 0 % (max g 1) == 0),
     (t 0, dOp d == 0x23 || given fun g => e 0 == if dOp d = 0x21 then longer g else shorter g)]

/-- The ranges of R193 on a control descriptor's fields. -/
def controlOk (d : Bytes) : Bool :=
  match dOp d with
  | 5 => 1 ≤ rd d 16 2
  | 6 => 1 ≤ rd d 20 4 && rd d 20 4 ≤ 1000000
  | _ => true

/-- What fails of the conditions of the operation reference on a descriptor's tensors and fields (R655 and its
entries): the tensor concerned, or 0xFFFF for a field or a missing slot. -/
def shapeFails (s : State) (p : Prog) (d : Bytes) : Option Nat :=
  let t := dT d
  let eight := fun (i : Nat) => p.ext i == [8] && p.fmt i == some .i32
  if ¬ controlOk d then some 0xFFFF
  else if (slotUses d).any fun u => u.2.2 && t u.1 == 0xFFFF then some 0xFFFF
  else match dOp d with
  | 0x10 | 0x11 | 0x12 | 0x13 => multiplyFails p d
  | 0x14 | 0x15 => attentionFails p d
  | 0x20 | 0x21 | 0x22 | 0x23 => groupFails s p d
  | 0x26 => failing [(t 0, optSlot (t 0) fun a => p.ext a == [2] && p.fmt a == some .i32)]
  | 0x27 => failing [(t 0, tSlotIndexed (p.raw (t 0)) && p.ext (t 0) == p.ext (t 1))]
  | 0x28 => failing [(t 1, tSlotIndexed (p.raw (t 1)) && p.ext (t 0) == p.ext (t 1))]
  | 0x29 => optimiserFails p d
  | 0x2A => failing [(t 0, eight (t 0)), (t 2, optSlot (t 2) eight)]
  | 0x2B => failing [(t 0, p.fmt (t 0) == some .fp32 && product (p.ext (t 0)) == 8)]
  | _ => vectorFails p d

/-- A tile map lies within the partition and meets R201, its form among it (log 95). -/
def mapOk (p : PartCfg) (m : Bytes) : Bool :=
  1 ≤ mWidth m && mWidth m ≤ 20 && 1 ≤ mHeight m && mHeight m ≤ 50 && mCol m + mWidth m ≤ p.width &&
  mRow m + mHeight m ≤ p.height && 1 ≤ mTilesM m && mTilesM m ≤ 65536 && 1 ≤ mTilesN m && mTilesN m ≤ 2097152 &&
  mForm m ≤ 1 && (if mForm m = 0 then mParts m == 1 else 2 ≤ mParts m && mParts m ≤ 64) &&
  1 ≤ mGroup m && mGroup m ≤ 16 && 1 ≤ mThreads m && mThreads m ≤ 4

/-- The counts that an entry fixes (R216, R289, R656, R657). Elements that no tile of a vector operation's map covers are computed all
the same (log 96). -/
def mapCounts (p : Prog) (d m : Bytes) : Bool :=
  let e0 := p.ext (dT d 0)
  let flat := mParts m == 1 && mForm m == 0 && mGroup m == 1
  match dOp d with
  | 0x10 | 0x11 | 0x12 | 0x13 =>
    mTilesM m == product (e0.drop 2) * ceilDiv (e0.getD 1 1) 16 && mTilesN m == ceilDiv (e0.getD 0 1) 8
  | 0x14 => let q := p.ext (dT d 1); flat && mTilesN m == 1 && mTilesM m == q.getD 2 1 * ceilDiv (q.getD 1 1) 16
  | 0x15 => let k := p.ext (dT d 4); flat && mTilesN m == 1 && mTilesM m == k.getD 2 1 * ceilDiv (k.getD 1 1) 128
  | 0x16 | 0x17 | 0x18 => mTilesN m == 1
  | 0x29 => flat && mTilesM m == 1 && mTilesN m == pageCount e0
  | _ => true

/-- The array operand that breaks R131, R219 or R262. In the 8-bit class an operand that is read as stored needs
E8M0 block scales; the 16-bit class takes the 8-bit operands by conversion. -/
def classFails (p : Prog) (d : Bytes) : Option Nat :=
  let cls := fun (i : Nat) => (p.fmt i).bind clsOf
  let e8 := fun (i : Nat) => !(cls i == some .c8 && tBf16Scale (p.raw i))
  let conv := fun (i : Nat) => (i, cls i == some .c8 || cls i == some .c16)
  let t := dT d
  let wide (i : Nat) : Bool := rd d i 1 != 0
  match dOp d with
  | 0x10 => failing [(t 1, (cls (t 1)).isSome), (t 2, cls (t 1) == cls (t 2)), (t 1, e8 (t 1)), (t 2, e8 (t 2))]
  | 0x11 => failing [conv (t 1), conv (t 2), (t 2, wide 28 || cls (t 2) == some .c8), (t 1, wide 28 || e8 (t 1)),
      (t 2, wide 28 || e8 (t 2))]
  | 0x12 => failing [conv (t 1), conv (t 2)]
  | 0x13 => failing [conv (t 1), conv (t 2), conv (t 4), (t 2, wide 28 || cls (t 2) == some .c8), (t 1, wide 28 || e8 (t 1)),
      (t 2, wide 28 || e8 (t 2))]
  | 0x14 =>
    let wide := !(cls (t 1) == some .c8 && cls (t 2) == some .c8)
    failing [conv (t 1), conv (t 2), conv (t 3), (t 1, wide || e8 (t 1)), (t 2, wide || e8 (t 2))]
  | 0x15 => failing [conv (t 3), conv (t 4), conv (t 5), conv (rd d 28 2), (t 3, wide 34 || e8 (t 3)),
      (t 4, wide 34 || e8 (t 4)), (t 5, wide 34 || e8 (t 5))]
  | _ => none

/-- No 8-bit output block crosses two units (R153, R203, R216). -/
def blocksOk (p : Prog) (d m : Bytes) : Option Nat :=
  let width := if dOp d ≤ 0x13 then 8 else 128
  (opWrites d).find? fun t =>
    fmtIn p t [.e4m3, .e5m2] && dOp d != 0x29 && dOp d != 0x25 && dOp d != 0x20 && dOp d != 0x21 &&
    mGroup m * width % blockSize (tBlockCode (p.raw t)) p.job.cfg.block != 0

/-- The objects that a descriptor names: index, generation, and the kinds its field takes. -/
def namedObject (d : Bytes) : Option (Nat × Nat) :=
  match dOp d with
  | 3 | 4 => some (rd d 16 2, rd d 18 1)
  | 0x20 | 0x21 | 0x22 | 0x23 | 0x26 => some (rd d 28 2, rd d 30 1)
  | _ => none

/-- The object's kind is one that the field requires (R206, R207, R242, R454). -/
def kindFor (d : Bytes) (o : ObjData) : Bool :=
  match dOp d, o with
  | 3, .fence _ => true
  | 4, .fence _ => true
  | 4, .proxy _ => true
  | 3, _ => false
  | 4, _ => false
  | _, .group _ => true
  | _, _ => false

/-- The state of a named object for check 0x54: nothing wrong, 0x54, or 0x17. -/
def objectStatus (s : State) (j : Nat) (d : Bytes) : Option Nat :=
  match namedObject d with
  | none => none
  | some (i, g) =>
    if genOf s i ≠ g then some 0x54
    else
      match objAt s i with
      | none => some 0x54
      | some o =>
        if o.destroying then some 0x17
        else if o.job ≠ some j ∨ ¬ kindFor d o.data then some 0x54 else none

/-- Shared-pool units of a program copy (R653). -/
def copyUnits (h : Bytes) : Nat := 1 + hCount h + ceilDiv (32 * hMaps h) 64

/-- Shared-pool units in use by a job (R653). -/
def poolUsed (s : State) (j : Nat) : Nat :=
  match tget s.jobs j with
  | none => 0
  | some b =>
    (b.tensors.foldl (fun a p => a + p.2.units) 0) +
    (b.subs.foldl (fun a p => a + copyUnits p.2.hdr) 0) +
    (s.objects.objs.foldl (fun a p =>
      if p.2.job = some j then
        match p.2.data with
        | .fence _ => a + 1
        | .proxy _ => a + 1
        | .group g => a + 1 + ceilDiv (4 * g.members.length) 64
        | _ => a
      else a) 0)

/-- Shared-pool units of a job's control area: what the fixed part leaves (R653). -/
def poolSize (b : Job) : Nat := (b.carve.controlGib * 2 ^ 30 - 10372 * 1024) / 64

/-- Reserved fields of the program header, a tile map and a tensor (R15, R186, R195, R201). -/
def headerReserved (h : Bytes) : Bool := rd h 2 1 < 2 && zeroIn h 32 64 && (hSlot h < 32 || hSlot h == 0xFF)

def tensorReserved (b : Bytes) : Bool :=
  rd b 5 1 < 128 && rd b 6 1 < 64 && rd b 7 1 < 128 && rd b 9 1 < 4 && rd b 47 1 == 0 && rd b 63 1 < 8

/-- Checks 0x40 and 0x41: the version, and reserved and enumerated fields. -/
def checkFields (p : Prog) : Option Refused :=
  let v := hVersion p.hdr
  (if v = 0x0300 ∨ v = 0x0301 then none else some ⟨0x40, 0xFFFF, 0xFFFF⟩).or <|
  (if headerReserved p.hdr then none else some ⟨0x41, 0xFFFF, 0xFFFF⟩).or <|
  (p.first 0x41 fun _ d =>
    if rd d 2 1 < 2 && (4 ≤ dDeps d || zeroIn d (4 + 2 * dDeps d) 12) && fieldsOk d then
      (opNames d).find? fun t => (tget p.job.tensors t).isSome && !tensorReserved (p.raw t)
    else some 0xFFFF).or <|
  if p.maps.all fun m => zeroIn m 17 32 then none else some ⟨0x41, 0xFFFF, 0xFFFF⟩

/-- Checks 0x45 to 0x49. -/
def checkNames (p : Prog) : Option Refused :=
  (p.all 0x45 fun _ d => opDefined (dOp d)).or <|
  (p.all 0x46 fun i d =>
    dDeps d ≤ 4 && ((List.range (dDeps d)).all fun k => 1 ≤ dDep d k && dDep d k ≤ i) &&
    (if dOp d < 0x10 then dMap d == 0xFFFF else dMap d < p.maps.length)).or <|
  (p.first 0x47 fun _ d =>
    ((p.closure 8 (opNames d)).find? fun t =>
      !((tget p.job.tensors t).isSome && (tRecord (p.raw t) == 0xFFFF && !tDynamic (p.raw t) ||
        (tget p.job.hist (tRecord (p.raw t))).isSome))).or <|
    if dStats d = 0xFFFF ∨ (p.fmt (dStats d) == some .fp32 && product (p.ext (dStats d)) == 8) then none
    else some (dStats d)).or <|
  (p.tensors 0x48 fun t => (p.fmt t).isSome).or <|
  p.tensors 0x49 fun t => tDynamic (p.raw t) || normalFp32 (tScaleBits (p.raw t))

/-- Checks 0x4A to 0x4F. -/
def checkShapes (s : State) (p : Prog) : Option Refused :=
  let map := fun (d : Bytes) => p.maps.getD (dMap d) []
  (p.first 0x4A fun _ d => ((p.closure 8 (opNames d)).find? fun t => !layoutOk p t).or (shapeFails s p d)).or <|
  (p.all 0x4B fun _ d => dOp d < 0x10 || (mapOk p.part (map d) && mapCounts p d (map d))).or <|
  (if p.maps.all (mapOk p.part) then none else some ⟨0x4B, 0xFFFF, 0xFFFF⟩).or <|
  (p.first 0x4C fun _ d => classFails p d).or <|
  (p.first 0x4E fun _ d => if dOp d < 0x10 then none else blocksOk p d (map d)).or <|
  p.first 0x4F fun _ d => (opWrites d).find? fun t =>
    (chainOf p.job.tensors 64 t).any fun u => tDynamic (p.raw u) && !(coversWhole p t u && dOp d != 0x1F)

/-- Ranges of the tensors of a list. -/
def Prog.ranges (p : Prog) (l : List Nat) : List (Nat × Nat) :=
  let slot := if hSlot p.hdr = 0xFF then 0 else hSlot p.hdr
  l.flatMap fun t => byteRange p.job.tensors slot (hStride p.hdr) t

/-- Checks 0x50 to 0x53: spans, aliasing and hazards (R165, R166, R194, R204, R207, R214, R244). -/
def checkOrder (s : State) (p : Prog) : Option Refused :=
  match spanList p.ds with
  | .error i => some ⟨0x50, i, 0xFFFF⟩
  | .ok sp =>
    let anc := ancestors p.ds
    let inSpan := fun (k : Nat) => (p.ds.zipIdx.filter fun x => spanOf sp x.2 == some k).map (·.1)
    let readsOf := fun (k : Nat) => (inSpan k).flatMap opReads
    let writesOf := fun (k : Nat) => (inSpan k).flatMap opWrites
    let remote := fun (d : Bytes) => dOp d == 4 && (match objAt s (rd d 16 2) with | some { data := .proxy _, .. } => true | _ => false)
    (p.all 0x51 fun i d => (spanOf sp i).isNone || (inSpanOk d && !remote d)).or <|
    (p.first 0x52 fun i d =>
      match spanOf sp i with
      | none => none
      | some k =>
        let others := readsOf k ++ (if 1 ≤ k then readsOf (k - 1) ++ writesOf (k - 1) else []) ++
          (if 2 ≤ k then readsOf (k - 2) ++ writesOf (k - 2) else [])
        let others := p.ranges others
        (opWrites d).find? fun t => overlaps (p.ranges [t]) others).or <|
    p.first 0x53 fun i d =>
      let free := (p.ds.zipIdx.take i).filter fun x => !(bit (anc.getD i 0) x.2)
      let hazard := fun (t : Nat) =>
        let r := p.ranges [t]
        let writes := (opWrites d).contains t
        free.any fun x => overlaps r (p.ranges (opWrites x.1)) || (writes && overlaps r (p.ranges (opReads x.1)))
      let staged := fun (t : Nat) => (p.ds.zipIdx).any fun x =>
        dOp x.1 == 0x20 && rd x.1 31 1 == 0 && dT x.1 0 == t && x.2 != i && !(bit (anc.getD i 0) x.2)
      (opNames d).find? fun t => hazard t || staged t

/-- Checks 0x54 to 0x56; at the place of 0x54 an object that is being destroyed, or a tensor entry that is being released, refuses with
0x17 (R444). -/
def checkRights (s : State) (p : Prog) : Option Refused :=
  (p.ds.zipIdx.findSome? fun x =>
    ((objectStatus s p.j x.1).map fun st => (⟨st, x.2, 0xFFFF⟩ : Refused)).or
      (((opNames x.1).find? fun t => s.running.any fun r => r.kind == .tensorRelease p.j t).map fun t => ⟨0x17, x.2, t⟩)).or <|
  (if (rd p.hdr 2 1 == 1) == isGap p.j then none else some ⟨0x55, 0xFFFF, 0xFFFF⟩).or <|
  (if hSlot p.hdr = 0xFF ∨ p.job.mbSlots.contains (hSlot p.hdr) then none else some ⟨0x55, 0xFFFF, 0xFFFF⟩).or <|
  (p.first 0x55 fun _ d =>
    if isGap p.j && dOp d == 6 then some 0xFFFF
    else if hSlot p.hdr = 0xFF then (p.closure 8 (opNames d)).find? fun t => tSlotIndexed (p.raw t) else none).or <|
  p.first 0x56 fun _ d => (opWrites d).find? fun t =>
    (chainOf p.job.tensors 64 t).any fun u => tReadOnly (p.raw u)

/-- Check 0x43: the program count and the control area (R189, R653). -/
def checkSpace (s : State) (j : Nat) (b : Job) (h : Bytes) : Bool :=
  decide (b.subs.length < 256) && decide (poolUsed s j + copyUnits h ≤ poolSize b)

/-- Check 0x44: counts, offsets, their alignments and the slot stride, and arrays within the program object (R186, log 95). -/
def checkLayout (h : Bytes) (length : Nat) : Bool :=
  1 ≤ hCount h && hMaps h ≤ 4096 && hDescOff h % 64 == 0 && hMapOff h % 32 == 0 && hStride h % 256 == 0 &&
  hDescOff h + 64 * hCount h ≤ length && hMapOff h + 32 * hMaps h ≤ length && 64 ≤ length

/-- A program's bytes read from the carve-out. -/
def readProgram (s : State) (j off : Nat) (h : Bytes) : List Bytes × List Bytes :=
  ((List.range (hCount h)).map fun i => peekN s j (off + hDescOff h + 64 * i) 64,
   (List.range (hMaps h)).map fun i => peekN s j (off + hMapOff h + 32 * i) 32)

/-- The checks of R212 in order; the program as it will be copied, or the first refusal. Where the arrays do
not lie inside the object, only the header's own checks come before 0x44. -/
def submitCheck (s : State) (j off length : Nat) : Except Refused Prog :=
  match tget s.jobs j with
  | none => .error ⟨0x42, 0xFFFF, 0xFFFF⟩
  | some b =>
    let h := peekN s j off 64
    let inside := checkLayout h length
    let arr := if inside then readProgram s j off h else ([], [])
    let p : Prog := ⟨j, b, partCfg s j, h, arr.1, arr.2⟩
    match (checkFields p).or <|
      (if b.phase = .keyed then none else some ⟨0x42, 0xFFFF, 0xFFFF⟩).or <|
      (if checkSpace s j b h then none else some ⟨0x43, 0xFFFF, 0xFFFF⟩).or <|
      (if inside then none else some ⟨0x44, 0xFFFF, 0xFFFF⟩).or <|
      (checkNames p).or <| (checkShapes s p).or <| (checkOrder s p).or (checkRights s p) with
    | some r => .error r
    | none => .ok p

end Sys2Proof.Machine
end

