-- ==== Sys2Proof/Machine/Flags.lean ====
section
/-! DEFINITION. The sticky flags of the cores (R125 to R129) and the overflow word of a job (R160). -/

namespace Sys2Proof.Machine

/-- The block of a core (R4, R5). -/
def coreBlock (c : Nat) : Nat := c / 320 / 5 * 20 + c % 320 / 16

/-- The quarter of a block (R6). -/
def blockQuarter (b : Nat) : Nat := b / 20 / 25 * 2 + b % 20 / 10

/-- The cores of a block. -/
def blockCores (b : Nat) : List Nat :=
  (List.range 5).flatMap fun r => (List.range 16).map fun c => (5 * (b / 20) + r) * 320 + 16 * (b % 20) + c

/-- A core lies in a job's partition. -/
def coreIn (p : PartCfg) (c : Nat) : Bool :=
  let b := coreBlock c
  p.col0 ≤ b % 20 && b % 20 < p.col0 + p.width && p.row0 ≤ b / 20 && b / 20 < p.row0 + p.height

/-- The core at an index. -/
def coreAt (s : State) (c : Nat) : CoreSt := tgetD s.cores c {}

/-- Change a core. -/
def modCore (c : Nat) (f : CoreSt → CoreSt) (s : State) : State :=
  { s with cores := tsetD s.cores c (f (coreAt s c)) {} }

/-- Set flags in a core's set of a job kind (R126). -/
def raiseFlags (gap : Bool) (c : Nat) (f : NumFlags) (s : State) : State :=
  if f = noFlags then s
  else modCore c (fun x => if gap then { x with gapFlags := orFlags x.gapFlags f } else { x with flags := orFlags x.flags f }) s

/-- The gathered flags of a job (R127). -/
def gatheredFlags (s : State) (j : Nat) : NumFlags :=
  s.cores.foldl (fun a p =>
    if coreIn (partCfg s j) p.1 then orFlags a (if isGap j then p.2.gapFlags else p.2.flags) else a) noFlags

/-- The flags that a mask of R128 leaves. -/
def maskFlags (f : NumFlags) (v : Nat) : NumFlags :=
  ⟨f.overflow && !bit v 0, f.underflow && !bit v 1, f.inexact && !bit v 2, f.invalid && !bit v 3⟩

/-- Clear gathered flags in every core of the partition (R128). -/
def clearFlags (j v : Nat) (s : State) : State :=
  { s with cores := (s.cores.map fun p =>
      if coreIn (partCfg s j) p.1 then
        (p.1, if isGap j then { p.2 with gapFlags := maskFlags p.2.gapFlags v } else { p.2 with flags := maskFlags p.2.flags v })
      else p) }

/-- Clear both sets of every core of a partition (R129). -/
def clearPartitionFlags (p : PartCfg) (s : State) : State :=
  { s with cores := s.cores.map fun x =>
      if coreIn p x.1 then (x.1, { x.2 with flags := noFlags, gapFlags := noFlags }) else x }

/-- Set bits of a job's overflow word (R160). -/
def setOverflow (j bitsSet : Nat) (s : State) : State := modNum j (fun n => { n with word := n.word ||| bitsSet }) s

end Sys2Proof.Machine
end

