-- ==== Sys2Proof/Machine/Faults.lean ====
section
/-! DEFINITION. Job faults (R220 to R222), the end of a capture without a manifest (R527), and error records
(R596, R597). -/

namespace Sys2Proof.Machine

/-! ### Barrier packets (text before R522) -/

/-- Payload of a checkpoint barrier packet. -/
def barrierPayload (phase part serial value : Nat) : Bytes :=
  [3, BitVec.ofNat 8 phase] ++ leBytes 2 part ++ leBytes 4 serial ++ leBytes 8 value

/-- Send a barrier packet to the lead; the lead's own needs no packet. -/
def toLead (j : Nat) (payload : Bytes) (s : State) : State :=
  match tget s.jobs j with
  | none => s
  | some b => if b.isLead then s else (originate j { typ := 7, vc := 0, dst := b.lead, payload := payload } s).1

/-- Send a barrier packet to every other member; the lead knows them from their keying (R506). -/
def toMembers (j : Nat) (payload : Bytes) (s : State) : State :=
  match tget s.jobs j with
  | none => s
  | some b => (b.keying.members.filter (· != deviceAddress s)).foldl
      (fun t a => (originate j { typ := 7, vc := 0, dst := a, payload := payload } t).1) s

/-- The result of CKPT_TRIGGER (R517): serial and abandon cause. -/
def triggerResult (serial cause : Nat) : Bytes := leBytes 8 serial ++ leBytes 1 cause

/-- End a capture on this member with an abandon cause, or 0 for a manifest: the marks, spill copies and wanted
tasks go, and the CKPT_TRIGGER messages complete (R517, R527). -/
def endCapture (j cause : Nat) (s : State) : State :=
  match tget s.jobs j with
  | none => s
  | some b =>
    let s := modJob j (fun b => { b with capture := { b.capture with
      phase := .none, arrived := false, reportRound := 0, units := [], spilled := [], coreImages := 0, sections := [], omitted := []
      images := [], wanted := [], lead := {}, since := s.timeNs, trigger := []
      stall := b.capture.stall + (s.timeNs - b.capture.stallSince.getD s.timeNs), stallSince := none
      lastManifest := if cause = 0 then b.capture.serial else b.capture.lastManifest } }) s
    b.capture.trigger.foldl (fun t m => completeResult m 0x00 (triggerResult b.capture.serial cause) t) s

/-- The lead abandons a capture in progress and tells every member (R527). -/
def abandonCapture (j cause : Nat) (s : State) : State :=
  match tget s.jobs j with
  | none => s
  | some b =>
    if b.capture.phase = .none then s
    else if b.isLead then endCapture j cause (toMembers j (barrierPayload 7 0 b.capture.serial cause) s)
    else s

/-! ### Job faults -/

/-- Where a fault comes from, as event 0x02 says it (R658). -/
structure Origin where
  kind : Nat := 0
  prog : Nat := 0xFFFF
  peer : Nat := 0
  page : Nat := 0xFFFFFFFF
  chunk : Nat := 0
  record : Option Bytes := none

/-- The body of event 0x02. -/
def faultBody (s : State) (code : Nat) (o : Origin) : Bytes :=
  match o.record with
  | some r => r
  | none => timed s (leBytes 1 code ++ leBytes 1 o.kind ++ leBytes 2 o.prog ++
      leBytes 4 (if o.prog = 0xFFFF then 0 else genOf s o.prog) ++ leBytes 4 o.peer ++ leBytes 4 o.page ++ leBytes 1 o.chunk)

/-- Stop a submission with a status and a descriptor, unless it has stopped (R221). -/
def stopSub (code desc : Nat) (u : Sub) : Sub :=
  match u.stop with
  | some _ => u
  | none => { u with stop := some code, stopDesc := desc }

/-- A fault at job scope (R222): every program stops with the code, the event and the notices go out, and a capture
of the job is abandoned (R527). A job that has faulted faults no more. -/
def jobFault (j code desc : Nat) (o : Origin) (s : State) : State :=
  match tget s.jobs j with
  | none => s
  | some b =>
    if b.fault.isSome ∨ b.phase = .closing then s
    else
      let s := modJob j (fun b => { b with
        fault := some code
        subs := b.subs.map fun u => (u.1, stopSub code desc u.2) }) s
      let s := eventAt b.eventCtx 0x02 b.id desc (faultBody s code o) s
      let s := if b.phase = .keyed ∧ o.kind ≠ 1 then controlAll j [2, BitVec.ofNat 8 code] s else s
      abandonCapture j 2 s

/-- A fault raised by a task: the program and descriptor are named. -/
def taskFault (t : TaskRef) (code : Nat) (s : State) : State :=
  match getSub s t.job t.sub with
  | none => s
  | some u => jobFault t.job code t.desc { prog := u.prog } s

/-- The fault of a verdict's own check (R251): a mechanism's, and it names the verdict. -/
def verdictFault (t : TaskRef) (s : State) : State :=
  match getSub s t.job t.sub with
  | none => s
  | some u => jobFault t.job 0x66 t.desc { kind := 2, prog := u.prog } s

/-- A fault of a mechanism with no task. -/
def mechFault (j code : Nat) (s : State) : State := jobFault j code 0xFFFF { kind := 2 } s

/-- A packet of a job that no port can carry faults the job with 0x63 (R367, R385). -/
def sendOrFault (j : Nat) (p : Packet) (s : State) : State :=
  let r := originate j p s
  if r.2 then r.1 else mechFault j 0x63 r.1

/-- Several packets of a job. -/
def sendAll (j : Nat) (ps : List Packet) (s : State) : State :=
  ps.foldl (fun t p => sendOrFault j p t) s

/-- A fault at program scope (R221). -/
def programFault (t : TaskRef) (code : Nat) (s : State) : State := modSub t.job t.sub (stopSub code t.desc) s

/-! ### Error records (R596 to R598) -/

/-- What an error record says besides its time, number and suppressed count. -/
structure ErrRec where
  cls : Nat
  unit : Nat
  action : Nat := 0
  syndrome : Nat := 0
  location : Nat := 0xFFFFFFFF
  jobId : Nat := 0
  part : Nat := 0xFF
  key : Nat := 0
  anchor : Nat := 0xFF
  access : Nat := 0
  address : Nat := 0
  counter : Nat := 0
  region : Nat := 0xFFFF
  word : Nat := 0

/-- The 64 bytes of a record. -/
def errBytes (s : State) (e : ErrRec) : Bytes :=
  leBytes 8 s.timeNs ++ leBytes 4 s.errors.number ++ leBytes 1 e.cls ++ leBytes 1 e.unit ++ leBytes 1 e.action ++
  leBytes 1 e.syndrome ++ leBytes 4 e.location ++ leBytes 4 e.jobId ++ leBytes 1 e.part ++ leBytes 1 e.key ++
  leBytes 1 e.anchor ++ leBytes 1 e.access ++ leBytes 5 e.address ++ zeros 3 ++ leBytes 4 e.counter ++
  leBytes 2 e.region ++ leBytes 2 e.word ++ leBytes 4 (tgetD s.errors.suppressed e.unit 0) ++ zeros 16

/-- Count an error of a class in its unit's counters and, for a correctable or recovered one, in the minute in
progress (R598). -/
def countError (cls unit : Nat) (s : State) : State :=
  let c := tgetD s.errors.counters unit (0, 0, 0)
  let c' := if cls = 1 then (c.1 + 1, c.2.1, c.2.2) else if cls = 4 then (c.1, c.2.1, c.2.2 + 1) else (c.1, c.2.1 + 1, c.2.2)
  let minute := s.timeNs / 60000000000
  let e := { s.errors with counters := tset s.errors.counters unit c' }
  { s with errors := if cls = 1 ∨ cls = 4 then
      { e with minutes := tset e.minutes minute (tgetD e.minutes minute 0 + 1) } else e }

/-- Write a record to the error log, counting the error; a correctable one within 1 ms of its unit's last is only
counted as suppressed (R597). The record's bytes are returned. -/
def logError (e : ErrRec) (s : State) : Bytes × State :=
  let s := countError e.cls e.unit s
  let recent := match tget s.errors.lastCorrectable e.unit with
    | some t => decide (s.timeNs < t + 1000000)
    | none => false
  if e.cls == 1 && recent then
    ([], { s with errors := { s.errors with
        suppressed := tset s.errors.suppressed e.unit (tgetD s.errors.suppressed e.unit 0 + 1) } })
  else
    let b := errBytes s e
    let full := decide (4096 ≤ s.errors.log.length)
    (b, { s with errors := { s.errors with
        log := (if full then s.errors.log.drop 1 else s.errors.log) ++ [b]
        lost := s.errors.lost + full.toNat
        number := (s.errors.number + 1) % 2 ^ 32
        suppressed := tset s.errors.suppressed e.unit 0
        lastCorrectable := if e.cls = 1 then tset s.errors.lastCorrectable e.unit s.timeNs else s.errors.lastCorrectable } })

/-- An integrity error on a Vale line (R323, R327, R597): its record, event 0x03, and the job fault whose body it is. -/
def integrityError (j : Nat) (line key counter access : Nat) (desc : Nat) (prog : Nat) (s : State) : State :=
  match tget s.jobs j with
  | none => s
  | some b =>
    let e : ErrRec := { cls := 3, unit := 0x0A, action := 3, jobId := b.id, part := partOf j, key := key,
                        anchor := b.keys.anchor, access := access, address := line * 256, counter := counter,
                        region := lineRegion line, location := (place line).1 * 256 + (place line).2.1 }
    let r := logError e s
    let s := event b.eventCtx 0x03 b.id r.1 r.2
    jobFault j 0x61 desc { kind := if prog = 0xFFFF then 2 else 0, prog := prog, record := some r.1 } s

/-- The integrity error of an access to a line, for the job that owns its region and the task that caused it (R325,
R327). -/
def lineFails (l access : Nat) (task : Option TaskRef) (s : State) : State :=
  match (regionOf s (lineRegion l)).owner with
  | none => s
  | some j =>
    let prog := (task.bind fun t => (getSub s t.job t.sub).map (·.prog)).getD 0xFFFF
    let desc := match task with | some t => if prog = 0xFFFF then 0xFFFF else t.desc | none => 0xFFFF
    integrityError j l (metaOf s l).2 (metaOf s l).1 access desc prog s

/-- The lines whose read failed for a write or an access of no task are reported (R325, R327). -/
def reportLines (s : State) : State :=
  s.vale.failing.foldl (fun t x => lineFails x.1 x.2 none t) { s with vale := { s.vale with failing := [] } }

/-- A read that meets a failing line is noted for the report. -/
def noteBad (access : Nat) (l : Option Nat) (s : State) : State :=
  match l with
  | none => s
  | some l => { s with vale := { s.vale with failing := s.vale.failing ++ [(l, access)] } }

end Sys2Proof.Machine
end

