-- ==== Sys2Proof/Machine/Tier.lean ====
section
/-! DEFINITION. The Steppe tier and the Basin (R22, R23, R298 to R303, R340 to R349). -/

namespace Sys2Proof.Machine

/-- Change the tier state of a job. -/
def modTier (j : Nat) (f : Tier → Tier) (s : State) : State := modJob j (fun b => { b with tier := f b.tier }) s

/-- Fields of a Steppe extent record (R439). -/
def xQp (e : Bytes) : Nat := rd e 0 2
def xAddr (e : Bytes) : Nat := rd e 8 8
def xKey (e : Bytes) : Nat := rd e 16 4
def xLen (e : Bytes) : Nat := rd e 20 4 * 4096

/-- Index of the queue pair of an object, where it is one. -/
def qpOfObj (s : State) (i : Nat) : Option Nat :=
  match objAt s i with
  | some { data := .queuePair q, .. } => some q
  | _ => none

/-- Change a queue pair. -/
def modQp (q : Nat) (f : Qp → Qp) (s : State) : State := { s with eth := { s.eth with qps := tmod s.eth.qps q f } }

/-- Add an operation in flight to a queue pair (R415). -/
def addFlight (q : Nat) (k : FlightKind) (segments : Nat) (s : State) : State :=
  modQp q (fun p => { p with flights := p.flights ++ [⟨k, segments⟩] }) s

/-- The RDMA READs that a queue pair has outstanding (R416). -/
def readsOut (p : Qp) : Nat :=
  (p.flights.filter fun f => match f.kind with | .fetch _ _ => true | .restoreRead _ => true | _ => false).length

/-- Start an RDMA READ on a queue pair, or let it wait while 16 are outstanding (R416). -/
def startRead (q : Nat) (k : FlightKind) (segments : Nat) (o : Out) (s : State) : State :=
  match tget s.eth.qps q with
  | none => s
  | some p =>
    if readsOut p < 16 then addFlight q k segments (putOut q o s)
    else modQp q (fun p => { p with readWaits := p.readWaits ++ [(k, segments, o)] }) s

/-- Start the READs of a queue pair that wait, oldest first, as far as 16 may be outstanding (R416). -/
def nextReads (s : State) (q : Nat) : State :=
  match tget s.eth.qps q with
  | none => s
  | some p =>
    (p.readWaits.take (16 - readsOut p)).foldl (fun t x => addFlight q x.1 x.2.1 (putOut q x.2.2 t))
      (modQp q (fun p => { p with readWaits := p.readWaits.drop (16 - readsOut p) }) s)

/-- Take an operation in flight off every queue pair; READs that waited for it go on. -/
def dropFlight (k : FlightKind) (s : State) : State :=
  (s.eth.qps.filter fun p => !p.2.readWaits.isEmpty).foldl (fun t p => nextReads t p.1)
    { s with eth := { s.eth with qps := s.eth.qps.map fun p => (p.1, { p.2 with
      flights := p.2.flights.filter fun f => f.kind != k, readWaits := p.2.readWaits.filter fun x => x.1 != k }) } }

/-- A queue pair can carry an operation: it is there and not in error (R418). -/
def carries (s : State) (q : Nat) : Bool := ((tget s.eth.qps q).map fun p => !p.error).getD false

/-- The pieces in which a length is read, each of at most 1,052,672 bytes: offset and length (R416). -/
def readPieces (n : Nat) : List (Nat × Nat) :=
  (List.range (ceilDiv n 1052672)).map fun i => (1052672 * i, min 1052672 (n - 1052672 * i))

/-- Extent of a page and its remote address there (R340). -/
def pageExtent (b : Job) (p : Nat) : Option (Nat × Bytes × Nat) :=
  let n := b.tier.extents.length
  if n = 0 then none
  else
    let e := b.tier.extents.getD (p % n) []
    some (p % n, e, xAddr e + p / n * 1056768)

/-- The IV of a page image chunk (R341). -/
def chunkIv (p version c : Nat) : Bytes := leBytes 4 p ++ leBytes 5 version ++ leBytes 1 c ++ [0, 0]

/-- The image of a page under a version (R341): 256 chunk records. -/
def pageImage (key : Bytes) (p version : Nat) (data : Bytes) : Bytes :=
  (pieces 4096 256 data).zipIdx.flatMap fun x =>
    let r := gcmSeal key (chunkIv p version x.2) [] x.1
    r.1 ++ r.2

/-- Frames of a job's state pool. -/
def poolFrames (b : Job) : Nat := 1024 * (poolRegions b.carve).length

/-- The lowest free frame. -/
def freeFrame (b : Job) : Option Nat :=
  (List.range (b.tier.framesUsed.length + 1)).find? fun f => !(b.tier.framesUsed.contains f) && decide (f < poolFrames b)

/-- Byte ranges that the running descriptors of a job name, without their gaps. -/
def busyRanges (b : Job) : List (Nat × Nat) :=
  b.subs.flatMap fun u => u.2.state.flatMap fun d =>
    if d.2.retired then []
    else
      let desc := u.2.descs.getD d.1 []
      let slot := if rd u.2.hdr 3 1 = 0xFF then 0 else rd u.2.hdr 3 1
      ((List.range 6).map fun i => rd desc (16 + 2 * i) 2).flatMap fun t =>
        match tget b.tensors t with
        | none => []
        | some e =>
          let base := effBase e.raw slot (rd u.2.hdr 24 8)
          let top := base + tExt e.raw 0 * 8 +
            (List.range (tRank e.raw - 1)).foldl (fun a i => a + (tExt e.raw (i + 1) - 1) * tStride e.raw (i + 1) * 64) 0
          [(base, top)]

/-- Byte ranges that the descriptors of a job's begun and uncommitted spans write: no output of theirs leaves the Proend (R19). -/
def uncommittedRanges (b : Job) : List (Nat × Nat) :=
  b.subs.flatMap fun u => u.2.spans.flatMap fun x =>
    if ¬ x.started ∨ x.committed ∨ u.2.stop.isSome then []
    else
      let slot := if hSlot u.2.hdr = 0xFF then 0 else hSlot u.2.hdr
      ((u.2.descs.drop x.first).take (x.last + 1 - x.first)).flatMap fun d =>
        (opWrites d).flatMap fun t => byteRange b.tensors slot (hStride u.2.hdr) t

/-- Byte ranges of a job that the WRITEs waiting on queue pairs name (R345). -/
def heldRanges (s : State) (j : Nat) : List (Nat × Nat) :=
  s.eth.qps.flatMap fun q => q.2.held.filterMap fun x =>
    match x.target with
    | none => none
    | some (rkey, off) =>
      match objAt s (rkey % 65536) with
      | some { data := .window w, .. } => if w.job = j then some (off, off + x.data.length) else none
      | _ => none

/-- A page is pinned (R347): marked by R299, receiving a Basin page, or named by an operation in progress. -/
def pagePinned (s : State) (j p : Nat) : Bool :=
  let e := dirAt s j p
  e.pinned || e.basinValid ||
  match tget s.jobs j with
  | none => false
  | some b =>
    let lo := 2 ^ 39 + p * 2 ^ 20
    (busyRanges b ++ heldRanges s j).any fun r => decide (r.1 < lo + 2 ^ 20) && decide (lo < r.2)

/-- A page holds bytes that an uncommitted span has written or may write (R19). -/
def uncommittedPage (s : State) (j p : Nat) : Bool :=
  match tget s.jobs j with
  | none => false
  | some b =>
    let lo := 2 ^ 39 + p * 2 ^ 20
    (uncommittedRanges b).any fun r => decide (r.1 < lo + 2 ^ 20) && decide (lo < r.2)

/-- Resident pages of a job with their entries, by page. -/
def jobPages (s : State) (j : Nat) : List (Nat × DirE) :=
  let c := carveOf s j
  (s.dir.filter fun p => decide (c.dirBase ≤ p.1) && decide (p.1 < c.dirBase + c.dirCount)).map fun p => (p.1 - c.dirBase, p.2)

/-- A page's eviction may start: resident, not pinned, its version below the last, and either clean with an image or
an extent that has not failed to take one (R347 to R349, log 100); not before a capture has copied its image (R530), nor with the output of an
uncommitted span (R19). -/
def evictable (s : State) (j p : Nat) : Bool :=
  let e := dirAt s j p
  e.st == .resident && !pagePinned s j p && !uncommittedPage s j p && decide (e.version < 2 ^ 40 - 1) &&
  !(((tget s.jobs j).map fun b => b.capture.images.contains p).getD false) &&
  ((!e.dirty && decide (0 < e.version)) ||
   (match (tget s.jobs j).bind fun b => (pageExtent b p).map fun x => !(b.tier.failed.contains x.1) with
    | some ok => ok
    | none => false))

/-- The victim of R347: the next such page after the clock pointer. -/
def victim (s : State) (j : Nat) : Option Nat :=
  let ok := (jobPages s j).filter fun p => evictable s j p.1
  let clock := ((tget s.jobs j).map fun b => b.tier.clock).getD 0
  match ok.find? fun p => clock < p.1 with
  | some p => some p.1
  | none => ok.head?.map (·.1)

/-- Free a page's frame: the entry rests (R348). -/
def restPage (j p : Nat) (f : DirE → DirE) (s : State) : State :=
  let fr := (dirAt s j p).frame
  modTier j (fun t => { t with framesUsed := t.framesUsed.filter (· != fr) })
    (modDir j p (fun e => f { e with st := .resting, dirty := false, frame := 0 }) s)

/-- The first line of a page's bytes at a Vale address that fails a read (R320, R323). -/
def badFrame (s : State) (a : Option Nat) : Option Nat := a.bind fun a => ((List.range 4096).map (a / 256 + ·)).find? (lineBad s)

/-- The transport reports an eviction failed: the page stays resident and dirty, its extent has failed, and an event goes out
(R349); the manual gives that event neither a code nor a body, so both are free values (log 27). -/
def evictLost (j p : Nat) (s : State) : State :=
  match tget s.jobs j with
  | none => s
  | some b =>
    let s := modDir j p (fun e => { e with st := .resident, dirty := true }) s
    let x := ((pageExtent b p).map (·.1)).getD 0
    let s := modTier j (fun t => { t with failed := if t.failed.contains x then t.failed else t.failed ++ [x]
                                          thenFetch := t.thenFetch.filter (· != p) }) s
    let code := freshNat s
    let body := freshBytes 32 code.2
    jobEvent j (code.1 % 256) body.1 body.2

/-- A fetch ends without its page: the frame is free, the entry rests, and the job faults with 0x61; the event names the page and
the chunk (R349). -/
def fetchLost (j p f c : Nat) (s : State) : State :=
  let s := modTier j (fun t => { t with fetches := terase t.fetches p, framesUsed := t.framesUsed.filter (· != f) }) s
  jobFault j 0x61 0xFFFF { kind := 2, page := p, chunk := c } (modDir j p (fun e => { e with st := .resting, dirty := false, frame := 0 }) s)

/-- Start an eviction (R343, R348): the entry is invalidated and its lines written back; a clean page with an image
rests at once, any other is written out; one with a line that fails stays, and the job faults (R323). -/
def startEvict (j p : Nat) (s : State) : State :=
  match tget s.jobs j with
  | none => s
  | some b =>
    let s := flushLines false (fun x => x.job == j && decide (2 ^ 39 + p * 2 ^ 20 ≤ x.line * 256) &&
      decide (x.line * 256 < 2 ^ 39 + (p + 1) * 2 ^ 20)) s
    let e := dirAt s j p
    let s := { s with cache := { s.cache with dirCache := s.cache.dirCache.map fun d =>
      (d.1, d.2.filter (· != (b.carve.dirBase + p) / 8)) } }
    let s := modTier j (fun t => { t with clock := p }) s
    if ¬ e.dirty ∧ 0 < e.version then restPage j p id s
    else if (badFrame s (frameAddress b.carve e.frame)).isSome then noteBad 4 (badFrame s (frameAddress b.carve e.frame)) s
    else
      let s := modDir j p (fun e => { e with st := .evicting }) s
      match pageExtent b p, frameAddress b.carve e.frame with
      | some x, some a =>
        match (qpOfObj s (xQp x.2.1)).filter (carries s) with
        | none => evictLost j p s
        | some q =>
          addFlight q (.evict j p) 257 (putOut q (.rdmaWrite (0x1000 + q) x.2.2 (xKey x.2.1)
            (pageImage (steppeKey b) p (e.version + 1) (valeBytes s a (2 ^ 20))) none) s)
      | _, _ => s

/-- Claim a frame for a page and start its transfer, or fill it with zeros (R346). -/
def claimFrame (j p f : Nat) (s : State) : State :=
  match tget s.jobs j with
  | none => s
  | some b =>
    let s := modTier j (fun t => { t with framesUsed := t.framesUsed ++ [f], frameWaits := t.frameWaits.filter (· != p) }) s
    let e := dirAt s j p
    if e.version = 0 ∨ e.gradient then
      let s := match frameAddress b.carve f with
        | none => s
        | some a => (List.range 4096).foldl (fun t i => valeLineWrite (a / 256 + i) fullMask (zeros 256) t) s
      modDir j p (fun e => { e with st := .resident, frame := f, dirty := false }) s
    else
      match pageExtent b p with
      | none => fetchLost j p f 0 s
      | some x =>
        if b.tier.failed.contains x.1 then fetchLost j p f 0 s
        else
          let s := modDir j p (fun e => { e with st := .fetching, frame := f }) s
          let s := modTier j (fun t => { t with fetches := tset t.fetches p { frame := f } }) s
          match (qpOfObj s (xQp x.2.1)).filter (carries s) with
          | none => fetchLost j p f 0 s
          | some q => startRead q (.fetch j p) 257 (.rdmaRead (0x1000 + q) x.2.2 (xKey x.2.1) 1052672) s

/-- Start a fetch (R346, R347): a free frame, or an eviction and a wait for its frame. -/
def startFetch (j p : Nat) (s : State) : State :=
  match tget s.jobs j with
  | none => s
  | some b =>
    match freeFrame b with
    | some f => claimFrame j p f s
    | none =>
      let s := if b.tier.frameWaits.contains p then s
        else modTier j (fun t => { t with frameWaits := t.frameWaits ++ [p] }) s
      match victim s j with
      | some v =>
        let s := startEvict j v s
        match (tget s.jobs j).bind freeFrame with
        | some f => claimFrame j p f s
        | none => s
      | none => modTier j (fun t => { t with waitsCounted := t.waitsCounted + 1 }) s

/-- The tier engine's action for an access to a page (R345). -/
def requestPage (j p : Nat) (s : State) : State :=
  match (dirAt s j p).st with
  | .resident => s
  | .fetching => s
  | .evicting => modTier j (fun t => if t.thenFetch.contains p then t else { t with thenFetch := t.thenFetch ++ [p] }) s
  | .resting =>
    if ((tget s.jobs j).map fun b => b.tier.frameWaits.contains p).getD false then s else startFetch j p s

/-- Every page of an access is in Vale, itself or by its Basin page. -/
def pagesThere (j : Nat) (ps : List Nat) (s : State) : Bool :=
  ps.all fun p => (dirAt s j p).st == .resident || (dirAt s j p).basinValid

/-- The pages of an access are asked for (R345); true where all are in Vale then. -/
def bringPages (j : Nat) (ps : List Nat) (s : State) : State × Bool :=
  let t := ps.foldl (fun t p => if (dirAt t j p).basinValid then t else requestPage j p t) s
  (t, pagesThere j ps t)

/-! ### The Basin -/

/-- Basin pages of a job (R303). -/
def basinPages (b : Job) : Nat := b.carve.basinGib * 1024

/-- Fold one Basin page whose tier page is resident (R302): copied into the tier page, and freed. -/
def foldPage (j bp : Nat) (s : State) : State :=
  match tget s.jobs j with
  | none => s
  | some b =>
    match b.tier.basin.find? fun x => x.1 == bp with
    | none => s
    | some (_, p) =>
      let e := dirAt s j p
      if e.st = .resident then
        let s := flushLines false (fun x => x.job == j && decide (2 ^ 39 + p * 2 ^ 20 ≤ x.line * 256) &&
          decide (x.line * 256 < 2 ^ 39 + (p + 1) * 2 ^ 20)) s
        let bad := badFrame s (directAddress b.carve (basinOffset b.carve bp))
        if bad.isSome then noteBad 4 bad s else
        let data := match directAddress b.carve (basinOffset b.carve bp) with
          | none => []
          | some a => valeBytes s a (2 ^ 20)
        let s := modDir j p (fun e => { e with basinValid := false, basin := 0, dirty := true }) s
        let s := match frameAddress b.carve e.frame with
          | none => s
          | some a => valeWrite 4097 a data s
        modTier j (fun t => { t with basin := t.basin.filter fun x => x.1 != bp }) s
      else s

/-- Free a page's Basin page (R255, R163): its contents are dropped. -/
def freeBasin (j p : Nat) (s : State) : State :=
  modTier j (fun t => { t with basin := t.basin.filter fun x => x.2 != p })
    (flushDrop s)
where
  flushDrop (s : State) : State :=
    let s := { s with cache := { s.cache with lines := s.cache.lines.filter fun x =>
      !(x.2.job == j && decide (2 ^ 39 + p * 2 ^ 20 ≤ x.2.line * 256) && decide (x.2.line * 256 < 2 ^ 39 + (p + 1) * 2 ^ 20) &&
        (dirAt s j p).basinValid) } }
    modDir j p (fun e => { e with basinValid := false, basin := 0 }) s

/-- Allocate a Basin page for a resting gradient page: filled with +0, and its fetch starts (R300). False where no
page is free and no fold can free one (R302, R23). -/
def allocBasin (j p : Nat) (s : State) : State × Bool :=
  match tget s.jobs j with
  | none => (s, false)
  | some b =>
    let free := fun (b : Job) => (List.range (b.tier.basin.length + 1)).find? fun i =>
      decide (i < basinPages b) && !(b.tier.basin.any fun x => x.1 == i)
    let s := if (free b).isSome then s
      else b.tier.basin.foldl (fun t x => foldPage j x.1 t) s
    match (tget s.jobs j).bind free with
    | none => (s, false)
    | some i =>
      let s := modTier j (fun t => { t with basin := t.basin ++ [(i, p)] }) s
      let s := match directAddress b.carve (basinOffset b.carve i) with
        | none => s
        | some a => (List.range 4096).foldl (fun t k => valeLineWrite (a / 256 + k) fullMask (zeros 256) t) s
      let s := modDir j p (fun e => { e with basinValid := true, basin := i }) s
      (requestPage j p s, true)

/-- Window pages of a byte range. -/
def pagesOf (r : Nat × Nat) : List Nat :=
  if r.2 ≤ r.1 ∨ r.1 < 2 ^ 39 then []
  else (List.range ((r.2 - 1) / 2 ^ 20 - r.1 / 2 ^ 20 + 1)).map fun i => r.1 / 2 ^ 20 + i - 2 ^ 19

/-- The parameter pages whose gradients lie in a gradient tier page: model-tensor number and page (R281, R284, R298). -/
def gradientsIn (b : Job) (p : Nat) : List (Nat × Nat) :=
  let lo := 2 ^ 39 + p * 2 ^ 20
  b.tensors.flatMap fun g =>
    if tLogical g.2.raw % 16 = 3 ∧ tLogical g.2.raw ≠ 0 ∧ ((byteRange b.tensors 0 0 g.1).flatMap pagesOf).contains p then
      match viewOf b 0 0 none g.1 with
      | none => []
      | some gv => ((List.range (pageCount gv.ext)).filter fun k =>
          (pageRuns gv.ext k).any fun run => run.any fun ix =>
            decide (lo ≤ elemAddr gv ix) && decide (elemAddr gv ix < lo + 2 ^ 20)).map fun k => (tLogical g.2.raw / 16, k)
    else []

/-- The tier pages that hold bytes of a parameter page, in every role (R298). -/
def tiersOf (b : Job) (x : Nat × Nat) : List Nat :=
  (b.tensors.flatMap fun t =>
    if tLogical t.2.raw / 16 = x.1 ∧ tLogical t.2.raw ≠ 0 ∧ tLogical t.2.raw % 16 < 6 then
      match viewOf b 0 0 none t.1 with
      | none => []
      | some v =>
        let swap := match v.ext with | a :: c :: rest => c :: a :: rest | l => l
        ((if tLogical t.2.raw % 16 = 5 then pageRunsT swap x.2 else pageRuns v.ext x.2).flatten.flatMap fun ix =>
          (windowPage (elemAddr v ix)).toList ++ (if is8 v.fmt then (windowPage (scaleAddr v ix)).toList else [])).eraseDups
    else []).eraseDups

/-- The other tier pages of the parameter pages whose gradients lie in a gradient tier page, in every role (R298). -/
def companions (b : Job) (p : Nat) : List Nat := ((gradientsIn b p).flatMap (tiersOf b)).eraseDups.filter (· != p)

/-- Set the pins of R299 on tier pages: a page with bytes of a parameter page whose gradient is not consumed is pinned. -/
def setPins (j : Nat) (ps : List Nat) (s : State) : State :=
  match tget s.jobs j with
  | none => s
  | some b =>
    let held := b.tier.graded.flatMap (tiersOf b)
    ps.foldl (fun t q => modDir j q (fun e => { e with pinned := held.contains q }) t) s

/-- The gradient of a parameter page is consumed, or its step is skipped: the pins that it held go (R299). -/
def unpinParameter (j : Nat) (x : Nat × Nat) (s : State) : State :=
  let ps := ((tget s.jobs j).map fun b => tiersOf b x).getD []
  setPins j ps (modTier j (fun t => { t with graded := t.graded.filter (· != x) }) s)

/-- The first gradient write of a step to a page (R298 to R300): a resting or fetching page gets a Basin page, and the
pages of its parameters are fetched and pinned (log 98). False where the Basin holds the write (R23). -/
def gradientWrite (j p : Nat) (s : State) : State × Bool :=
  let e := dirAt s j p
  if e.basinValid then (s, true)
  else
    let r := match e.st with
      | .resident => (s, true)
      | .evicting => (requestPage j p s, false)
      | _ => allocBasin j p s
    match r.2, tget r.1.jobs j with
    | true, some b =>
      let new := (gradientsIn b p).filter fun x => !(b.tier.graded.contains x)
      if new.isEmpty then r
      else
        let cs := companions b p
        let s := modTier j (fun t => { t with graded := t.graded ++ new }) r.1
        let s := (p :: cs).foldl (fun t q => modDir j q (fun e => { e with pinned := true }) t) s
        (cs.foldl (fun t q => requestPage j q t) s, true)
    | _, _ => r

/-- The pages of a write are asked for; a gradient page that rests or is fetched goes to the Basin (R300, R345). -/
def bringForWrite (j : Nat) (ps : List Nat) (s : State) : State × Bool :=
  let r := ps.foldl (fun acc p =>
    if (dirAt acc.1 j p).gradient then
      let g := gradientWrite j p acc.1
      (g.1, acc.2 && g.2)
    else (if (dirAt acc.1 j p).basinValid then acc.1 else requestPage j p acc.1, acc.2)) (s, true)
  (r.1, r.2 && pagesThere j ps r.1)

/-- Undo the pins of R299 for every page of a job. -/
def unpinAll (j : Nat) (s : State) : State :=
  (jobPages s j).foldl (fun t p => modDir j p.1 (fun e => { e with pinned := false }) t)
    (modTier j (fun t => { t with graded := [] }) s)

end Sys2Proof.Machine
end

