-- ==== Sys2Proof/Machine/Span.lean ====
section
/-! DEFINITION. Spans, the promotion ladder, the numeric event log, the scale journal and commit logs (R156, R157,
R165 to R183, R266 to R272). -/

namespace Sys2Proof.Machine

/-! ### Numeric events (R182, R183) -/

/-- The 32 bytes of a numeric event record. -/
def numericRecord (s : State) (j : Nat) (prog span typ fromR toR cause tensor slot core : Nat) : Bytes :=
  leBytes 8 s.timeNs ++ leBytes 8 (((tget s.jobs j).map fun b => b.num.verdicts).getD 0) ++ leBytes 2 prog ++
  leBytes 2 span ++ leBytes 1 typ ++ leBytes 1 fromR ++ leBytes 1 toR ++ leBytes 1 cause ++ leBytes 2 tensor ++
  leBytes 1 slot ++ leBytes 1 (isGap j).toNat ++ leBytes 4 core

/-- Enter a record in the job's log, a ring of 1,024, and send event 0x01. -/
def numericEvent (j : Nat) (r : Bytes) (s : State) : State :=
  let s := modNum j (fun n =>
    let full := decide (1024 ≤ n.log.length)
    { n with log := (if full then n.log.drop 1 else n.log) ++ [r], logHead := n.logHead + 1, lost := n.lost + full.toNat }) s
  jobEvent j 0x01 r s

/-- A numeric event of a job as a whole. -/
def jobNumeric (j typ : Nat) (s : State) : State :=
  numericEvent j (numericRecord s j 0xFFFF 0xFFFF typ 0xFF 0xFF 0 0xFFFF 0xFF 0xFFFFFFFF) s

/-- A numeric fault of the step (R178): every program of the job stops with 0x65 at its next task boundary. -/
def numericFault (j : Nat) (r : Bytes) (s : State) : State :=
  let s := modJob j (fun b => { b with subs := b.subs.map fun u => (u.1, stopSub 0x65 0xFFFF u.2) }) s
  numericEvent j r s

/-! ### Spans of a submission -/

/-- The position of the span that holds descriptor `i`. -/
def spanPos (u : Sub) (i : Nat) : Option Nat :=
  (u.spans.zipIdx.find? fun x => x.1.first ≤ i && i ≤ x.1.last).map (·.2)

/-- The span at a position. -/
def spanAt (u : Sub) (k : Nat) : Option SpanSt := u.spans[k]?

/-- Change the span at a position. -/
def modSpan (j k pos : Nat) (f : SpanSt → SpanSt) (s : State) : State :=
  modSub j k (fun u => match u.spans[pos]? with | none => u | some x => { u with spans := setAt u.spans pos (f x) }) s

/-- The position of the oldest open span. -/
def oldestOpen (u : Sub) : Nat := (u.spans.zipIdx.find? fun x => !x.1.committed).map (·.2) |>.getD u.spans.length

/-- Slot of a submission. -/
def subSlot (u : Sub) : Nat := hSlot u.hdr

/-- The commit-log entry of a span id in the slot's log (R266). -/
def commitEntry (b : Job) (slot id : Nat) : Option CommitE := (tgetD b.num.commits slot []).find? fun e => e.span == id

/-- The sticky promotion of a span (R179, R180). -/
def stickyOf (b : Job) (prog id : Nat) : Option PromoE :=
  (b.num.promotions.find? fun e => e.2.prog == prog && e.2.span == id).map (·.2)

/-- The rung at which a run of a span starts, and the generation that a recomputation reads under (R179, R266). -/
def startRung (b : Job) (u : Sub) (x : SpanSt) : Nat × Option Nat :=
  match (if subSlot u = 0xFF then none else commitEntry b (subSlot u) x.id) with
  | some e => (e.rung, some e.generation)
  | none =>
    match stickyOf b u.prog x.id with
    | some e => (e.rung, none)
    | none => (x.base, none)

/-- Class rung of a format: 8-bit 0, 16-bit 1, FP32 2. -/
def clsRung (f : Option Fmt) : Nat :=
  match f.bind clsOf with
  | some .c16 => 1
  | some .cF19 => 2
  | _ => 0

/-- The base rung of a span: the highest class that its descriptors name (text before R175). -/
def baseRung (b : Job) (ds : List Bytes) : Nat :=
  let fmt := fun (i : Nat) => (tget b.tensors i).bind fun e => fmtOf (tFmt e.raw)
  ds.foldl (fun r d =>
    if dOp d = 0x10 then max r (max (clsRung (fmt (dT d 1))) (clsRung (fmt (dT d 2))))
    else if dOp d = 0x14 then max r (min 1 (max (clsRung (fmt (dT d 1))) (clsRung (fmt (dT d 2)))))
    else r) 0

/-- Start a span's run, where it has not started (R179, R266). -/
def beginSpan (j k pos : Nat) (s : State) : State :=
  match tget s.jobs j, getSub s j k with
  | some b, some u =>
    match spanAt u pos with
    | none => s
    | some x =>
      if x.started then s
      else
        let r := startRung b u x
        modSpan j k pos (fun x => { x with started := true, rung := r.1, recompute := r.2 }) s
  | _, _ => s

/-! ### Scales raised within a step (R172, R173, R269) -/

/-- Raise the scale of a dynamic tensor to that of a largest value, if that is larger; true where the journal is
full and the step faults (R269). -/
def raiseScale (j tensor : Nat) (a : Rat) (s : State) : State × Bool :=
  match tget s.jobs j with
  | none => (s, false)
  | some b =>
    match tget b.tensors tensor with
    | none => (s, false)
    | some e =>
      match tget b.hist (tRecord e.raw), fmtOf (tFmt e.raw) with
      | some h, some f =>
        let up := (decodeBits .fp32 (min (fp32Up a) 0x7F7FFFFF)).rat
        if up = 0 then (s, false)
        else
          let new := scaleFor (fmtMax f) (rd h 7 1) up
          let old := rd h 0 4
          if (decodeBits .fp32 new).rat ≤ (decodeBits .fp32 old).rat then (s, false)
          else if 4096 ≤ b.num.journal.length then (s, true)
          else
            let g := b.num.generation + 1
            (modJob j (fun b => { b with
              hist := tset b.hist (tRecord e.raw) (overlay h 0 (leBytes 4 new))
              num := { b.num with generation := g, journal := b.num.journal ++ [⟨tensor, g, old, new⟩] } }) s, false)
      | _, _ => (s, false)

/-! ### Failure, discard, rerun -/

/-- Every failure of the attempt is a conversion overflow to a tensor in calibration mode (R172). -/
def allCalibration (x : SpanSt) : Bool := x.failures.all fun f => f.calibration

/-- Put a promotion into the table (R179, R180): its entry, a free one, or the one with the smallest count, lowest
index; the flag tells that an entry was evicted. -/
def setPromotion (prog span rung count : Nat) (n : NumState) : NumState × Option PromoE :=
  match n.promotions.find? fun e => e.2.prog == prog && e.2.span == span with
  | some e => ({ n with promotions := tset n.promotions e.1 ⟨prog, span, rung, count⟩ }, none)
  | none =>
    if n.promotions.length < 4096 then
      let i := ((List.range (n.promotions.length + 1)).find? fun i => (tget n.promotions i).isNone).getD 0
      ({ n with promotions := tset n.promotions i ⟨prog, span, rung, count⟩ }, none)
    else
      let least := n.promotions.foldl (fun m e => min m e.2.count) 65536
      match n.promotions.find? fun e => e.2.count == least with
      | none => (n, none)
      | some e => ({ n with promotions := tset n.promotions e.1 ⟨prog, span, rung, count⟩ }, some e.2)

/-- Discard a failed span and every younger open one (R171): their descriptors are to run again. -/
def discardFrom (pos : Nat) (u : Sub) : Sub :=
  { u with
    state := u.state.filter fun d => match spanPos u d.1 with | none => true | some k => decide (k < pos)
    spans := u.spans.zipIdx.map fun x =>
      if pos ≤ x.2 ∧ ¬ x.1.committed then { x.1 with discarded := true, stats := [], mismatches := [] } else x.1 }

/-- Let the discarded spans from a position on run again: the failed one at a rung, the younger ones afresh. -/
def rerunFrom (pos rung : Nat) (cal : Bool) (u : Sub) : Sub :=
  { u with spans := u.spans.zipIdx.map fun x =>
      if x.2 = pos then
        { x.1 with discarded := false, failures := [], maxima := [], attempt := x.1.attempt + 1, rung := rung, started := true,
                   calibrated := x.1.calibrated || cal }
      else if pos < x.2 ∧ x.1.discarded then
        { x.1 with discarded := false, failures := [], maxima := [], started := false }
      else x.1 }

/-- The rerun of a discarded span by the ladder (R172, R173, R175, R181, R183). -/
def ladder (j k pos : Nat) (s : State) : State :=
  match tget s.jobs j, getSub s j k with
  | some b, some u =>
    match spanAt u pos with
    | none => s
    | some x =>
      let f := x.failures.headD ⟨0xFFFF, 0, 0xFFFFFFFF, false⟩
      let ev := fun (typ fr new : Nat) (s : State) => numericRecord s j u.prog x.id typ fr new f.cause f.tensor (subSlot u) f.core
      if x.recompute.isSome then numericFault j (ev 3 x.rung 0xFF s) s
      else
        let cal := allCalibration x && !(b.num.calibrated.contains (u.prog, x.id))
        if ¬ cal ∧ x.rung = 2 then numericFault j (ev 3 2 0xFF s) s
        else
          let raised := x.maxima.foldl (fun acc m => let r := raiseScale j m.1 m.2 acc.1; (r.1, acc.2 || r.2)) (s, false)
          if raised.2 then numericFault j (ev 3 x.rung 0xFF raised.1) raised.1
          else
            let s := raised.1
            if cal then
              numericEvent j (ev 1 x.rung x.rung s) (modSub j k (rerunFrom pos x.rung true)
                (modNum j (fun n => { n with calibrated := n.calibrated ++ [(u.prog, x.id)] }) s))
            else
              numericEvent j (ev 2 x.rung (x.rung + 1) s) (modSub j k (rerunFrom pos (x.rung + 1) false) s)
  | _, _ => s

/-- A discarded span is to be promoted: its rung and sticky count enter the table at once, so that a capture that begins before the rerun
holds them (R174, R179, R180). -/
def enterPromotion (j k pos : Nat) (s : State) : State :=
  match tget s.jobs j, getSub s j k with
  | some b, some u =>
    match spanAt u pos with
    | none => s
    | some x =>
      let cal := allCalibration x && !(b.num.calibrated.contains (u.prog, x.id))
      if x.recompute.isSome ∨ cal ∨ x.rung = 2 ∨ b.cfg.sticky = 0 then s
      else
        let r := setPromotion u.prog x.id (x.rung + 1) b.cfg.sticky b.num
        let s := modNum j (fun _ => r.1) s
        match r.2 with
        | none => s
        | some e => numericEvent j (numericRecord s j e.prog e.span 7 e.rung 0xFF 0 0xFFFF 0xFF 0xFFFFFFFF) s
  | _, _ => s

/-! ### Commit -/

/-- The bytes of a statistics record go to its destination's eight elements (R158). -/
def storeRecord (b : Job) (u : Sub) (dest : Nat) (r : Bytes) : Stores :=
  match viewOf b (if subSlot u = 0xFF then 0 else subSlot u) (hStride u.hdr) none dest with
  | none => []
  | some v => (List.range 8).map fun i => (elemAddr v (indexOf v.ext i), sub r (4 * i) 4)

/-- Append a commit-log entry for a forward span (R267); false where the id is there already or the log is full
(R268). -/
def logCommit (b : Job) (slot : Nat) (x : SpanSt) : Option NumState :=
  let l := tgetD b.num.commits slot []
  if (l.any fun e => e.span == x.id) ∨ 4096 ≤ l.length then none
  else some { b.num with commits := tset b.num.commits slot (l ++ [⟨x.id, x.rung, x.calibrated, b.num.generation⟩]) }

/-- Merge the step maxima of a committed span into the job's (R156). -/
def mergeMaxima (m : Tab Rat) (new : Tab Rat) : Tab Rat :=
  new.foldl (fun t p => tset t p.1 (max (tgetD t p.1 0) p.2)) m

/-! ### Slots (R271, R272) -/

/-- A slot is occupied from the first stash of a step that retires. -/
def occupySlot (j slot stride : Nat) (s : State) : State :=
  modNum j (fun n => if n.occupied.contains slot then n
    else { n with occupied := n.occupied ++ [slot], slotStrides := tset n.slotStrides slot stride }) s

/-- Free a slot: its commit log is emptied. -/
def freeSlot (j slot : Nat) (s : State) : State :=
  modNum j (fun n => { n with occupied := n.occupied.filter (· != slot), slotStrides := terase n.slotStrides slot, commits := terase n.commits slot }) s

end Sys2Proof.Machine
end

