-- ==== Sys2Proof/Machine/Inbound.lean ====
section
/-! DEFINITION. What arrives at the Ethernet queue pairs (R412 to R414, R427 to R437): messages to the inboxes, and WRITEs placed
through their windows, at once or when the pages they need are in Vale (R345). -/

namespace Sys2Proof.Machine

/-! ### What the fetches of a line show (R307, R320, R323) -/

/-- A correctable error of a unit at a line (R307, R323, R598). -/
def correctableAt (unit l : Nat) (s : State) : State :=
  let j := (regionOf s (lineRegion l)).owner
  let b := j.bind fun j => tget s.jobs j
  (logError { cls := 1, unit, location := (place l).1 * 256 + (place l).2.1, jobId := (b.map (·.id)).getD 0
              part := (j.map partOf).getD 0xFF, key := (metaOf s l).2, anchor := (b.map (·.keys.anchor)).getD 0xFF
              address := l * 256, counter := (metaOf s l).1, region := lineRegion l } s).2

/-- The stack's ECC has corrected a fetch (R307). -/
def noteFetch (f : Fetch) (l : Nat) (s : State) : State :=
  match f with
  | .corrected => correctableAt 0x0C l s
  | _ => s

/-- Both fetches of a line have failed: it stays damaged until a whole line replaces it (R326, R595). -/
def damageLine (l : Nat) (s : State) : State :=
  if s.vale.damaged.contains l then s else { s with vale := { s.vale with damaged := s.vale.damaged ++ [l] } }

/-- A read of a line (R323): the flag tells that it verified, the first time or the second, which counts. A damaged line shows no good
fetch. -/
def readLine (l : Nat) (first second : Fetch) (s : State) : State × Bool :=
  let s := noteFetch first l s
  if first ≠ .bad ∧ ¬ lineBad s l then (s, true)
  else
    let s := noteFetch second l s
    if second ≠ .bad ∧ ¬ lineBad s l then (correctableAt 0x0A l s, true) else (damageLine l s, false)

/-! ### Queue pairs and ports -/

/-- A queue pair in use. -/
def qpAt (s : State) (q : Nat) : Option Qp := tget s.eth.qps q

/-- A live queue pair of a Proend that answers; none of one in error. -/
def liveQp (s : State) (q : Nat) : Option Qp :=
  if alive s then (qpAt s q).filter fun p => !p.error else none

/-- Run an event on a live queue pair. -/
def onQp (q : Nat) (f : Qp → State → State) (s : State) : State :=
  match liveQp s q with
  | none => s
  | some p => f p s

/-- Add to a port counter of R650: 0 dropped frames, 1 RNR NAKs sent, 2 and 3 congestion notifications sent and received, 4 and 5
pauses sent and received, 6 completions and events lost. -/
def bumpEth (n i k : Nat) (s : State) : State :=
  modEth n (fun p => { p with counters := setAt p.counters i (p.counters.getD i 0 + k) }) s

/-! ### Messages that arrive (R412, R427 to R437) -/

/-- What is wrong with the wait fence that a message names as it arrives: another generation, no fence, one that the message
may not name, or one that is being destroyed, to which no new reference may be added (R32, R435, R443 to R445, R453). -/
def waitFenceStatus (s : State) (b : Bytes) : Option Nat :=
  if bit (msgFlags b) 1 then
    let i := rd b 24 2
    if genOf s i ≠ rd b 26 1 then some 0x15
    else
      match objAt s i with
      | none => some 0x14
      | some o =>
        match o.data with
        | .fence _ =>
          if ¬ mayName s (some (rd b 4 2 % 4096)) (msgJob b) o then some 0x13 else if o.destroying then some 0x17 else none
        | _ => some 0x14
  else none

/-- What is wrong with a message as it arrives: its length, its type, its context, a type that its negotiated version lacks, or its
wait fence. -/
def arrivalStatus (s : State) (ctx : Nat) (b : Bytes) : Option Nat :=
  if b.length < 64 ∨ 1024 < b.length ∨ b.length - 64 ≠ rd b 6 2 then some 0x12
  else if ¬ knownType (msgType b) then some 0x11
  else if rd b 4 2 % 4096 ≠ ctx then some 0x13
  else if ctxVersion s ctx = 2 ∧ rd b 1 1 = 2 ∧ mhp3Only (msgType b) then some 0x1C
  else waitFenceStatus s b

/-- A message reaches the inbox of a queue pair's context; a full inbox answers with an RNR NAK. -/
def toInbox (q : Nat) (p : Qp) (b : Bytes) (s : State) : State :=
  match tget s.ctxs p.ctx with
  | none => s
  | some c =>
    if 32 ≤ c.inbox.length then bumpEth p.port 1 1 (putOut q (.nak q .receiverNotReady) s)
    else
      let s := putOut q (.rdmaAck q) s
      match arrivalStatus s p.ctx b with
      | some st => if b.length < 64 then completeWith ⟨some p.ctx, b⟩ st {} s else complete ⟨some p.ctx, b⟩ st s
      | none => { s with ctxs := tset s.ctxs p.ctx { c with inbox := c.inbox ++ [b] } }

/-! ### WRITEs that arrive (R345, R413, R414) -/

/-- The open window that a remote key names (R438); an operation that already waits may still be placed through one that is being
destroyed (R446). -/
def windowOf (s : State) (p : Qp) (waits : Bool) (rkey : Nat) : Option Window :=
  match objAt s (rkey % 65536) with
  | some { data := .window w, destroying := dying, .. } =>
    let open' : Bool := match tget s.jobs w.job with
      | some b => b.phase != .closing
      | none => true
    if dying ∧ ¬ waits ∨ genOf s (rkey % 65536) ≠ rkey / 65536 % 256 ∨ w.random ≠ rkey / 2 ^ 24 ∨ partOf w.job ≠ p.partition ∨ ¬ open' then none
    else some w
  | _ => none

/-- Place bytes line by line: fuel, job offset, bytes, and what the fetches of partly written lines show, two for each. The flag
tells that every line took its bytes; a line whose fetches both fail keeps its own (R325, R413). -/
def placeLines (j : Nat) : Nat → Nat → Bytes → List Fetch → State × Bool → State × Bool
  | 0, _, _, _, s => s
  | _ + 1, _, [], _, s => s
  | k + 1, off, b, fs, (s, ok) =>
    let i := off % 256
    let n := min (256 - i) b.length
    match translate s j off with
    | none => placeLines j k (off + n) (b.drop n) fs (s, ok)
    | some a =>
      let put := fun (s : State) => markDirty j off (engineWrite j off (b.take n) s)
      if n = 256 then placeLines j k (off + n) (b.drop n) fs (put s, ok)
      else
        let f := readLine (a / 256) (fs.headD .good) ((fs.drop 1).headD .good) s
        if f.2 then placeLines j k (off + n) (b.drop n) (fs.drop 2) (put f.1, ok)
        else placeLines j k (off + n) (b.drop n) (fs.drop 2) (lineFails (a / 256) 1 none f.1, false)

/-- The job and the bytes of its carve-out that an operation writes, where its window takes it. -/
def inboundRange (s : State) (p : Qp) (waits : Bool) (x : Inbound) : Option (Nat × Nat × Nat) :=
  match x.target with
  | none => none
  | some (rkey, off) =>
    match windowOf s p waits rkey with
    | none => none
    | some w => if off < w.offset ∨ w.offset + w.length < off + x.data.length then none else some (w.job, off, off + x.data.length)

/-- The operation waits for no page. -/
def inboundReady (s : State) (p : Qp) (waits : Bool) (x : Inbound) : Bool :=
  match inboundRange s p waits x with
  | none => true
  | some r => pagesThere r.1 (pagesOf r.2) s

/-- An operation that waits for nothing: a message goes to the inbox; a WRITE is placed and acknowledged, refused, or answered with
a remote operational error, and its immediate follows it to the inbox. -/
def performInbound (q : Nat) (p : Qp) (waits : Bool) (x : Inbound) (s : State) : State :=
  match x.target with
  | none => toInbox q p x.data s
  | some (_, off) =>
    match inboundRange s p waits x with
    | none => putOut q (.nak q .remoteAccess) s
    | some (j, _, _) =>
      let r := placeLines j (x.data.length / 256 + 3) off x.data x.fetches (s, true)
      if ¬ r.2 then putOut q (.nak q .remoteOperational) r.1
      else
        let s := putOut q (.rdmaAck q) r.1
        match x.imm with
        | none => s
        | some b => toInbox q p b s

/-- Ask for the pages that an operation needs. -/
def askInbound (p : Qp) (waits : Bool) (x : Inbound) (s : State) : State :=
  match inboundRange s p waits x with
  | none => s
  | some r => (bringForWrite r.1 (pagesOf r.2) s).1

/-- Bytes that a port's receive buffer holds of the queue pairs that a test selects: those of the operations that wait (log 36). -/
def bufferFill (s : State) (n : Nat) (own : Qp → Bool) : Nat :=
  (s.eth.qps.filter fun q => q.2.port == n && own q.2).foldl (fun a q => q.2.held.foldl (fun a x => a + x.data.length) a) 0

/-- Priority flow control of a port on a priority: a pause above 3 MiB of its receive buffer, a resume below 2.5 MiB (R421). -/
def flowControl (n k : Nat) (s : State) : State :=
  let fill := bufferFill s n fun p => qpPriority s p == k
  let sent := (s.eth.ports.getD n {}).pausing.contains k
  if ¬ sent ∧ bit (s.config.image.eth.getD n {}).pfc k ∧ 3 * 2 ^ 20 < fill then
    emit (.pause n k true) (bumpEth n 4 1 (modEth n (fun p => { p with pausing := p.pausing ++ [k] }) s))
  else if sent ∧ fill < 5 * 2 ^ 19 then emit (.pause n k false) (modEth n (fun p => { p with pausing := p.pausing.filter (· != k) }) s)
  else s

/-- Flow control on the priority of a queue pair. -/
def flowOf (p : Qp) (s : State) : State := flowControl p.port (qpPriority s p) s

/-- An operation of a queue pair finds the port's receive buffer full, on a priority without flow control (R421). -/
def bufferFull (s : State) (p : Qp) : Bool :=
  !(bit (s.config.image.eth.getD p.port {}).pfc (qpPriority s p)) && decide (4 * 2 ^ 20 ≤ bufferFill s p.port fun _ => true)

/-- An operation arrives: behind others that wait on its queue pair it waits too (R414); else it is performed, or waits,
unacknowledged, for its pages. One that waits fills the receive buffer, and is dropped where it finds it full (R421). -/
def arriveOp (q : Nat) (p : Qp) (x : Inbound) (s : State) : State :=
  let s := if p.held.isEmpty then askInbound p false x s else s
  if p.held.isEmpty ∧ inboundReady s p false x then performInbound q p false x s
  else if bufferFull s p then s
  else flowOf p (modQp q (fun y => { y with held := y.held ++ [x] }) s)

/-- The operation at the front of those that wait on a queue pair, once it waits for nothing; the next asks for its pages. -/
def settleHeld (s : State) (e : Nat × Qp) : Option State :=
  match e.2.held with
  | [] => none
  | x :: rest =>
    if inboundReady s e.2 true x then
      let s := performInbound e.1 e.2 true x (modQp e.1 (fun y => { y with held := rest }) s)
      some (flowOf e.2 (match rest with | [] => s | y :: _ => askInbound e.2 true y s))
    else none

end Sys2Proof.Machine
end

