-- ==== Sys2Proof/Machine/Program.lean ====
section
/-! DEFINITION. Running programs: which descriptors may start (R167, R168, R190 to R192, R205, R210, R523), how an
operation's results are stored and counted (R43, R158 to R160, R169, R217), retirement, completion, and what follows
once nothing is waited for any more (R190, R444, R446, R449, R661). -/

namespace Sys2Proof.Machine

/-! ### Descriptors -/

/-- A descriptor of a submitted program with what surrounds it. -/
structure Ref where
  t : TaskRef
  b : Job
  u : Sub
  d : Bytes
  part : PartCfg

/-- Find what a task reference names. -/
def refOf (s : State) (t : TaskRef) : Option Ref :=
  match tget s.jobs t.job with
  | none => none
  | some b =>
    match tget b.subs t.sub with
    | none => none
    | some u => (u.descs[t.desc]?).map fun d => ⟨t, b, u, d, partCfg s t.job⟩

/-- The state of a descriptor. -/
def descAt (u : Sub) (i : Nat) : DescSt := tgetD u.state i {}

/-- A descriptor has started or retired. -/
def begun (u : Sub) (i : Nat) : Bool := (tget u.state i).isSome

/-- The indices that a descriptor depends on (R191). -/
def depsOf (d : Bytes) (i : Nat) : List Nat :=
  if dBarrier d then List.range i else (List.range (dDeps d)).map fun k => i - dDep d k

/-- A descriptor's dependencies have retired, and those in a span that it stands outside of, after it, have committed
(R168, R192, R205). -/
def depsMet (u : Sub) (i : Nat) (d : Bytes) : Bool :=
  (depsOf d i).all fun p =>
    (descAt u p).retired &&
    (match spanPos u p, spanPos u i with
     | some k, none => ((spanAt u k).map (·.committed)).getD true
     | _, _ => true)

/-- A task of the span at a position may start: it lies within the speculation depth, and neither it nor an older
open span has failed or waits for its rerun (R167, R171). -/
def spanMay (b : Job) (u : Sub) (pos : Nat) : Bool :=
  decide (pos ≤ oldestOpen u + b.cfg.speculation) &&
  (u.spans.zipIdx.all fun x => decide (pos < x.2) || x.1.committed || (x.1.failures.isEmpty && !x.1.discarded))

/-- The blocks of a descriptor's tile map. -/
def mapBlocks (p : PartCfg) (m : Bytes) : List Nat :=
  (List.range (mHeight m)).flatMap fun r => (List.range (mWidth m)).map fun c =>
    (p.row0 + mRow m + r) * 20 + p.col0 + mCol m + c

/-- Blocks lent in a partition (R209). -/
def lentBlocks (s : State) (p : Nat) : List Nat := (tgetD s.bubbles p {}).lent

/-- The tile map of a descriptor. -/
def Ref.map (r : Ref) : Bytes := r.u.maps.getD (dMap r.d) []

/-- A forward span of a micro-batch has not committed (R20): one of a program that names a slot, which the slot's commit
log does not hold; of the program itself, only those before the descriptor count. Programs not submitted yet are not known (log 96). -/
def forwardOpen (b : Job) (t : TaskRef) : Bool :=
  b.subs.any fun u => subSlot u.2 != 0xFF && u.2.stop.isNone && u.2.spans.any fun x =>
    !x.committed && x.recompute.isNone && (u.1 != t.sub || decide (x.last < t.desc)) &&
    (commitEntry b (subSlot u.2) x.id).isNone

/-- A descriptor belongs to a backward pass (R20): a backward operation, or one of a span that computes a committed forward span of
its slot again (R266). -/
def ofBackward (r : Ref) : Bool :=
  isBackward r.d ||
  match (spanPos r.u r.t.desc).bind fun k => spanAt r.u k with
  | none => false
  | some x => x.recompute.isSome || (!x.started && subSlot r.u != 0xFF && (commitEntry r.b (subSlot r.u) x.id).isSome)

/-- A descriptor reads a tensor that an uncommitted span of another program, or one that it stands outside of and after,
writes (R168). -/
def readsUncommitted (r : Ref) : Bool :=
  let reads := (opReads r.d).map (rootOf r.b.tensors)
  let inSpan := (spanPos r.u r.t.desc).isSome
  r.b.subs.any fun u => u.2.stop.isNone && u.2.spans.any fun x =>
    x.started && !x.committed && (u.1 != r.t.sub || (!inSpan && decide (x.last < r.t.desc))) &&
    ((u.2.descs.drop x.first).take (x.last + 1 - x.first)).any fun d =>
      (opWrites d).any fun w => reads.contains (rootOf r.b.tensors w)

/-- A begun and uncommitted span writes a tensor (R19). -/
def writtenUncommitted (b : Job) (i : Nat) : Bool :=
  b.subs.any fun u => u.2.stop.isNone && u.2.spans.any fun x => x.started && !x.committed &&
    ((u.2.descs.drop x.first).take (x.last + 1 - x.first)).any fun d =>
      (opWrites d).any fun w => rootOf b.tensors w == rootOf b.tensors i

/-- A descriptor reads a tensor that an ingress holds unreadable (R16, R17); ingress_wait waits on its own. -/
def readsBlocked (r : Ref) : Bool :=
  (opReads r.d).any fun i => ((tget r.b.tensors (rootOf r.b.tensors i)).map (fun e => !e.ingress.isEmpty)).getD false

/-- A block may run tasks of a job now: the gap job's while it is lent and a window covers it, the primary job's while it is not lent
(R21, R210, R211), and none while its quarter's microcode reloads (R594). -/
def blockRuns (s : State) (j block : Nat) : Bool :=
  let x := tgetD s.bubbles (partOf j) {}
  !(s.errors.reloads.contains (blockQuarter block)) &&
  if isGap j then x.lent.contains block && x.windows.any fun w => w.blocks.contains block else !(x.lent.contains block)

/-- A descriptor stands in a span that has begun and is open (R27). -/
def inOpenSpan (r : Ref) : Bool :=
  match (spanPos r.u r.t.desc).bind fun k => spanAt r.u k with
  | none => false
  | some x => x.started && !x.committed && !x.discarded

/-- The job and the program let tasks begin (R27, R221, R523, R536, R578): at a barrier only those of open spans and those that the
barrier wants. -/
def tasksRun (s : State) (r : Ref) : Bool :=
  alive s && s.fw.activating.isNone && r.b.phase == .keyed && r.u.stop.isNone && r.b.fault.isNone &&
  (r.b.capture.phase != .entered || r.b.capture.wanted.contains r.t || inOpenSpan r) &&
  !(match r.b.restore with | none => false | some x => !x.imported)

/-- A descriptor may start now, its operands' residency apart (R16 to R20, R27, R167, R168, R190 to R192, R210, R211,
R523, R578, R594). -/
def mayStart (s : State) (r : Ref) : Bool :=
  tasksRun s r && !begun r.u r.t.desc && depsMet r.u r.t.desc r.d &&
  (match spanPos r.u r.t.desc with | none => true | some k => spanMay r.b r.u k) &&
  (dOp r.d < 0x10 ||
    (!((mapBlocks r.part r.map).any fun x => s.errors.reloads.contains (blockQuarter x)) &&
     !(readsUncommitted r) && (dOp r.d == 0x2D || !(readsBlocked r)) &&
     !(ofBackward r && forwardOpen r.b r.t) &&
     if isGap r.t.job then (mapBlocks r.part r.map).any (blockRuns s r.t.job)
     else (mapBlocks r.part r.map).all (blockRuns s r.t.job)))

/-! ### Threads (R63, R64, R190, R202, R211) -/

/-- The thread of a unit on its core (R202). -/
def unitThread (p : PartCfg) (m : Bytes) (unit : Nat) : Nat := unit / max 1 (mCores p m).length % max 1 (mThreads m)

/-- The next thread after one that carries a task and waits for nothing (R64). -/
def nextReady (c : CoreSt) (thread : Nat) : Option Nat :=
  ([1, 2, 3, 4].map fun k => (thread + k) % 4).find? fun k =>
    (tget c.threads k).isSome && !(c.waiting.contains k) && !(c.regWaits.contains k) && !(c.slotWaits.contains k)

/-- A thread stops: where it was issuing, the next ready one issues after a switch of one core cycle, or the core stalls (R63, R64). -/
def stopThread (thread : Nat) (c : CoreSt) : CoreSt :=
  if c.issuing = some thread then
    match nextReady c thread with
    | some k => { c with issuing := some k, lost := c.lost + 1 }
    | none => { c with issuing := none }
  else c

/-- A thread is ready: a stalled core issues from it (R64). -/
def readyThread (thread : Nat) (c : CoreSt) : CoreSt :=
  if c.issuing.isNone ∧ (tget c.threads thread).isSome then { c with issuing := some thread, lost := c.lost + 1 } else c

/-- An operation runs in the cell array. -/
def arrayOp (op : Nat) : Bool := decide (0x10 ≤ op) && decide (op ≤ 0x15)

/-- A task goes on a thread; that of an array operation takes a place in the issue queue of 2, or waits for one (R63). -/
def placeTask (t : TaskRef) (unit thread : Nat) (array : Bool) (c : CoreSt) : CoreSt :=
  let c := { c with threads := tset c.threads thread (t, unit) }
  if array ∧ 2 ≤ c.issue.length then { c with slotWaits := c.slotWaits ++ [thread] }
  else readyThread thread { c with issue := if array then c.issue ++ [thread] else c.issue }

/-- A unit waits for its thread and may have it: its block runs the job's tasks, the thread is free, and the home slices have
acknowledged the core's write-backs (R72, R190, R211). -/
def mayPlace (s : State) (r : Ref) (unit : Nat) : Bool :=
  let core := unitCore r.part r.map unit
  let c := coreAt s core
  !((descAt r.u r.t.desc).ended.contains unit) && blockRuns s r.t.job (coreBlock core) &&
  (tget c.threads (unitThread r.part r.map unit)).isNone && c.unacked.isEmpty

/-- The units of a running descriptor that may have their thread take it, in order of their numbers (R190). -/
def placeDesc (r : Ref) (s : State) : State :=
  if (descAt r.u r.t.desc).retired ∨ ¬ tasksRun s r then s
  else
    (List.range (descAt r.u r.t.desc).units).foldl (fun s n =>
      if mayPlace s r n then
        modCore (unitCore r.part r.map n) (placeTask r.t n (unitThread r.part r.map n) (arrayOp (dOp r.d))) s
      else s) s

/-- Every descriptor that has started and not retired, in order of job, submission and index. -/
def openTasks (s : State) : List TaskRef :=
  s.jobs.flatMap fun b => b.2.subs.flatMap fun u =>
    (u.2.state.filter fun d => !d.2.retired).map fun d => ⟨b.1, u.1, d.1⟩

/-- Ready tasks take free threads in order of submission, descriptor and unit (R190). -/
def placeTasks (s : State) : State :=
  (openTasks s).foldl (fun s t => match refOf s t with | none => s | some r => placeDesc r s) s

/-- A task that a test marks is on a thread of a core that a test marks. -/
def onThread (s : State) (core : Nat → Bool) (p : TaskRef → Bool) : Bool :=
  s.cores.any fun c => core c.1 && c.2.threads.any fun x => p x.2.1

/-! ### What an operation sees -/

/-- Slot and stride of a program for R199. -/
def Ref.slot (r : Ref) : Nat := if subSlot r.u = 0xFF then 0 else subSlot r.u

/-- The generation under which a recomputation reads scales. -/
def Ref.gen (r : Ref) : Option Nat := (spanPos r.u r.t.desc).bind fun k => (spanAt r.u k).bind (·.recompute)

/-- The rung at which a descriptor's array operands are read. -/
def Ref.rung (r : Ref) : Nat := (((spanPos r.u r.t.desc).bind fun k => spanAt r.u k).map (·.rung)).getD 0

/-- The rung that a descriptor's span is promoted to, above its base rung (R176, R179). -/
def Ref.promoted (r : Ref) : Option Nat :=
  let base := (((spanPos r.u r.t.desc).bind fun k => spanAt r.u k).map (·.base)).getD 0
  if base < r.rung then some r.rung else none

/-- A tensor as the descriptor sees it. -/
def Ref.tv (r : Ref) (i : Nat) : Option TV := viewOf r.b r.slot (hStride r.u.hdr) r.gen i

/-- A tensor that submission found to be defined. -/
def Ref.view (r : Ref) (i : Nat) : TV := (r.tv i).getD ⟨i, .fp32, [], [], 0, 1, 16, false, none, 0, [], 0⟩

/-- The tensor of a slot. -/
def Ref.slotView (r : Ref) (k : Nat) : TV := r.view (dT r.d k)

/-- The tensor of an optional slot. -/
def Ref.optView (r : Ref) (k : Nat) : Option TV := if dT r.d k = 0xFFFF then none else r.tv (dT r.d k)

/-- Margin bits of an operand (R176, R185, R195). -/
def Ref.margin (r : Ref) (v : TV) : Nat :=
  match tget r.b.tensors v.idx with
  | some e => if tMarginSet e.raw then tMargin e.raw else r.b.cfg.margin
  | none => r.b.cfg.margin

/-- The bytes that operations read. -/
def srcOf (s : State) (j : Nat) : Src := fun a => peek s j a

/-- A 32-bit field of the descriptor as an FP32 value. -/
def Ref.f32 (r : Ref) (off : Nat) : Val := decodeBits .fp32 (rd r.d off 4)

/-! ### Residency (R298, R345) -/

/-- The window pages of the tensors of a list. -/
def Ref.pages (r : Ref) (l : List Nat) : List Nat :=
  (l.flatMap fun t => (byteRange r.b.tensors r.slot (hStride r.u.hdr) t).flatMap pagesOf).eraseDups

/-- Bring in the pages that a descriptor names; true where all are there. A gradient page that it writes goes to the
Basin while it rests (R300). -/
def ensurePages (r : Ref) (s : State) : State × Bool :=
  let writes := r.pages (opWrites r.d)
  let all := r.pages (opNames r.d)
  let a := bringPages r.t.job (all.filter fun p => !(writes.contains p)) s
  let b := bringForWrite r.t.job (all.filter writes.contains) a.1
  (b.1, a.2 && b.2 && pagesThere r.t.job all b.1)

/-- Job offsets of a tensor's elements and of their block scales. -/
def viewOffsets (v : TV) : List Nat :=
  (List.range v.count).flatMap fun n =>
    let ix := indexOf v.ext n
    if is8 v.fmt then [elemAddr v ix, scaleAddr v ix] else [elemAddr v ix]

/-- The first line that a descriptor's reads meet in Vale and that fails (R320, R323, R326). -/
def badRead (r : Ref) (s : State) : Option Nat :=
  badLine s r.t.job ((opReads r.d).flatMap fun i => match r.tv i with | some v => viewOffsets v | none => [])

/-! ### Results -/

/-- Union of the owner masks of tensors (R43). -/
def masksOf (s : State) (j : Nat) (l : List Nat) : Nat := l.foldl (fun m i => m ||| ownerMask s j i) 0

/-- OR a mask into every tensor of a list. -/
def orMasks (j mask : Nat) (l : List Nat) (s : State) : State := l.foldl (fun t i => orMask j i mask t) s

/-- One written output. -/
structure Written where
  v : TV
  sum : WriteSum

/-- Encode and store the outputs of an operation, reading old bytes from before it. -/
def storeOuts (s0 : State) (j : Nat) (outs : List (TV × Array (Option RealV))) (s : State) : State × List Written :=
  outs.foldl (fun acc o =>
    let r := encodeTensor (srcOf s0 j) o.1 fun n => (o.2[n]?).getD none
    (applyStores j r.1 acc.1, acc.2 ++ [⟨o.1, r.2⟩])) (s, [])

/-- Cause of a failing write (R183); which of several is the model's choice (log 52). -/
def failCause (o : OpOut) (w : WriteSum) : Nat :=
  if 0 < w.nonFinite ∧ w.overflowed ∧ ¬ w.wasNonFinite then 4
  else if o.specialBad then 3
  else if 0 < w.nonFinite then 1
  else if o.accOverflow then 2 else 0

/-- The unit whose task writes an element of an output (R202, R216, R226, R656, R657): a row of norm, norm_bwd or softmax lies in one
unit. The split form's adds and the sums of attention_bwd over key blocks run in the first of the units that share the element. -/
def elementUnit (r : Ref) (v : TV) (ix : List Nat) : Nat :=
  let op := dOp r.d
  let i0 := ix.getD 0 0
  let i1 := ix.getD 1 0
  let i2 := ix.getD 2 0
  let row := flatten (v.ext.drop 1) (ix.drop 1) / 16
  if op ≤ 0x13 then
    let mt := flatten (v.ext.drop 2) (ix.drop 2) * ceilDiv (v.ext.getD 1 1) 16 + i1 / 16
    mt * ceilDiv (ceilDiv (v.ext.getD 0 1) 8) (mGroup r.map) + i0 / 8 / mGroup r.map
  else if op = 0x14 then i2 * ceilDiv (v.ext.getD 1 1) 16 + i1 / 16
  else if op = 0x15 then
    let k := (r.slotView 4).ext
    let blocks := ceilDiv (k.getD 1 1) 128
    if v.idx = dT r.d 0 then i2 / (v.ext.getD 2 1 / k.getD 2 1) * blocks else i2 * blocks + i1 / 128
  else if op ≤ 0x18 then row
  else row * ceilDiv (mTilesN r.map) (mGroup r.map) + i0 / 128 / mGroup r.map

/-- The unit at which an event came up: that of its element, or, for a later part of a split reduction, that part's (R202). -/
def eventUnit (r : Ref) (outs : List TV) (e : Event) : Nat :=
  match outs[e.out]? with
  | none => 0
  | some v =>
    let perPart := product (v.ext.drop 2) * ceilDiv (v.ext.getD 1 1) 16 * ceilDiv (ceilDiv (v.ext.getD 0 1) 8) (mGroup r.map)
    e.part * perPart + elementUnit r v e.ix

/-- The core at which an event came up. -/
def eventCore (r : Ref) (outs : List TV) (e : Event) : Nat := unitCore r.part r.map (eventUnit r outs e)

/-- The core of the lowest unit that wrote a non-finite element of an output (R183; log 22). -/
def failCore (m : Src) (r : Ref) (v : TV) : Nat :=
  let bad := ((List.range (product v.ext)).map (indexOf v.ext)).filter fun ix => (logical m v ix).1.nonFinite
  unitCore r.part r.map ((bad.map (elementUnit r v)).foldl min (mUnits r.map))

/-- The core of the lowest unit at which one of the events came up (log 22). -/
def firstCore (r : Ref) (outs : List TV) (l : List Event) : Nat :=
  unitCore r.part r.map ((l.map (eventUnit r outs)).foldl min (((l.map (eventUnit r outs)).head?).getD 0))

/-- Raise the flags of events, each on the core at which it came up (R126). -/
def raiseEvents (r : Ref) (outs : List TV) (l : List Event) (s : State) : State :=
  l.foldl (fun s e => raiseFlags (isGap r.t.job) (eventCore r outs e) e.flags s) s

/-- The failures that an operation's writes record against its span (R169, R172). -/
def failuresOf (b : Job) (o : OpOut) (core : TV → Nat) (first : List Event → Nat) (ws : List Written) : List Failure :=
  let calib := fun (w : Written) =>
    (match tget b.tensors w.v.idx with | some e => inCalibration b e.raw | none => false) &&
    w.sum.overflowed && !w.sum.wasNonFinite && !o.accOverflow && !o.specialBad
  let fs := (ws.filter fun w => decide (0 < w.sum.nonFinite)).map fun w =>
    (⟨w.v.idx, failCause o w.sum, core w.v, calib w⟩ : Failure)
  if fs.isEmpty ∧ (o.accOverflow ∨ o.specialBad) then
    [⟨((ws.head?.map fun w => w.v.idx)).getD 0xFFFF, if o.accOverflow then 2 else 3,
      first (o.events.filter fun e => if o.accOverflow then e.ovf else e.special), false⟩]
  else fs

/-- The events of the conversions of written outputs. -/
def writeEvents (ws : List Written) : List Event :=
  ws.zipIdx.flatMap fun w => w.1.sum.events.map fun e => ⟨w.2, 0, e.1, e.2, false, false⟩

/-- Step maxima of dynamic outputs (R156). -/
def maximaOf (b : Job) (ws : List Written) : Tab Rat :=
  ws.foldl (fun (t : Tab Rat) (w : Written) =>
    match tget b.tensors w.v.idx with
    | some e => if tDynamic e.raw && decide (0 < w.sum.elements) then tset t w.v.idx (max (tgetD t w.v.idx 0) w.sum.amax) else t
    | none => t) []

/-- The statistics record of a write of t0 (R158). -/
def recordOf (r : Ref) (w : WriteSum) (tensor : Nat) : Bytes :=
  let span := ((spanPos r.u r.t.desc).bind fun k => (spanAt r.u k).map (·.id)).getD 0xFFFF
  let raw := ((tget r.b.tensors tensor).map (·.raw)).getD []
  statRecord w r.b.num.verdicts span tensor (tFmt raw) (inCalibration r.b raw) (decide (0 < r.rung))

/-- The core of unit 0 (log 22). -/
def Ref.core (r : Ref) : Nat := unitCore r.part r.map 0

/-- Put a statistics record of a tensor where it belongs: held by the span until it commits (R159), or stored now. It carries the
tensor's owner mask (R47). -/
def putRecord (r : Ref) (dest tensor : Nat) (rec' : Bytes) (s : State) : State :=
  let s := orMask r.t.job dest (ownerMask s r.t.job tensor) s
  match spanPos r.u r.t.desc with
  | some k => modSpan r.t.job r.t.sub k (fun x => { x with stats := tset x.stats dest rec' }) s
  | none => applyStores r.t.job (storeRecord r.b r.u dest rec') s

/-- What a write of the tensor in t0 leaves that is not an operation's output: the statistics record where one is named, and the step
maximum of a dynamic tensor, with the span or now (R156, R158, R159). -/
def noteWrite (r : Ref) (v : TV) (w : WriteSum) (s : State) : State :=
  let mx := maximaOf r.b [⟨v, w⟩]
  let s := match spanPos r.u r.t.desc with
    | some k => modSpan r.t.job r.t.sub k (fun x => { x with maxima := mergeMaxima x.maxima mx }) s
    | none => modNum r.t.job (fun n => { n with maxima := mergeMaxima n.maxima mx }) s
  if dStats r.d = 0xFFFF then s else putRecord r (dStats r.d) v.idx (recordOf r w v.idx) s

/-- What the record of a tensor whose bytes were placed as they came counts (R158): nothing was clipped. -/
def placedSum (s : State) (j : Nat) (v : TV) : WriteSum := { (statisticsOf (srcOf s j) v).1 with saturations := 0 }

/-- Enter a descriptor as running with a number of units. -/
def setRunning (r : Ref) (units : Nat) (s : State) : State :=
  modSub r.t.job r.t.sub (fun u => { u with state := tset u.state r.t.desc { units, start := s.timeNs } }) s

/-- Change the state of a running descriptor. -/
def modDesc (t : TaskRef) (f : DescSt → DescSt) (s : State) : State :=
  modSub t.job t.sub (fun u => { u with state := tmod u.state t.desc f }) s

/-- Everything that follows from an operation's outputs: stores, masks, flags, statistics, step maxima, and either the
span's failures or the bits of the overflow word (R43, R125, R156, R158, R160, R169, R172). -/
def finishOp (r : Ref) (o : OpOut) (s : State) : State :=
  let j := r.t.job
  let w := storeOuts s j o.outs s
  let ws := w.2
  let s := orMasks j (masksOf s j (opReads r.d)) (opWrites r.d) w.1
  let outs := o.outs.map (·.1)
  let s := raiseEvents r outs (o.events ++ writeEvents ws) s
  let s := match ws with
    | [] => s
    | x :: _ => if dStats r.d = 0xFFFF then s else putRecord r (dStats r.d) x.v.idx (recordOf r x.sum x.v.idx) s
  let mx := maximaOf r.b ws
  let bad := ws.any fun x => decide (0 < x.sum.nonFinite)
  match spanPos r.u r.t.desc with
  | some k =>
    modSpan j r.t.sub k (fun x => { x with
      failures := x.failures ++ failuresOf r.b o (failCore (srcOf s j) r) (firstCore r outs) ws, maxima := mergeMaxima x.maxima mx }) s
  | none =>
    let s := modNum j (fun n => { n with maxima := mergeMaxima n.maxima mx }) s
    if isBackward r.d then
      setOverflow j (bad.toNat + 2 * o.accOverflow.toNat) s
    else s

/-! ### Retirement -/

/-- The staged lines of a gather go when the last operation of its program that names its destination and depends
on it has retired; one of a span may run again until its span commits (R18, R244). -/
def dropStaged (t : TaskRef) (s : State) : State :=
  match getSub s t.job t.sub with
  | none => s
  | some u =>
    let anc := ancestors u.descs
    let done := fun (g : TaskRef) =>
      g.job = t.job ∧ g.sub = t.sub ∧
      ((u.descs.zipIdx.filter fun x =>
          bit (anc.getD x.2 0) g.desc && (opNames x.1).contains (dT (u.descs.getD g.desc []) 0)).all
        fun x => (descAt u x.2).retired &&
          (((spanPos u x.2).bind fun k => spanAt u k).map (·.committed)).getD true)
    { s with cache := { s.cache with lines := s.cache.lines.filter fun x =>
        match x.2.staged with | none => true | some g => !(decide (done g)) } }

/-- A descriptor retires (text before R186): a stash occupies its slot, an unstash marked last frees it (R271). -/
def retire (t : TaskRef) (s : State) : State :=
  match refOf s t with
  | none => s
  | some r =>
    let st := descAt r.u t.desc
    let s := modSub t.job t.sub (fun u => { u with state := tset u.state t.desc { st with retired := true } }) s
    let slot := subSlot r.u
    let s := if dOp r.d = 0x27 ∧ slot ≠ 0xFF then occupySlot t.job slot (hStride r.u.hdr) s
      else if dOp r.d = 0x28 ∧ rd r.d 28 1 = 1 ∧ slot ≠ 0xFF then freeSlot t.job slot s else s
    dropStaged t s

/-! ### Fence signals of programs -/

/-- A remote signal through a proxy (R383, R454). -/
def remoteSignal (j : Nat) (proxyIdx : Nat) (p : Proxy) (value : Nat) (s : State) : State :=
  let s := modObj proxyIdx (fun o => { o with data := .proxy { p with last := value } }) s
  sendOrFault j { typ := 6, vc := p.vc, dst := p.peer, tag := proxyIdx,
                  payload := leBytes 2 p.index ++ leBytes 1 p.generation ++ zeros 5 ++ leBytes 8 value } s

/-- The effect of a fence_signal descriptor (R207, R450, R454). -/
def signalDesc (j : Nat) (d : Bytes) (s : State) : State :=
  let i := rd d 16 2
  match objAt s i with
  | some { data := .fence _, .. } => if genOf s i = rd d 18 1 then applySignal i (rd d 24 8) s else s
  | some { data := .proxy p, .. } => if genOf s i = rd d 18 1 then remoteSignal j i p (rd d 24 8) s else s
  | _ => s

/-! ### Completion -/

/-- Pages that the optimiser_step descriptors of a submission name (R659). -/
def optimiserPages (b : Job) (u : Sub) : Nat :=
  u.descs.foldl (fun a d =>
    if dOp d = 0x29 then a + (match tget b.tensors (dT d 0) with | some e => pageCount (tExts e.raw) | none => 0) else a) 0

/-- The result of a program's completion (R441). -/
def optimiserResult (b : Job) (u : Sub) : Bytes :=
  leBytes 8 u.finished ++ leBytes 8 u.unchanged ++ leBytes 8 (optimiserPages b u - u.finished - u.unchanged)

/-- No task of a submission runs. -/
def subIdle (s : State) (j k : Nat) : Bool := !(onThread s (fun _ => true) fun t => t.job == j && t.sub == k)

/-- Close the windows of a stopped program (R277). -/
def closeWindows (j k : Nat) (s : State) : State :=
  let p := partOf j
  { s with bubbles := tmod s.bubbles p fun x => { x with windows := x.windows.filter fun w => !(w.task.job == j && w.task.sub == k) } }

/-- A submission completes with a status: it gives back what it held (R190, R272, R277). -/
def completeSub (j k status desc : Nat) (s : State) : State :=
  match tget s.jobs j, getSub s j k with
  | some b, some u =>
    let res := optimiserResult b u
    let s := modJob j (fun b => { b with
      subs := terase b.subs k
      colls := b.colls.filter fun c => !(c.task.sub == k)
      xfers := b.xfers.filter fun c => !(c.task.sub == k)
      gathers := b.gathers.filter fun c => !(c.task.sub == k) }) s
    let s := { s with cache := { s.cache with lines := s.cache.lines.filter fun x =>
      match x.2.staged with | none => true | some g => !(g.job == j && g.sub == k) } }
    let s := if status = 0 then s else closeWindows j k s
    let slot := subSlot u
    let others := ((tget s.jobs j).map fun b => b.subs.any fun x => subSlot x.2 == slot).getD false
    let s := if [0x65, 0x1F, 0x18].contains status ∧ slot ≠ 0xFF then
        modNum j (fun n => { n with stoppedSlots := n.stoppedSlots.filter (· != slot) ++ [slot] }) s else s
    let s := if ¬ others ∧ (((tget s.jobs j).map fun b => b.num.stoppedSlots.contains slot).getD false) then
        modNum j (fun n => { n with stoppedSlots := n.stoppedSlots.filter (· != slot) }) (freeSlot j slot s) else s
    finish (.submit j k) status { desc := if status = 0 then 0xFFFF else desc, result := res } s
  | _, _ => s

/-! ### Objects in use (R443, R446) -/

/-- A message names an object as its own, its wait fence or its signal fence. -/
def msgNames (b : Bytes) (i : Nat) : Bool :=
  msgObj b == i || (bit (msgFlags b) 1 && rd b 24 2 == i) || (bit (msgFlags b) 2 && rd b 36 2 == i)

/-- A submission names an object. -/
def subNames (u : Sub) (i : Nat) : Bool :=
  u.prog == i || u.descs.any fun d => match namedObject d with | some x => x.1 == i | none => false

/-- The object at an index is idle (R446). -/
def objIdle (s : State) (i : Nat) : Bool :=
  match objAt s i with
  | none => false
  | some o =>
    let queued := s.ctxs.any fun c => c.2.inbox.any fun b => msgNames b i
    let running := s.running.any fun r => r.kind != .destroy i && msgNames r.msg.bytes i
    let programs := s.jobs.any fun b => b.2.subs.any fun u => subNames u.2 i
    match o.data with
    | .program _ _ => !programs && !queued && !running
    | .fence _ => !queued && !running && !programs
    | .proxy _ => !programs && !queued && !running
    | .group _ => !programs
    | .window _ => !(s.eth.qps.any fun q => q.2.held.any fun x => (x.target.map fun t => t.1 % 65536) == some i)
    | .queuePair q =>
      let ctx := ((tget s.eth.qps q).map (·.ctx)).getD 0xFFFF
      let flights := ((tget s.eth.qps q).map fun p => p.flights.any fun f => f.kind != .send).getD false
      let named := (s.objects.objs.any fun x => match x.2.data with | .window w => w.qp == i | _ => false) ||
        s.jobs.any fun b => b.2.tier.extents.any fun e => xQp e == i
      let msgs := s.running.any fun r => r.msg.ctx == some ctx && r.kind != .destroy i
      let held := ((tget s.eth.qps q).map fun p => !p.held.isEmpty).getD false
      !flights && !named && !msgs && !held

/-- Free an object with what it stood for: a queue pair's number, and its context when no other serves it (R434). -/
def releaseObject (i : Nat) (s : State) : State :=
  match objAt s i with
  | some { data := .queuePair q, .. } =>
    let ctx := ((tget s.eth.qps q).map (·.ctx)).getD 0
    let s := { s with eth := { s.eth with qps := terase s.eth.qps q } }
    let s := if 16 ≤ ctx ∧ ¬ (s.eth.qps.any fun p => p.2.ctx == ctx) then { s with ctxs := terase s.ctxs ctx } else s
    freeObject i s
  | _ => freeObject i s

/-- A tensor entry is idle: no submitted program, no queued or running message and no view names it (R200, R442). -/
def tensorNamed (s : State) (j i : Nat) : Bool :=
  match tget s.jobs j with
  | none => false
  | some b =>
    (b.subs.any fun u => u.2.descs.any fun d =>
      (opNames d).any fun t => t == i || (chainOf b.tensors 8 t).contains i ||
        (match tget b.tensors t with | some e => tScaleTensor e.raw == i | none => false)) ||
    (s.running.any fun r => r.kind == .ingress j i) ||
    (s.ctxs.any fun c => c.2.inbox.any fun m =>
      msgJob m == b.id && ((msgType m == 0x14 && arg m 9 2 == i) || (msgType m == 0x20 && arg m 0 2 == i)))

/-- The pages of a tensor lose their gradient mark, and its history record goes (R344). -/
def dropTensor (j i : Nat) (s : State) : State :=
  match tget s.jobs j with
  | none => s
  | some b =>
    match tget b.tensors i with
    | none => s
    | some e =>
      let s := if tLogical e.raw ≠ 0 ∧ tLogical e.raw % 16 = 3 then
          ((byteRange b.tensors 0 0 i).flatMap pagesOf).foldl (fun t p => modDir j p (fun e => { e with gradient := false }) t) s
        else s
      modJob j (fun b => { b with
        tensors := terase b.tensors i
        num := { b.num with maxima := terase b.num.maxima i }
        hist := if tDynamic e.raw then terase b.hist (tRecord e.raw) else b.hist }) s

/-! ### Settling -/

/-- What a running message or waiting descriptor waits for has come: the state after it, or none. -/
def settleRunning (s : State) (r : Running) : Option State :=
  match r.kind with
  | .fenceWait i v =>
    match fenceAt s i with
    | none => some (finish r.kind 0x1E {} s)
    | some f =>
      if f.faulted then some (finish r.kind 0x1E {} s)
      else if reached f.value v then some (finish r.kind 0x00 {} s) else none
  | .submit j k =>
    match getSub s j k with
    | none => none
    | some u =>
      match u.stop with
      | some c => if subIdle s j k then some (completeSub j k c u.stopDesc s) else none
      | none =>
        if (List.range u.descs.length).all fun i => (descAt u i).retired then some (completeSub j k 0x00 0xFFFF s) else none
  | .abort j p =>
    if ((tget s.jobs j).map fun b => b.subs.any fun u => u.2.prog == p).getD false then none
    else some (finish r.kind 0x00 {} s)
  | .destroy i => if objIdle s i then some (finish r.kind 0x00 {} (releaseObject i s)) else none
  | .fwWait slot =>
    if fwWaits s then none
    else
      match takeRunning r.kind s with
      | (some m, s) => some (fwActivateRun m slot s)
      | _ => none
  | .tensorRelease j i =>
    if tensorNamed s j i then none
    else some (finish r.kind 0x00 { tensor := i } (dropTensor j i s))
  | .tierMove j first count _ =>
    if (List.range count).all fun k =>
        let e := (dirAt s j (first + k)).st
        e == .resident || e == .resting && !(((tget s.jobs j).map fun b => b.tier.frameWaits.contains (first + k)).getD false)
    then some (finish r.kind 0x00 {} s) else none
  | _ => none

/-- A fence_wait descriptor that waits: its fence has reached the value, or has faulted or gone (R206, R449); an ingress_wait that waits:
its destination is readable (R260). -/
def settleWait (s : State) (t : TaskRef) : Option State :=
  match refOf s t with
  | none => none
  | some r =>
    if dOp r.d = 3 ∧ begun r.u t.desc ∧ ¬ (descAt r.u t.desc).retired ∧ r.u.stop.isNone then
      match fenceAt s (rd r.d 16 2) with
      | none => some (programFault t 0x1E s)
      | some f =>
        if f.faulted then some (programFault t 0x1E s)
        else if reached f.value (rd r.d 24 8) then some (retire t s) else none
    else if dOp r.d = 0x2D ∧ begun r.u t.desc ∧ ¬ (descAt r.u t.desc).retired ∧ r.u.stop.isNone ∧ ¬ readsBlocked r then some (retire t s)
    else none

/-- One thing that follows by itself: failed reads are reported first. -/
def nextSettle (s : State) : Option State :=
  if ¬ s.vale.failing.isEmpty then some (reportLines s) else
  (((openTasks s).findSome? (settleWait s)).or (s.running.findSome? (settleRunning s))).or (s.eth.qps.findSome? (settleHeld s))

/-- Everything that follows by itself: fuel. -/
def settleLoop : Nat → State → State
  | 0, s => s
  | k + 1, s =>
    match nextSettle s with
    | none => s
    | some t => settleLoop k t

/-- Operations that wait on queue pairs. -/
def heldCount (s : State) : Nat := s.eth.qps.foldl (fun n q => n + q.2.held.length) 0

/-- Everything that follows by itself; each thing ends a message, a wait or an operation held, and none begins one. Then ready tasks
take the threads that are free. -/
def settle (s : State) : State := placeTasks (settleLoop (2 * (s.running.length + (openTasks s).length + heldCount s + 1)) s)

end Sys2Proof.Machine
end

