-- ==== Sys2Proof/Machine/Ecc.lean ====
section
/-! DEFINITION. The SEC-DED code of R590, what a reader of a word does (R591 to R595), and where an uncorrectable word
acts (R594). -/

namespace Sys2Proof.Machine

/-- The 8-bit values with exactly three bits set, in increasing order (R590). -/
def threeBits : List Nat := (List.range 256).filter fun v => popcount 8 v == 3

/-- The columns of data bits 0 to 63 (R590). -/
def columns : List Nat := threeBits.take 56 ++ [0x1F, 0x2F, 0x37, 0x3B, 0x3D, 0x3E, 0x4F, 0x57]

/-- The check byte of a word (R590). -/
def checkByte (w : Nat) : Nat := columns.zipIdx.foldl (fun c x => if bit w x.2 then c ^^^ x.1 else c) 0

/-- What a reader makes of a word and its check byte (R591): the word delivered and the syndrome, none where it is
uncorrectable. -/
def readWord (w check : Nat) : Option (Nat × Nat) :=
  let s := check ^^^ checkByte w
  if s = 0 then some (w, 0)
  else if popcount 8 s = 1 then some (w, s)
  else
    match columns.zipIdx.find? fun x => x.1 == s with
    | some x => some (w ^^^ 2 ^ x.2, s)
    | none => none

/-- The job index that a memory key id belongs to. -/
def keyJob (s : State) (key : Nat) : Option Nat := (tget s.vale.keyIds key).map (·.job)

/-- Fault a job with 0x62 for an error record, which is the event's body (R597). -/
def eccFault (rec' : Bytes) (j desc prog : Nat) (s : State) : State :=
  jobFault j 0x62 desc { kind := if prog = 0xFFFF then 2 else 0, prog := prog, record := some rec' } s

/-- Fault the job of a task with 0x62 (R594: the task faults). -/
def eccTask (rec' : Bytes) (t : TaskRef) (s : State) : State :=
  match getSub s t.job t.sub with
  | none => eccFault rec' t.job 0xFFFF 0xFFFF s
  | some u => eccFault rec' t.job t.desc u.prog s

/-- Fault every job that an index test marks. -/
def eccJobs (rec' : Bytes) (p : Nat → Bool) (s : State) : State :=
  s.jobs.foldl (fun t x => if p x.1 then eccFault rec' x.1 0xFFFF 0xFFFF t else t) s

/-- A job has a started descriptor with a unit in a quarter. -/
def runsInQuarter (s : State) (j q : Nat) : Bool :=
  match tget s.jobs j with
  | none => false
  | some b => b.subs.any fun u => u.2.state.any fun d =>
      !d.2.retired && ((mapBlocks (partCfg s j) (u.2.maps.getD (dMap (u.2.descs.getD d.1 [])) [])).any fun x => blockQuarter x == q)

/-- What surrounds an access that meets a damaged word: its task and the job of its key id. -/
structure EccCtx where
  task : Option TaskRef := none
  job : Option Nat := none

/-- The job index concerned in a report. -/
def eccJob (s : State) (c : EccCtx) (r : EccReport) : Option Nat :=
  ((c.task.map (·.job)).or c.job).or ((keyJob s r.key).or (jobIndex s r.jobId))

/-- The error record of a report. -/
def eccRecord (s : State) (c : EccCtx) (r : EccReport) (cls action syn : Nat) : ErrRec :=
  let j := eccJob s c r
  { cls, unit := r.unit, action, syndrome := syn, location := r.location
    jobId := ((j.bind fun j => tget s.jobs j).map (·.id)).getD 0
    part := (j.map partOf).getD 0xFF, key := r.key
    anchor := ((j.bind fun j => tget s.jobs j).map (·.keys.anchor)).getD 0xFF }

/-- An error packet with a code and tag to a device (R364), under the job's key. -/
def errorTo (j dst vc code tag : Nat) (s : State) : State :=
  (originate j { typ := 8, vc := vc, dst := dst, tag := tag, payload := [BitVec.ofNat 8 code, 0] ++ leBytes 2 tag ++ zeros 4 } s).1

/-- A record that concerns no job goes to the management contexts as event 0x03 of no job (R597, log 26). -/
def orphanRecord (b : Bytes) (s : State) : State := mgmtEvent 0x03 b s

/-- An entry of an engine's key table is cleared: a memory key's, or the link key of a job that the report names (R594, log 93). -/
def clearKey (r : EccReport) (s : State) : State :=
  if r.jobId = 0 then { s with vale := { s.vale with keyIds := s.vale.keyIds.map fun (k : Nat × KeyId) =>
    if k.1 = r.key then (k.1, { k.2 with cleared := true }) else k } }
  else { s with pass := { s.pass with linkKeys := s.pass.linkKeys.map fun (l : Nat × LinkKey) =>
    if l.2.jobId = r.jobId then (l.1, { l.2 with cleared := true }) else l } }

/-- The effect of an uncorrectable word by where it is found (R594). The flag tells that the access goes on: the word was
fetched again. -/
def uncorrectable (c : EccCtx) (r : EccReport) (s : State) : State × Bool :=
  let put := fun (cls action : Nat) => logError (eccRecord s c r cls action (r.check.toNat ^^^ checkByte r.data.toNat)) s
  let task := fun (act : Nat) =>
    let x := put 2 act
    (match c.task with
     | some t => eccTask x.1 t x.2
     | none => match eccJob s c r with
       | some j => eccFault x.1 j 0xFFFF 0xFFFF x.2
       | none => orphanRecord x.1 x.2, false)
  let again := ((put 4 1).2, true)
  let keyed :=
    let x := put 2 3
    (match eccJob s { c with task := none } r with
     | some j => eccFault x.1 j 0xFFFF 0xFFFF x.2
     | none => orphanRecord x.1 x.2, false)
  match r.unit with
  | 0x01 => task 2
  | 0x05 => task 2
  | 0x02 => if r.dirty then task 2 else again
  | 0x03 => again
  | 0x04 =>
    let x := put 2 3
    let s := eccJobs x.1 (fun j => runsInQuarter x.2 j (r.location % 4)) x.2
    ({ s with errors := { s.errors with reloads := if s.errors.reloads.contains (r.location % 4) then s.errors.reloads
        else s.errors.reloads ++ [r.location % 4] } }, false)
  | 0x06 => if r.dirty then keyed else again
  | 0x07 =>
    let x := put 2 3
    (eccJobs x.1 (fun j => (partBlocks (partCfg x.2 j)).contains r.location) x.2, false)
  | 0x08 => let x := put 2 4; (eccJobs x.1 (fun _ => true) x.2, false)
  | 0x09 => if c.task.isSome then task 2 else keyed
  | 0x0B => keyed
  | 0x0D | 0x0E =>
    if r.headerOk then
      let x := put 2 5
      match jobIndex x.2 r.jobId with
      | some j =>
        let s := errorTo j r.dst 0 0x62 0 (errorTo j r.src 0 0x62 0 x.2)
        (eccFault x.1 j 0xFFFF 0xFFFF s, false)
      | none => (x.2, false)
    else ((put 2 5).2, false)
  | 0x0F => again
  | 0x10 =>
    if r.location < 7 then
      let x := put 2 6
      (alert 0x80 { x.2 with errors := { x.2.errors with keyFault := true } }, false)
    else
      let x := put 2 3
      let slot := tget x.2.glen.slots r.location
      let s := { x.2 with glen := { x.2.glen with slots := terase x.2.glen.slots r.location } }
      (match slot with
       | none => s
       | some k => eccFault x.1 (2 * bits k.attr 15 12 + (bit k.attr 11).toNat) 0xFFFF 0xFFFF s, false)
  | 0x11 =>
    let x := put 2 3
    let job := if r.jobId = 0 then keyJob s r.key else jobIndex s r.jobId
    (clearKey r (match job with
      | some j => eccFault x.1 j 0xFFFF 0xFFFF x.2
      | none => orphanRecord x.1 x.2), false)
  | 0x12 =>
    let x := put 2 6
    let runs := x.2.running.filter fun m => decide (0x70 ≤ msgType m.msg.bytes)
    let s := { x.2 with
      running := x.2.running.filter fun m => decide (msgType m.msg.bytes < 0x70)
      ledger := { x.2.ledger with deferred := x.2.ledger.deferred.filter fun d => !(runs.any fun m => m.kind == .ticket d.ticket) } }
    (alert 0x100 (runs.foldl (fun t m => complete m.msg 0x18 t) s), false)
  | 0x13 =>
    let x := put 2 6
    let lost := decide (x.2.ledger.mirrored ≤ r.location)
    ({ x.2 with ledger := { x.2.ledger with
        lost := x.2.ledger.lost + lost.toNat
        ring := if lost then terase x.2.ledger.ring r.location
          else match tget x.2.ledger.mirror r.location with
            | some b => tset x.2.ledger.ring r.location b
            | none => x.2.ledger.ring } }, true)
  | _ => ((put 2 6).2, false)

/-- A reader meets a word (R592): corrected and counted, or uncorrectable. -/
def meetWord (c : EccCtx) (r : EccReport) (s : State) : State × Bool :=
  match readWord r.data.toNat r.check.toNat with
  | some (_, 0) => (s, true)
  | some (_, syn) => ((logError (eccRecord s c r 1 0 syn) s).2, true)
  | none => uncorrectable c r s

/-- Every reported word of an access; the flag tells that the access goes on. -/
def meetWords (c : EccCtx) (l : List EccReport) (s : State) : State × Bool :=
  l.foldl (fun acc r => let x := meetWord c r acc.1; (x.1, acc.2 && x.2)) (s, true)

/-- A microcode store has reloaded (R594). -/
def microcodeReload (q : Nat) (s : State) : State :=
  { s with errors := { s.errors with reloads := s.errors.reloads.filter (· != q) } }

/-- MICROCODE_RELOAD_DONE. -/
def execMicrocodeReloadDone (quarter : Nat) (s : State) : Host.Outcome State Fault Refusal :=
  .next (settle (microcodeReload quarter s))

end Sys2Proof.Machine
end

