-- ==== Sys2Proof/Machine/Objects.lean ====
section
/-! DEFINITION. HELLO, queue pairs, windows, groups, programs, fences and the destruction of objects (R387, R411, R431,
R432, R438, R440, R442 to R454). -/

namespace Sys2Proof.Machine

/-- The job that a message names, where it is one of this Proend's and not closing. -/
def liveJob (s : State) (m : Msg) : Option Nat :=
  match jobIndex s (msgJob m.bytes) with
  | none => none
  | some j => if ((tget s.jobs j).map (·.phase)) == some .closing then none else some j

/-- The object that a message's header names, checked in the order of R445, R435 and R444, and one of its own job (R32): the status of the first
check that fails, or the object. -/
def headerObject (s : State) (m : Msg) (kind : ObjData → Bool) : Except Nat Obj :=
  let i := msgObj m.bytes
  if i = 0xFFFF then .error 0x14
  else if genOf s i ≠ msgGen m.bytes then .error 0x15
  else
    match objAt s i with
    | none => .error 0x14
    | some o =>
      if ¬ kind o.data then .error 0x14
      else
        if mayName s m.ctx (msgJob m.bytes) o then .ok o else .error 0x13

/-- The kinds. -/
def isFence : ObjData → Bool | .fence _ => true | _ => false
def isFenceOrProxy : ObjData → Bool | .fence _ => true | .proxy _ => true | _ => false
def isProgram : ObjData → Bool | .program _ _ => true | _ => false

/-- Create an object, or complete with 0x16 where no entry is free (R445). -/
def createObject (m : Msg) (job : Option Nat) (d : ObjData) (result : Nat → Bytes) (s : State) : State :=
  match freeEntry s with
  | none => complete m 0x16 s
  | some i =>
    let s := putObject i { job, ctx := m.ctx.getD 0, data := d } s
    completeWith m 0x00 { obj := i, gen := genOf s i, result := result i } s

/-! ### HELLO (R432) -/

/-- The version that both sides support: the higher. -/
def chooseVersion (mask : Nat) : Option Nat := if bit mask 3 then some 3 else if bit mask 2 then some 2 else none

/-- HELLO on a context. Every bit of args byte 0 marks a version, so one the Proend does not hold is no fault of the
message (DEDUCED, log 34). -/
def helloBody (ctx : Nat) (m : Msg) (s : State) : State :=
  if ¬ headerClean m.bytes then complete m 0x12 s
  else
    match chooseVersion (arg m.bytes 0 1) with
    | none => complete m 0x10 s
    | some v =>
      let s := { s with ctxs := tmod s.ctxs ctx fun c => { c with version := v } }
      completeResult m 0x00 (leBytes 2 (v * 256) ++ leBytes 2 0x8012 ++ leBytes 1 0xB0) s

/-- HELLO: the front message of the context, if it is one; its own version field is not yet judged by R433. -/
def execHello (ctx : Nat) (s : State) : Host.Outcome State Fault Refusal :=
  .next (if ¬ alive s then s
    else
      match ((tget s.ctxs ctx).map (·.inbox)).getD [] with
      | [] => s
      | b :: _ =>
        if msgType b ≠ 0x01 then s
        else
          match waitState s b with
          | .hold => s
          | .dead => settle (complete ⟨some ctx, b⟩ 0x1E (popInbox ctx s))
          | .go => settle (helloBody ctx ⟨some ctx, b⟩ (popInbox ctx s)))

/-! ### QP_CREATE (R408 to R411, R417, R434, R435; body by log 15) -/

/-- The owning partition of a source entry of a port, where it is valid (R409, R462). -/
def sourceOwner (s : State) (port i : Nat) : Option Nat :=
  match tget (s.config.image.eth.getD port {}).sources i with
  | none => none
  | some e => if bit (rd e 16 1) 0 then some (rd e 16 1 / 16) else none

/-- The lowest free queue pair index above the bootstrap ones (R463). -/
def freeQp (s : State) : Option Nat :=
  (List.range (s.eth.qps.length + 1)).findSome? fun k =>
    let q := 64 + k
    if q < 4096 ∧ (tget s.eth.qps q).isNone then some q else none

/-- Create and connect a queue pair. -/
def qpCreateBody (m : Msg) (s : State) : State :=
  let b := msgBody m.bytes
  let part := ctxPart s (m.ctx.getD 0)
  let cls := rd b 0 1
  let port := rd b 1 1
  let ctx := rd b 6 2
  let jobId := rd b 12 4
  let job := jobIndex s jobId
  if b.length ≠ 64 ∨ 4 ≤ cls ∨ 4 ≤ port ∨ 3 ≤ rd b 3 1 ∨ rd b 4 1 < 10 ∨ 20 < rd b 4 1 ∨ 8 ≤ rd b 5 1 ∨ ctx < 16 ∨
      4096 ≤ ctx ∨ rd b 11 1 ≠ 0 ∨ ¬ allZero (b.drop 44) ∨ ¬ bit (s.config.image.eth.getD port {}).mask part ∨
      sourceOwner s port (rd b 2 1) ≠ some part then complete m 0x12 s
  else if jobId ≠ 0 ∧ (job.map partOf ≠ some part ∨
      ((job.bind fun j => tget s.jobs j).map (·.phase)) == some .closing) then complete m 0x18 s
  else
    match tget s.ctxs ctx with
    | some c =>
      if c.partition ≠ part ∨ c.jobId ≠ jobId ∨ (s.eth.qps.any fun q => q.2.ctx == ctx && q.2.port == port) then complete m 0x13 s
      else make part cls port ctx jobId job b s
    | none => make part cls port ctx jobId job b s
where
  /-- The queue pair and its context. -/
  make (part cls port ctx jobId : Nat) (job : Option Nat) (b : Bytes) (s : State) : State :=
    match freeQp s with
    | none => complete m 0x1A s
    | some q =>
      match freeEntry s with
      | none => complete m 0x16 s
      | some i =>
        let qp : Qp := { partition := part, port, cls, source := rd b 2 1, remoteQpn := rd b 8 3
                         remoteAddress := sub b 16 16, nextHop := sub b 38 6, mtu := rd b 3 1, timeout := rd b 4 1
                         retry := rd b 5 1, retriesLeft := rd b 5 1, sendPsn := rd b 32 3, recvPsn := rd b 35 3
                         ctx, obj := i }
        let s := { s with eth := { s.eth with qps := tset s.eth.qps q qp } }
        let s := match tget s.ctxs ctx with
          | some _ => s
          | none => { s with ctxs := tset s.ctxs ctx { jobId, partition := part } }
        createObject m job (.queuePair q) (fun _ => leBytes 4 (0x1000 + q)) s

/-- QP_CREATE. -/
def execQpCreate (ctx : Nat) (s : State) : Host.Outcome State Fault Refusal :=
  .next (settle (withMessage ctx 0x02 qpCreateBody s))

/-! ### WINDOW_OPEN (R436, R438) -/

/-- Open a window; with no job named it lies in the carve-out of the partition's primary job (log 24). -/
def windowOpenBody (m : Msg) (s : State) : State :=
  let off := arg m.bytes 0 5
  let len := arg m.bytes 5 5
  let qi := arg m.bytes 10 2
  let j := if msgJob m.bytes = 0 then some (2 * ctxPart s (m.ctx.getD 0)) else liveJob s m
  match j with
  | none => complete m 0x18 s
  | some j =>
    if genOf s qi ≠ arg m.bytes 12 1 then complete m 0x15 s
    else
      match objAt s qi with
      | some { data := .queuePair q, destroying := dying, job := job, .. } =>
        if job.isSome ∧ job ≠ some j then complete m 0x13 s
        else if dying then complete m 0x17 s
        else if ((tget s.eth.qps q).map (·.partition)) ≠ some (partOf j) then complete m 0x13 s
        else if len = 0 then complete m 0x12 s
        else if ¬ rangeIn (carveOf s j) off len then complete m 0x19 s
        else
          let r := freshNat s
          let rnd := r.1 % 256
          createObject m (if msgJob m.bytes = 0 then none else some j) (.window ⟨j, off, len, qi, rnd⟩)
            (fun i => leBytes 2 i ++ leBytes 1 (genOf r.2 i) ++ leBytes 1 rnd) r.2
      | _ => complete m 0x14 s

/-- WINDOW_OPEN. -/
def execWindowOpen (ctx : Nat) (s : State) : Host.Outcome State Fault Refusal :=
  .next (settle (withMessage ctx 0x03 windowOpenBody s))

/-! ### GROUP_CREATE (R387, R440) -/

/-- A member list meets R387; the rank of this Proend. -/
def groupRank (s : State) (g timeout : Nat) (radices : List Nat) (raw : List Nat) : Option Nat :=
  if 1 ≤ g ∧ g ≤ 1048576 ∧ 1 ≤ timeout ∧ timeout ≤ 10000000 ∧ product radices = g ∧
     (raw.all fun a => a < 2 ^ 20) ∧ raw.eraseDups.length = raw.length then
    (raw.zipIdx.find? fun x => x.1 == deviceAddress s).map (·.2)
  else none

/-- Create a collective group. -/
def groupCreateBody (m : Msg) (s : State) : State :=
  match liveJob s m with
  | none => complete m 0x18 s
  | some j =>
    let off := arg m.bytes 0 5
    let g := arg m.bytes 5 3
    let radices := [arg m.bytes 8 1 + 1, arg m.bytes 9 1 + 1, arg m.bytes 10 1 + 1]
    let timeout := arg m.bytes 11 4
    if g < 1 ∨ 1048576 < g ∨ product radices ≠ g then complete m 0x12 s
    else if ¬ rangeOk s j off (4 * g) then complete m 0x19 s
    else
      let raw := (List.range g).map fun i => leNat (peekN s j (off + 4 * i) 4)
      match groupRank s g timeout radices raw with
      | none => complete m 0x12 s
      | some r =>
        let b := (tget s.jobs j).getD { id := 0 }
        if poolSize b < poolUsed s j + 1 + ceilDiv (4 * g) 64 then complete m 0x1A s
        else createObject m (some j) (.group { members := raw, rank := r, radices, timeout }) (fun _ => leBytes 4 r) s

/-- GROUP_CREATE. -/
def execGroupCreate (ctx : Nat) (s : State) : Host.Outcome State Fault Refusal :=
  .next (settle (withMessage ctx 0x04 groupCreateBody s))

/-! ### PROGRAM_CREATE (R437) -/

/-- Create a program object. -/
def programCreateBody (m : Msg) (s : State) : State :=
  match liveJob s m with
  | none => complete m 0x18 s
  | some j =>
    let off := arg m.bytes 0 5
    let len := arg m.bytes 5 4
    if len = 0 then complete m 0x12 s
    else if ¬ rangeOk s j off len then complete m 0x19 s
    else createObject m (some j) (.program off len) (fun _ => []) s

/-- PROGRAM_CREATE. -/
def execProgramCreate (ctx : Nat) (s : State) : Host.Outcome State Fault Refusal :=
  .next (settle (withMessage ctx 0x30 programCreateBody s))

/-! ### Fences (R448 to R454) -/

/-- Fence objects and proxies held (text before R448). -/
def fencesHeld (s : State) : Nat :=
  s.objects.objs.foldl (fun a o => match o.2.data with | .fence _ => a + 1 | .proxy _ => a + 1 | _ => a) 0

/-- Room for one more fence record: under 16,384 in all, and a unit of the shared pool (R653). -/
def fenceRoom (s : State) (j : Nat) : Bool :=
  decide (fencesHeld s < 16384) && decide (poolUsed s j + 1 ≤ poolSize ((tget s.jobs j).getD { id := 0 }))

/-- Create a fence. -/
def fenceCreateBody (m : Msg) (s : State) : State :=
  match liveJob s m with
  | none => complete m 0x18 s
  | some j =>
    if 4 ≤ arg m.bytes 8 1 ∨ 8 ≤ arg m.bytes 9 1 then complete m 0x12 s
    else if ¬ fenceRoom s j then complete m 0x1A s
    else
      createObject m (some j) (.fence { value := arg m.bytes 0 8, sharedContexts := bit (arg m.bytes 8 1) 0
                                        sharedDevices := bit (arg m.bytes 8 1) 1, vc := arg m.bytes 9 1 }) (fun _ => []) s

/-- FENCE_CREATE. -/
def execFenceCreate (ctx : Nat) (s : State) : Host.Outcome State Fault Refusal :=
  .next (settle (withMessage ctx 0x40 fenceCreateBody s))

/-- Create a proxy of a fence on another Proend. -/
def fenceImportBody (m : Msg) (s : State) : State :=
  match liveJob s m with
  | none => complete m 0x18 s
  | some j =>
    if 2 ^ 20 ≤ arg m.bytes 0 3 ∨ 8 ≤ arg m.bytes 6 1 then complete m 0x12 s
    else if ¬ fenceRoom s j then complete m 0x1A s
    else
      createObject m (some j) (.proxy { peer := arg m.bytes 0 3, index := arg m.bytes 3 2, generation := arg m.bytes 5 1
                                        vc := arg m.bytes 6 1 }) (fun _ => []) s

/-- FENCE_IMPORT. -/
def execFenceImport (ctx : Nat) (s : State) : Host.Outcome State Fault Refusal :=
  .next (settle (withMessage ctx 0x41 fenceImportBody s))

/-- Signal a fence, at once or once a slot is loaded, or send the signal of a proxy (R448, R450, R454); a fence that
is being destroyed is still signalled (R444). -/
def fenceSignalBody (m : Msg) (s : State) : State :=
  match headerObject s m isFenceOrProxy with
  | .error c => complete m c s
  | .ok o =>
      match o.data with
      | .proxy p => if o.destroying then complete m 0x17 s
        else complete m 0x00 (remoteSignal (o.job.getD 0) (msgObj m.bytes) p (arg m.bytes 0 8) s)
      | _ =>
        let i := msgObj m.bytes
        if i ∈ s.objects.resident ∨ s.objects.resident.length < 64 then complete m 0x00 (applySignal i (arg m.bytes 0 8) s)
        else keepRunning m (.fenceSignal i (arg m.bytes 0 8)) (touchFence i s)

/-- FENCE_SIGNAL. -/
def execFenceSignal (ctx : Nat) (s : State) : Host.Outcome State Fault Refusal :=
  .next (settle (withMessage ctx 0x42 fenceSignalBody s))

/-- Wait on a fence: an answer at once if it has reached the value or faulted (R449, R451). -/
def fenceWaitBody (m : Msg) (s : State) : State :=
  match headerObject s m isFence with
  | .error c => complete m c s
  | .ok o =>
    if o.destroying then complete m 0x17 s
    else keepRunning m (.fenceWait (msgObj m.bytes) (arg m.bytes 0 8)) (touchFence (msgObj m.bytes) s)

/-- FENCE_WAIT. -/
def execFenceWait (ctx : Nat) (s : State) : Host.Outcome State Fault Refusal :=
  .next (settle (withMessage ctx 0x43 fenceWaitBody s))

/-- The value and state of a fence (R437). -/
def fenceQueryBody (m : Msg) (s : State) : State :=
  match headerObject s m isFence with
  | .error c => complete m c s
  | .ok o =>
    if o.destroying then complete m 0x17 s
    else
      match o.data with
      | .fence f => completeResult m 0x00 (leBytes 8 f.value ++ leBytes 1 f.faulted.toNat) s
      | _ => complete m 0x14 s

/-- FENCE_QUERY. -/
def execFenceQuery (ctx : Nat) (s : State) : Host.Outcome State Fault Refusal :=
  .next (settle (withMessage ctx 0x44 fenceQueryBody s))

/-- A load of a slot that waited on an eviction proceeds: the eviction frees the slot, the oldest load takes it, and a
signal that it held back is applied (R448). -/
def evictionDone (i : Nat) (s : State) : State :=
  if i ∈ s.objects.evicting then
    let o := s.objects
    let rest := o.evicting.filter (· != i)
    let res := o.resident.filter (· != i)
    match o.loads with
    | [] => { s with objects := { o with evicting := rest, resident := res } }
    | n :: ls =>
      let s := { s with objects := { o with evicting := rest, resident := res ++ [n], loads := ls } }
      match s.running.find? fun r => match r.kind with | .fenceSignal k _ => k == n | _ => false with
      | some ⟨_, .fenceSignal k v⟩ => finish (.fenceSignal k v) 0x00 {} (applySignal k v s)
      | _ => s
  else s

/-- A host's fence wait with a timeout that is still running. -/
def hostWait (s : State) (ctx cookie : Nat) : Option Running :=
  s.running.find? fun r =>
    r.msg.ctx == some ctx && rd r.msg.bytes 8 8 == cookie && arg r.msg.bytes 8 4 != 0 &&
    (match r.kind with | .fenceWait _ _ => true | _ => false)

/-- A fence wait times out: a host's completes with 0x1D, a program's stops its program with 0x1D (R206, R452). -/
def waitTimeout (w : WaitRef) (s : State) : State :=
  match w with
  | .host ctx cookie =>
    match hostWait s ctx cookie with
    | none => s
    | some r => completeWith r.msg 0x1D { obj := msgObj r.msg.bytes, gen := msgGen r.msg.bytes } { s with running := s.running.erase r }
  | .program t =>
    match refOf s t with
    | none => s
    | some r =>
      if dOp r.d = 3 ∧ begun r.u t.desc ∧ ¬ (descAt r.u t.desc).retired ∧ rd r.d 32 4 ≠ 0 then programFault t 0x1D s else s

/-- FENCE_WAIT_TIMEOUT. -/
def execFenceWaitTimeout (wait : WaitRef) (s : State) : Host.Outcome State Fault Refusal :=
  .next (settle (waitTimeout wait s))

/-! ### Destruction (R442 to R446) -/

/-- Put an object into the destroying state; it is freed once idle. -/
def objectDestroyBody (m : Msg) (s : State) : State :=
  match headerObject s m (fun _ => true) with
  | .error c => complete m c s
  | .ok o =>
    let i := msgObj m.bytes
    if o.destroying then complete m 0x17 s
    else keepRunning m (.destroy i) (modObj i (fun o => { o with destroying := true }) s)

/-- OBJECT_DESTROY. -/
def execObjectDestroy (ctx : Nat) (s : State) : Host.Outcome State Fault Refusal :=
  .next (settle (withMessage ctx 0x4F objectDestroyBody s))

/-- The last reference of a destroying object or released tensor has gone: it is freed and its destroy completes
(R444). -/
def objectFree (o : ObjRef) (s : State) : State :=
  match o with
  | .object i => if objIdle s i ∧ ((objAt s i).map (·.destroying)).getD false then finish (.destroy i) 0x00 {} (releaseObject i s) else s
  | .tensor j i =>
    if (s.running.any fun r => r.kind == .tensorRelease j i) ∧ ¬ tensorNamed s j i then
      finish (.tensorRelease j i) 0x00 { tensor := i } (dropTensor j i s) else s

/-- OBJECT_FREE. -/
def execObjectFree (obj : ObjRef) (s : State) : Host.Outcome State Fault Refusal :=
  .next (settle (objectFree obj s))

/-! ### MESSAGE_WAIT_RELEASE (R431) -/

/-- The front message of a context is released by its wait fence, or dies with it. -/
def waitRelease (ctx : Nat) (s : State) : State :=
  match ((tget s.ctxs ctx).map (·.inbox)).getD [] with
  | [] => s
  | b :: rest =>
    if ¬ bit (msgFlags b) 1 then s
    else
      match waitState s b with
      | .hold => s
      | .dead => complete ⟨some ctx, b⟩ 0x1E (popInbox ctx s)
      | .go => { s with ctxs := tmod s.ctxs ctx fun c => { c with inbox := overlay b 3 (leBytes 1 (msgFlags b - 2)) :: rest } }

/-- MESSAGE_WAIT_RELEASE. -/
def execMessageWaitRelease (ctx : Nat) (s : State) : Host.Outcome State Fault Refusal :=
  .next (if alive s then settle (waitRelease ctx s) else s)

end Sys2Proof.Machine
end

