-- ==== Sys2Proof/Machine/TensorTable.lean ====
section
/-! DEFINITION. TENSOR_DEFINE and TENSOR_RELEASE (R195 to R200, R281, R288, R344, R442, R654). -/

namespace Sys2Proof.Machine

/-- Every field of a tensor descriptor lies in the range that R195 gives; a dynamic tensor names a history record, a static one none
(R197). -/
def fieldsInRange (b : Bytes) : Bool :=
  let r := tRank b
  tensorReserved b && tShard b ≤ 4 && 1 ≤ r && r ≤ 5 && tBase b % 64 == 0 && tBlockCode b ≤ 4 && tHistory b ≤ 14 && rd b 12 2 == 0 &&
  ((List.range 5).all fun i => if i < r then 1 ≤ tExt b i else tExt b i == 0) &&
  ((List.range 4).all fun i => i + 1 < r || tStride b (i + 1) == 0) &&
  (tDynamic b != (tRecord b == 0xFFFF)) &&
  (if tFixed b then tFixedScale b ≤ 0xFE && (!tBf16Scale b || 1 ≤ tFixedScale b) else tFixedScale b == 0)

/-- Logical-id conditions of R281 on a definition at an index. -/
def logicalOk (b : Job) (i : Nat) (raw : Bytes) : Bool :=
  let id := tLogical raw
  let others := b.tensors.filter fun p => p.1 != i
  let namedAsScale := others.any fun p => tScaleTensor p.2.raw == i
  (id == 0 || (tParent raw == 0xFFFF && !namedAsScale && !(others.any fun p => tLogical p.2.raw == id))) &&
  (match tget b.tensors (tScaleTensor raw) with
   | some e => tLogical e.raw == 0
   | none => true)

/-- With the definition in place, the scale tensors have one root each (R198). -/
def scaleRootsOk (ts : Tab TensorE) : Bool :=
  ts.all fun p => tScaleTensor p.2.raw == 0xFFFF ||
    ts.all fun q => tScaleTensor q.2.raw != tScaleTensor p.2.raw || parentRoot ts ts.length q.1 == parentRoot ts ts.length p.1

/-- A role-3 tensor begins at a window page and shares none with another tensor (R344); and no other tensor enters the
pages of one. -/
def gradientOk (b : Job) (i : Nat) (raw : Bytes) : Bool :=
  let ts := tset b.tensors i { raw }
  let pages := fun (k : Nat) => (byteRange ts 0 0 k).flatMap pagesOf
  let role3 := fun (x : Bytes) => tLogical x != 0 && tLogical x % 16 == 3
  let mine := pages i
  (!role3 raw || (2 ^ 39 ≤ tBase raw && tBase raw % 2 ^ 20 == 0)) &&
  (b.tensors.all fun p =>
    p.1 == i || !(role3 raw || role3 p.2.raw) || tParent p.2.raw == i || tParent raw == p.1 ||
    !((pages p.1).any mine.contains))

/-- Shared-pool units of a tensor's state header entries (R287, R653): views have those of their root. -/
def headerUnits (raw : Bytes) : Nat :=
  if fmtOf (tFmt raw) = some .m48 ∧ tParent raw = 0xFFFF then ceilDiv (16 * pageCount (tExts raw)) 64 else 0

/-- Every view of an 8-bit tensor meets R196, those of an entry that is defined anew among them. -/
def viewsOk (b : Job) : Bool := b.tensors.all fun p => viewOk b p.2.raw

/-- A queued TENSOR_RELEASE names an entry (R200). -/
def releaseQueued (s : State) (b : Job) (i : Nat) : Bool :=
  s.ctxs.any fun c => c.2.inbox.any fun m => msgJob m == b.id && msgType m == 0x21 && arg m 0 2 == i

/-- The table of R654 in its order. -/
def defineCheck (s : State) (j : Nat) (b : Job) (i : Nat) (raw : Bytes) : Option Nat :=
  if i ≠ 0xFFFF ∧ (tensorNamed s j i ∨ releaseQueued s b i) then some 0x1B
  else if i = 0xFFFF ∨ ¬ fieldsInRange raw ∨ ¬ logicalOk b i raw ∨ ¬ scaleRootsOk (tset b.tensors i { raw }) ∨
      ¬ viewsOk { b with tensors := tset b.tensors i { raw } } ∨ ¬ gradientOk b i raw then some 0x12
  else
    let old := ((tget b.tensors i).map (·.units)).getD 0
    if poolSize b < poolUsed s j - old + headerUnits raw then some 0x1A else none

/-- Define a tensor (R197, R288, R344). -/
def defineTensor (j i : Nat) (raw : Bytes) (s : State) : State :=
  let s := dropTensor j i s
  let s := modJob j (fun b => { b with
    tensors := tset b.tensors i { raw, units := headerUnits raw }
    hist := if tDynamic raw ∧ tRecord raw ≠ 0xFFFF then
        tset b.hist (tRecord raw) (freshRecord (tScaleBits raw) (if tHistory raw = 0 then b.cfg.history else tHistory raw)
          (if tMarginSet raw then tMargin raw else b.cfg.margin))
      else b.hist }) s
  if tLogical raw ≠ 0 ∧ tLogical raw % 16 = 3 then
    match tget s.jobs j with
    | none => s
    | some b => ((byteRange b.tensors 0 0 i).flatMap pagesOf).foldl
        (fun t p => modDir j p (fun e => { e with gradient := true }) t) s
  else s

/-- TENSOR_DEFINE on a live job. -/
def tensorDefineBody (m : Msg) (s : State) : State :=
  match liveJob s m with
  | none => complete m 0x18 s
  | some j =>
    let b := (tget s.jobs j).getD { id := 0 }
    let i := arg m.bytes 0 2
    let raw := msgBody m.bytes
    if raw.length ≠ 64 then complete m 0x12 s
    else
      match defineCheck s j b i raw with
      | some c => complete m c s
      | none => complete m 0x00 (defineTensor j i raw s)

/-- TENSOR_DEFINE. -/
def execTensorDefine (ctx : Nat) (s : State) : Host.Outcome State Fault Refusal :=
  .next (settle (withMessage ctx 0x20 tensorDefineBody s))

/-- TENSOR_RELEASE completes once nothing names the entry (R442). -/
def tensorReleaseBody (m : Msg) (s : State) : State :=
  match liveJob s m with
  | none => complete m 0x18 s
  | some j =>
    let i := arg m.bytes 0 2
    if i = 0xFFFF then complete m 0x12 s
    else if (tensorAt s j i).isNone then complete m 0x14 s
    else if s.running.any fun r => r.kind == .tensorRelease j i then complete m 0x17 s
    else keepRunning m (.tensorRelease j i) s

/-- TENSOR_RELEASE. -/
def execTensorRelease (ctx : Nat) (s : State) : Host.Outcome State Fault Refusal :=
  .next (settle (withMessage ctx 0x21 tensorReleaseBody s))

end Sys2Proof.Machine
end

