-- ==== Sys2Proof/Machine/Control.lean ====
section
/-! DEFINITION. Submission, abort, the control descriptors, spans, bubble windows and task boundaries (R21, R62 to R77,
R162, R165 to R181, R186 to R212, R661). -/

namespace Sys2Proof.Machine

/-! ### PROGRAM_SUBMIT and PROGRAM_ABORT -/

/-- The spans of an accepted program (R204). -/
def Prog.spans (p : Prog) : List (Nat × Nat × Nat) :=
  match spanList p.ds with
  | .ok l => l
  | .error _ => []

/-- The program as it will run: its copy and its spans (R188, R204). -/
def newSub (prog gen : Nat) (p : Prog) : Sub :=
  { prog, generation := gen, hdr := p.hdr, descs := p.ds, maps := p.maps
    spans := (Prog.spans p).map fun x =>
      { id := x.1, first := x.2.1, last := x.2.2
        base := baseRung p.job ((p.ds.drop x.2.1).take (x.2.2 + 1 - x.2.1))
        rung := baseRung p.job ((p.ds.drop x.2.1).take (x.2.2 + 1 - x.2.1)) } }

/-- The peers of the sends and receives of a program (R382). -/
def sendPeers (ds : List Bytes) : List Nat :=
  ds.filterMap fun d => if rd d 0 2 = 0x24 ∨ rd d 0 2 = 0x25 then some (rd d 28 3 % 2 ^ 20) else none

/-- The job awaits a restore (R536). -/
def awaitsRestore (b : Job) : Bool := match b.restore with | none => false | some r => !r.imported

/-- Accept a program or refuse it (R212, R222, R444). -/
def submitBody (m : Msg) (s : State) : State :=
  match headerObject s m isProgram with
  | .error c => complete m c s
  | .ok o =>
    if o.destroying then complete m 0x17 s
    else
      match o.job, o.data with
      | some j, .program off len =>
        match tget s.jobs j with
        | none => complete m 0x18 s
        | some b =>
          if b.fault.isSome ∨ awaitsRestore b then complete m 0x18 s
          else
            match submitCheck s j off len with
            | .error r => completeWith m r.status
                { obj := msgObj m.bytes, gen := msgGen m.bytes, desc := r.desc, tensor := r.tensor } s
            | .ok p =>
              keepRunning m (.submit j b.nextSub) (modJob j (fun b => { b with
                subs := tset b.subs b.nextSub (newSub (msgObj m.bytes) (msgGen m.bytes) p)
                peers := (b.peers ++ sendPeers p.ds).eraseDups
                nextSub := b.nextSub + 1 }) s)
      | _, _ => complete m 0x14 s

/-- PROGRAM_SUBMIT. -/
def execProgramSubmit (ctx : Nat) (s : State) : Host.Outcome State Fault Refusal :=
  .next (settle (withMessage ctx 0x31 submitBody s))

/-- Stop every submission of a program with 0x1F (R661). -/
def abortBody (m : Msg) (s : State) : State :=
  match headerObject s m isProgram with
  | .error c => complete m c s
  | .ok o =>
    let j := o.job.getD 0
    let i := msgObj m.bytes
    keepRunning m (.abort j i) (modJob j (fun b => { b with
      subs := b.subs.map fun u => (u.1, if u.2.prog = i then stopSub 0x1F 0xFFFF u.2 else u.2) }) s)

/-- PROGRAM_ABORT. -/
def execProgramAbort (ctx : Nat) (s : State) : Host.Outcome State Fault Refusal :=
  .next (settle (withMessage ctx 0x32 abortBody s))

/-! ### Control descriptors -/

/-- A descriptor starts: its span's run begins with it. -/
def enterSpan (t : TaskRef) (r : Ref) (s : State) : State :=
  match spanPos r.u t.desc with
  | none => s
  | some k => beginSpan t.job t.sub k s

/-- Run a descriptor of an opcode that may start. -/
def withDesc (t : TaskRef) (op : Nat) (body : Ref → State → State) (s : State) : State :=
  match refOf s t with
  | none => s
  | some r =>
    if dOp r.d = op ∧ mayStart s r then
      let s := enterSpan t r s
      match refOf s t with
      | none => s
      | some r => body r s
    else s

/-- NOP: retires at once. -/
def execNop (t : TaskRef) (s : State) : Host.Outcome State Fault Refusal :=
  .next (settle (withDesc t 0 (fun _ s => retire t s) s))

/-- SPAN_BEGIN: retires once its span may begin (R167). -/
def execSpanBegin (t : TaskRef) (s : State) : Host.Outcome State Fault Refusal :=
  .next (settle (withDesc t 1 (fun _ s => retire t s) s))

/-- SPAN_END: retires when the span has committed (R205). -/
def execSpanEnd (t : TaskRef) (s : State) : Host.Outcome State Fault Refusal :=
  .next (settle (withDesc t 2 (fun r s =>
    match (spanPos r.u t.desc).bind fun k => spanAt r.u k with
    | some x => if x.committed then retire t s else s
    | none => s) s))

/-- FENCE_WAIT_DESCRIPTOR: retires when the fence has reached the value; a faulted one stops the program (R206). -/
def fenceWaitDesc (r : Ref) (s : State) : State := touchFence (rd r.d 16 2) (setRunning r 0 s)

/-- FENCE_WAIT_DESCRIPTOR. -/
def execFenceWaitDescriptor (t : TaskRef) (s : State) : Host.Outcome State Fault Refusal :=
  .next (settle (withDesc t 3 fenceWaitDesc s))

/-- FENCE_SIGNAL_DESCRIPTOR: outside a span it takes effect now, inside one at the commit (R207). -/
def fenceSignalDesc (t : TaskRef) (r : Ref) (s : State) : State :=
  match spanPos r.u t.desc with
  | some _ => retire t s
  | none => retire t (signalDesc t.job r.d s)

/-- FENCE_SIGNAL_DESCRIPTOR. -/
def execFenceSignalDescriptor (t : TaskRef) (s : State) : Host.Outcome State Fault Refusal :=
  .next (settle (withDesc t 4 (fenceSignalDesc t) s))

/-- A hint is in force (R552): until its time after the descriptor it names begins, or 1 ms after it was taken. -/
def hintInForce (s : State) (h : Hint) : Bool :=
  match getSub s h.task.job h.task.sub with
  | none => false
  | some u =>
    if begun u (h.task.desc + h.lead) then
      decide (s.timeNs < (descAt u (h.task.desc + h.lead)).start + 1000 * h.duration)
    else decide (s.timeNs < h.taken + 1000000)

/-- Take a phase hint, or ignore and count it (R552). -/
def takeHint (t : TaskRef) (d : Bytes) (s : State) : State :=
  let p := partOf t.job
  let live := s.power.hints.filter (hintInForce s)
  if s.config.image.power.hints ∧ (live.filter fun h => h.partition == p).length < 16 then
    { s with power := { s.power with hints := live ++ [⟨p, t, rd d 16 2, rd d 18 1, rd d 20 4, s.timeNs⟩] } }
  else { s with power := { s.power with hints := live, hintsIgnored := tset s.power.hintsIgnored t.job (tgetD s.power.hintsIgnored t.job 0 + 1) } }

/-- PHASE_HINT: changes grants only (R208). -/
def execPhaseHint (t : TaskRef) (s : State) : Host.Outcome State Fault Refusal :=
  .next (settle (withDesc t 5 (fun r s => retire t (takeHint t r.d s)) s))

/-! ### Bubble windows (R209 to R211, R275 to R279) -/

/-- Change the windows of a partition. -/
def modBubbles (p : Nat) (f : Bubbles → Bubbles) (s : State) : State :=
  { s with bubbles := tset s.bubbles p (f (tgetD s.bubbles p {})) }

/-- Open a window on the blocks of its rectangle that lie in the partition (log 96): one shorter than 20 µs lends no block and is counted
unused (R210). -/
def openBubble (t : TaskRef) (d : Bytes) (s : State) : State :=
  let p := partOf t.job
  let c := partCfg s t.job
  let blocks := ((List.range (rd d 19 1)).flatMap fun r => (List.range (rd d 18 1)).map fun k =>
    (c.row0 + rd d 17 1 + r) * 20 + c.col0 + rd d 16 1 + k).filter (partBlocks c).contains
  modBubbles p (fun x =>
    if rd d 20 4 < 20 then { x with unused := x.unused + 1 }
    else { x with windows := x.windows ++ [{ number := x.next, task := t, blocks }], next := x.next + 1 }) s

/-- BUBBLE_OPEN: takes effect when its dependencies have retired, inside a span at the commit (R209, R276). -/
def bubbleOpen (t : TaskRef) (r : Ref) (s : State) : State :=
  match spanPos r.u t.desc with
  | some _ => retire t s
  | none => retire t (openBubble t r.d s)

/-- BUBBLE_OPEN. -/
def execBubbleOpen (t : TaskRef) (s : State) : Host.Outcome State Fault Refusal :=
  .next (settle (withDesc t 6 (bubbleOpen t) s))

/-- What step 4 of R77 loads for a job. -/
def coreJob (s : State) (j : Nat) : Option CoreJob := (tget s.jobs j).map fun b => ⟨j, b.keys.anchor, b.keys.newest, b.carve⟩

/-- A core after steps 2 to 4 of R77: tile store, accumulators, threads, L1 and predictor are cleared (R69), and the incoming job's key
ids and bounds are loaded; the sticky flags, the instruction cache and the derate stay. -/
def switchCore (loaded : Option CoreJob) (c : CoreSt) : CoreSt :=
  { icache := c.icache, lost := c.lost, flags := c.flags, gapFlags := c.gapFlags, derate := c.derate, loaded }

/-- The block switch of R77 to a job, on every core of the block. -/
def blockSwitch (block j : Nat) (s : State) : State :=
  (blockCores block).foldl (fun t c => modCore c (switchCore (coreJob s j)) t) s

/-- Step 1 of R77: no task of the outgoing job is on a core of the block, and its write-backs are acknowledged. -/
def blockBusy (s : State) (j block : Nat) : Bool :=
  onThread s (fun c => coreBlock c == block) (fun t => t.job == j) ||
  s.cores.any fun c => coreBlock c.1 == block && !c.2.unacked.isEmpty

/-- A block of an open window passes to the gap job once every primary task on its cores is at its boundary. -/
def blockLend (p block : Nat) (s : State) : State :=
  let x := tgetD s.bubbles p {}
  if x.lent.contains block ∨ blockBusy s (2 * p) block then s
  else
    match x.windows.find? fun w => w.blocks.contains block with
    | none => s
    | some w =>
      blockSwitch block (2 * p + 1) (modBubbles p (fun x => { x with
        lent := x.lent ++ [block]
        opened := if w.lentAny then x.opened else x.opened + 1
        windows := x.windows.map fun v => if v.number = w.number then { v with lentAny := true } else v }) s)

/-- BLOCK_LEND. -/
def execBlockLend (partition block : Nat) (s : State) : Host.Outcome State Fault Refusal :=
  .next (if alive s then settle (blockLend partition block s) else s)

/-- A window closes at its announced time (R21, R275): gap tasks on its blocks stop at their next boundary. -/
def windowClose (p n : Nat) (s : State) : State :=
  modBubbles p (fun x => { x with windows := x.windows.filter fun w => w.number != n }) s

/-- BUBBLE_WINDOW_CLOSE. -/
def execBubbleWindowClose (partition window : Nat) (s : State) : Host.Outcome State Fault Refusal :=
  .next (if alive s then windowClose partition window s else s)

/-- A lent block that no open window covers returns to the primary job once the gap job's tasks on its cores are at their boundary
(R21, R77). -/
def blockReturn (p block : Nat) (s : State) : State :=
  let x := tgetD s.bubbles p {}
  if ¬ x.lent.contains block ∨ (x.windows.any fun w => w.blocks.contains block) ∨ blockBusy s (2 * p + 1) block then s
  else
    blockSwitch block (2 * p) (modBubbles p (fun x => { x with lent := x.lent.filter (· != block) }) s)

/-- A primary descriptor waits for a lent block that no open window covers any more (R279). -/
def primaryWaits (s : State) (p : Nat) (late : List Nat) : Bool :=
  match tget s.jobs (2 * p) with
  | none => false
  | some b => b.phase == .keyed && b.fault.isNone && b.subs.any fun u =>
      u.2.stop.isNone && u.2.descs.zipIdx.any fun d =>
        !begun u.2 d.2 && decide (0x10 ≤ dOp d.1) && depsMet u.2 d.2 d.1 &&
        (mapBlocks (partCfg s (2 * p)) (u.2.maps.getD (dMap d.1) [])).any late.contains

/-- What the books of R279 gain in one period of 10 ns, each summed over blocks but the delay. -/
def bubbleTick (s : State) : State :=
  { s with bubbles := s.bubbles.map fun (e : Nat × Bubbles) =>
      let x := e.2
      let late := x.lent.filter fun k => !(x.windows.any fun w => w.blocks.contains k)
      let busy := x.lent.filter (blockBusy s (2 * e.1 + 1))
      let waits : Bool := !late.isEmpty && primaryWaits s e.1 late
      (e.1, { x with
        lentNs := x.lentNs + 10 * x.lent.length
        gapNs := x.gapNs + 10 * busy.length
        delayNs := if waits then x.delayNs + 10 else x.delayNs }) }

/-- BLOCK_RETURN. -/
def execBlockReturn (partition block : Nat) (s : State) : Host.Outcome State Fault Refusal :=
  .next (if alive s then settle (blockReturn partition block s) else s)

/-! ### Commit, discard, rerun -/

/-- The position of the span with an id. -/
def posOfSpan (u : Sub) (id : Nat) : Option Nat := (u.spans.zipIdx.find? fun x => x.1.id == id).map (·.2)

/-- The span may commit (R170). -/
def maySpanCommit (u : Sub) (pos : Nat) (x : SpanSt) : Bool :=
  u.stop.isNone && !x.committed && x.failures.isEmpty && !x.discarded &&
  (u.spans.take pos).all (·.committed) &&
  (List.range (x.last - x.first)).all fun i => (descAt u (x.first + i)).retired

/-- No task of the span at a position or of a younger one is on a thread (R171). -/
def spanIdle (s : State) (j k : Nat) (u : Sub) (pos : Nat) : Bool :=
  !(onThread s (fun _ => true) fun t => t.job == j && t.sub == k &&
    match spanPos u t.desc with | none => false | some n => decide (pos ≤ n))

/-- The replica-mismatch event of a digest (R256, R658). -/
def mismatchEvent (j : Nat) (prog : Nat) (t1 : Nat) (s : State) : State :=
  let raw := ((tensorAt s j t1).map (·.raw)).getD []
  jobEvent j 0x05 (timed s (leBytes 4 (tLogical raw) ++ leBytes 3 (tOrigin raw) ++ leBytes 1 (tShard raw) ++
    leBytes 2 t1 ++ leBytes 2 prog)) s

/-- What the commit of a span does (R156, R159, R170, R207, R256, R267, R268, R276): its log entry, statistics, maxima, local
signals, windows and events take effect, in descriptor order. -/
def commitEffect (j k pos : Nat) (b : Job) (u : Sub) (x : SpanSt) (n : NumState) (s : State) : State :=
  let s := modNum j (fun _ => { n with maxima := mergeMaxima n.maxima x.maxima }) s
  let s := modSpan j k pos (fun x => { x with committed := true }) s
  let s := modJob j (fun b => { b with gathers := b.gathers.filter fun g =>
    !(g.master && g.task.sub == k && decide (x.first ≤ g.task.desc) && decide (g.task.desc ≤ x.last)) }) s
  let s := x.stats.foldl (fun t r => applyStores j (storeRecord b u r.1 r.2) t) s
  let s := (List.range (x.last - x.first)).foldl (fun t i =>
    let d := u.descs.getD (x.first + i) []
    if dOp d = 4 then signalDesc j d t
    else if dOp d = 6 then openBubble ⟨j, k, x.first + i⟩ d t else t) s
  let s := x.mismatches.foldl (fun t i => mismatchEvent j u.prog i t) s
  let s := dropStaged ⟨j, k, x.last⟩ s
  match refOf s ⟨j, k, x.last⟩ with
  | some r => if depsMet r.u x.last r.d then retire ⟨j, k, x.last⟩ s else s
  | none => s

/-- The log entry of a committing span, as the job's numerics hold it then; none where the log is full (R156). -/
def commitLog (b : Job) (u : Sub) (x : SpanSt) : Option NumState :=
  if x.recompute.isSome ∨ subSlot u = 0xFF then some b.num else logCommit b (subSlot u) x

/-- The commit of a span that may commit. -/
def commitSpan (j k pos : Nat) (s : State) : State :=
  match tget s.jobs j, getSub s j k with
  | some b, some u =>
    match spanAt u pos with
    | none => s
    | some x =>
      if ¬ maySpanCommit u pos x then s
      else
        match commitLog b u x with
        | none => jobFault j 0x66 x.last { prog := u.prog } s
        | some n =>
          commitEffect j k pos b u x n s
  | _, _ => s

/-- Run on the span of a submission with an id. -/
def withSpan (j k id : Nat) (f : Nat → State → State) (s : State) : State :=
  if ¬ alive s then s
  else
    match (getSub s j k).bind fun u => posOfSpan u id with
    | none => s
    | some pos => f pos s

/-- A failed span is discarded, and its promotion entered, once no task of it or of a younger open span runs (R171). -/
def discardSpan (j k pos : Nat) (s : State) : State :=
  match getSub s j k with
  | none => s
  | some u =>
    match spanAt u pos with
    | none => s
    | some x =>
      if ¬ x.failures.isEmpty ∧ ¬ x.committed ∧ ¬ x.discarded ∧ spanIdle s j k u pos then
        enterPromotion j k pos (modSub j k (discardFrom pos) s)
      else s

/-- SPAN_DISCARD. -/
def execSpanDiscard (job sub span : Nat) (s : State) : Host.Outcome State Fault Refusal :=
  .next (settle (withSpan job sub span (discardSpan job sub) s))

/-- Bytes of promoted operands of a span at a rung (R177). -/
def promotedBytes (b : Job) (u : Sub) (x : SpanSt) (rung : Nat) : Nat :=
  if rung ≤ x.base then 0
  else
    ((u.descs.drop x.first).take (x.last - x.first)).foldl (fun a d =>
      let ops := if dOp d = 0x10 then [1, 2] else if dOp d = 0x14 then [1, 2, 3] else []
      ops.foldl (fun a i => a + (match tget b.tensors (dT d i) with
        | some e => product (tExts e.raw) * (if rung = 1 then 2 else 4)
        | none => 0)) a) 0

/-- Promotion area in use by other reruns (R177). -/
def promotionUsed (b : Job) (k pos : Nat) : Nat :=
  b.subs.foldl (fun a u => (u.2.spans.zipIdx).foldl (fun a x =>
    if x.1.committed ∨ x.1.discarded ∨ x.1.attempt = 0 ∨ (u.1 = k ∧ x.2 = pos) then a
    else a + promotedBytes b u.2 x.1 x.1.rung) a) 0

/-- A discarded span reruns by the ladder, once no capture barrier holds it (R174) and the promotion area has room
(R177). -/
def rerunSpan (j k pos : Nat) (s : State) : State :=
  match tget s.jobs j, getSub s j k with
  | some b, some u =>
    match spanAt u pos with
    | none => s
    | some x =>
      let used := promotionUsed b k pos
      if ¬ x.discarded ∨ x.failures.isEmpty ∨ b.capture.phase = .entered ∨ u.stop.isSome then s
      else if 0 < used ∧ b.cfg.promotionGib * 2 ^ 30 < used + promotedBytes b u x (x.rung + 1) then s
      else ladder j k pos s
  | _, _ => s

/-- SPAN_RERUN. -/
def execSpanRerun (job sub span : Nat) (s : State) : Host.Outcome State Fault Refusal :=
  .next (settle (withSpan job sub span (rerunSpan job sub) s))

end Sys2Proof.Machine
end

