-- ==== Sys2Proof/Machine/Saddle.lean ====
section
/-! DEFINITION. Saddle gathers (R18, R90, R91, R242 to R244, R404) and the master shards of promoted weights (R176,
R297). -/

namespace Sys2Proof.Machine

/-! ### A tensor as bytes: its stored elements in element order, then its scale tensor's (R243, R259, log 25) -/

/-- Extents of a tensor's block scales. -/
def scaleExt (v : TV) : List Nat :=
  match v.ext with
  | [] => []
  | e :: es => ceilDiv e v.block :: es

/-- Bytes of one block scale. -/
def scaleSize (v : TV) : Nat := if v.bf16 then 2 else 1

/-- Bytes of the elements. -/
def elementBytes (v : TV) : Nat := v.count * fmtBytes v.fmt

/-- Bytes of a tensor with its scales. -/
def tensorBytes (v : TV) : Nat := elementBytes v + (if is8 v.fmt then product (scaleExt v) * scaleSize v else 0)

/-- The job offset of byte `o` of a tensor, each index passed through a shift: that of elements, that of scales. -/
def byteAt (v : TV) (ext scExt : List Nat) (shiftE shiftS : List Nat → List Nat) (elems o : Nat) : Nat :=
  let eb := fmtBytes v.fmt
  if o < elems * eb then elemAddr v (shiftE (indexOf ext (o / eb))) + o % eb
  else
    let o := o - elems * eb
    v.scaleBase + dotIdx (shiftS (indexOf scExt (o / scaleSize v))) v.scaleStride + o % scaleSize v

/-- The job offset of byte `o` of a tensor. -/
def byteAddr (v : TV) (o : Nat) : Nat := byteAt v v.ext (scaleExt v) id id v.count o

/-- Bytes `o` to `o + n - 1` of a tensor. -/
def tensorSlice (m : Src) (v : TV) (o n : Nat) : Bytes := (List.range n).map fun i => m (byteAddr v (o + i))

/-- An index moved along a dimension. -/
def moveIx (sd off : Nat) (ix : List Nat) : List Nat := ix.zipIdx.map fun x => if x.2 = sd then x.1 + off else x.1

/-- The job offset in a concatenation of byte `o` of the shard at a rank (R243, R394). -/
def shardAddr (t0 shard : TV) (sd rank o : Nat) : Nat :=
  let e := shard.ext.getD sd 1
  byteAt t0 shard.ext (scaleExt shard) (moveIx sd (rank * e))
    (moveIx sd (if sd = 0 then rank * e / shard.block else rank * e)) shard.count o

/-- Bytes with their offsets, as runs of consecutive offsets. -/
def coalesce : List (Nat × Byte) → List (Nat × Bytes)
  | [] => []
  | (a, b) :: rest =>
    match coalesce rest with
    | (c, bs) :: more => if a + 1 = c then (a, b :: bs) :: more else (a, [b]) :: (c, bs) :: more
    | [] => [(a, [b])]

/-! ### Groups -/

/-- The group that a descriptor names, if its generation is the object's (R220 code 0x67). -/
def groupOf (s : State) (d : Bytes) : Option Group :=
  match objAt s (rd d 28 2) with
  | some { data := .group g, .. } => if genOf s (rd d 28 2) = rd d 30 1 then some g else none
  | _ => none

/-! ### Staging lines (R90, R91) -/

/-- Staging ways in use in a set. -/
def stagedWays (s : State) (slice set : Nat) : Nat :=
  ((List.range 16).filter fun w => ((tget s.cache.lines (wayKey slice set w)).bind (·.staged)).isSome).length

/-- Write bytes of one line into staging for a gather; false where its set has no staging way left. -/
def stageLine (t : TaskRef) (j line mask : Nat) (data : Bytes) (s : State) : State × Bool :=
  let slice := sliceOf s j (line * 256)
  let set := setOf line
  let put := fun (w : Nat) (old : Bytes) (valid : Nat) (s : State) =>
    (touchWay slice set w (setWay (wayKey slice set w)
      (some ⟨j, line, mergeMask old mask data, valid ||| mask, false, some t⟩) s), true)
  match findWay s.cache slice j line with
  | some w =>
    match tget s.cache.lines (wayKey slice set w) with
    | none => (s, true)
    | some x =>
      if x.staged.isSome then put w x.data x.valid s
      else if 8 ≤ stagedWays s slice set then (s, false)
      else put w x.data x.valid (writeBack x s)
  | none =>
    if 8 ≤ stagedWays s slice set then (s, false)
    else
      let a := allocWay slice set s
      put a.1 (zeros 256) 0 a.2

/-- Write bytes at a job offset into staging: fuel; the bytes that found no way come back. -/
def stageBytes (t : TaskRef) (j : Nat) : Nat → Nat → Bytes → State → State × Option (Nat × Bytes)
  | 0, _, _, s => (s, none)
  | _ + 1, _, [], s => (s, none)
  | k + 1, off, b, s =>
    let i := off % 256
    let n := min (256 - i) b.length
    let r := stageLine t j (off / 256) (maskOf i n) (zeros i ++ b.take n) s
    if r.2 then stageBytes t j k (off + n) (b.drop n) r.1
    else
      let key := sliceOf s j off * 64 + setOf (off / 256)
      let held := tgetD s.cache.holds key []
      ({ r.1 with cache := { r.1.cache with
          holds := if held.contains t then r.1.cache.holds else tset r.1.cache.holds key (held ++ [t]) } }, some (off, b))

/-! ### A gather in progress -/

/-- Change the gather of a descriptor. -/
def modGather (t : TaskRef) (master : Bool) (f : Gather → Gather) (s : State) : State :=
  modJob t.job (fun b => { b with gathers := b.gathers.map fun g =>
    if g.task = t ∧ g.master = master then f g else g }) s

/-- The gather of a descriptor. -/
def gatherAt (s : State) (t : TaskRef) (master : Bool) : Option Gather :=
  (tget s.jobs t.job).bind fun b => b.gathers.find? fun g => g.task == t && g.master == master

/-- Everything that a gather waits for has come. -/
def gatherWhole (g : Gather) : Bool := (g.left.all fun p => p.2 == 0) && g.waiting.isEmpty

/-- Gathers in flight on the Proend (R404). -/
def gathersInFlight (s : State) : Nat :=
  s.jobs.foldl (fun a b => a + (b.2.gathers.filter fun g => !gatherWhole g).length) 0

/-- A transfer tag that no gather of the job uses. -/
def freeTag (b : Job) : Nat :=
  ((List.range (b.gathers.length + 1)).find? fun i => !(b.gathers.any fun g => g.tag == i)).getD 0

/-- Ask a peer for more of its shard, up to 8 requests of 256 KiB (R404): fuel. -/
def askPeer (t : TaskRef) (master : Bool) (rank : Nat) : Nat → State → State
  | 0, s => s
  | k + 1, s =>
    match gatherAt s t master with
    | none => s
    | some g =>
      let next := tgetD g.next rank 0
      let out := tgetD g.outstanding rank 0
      if g.size ≤ next ∨ 8 ≤ out then s
      else
        let n := min 262144 (g.size - next)
        let s := modGather t master (fun g => { g with
          next := tset g.next rank (next + n), outstanding := tset g.outstanding rank (out + 1) }) s
        askPeer t master rank k (sendOrFault t.job
          { typ := 4, vc := 0, dst := g.members.getD rank 0, tag := g.tag
            payload := leBytes 4 g.logical ++ leBytes 4 n ++ leBytes 8 next } s)

/-- Begin a gather: shards of a size from every other member. -/
def beginGather (t : TaskRef) (master : Bool) (grp : Group) (logical size : Nat) (s : State) : State :=
  match tget s.jobs t.job with
  | none => s
  | some b =>
    let ranks := (List.range grp.members.length).filter (· != grp.rank)
    let g : Gather := { task := t, members := grp.members, rank := grp.rank, logical, tag := freeTag b, size, master
                        left := ranks.map fun q => (q, size) }
    let s := modJob t.job (fun b => { b with gathers := b.gathers ++ [g] }) s
    ranks.foldl (fun s q => askPeer t master q 8 s) s

/-- The views of a gather's destination and of this Proend's shard, with its shard dimension. -/
def gatherViews (r : Ref) : TV × TV × Nat :=
  (r.slotView 0, r.slotView 1, tShard (((tget r.b.tensors (dT r.d 1)).map (·.raw)).getD []))

/-- Place bytes of a shard in the destination: in staging lines or in Vale (R243, R244). -/
def placeShard (r : Ref) (rank o : Nat) (data : Bytes) (s : State) : State :=
  let v := gatherViews r
  let runs := coalesce ((data.zipIdx).map fun x => (shardAddr v.1 v.2.1 v.2.2 rank (o + x.2), x.1))
  runs.foldl (fun s x =>
    if rd r.d 31 1 = 1 then engineWrite r.t.job x.1 x.2 s
    else
      match stageBytes r.t r.t.job (x.2.length / 256 + 3) x.1 x.2 s with
      | (s, none) => s
      | (s, some w) => modGather r.t false (fun g => { g with waiting := g.waiting ++ [(rank, w.1, w.2)] }) s) s

/-- A gather whose bytes are all placed retires: the mask of its destination takes every shard's (R243, R46), and the write has its
statistics record and step maximum (R156, R158). -/
def gatherDone (r : Ref) (s : State) : State :=
  match gatherAt s r.t false with
  | none => s
  | some g =>
    if gatherWhole g then
      let s := orMask r.t.job (dT r.d 0) (g.mask ||| ownerMask s r.t.job (dT r.d 1)) s
      let s := noteWrite r (r.slotView 0) (placedSum s r.t.job (r.slotView 0)) s
      let s := modJob r.t.job (fun b => { b with gathers := b.gathers.filter fun x => !(x.task == r.t && !x.master) }) s
      retire r.t s
    else s

/-- Start a Saddle gather (R243, R404): this Proend's own shard is copied, the others are asked for. -/
def saddleGather (r : Ref) (s : State) : State :=
  match groupOf s r.d with
  | none => programFault r.t 0x67 s
  | some grp =>
    let v := gatherViews r
    let e := ensurePages r s
    if ¬ e.2 ∨ 64 ≤ gathersInFlight s then e.1
    else if (badRead r e.1).isSome then lineFails ((badRead r e.1).getD 0) 0 (some r.t) e.1
    else
      let size := tensorBytes v.2.1
      let own := tensorSlice (srcOf e.1 r.t.job) v.2.1 0 size
      let logical := tLogical (((tget r.b.tensors (dT r.d 1)).map (·.raw)).getD [])
      let s := beginGather r.t false grp logical size (setRunning r 0 e.1)
      gatherDone r (placeShard r grp.rank 0 own s)

/-- SADDLE_GATHER. -/
def execSaddleGather (t : TaskRef) (s : State) : Host.Outcome State Fault Refusal :=
  .next (settle (withDesc t 0x20 saddleGather s))

/-- The bytes that a gather holds back for want of a staging way go on (R91). -/
def resumeGather (t : TaskRef) (s : State) : State :=
  match refOf s t, gatherAt s t false with
  | some r, some g =>
    let s := modGather t false (fun g => { g with waiting := [] }) s
    let s := g.waiting.foldl (fun s w =>
      match stageBytes t t.job (w.2.2.length / 256 + 3) w.2.1 w.2.2 s with
      | (s, none) => s
      | (s, some x) => modGather t false (fun g => { g with waiting := g.waiting ++ [(w.1, x.1, x.2)] }) s) s
    gatherDone r s
  | _, _ => s

/-- The gathers that a set's staging ways hold, once a way is free. -/
def stagingResume (slice set : Nat) (s : State) : State :=
  if 8 ≤ stagedWays s slice set then s
  else
    let key := slice * 64 + set
    let held := tgetD s.cache.holds key []
    held.foldl (fun s t => resumeGather t s) { s with cache := { s.cache with holds := terase s.cache.holds key } }

/-- SADDLE_STAGING_RESUME. -/
def execSaddleStagingResume (slice set : Nat) (s : State) : Host.Outcome State Fault Refusal :=
  .next (if alive s then settle (stagingResume slice set s) else s)

/-- Read data of a shard arrive (R243, R404): bytes of a gather's destination or of a master shard. -/
def readDataArrives (j src tag off mask : Nat) (last : Bool) (data : Bytes) (s : State) : State :=
  match tget s.jobs j with
  | none => s
  | some b =>
    match b.gathers.find? fun g => g.tag == tag && g.members.contains src with
    | none => s
    | some g =>
      let rank := g.members.idxOf src
      let left := tgetD g.left rank 0
      let s := modGather g.task g.master (fun g => { g with
        left := tset g.left rank (left - data.length)
        mask := g.mask ||| mask
        outstanding := if last then tset g.outstanding rank (tgetD g.outstanding rank 0 - 1) else g.outstanding
        shards := if g.master then
            let old := tgetD g.shards rank []
            tset g.shards rank (overlay (old ++ zeros (off + data.length - old.length)) off data)
          else g.shards }) s
      match refOf s g.task with
      | none => s
      | some r =>
        let s := if g.master then s else placeShard r rank off data s
        let s := if last then askPeer g.task g.master rank 8 s else s
        if g.master then s else gatherDone r s

/-! ### Promoted weights (R176, R297) -/

/-- The gather of a program whose destination an operand is, or is a view of. -/
def gatherFor (r : Ref) (i : Nat) : Option (Nat × Bytes) :=
  let chain := chainOf r.b.tensors 8 i
  ((r.u.descs.take r.t.desc).zipIdx.find? fun x => dOp x.1 == 0x20 && chain.contains (dT x.1 0)).map fun x => (x.2, x.1)

/-- The tensor of a job with a logical_id (R281). -/
def byLogical (b : Job) (id : Nat) : Option Nat :=
  if id = 0 then none else (b.tensors.find? fun x => tLogical x.2.raw == id).map (·.1)

/-- The master element of a working copy's index: a transposed copy swaps its first two dimensions. -/
def masterIx (role : Nat) (ix : List Nat) : List Nat :=
  if role = 5 then (match ix with | a :: c :: rest => c :: a :: rest | l => l) else ix

/-- A working copy stands in for its masters: it is in the promoted 16-bit format at rung 1 and carries the tensor scale that R176 would
choose (R297). -/
def copyServes (s : State) (r : Ref) (v : TV) : Bool :=
  r.promoted == some 1 && v.fmt == promotedFmt r.b.cfg &&
  v.ts == freshScale (promotedFmt r.b.cfg) (r.margin v) (amaxOf v (logical (srcOf s r.t.job) v))

/-- The shards that a promoted weight operand is built from (R297): its gather's destination and shard dimension, this member's shard,
the shard that is read (that of the masters, or that of the copy itself), its logical_id, and the group. -/
structure WeightFrom where
  dest : TV
  sd : Nat
  own : TV
  src : TV
  logical : Nat
  /-- The role whose index order the operand has, where the source is the masters. -/
  role : Nat
  grp : Group

/-- Where a promoted weight operand takes its values from. -/
inductive Weights where
  /-- Its own logical values: it has no master on the Proend, or a copy that serves and needs no gather. -/
  | own
  /-- The masters of a tensor that lies whole on this Proend: root of the operand, its role and the masters. -/
  | here (root : TV) (role : Nat) (src : TV)
  /-- Shards of a gather's members. -/
  | shards (w : WeightFrom)

/-- The source of the promoted values of an operand (R176, R297). -/
def weightsOf (s : State) (r : Ref) (v : TV) : Weights :=
  let raw := fun (i : Nat) => ((tget r.b.tensors i).map (·.raw)).getD []
  let master := fun (id : Nat) => (byLogical r.b (id / 16 * 16)).bind r.tv
  match gatherFor r v.idx with
  | none =>
    let root := rootOf r.b.tensors v.idx
    let id := tLogical (raw root)
    if (id % 16 = 4 ∨ id % 16 = 5) ∧ ¬ copyServes s r v then
      match master id, r.tv root with
      | some mv, some rv => .here rv (id % 16) mv
      | _, _ => .own
    else .own
  | some (_, d) =>
    let id := tLogical (raw (dT d 1))
    match master id, r.tv (dT d 0), r.tv (dT d 1), groupOf s d with
    | some mv, some t0, some t1, some grp =>
      if id % 16 ≠ 4 ∧ id % 16 ≠ 5 then .own
      else if copyServes s r v then .shards ⟨t0, tShard (raw (dT d 1)), t1, t1, id, 4, grp⟩
      else .shards ⟨t0, tShard (raw (dT d 1)), t1, mv, id / 16 * 16, id % 16, grp⟩
    | _, _, _, _ => .own

/-- The gather of shards that a program has under way or whole for a promoted operand. -/
def shardGather (r : Ref) (logical : Nat) : Option Gather :=
  r.b.gathers.find? fun g => g.master && g.task.sub == r.t.sub && g.logical == logical

/-- The value of an element of a promoted weight operand, by its index in the gather's destination. -/
def shardValue (m : Src) (r : Ref) (w : WeightFrom) (x : List Nat) : Val × NumFlags :=
  let e := max (w.own.ext.getD w.sd 1) 1
  let rank := x.getD w.sd 0 / e
  let ix := masterIx w.role (x.zipIdx.map fun y => if y.2 = w.sd then y.1 % e else y.1)
  if rank = w.grp.rank then logical m w.src ix
  else
    let shard := ((shardGather r w.logical).map fun g => tgetD g.shards rank []).getD []
    let n := fmtBytes w.src.fmt
    let v := readElem w.src.fmt (rd shard (n * flatten w.src.ext ix) n)
    ((mulVal v.1 (ofRat false w.src.ts)).1, v.2)

/-- The values of a source whose shards have come. -/
def weightValues (s : State) (r : Ref) (v : TV) : List Nat → Val × NumFlags :=
  let m := srcOf s r.t.job
  match weightsOf s r v with
  | .own => logical m v
  | .here rv role mv => fun ix => logical m mv (masterIx role (indexAt rv.ext rv.stride (elemAddr v ix - rv.base)))
  | .shards w => fun ix => shardValue m r w (indexAt w.dest.ext w.dest.stride (elemAddr v ix - w.dest.base))

/-- The owner bits that a promoted operand's source brings: those of masters on this Proend and those that came with shards (R43, R46). -/
def weightMask (s : State) (r : Ref) (v : TV) : Nat :=
  match weightsOf s r v with
  | .own => 0
  | .here _ _ mv => ownerMask s r.t.job mv.idx
  | .shards w => ownerMask s r.t.job w.src.idx ||| ((shardGather r w.logical).map (·.mask)).getD 0

/-- Bring in the shards that an operand needs; its values, or none while they are still to come. -/
def promotedValues (r : Ref) (v : TV) (s : State) : State × Option (List Nat → Val × NumFlags) :=
  match weightsOf s r v with
  | .shards w =>
    match shardGather r w.logical with
    | some g => (s, if gatherWhole g then some (weightValues s r v) else none)
    | none =>
      if w.grp.members.length = 1 then (s, some (weightValues s r v))
      else if 64 ≤ gathersInFlight s then (s, none)
      else (beginGather r.t true w.grp w.logical (elementBytes w.src) s, none)
  | _ => (s, some (weightValues s r v))

end Sys2Proof.Machine
end

