-- ==== Sys2Proof/Machine/Compute.lean ====
section
/-! DEFINITION. The compute descriptors of the cell array and the element, row and copy operations (R213 to R241, R252,
R256, R257, R260 to R265). -/

namespace Sys2Proof.Machine

/-! ### Running an operation -/

/-- Every block of a descriptor's map runs its job's tasks; a gap descriptor may begin on some of them alone (R211). -/
def wholeRuns (s : State) (r : Ref) : Bool := (mapBlocks r.part r.map).all (blockRuns s r.t.job)

/-- Launch an operation on units of its tile map, once its pages are there: it has its effect, given the state that it reads and the one
that it goes on from, and its units are to reach their boundaries. That of a gap descriptor on blocks that are not all lent comes with
its last boundary (R73, R211). A task that reads a line which fails faults its job instead (R323). -/
def launch (units : Nat) (effect : State → State → State) (r : Ref) (s : State) : State :=
  let e := ensurePages r s
  if ¬ e.2 then e.1
  else
    match badRead r e.1 with
    | some l => lineFails l 0 (some r.t) e.1
    | none =>
      if wholeRuns e.1 r then effect e.1 (setRunning r units e.1)
      else modDesc r.t (fun d => { d with late := true }) (setRunning r units e.1)

/-- The effect of an operation that has outputs. -/
def outputs (op : Ref → State → OpOut) (r : Ref) (e u : State) : State := finishOp r (op r e) u

/-- Run an operation on units. -/
def runUnits (units : Ref → Nat) (op : Ref → State → OpOut) (r : Ref) (s : State) : State := launch (units r) (outputs op r) r s

/-- The units of a descriptor's own tile map (R202). -/
def mapUnits (r : Ref) : Nat := mUnits r.map

/-- Run an operation over the units of its tile map. -/
def runOp (op : Ref → State → OpOut) (r : Ref) (s : State) : State := runUnits mapUnits op r s

/-! ### Multiplies (R223 to R226, R263, R264) -/

/-- The operands of a multiply over a batch: rows i of a and rows j of b, each with its reduction dimension innermost or
second, its fill and the values a rebuilt fill takes. -/
structure MulOp where
  v : TV
  inner : Bool
  mode : FillMode
  values : List Nat → Val × NumFlags

/-- An operand of one batch: its rows and reduction counts come from its extents. -/
def MulOp.fill (m : Src) (blockSz : Nat) (o : MulOp) (batch : List Nat) : Operand :=
  let rows := if o.inner then o.v.ext.getD 1 1 else o.v.ext.getD 0 1
  let red := if o.inner then o.v.ext.getD 0 1 else o.v.ext.getD 1 1
  fillFrom m o.v o.values o.mode blockSz rows red fun i k => operandIx o.inner batch o.v.ext.length i k

/-- A product of R223: output, operands with their rows i and j, addend. -/
structure Product where
  out : TV
  a : MulOp
  b : MulOp
  add : Option TV

/-- The default block size of a job (R185). -/
def jobBlock (b : Job) : Nat := 8 * 2 ^ b.cfg.block

/-- The results of a product, under the parts of the tile map's reduction (R143, R201). -/
def productOut (r : Ref) (s : State) (p : Product) : OpOut :=
  let m := srcOf s r.t.job
  multiply m p.out (p.a.fill m (jobBlock r.b)) (p.b.fill m (jobBlock r.b)) p.add (mParts r.map)

/-- The product of a matmul with the values of its operands (R223, R224). -/
def matmulProduct (v1 v2 : List Nat → Val × NumFlags) (r : Ref) : Product :=
  let x := r.slotView 1
  let w := r.slotView 2
  let b28 := rd r.d 28 1
  ⟨r.slotView 0,
    ⟨x, true, forwardMode r.b.cfg x (r.margin x) r.promoted (narrowCode r.b.cfg (b28 % 4)), v1⟩,
    ⟨w, true, forwardMode r.b.cfg w (r.margin w) r.promoted (narrowCode r.b.cfg (b28 / 4 % 4)), v2⟩, r.optView 5⟩

/-- matmul with the values of its operands (R224). -/
def matmulOut (v1 v2 : List Nat → Val × NumFlags) (r : Ref) (s : State) : OpOut := productOut r s (matmulProduct v1 v2 r)

/-- The values of a matmul's operand as they can be read now: those of shards that have come, else its own (R176, R297). -/
def valuesNow (r : Ref) (v : TV) (s : State) : List Nat → Val × NumFlags :=
  if r.promoted.isNone then logical (srcOf s r.t.job) v else weightValues s r v

/-- matmul with those values. -/
def matmulNow (r : Ref) (s : State) : OpOut := matmulOut (valuesNow r (r.slotView 1) s) (valuesNow r (r.slotView 2) s) r s

/-- matmul: at a promoted rung its operands' values come from masters where they are weights (R176, R297), whose owner bits its outputs
take (R43, R46). -/
def matmul (ecc : List EccReport) (r : Ref) (s : State) : State :=
  let w := meetWords { task := some r.t } ecc s
  if ¬ w.2 then w.1
  else
    let own := fun (i : Nat) => logical (srcOf w.1 r.t.job) (r.slotView i)
    if r.promoted.isNone then runOp (matmulOut (own 1) (own 2)) r w.1
    else
      match promotedValues r (r.slotView 1) w.1 with
      | (s, none) => s
      | (s, some v1) =>
        match promotedValues r (r.slotView 2) s with
        | (s, none) => s
        | (s, some v2) =>
          runOp (matmulOut v1 v2) r
            (orMasks r.t.job (weightMask s r (r.slotView 1) ||| weightMask s r (r.slotView 2)) (opWrites r.d) s)

/-- MATMUL. -/
def execMatmul (t : TaskRef) (ecc : List EccReport) (s : State) : Host.Outcome State Fault Refusal :=
  .next (settle (withDesc t 0x10 (matmul ecc) s))

/-- The operand of a backward multiply in a slot (R219). -/
def backOp (s : State) (r : Ref) (slot : Nat) (inner : Bool) (role : FillRole) : MulOp :=
  let v := r.slotView slot
  ⟨v, inner, backwardMode r.b.cfg (rd r.d 28 1) role v (r.margin v) inner, logical (srcOf s r.t.job) v⟩

/-- dX = dY × Wt (R224). -/
def dxProduct (r : Ref) (s : State) (add : Option TV) : Product :=
  ⟨r.slotView 0, backOp s r 1 true .gradient, backOp s r 2 true .other, add⟩

/-- dW = dY transposed × X, into a slot (R224). -/
def dwProduct (r : Ref) (s : State) (out x : Nat) (add : Option TV) : Product :=
  ⟨r.slotView out, backOp s r 1 false .gradient, backOp s r x false .other, add⟩

/-- matmul_dx (R224). -/
def dxOut (r : Ref) (s : State) (add : Option TV) : OpOut := productOut r s (dxProduct r s add)

/-- matmul_dw (R224). -/
def dwOut (r : Ref) (s : State) (out x : Nat) (add : Option TV) : OpOut := productOut r s (dwProduct r s out x add)

/-- MATMUL_DX. -/
def execMatmulDx (t : TaskRef) (s : State) : Host.Outcome State Fault Refusal :=
  .next (settle (withDesc t 0x11 (runOp fun r s => dxOut r s (r.optView 5)) s))

/-- MATMUL_DW. -/
def execMatmulDw (t : TaskRef) (s : State) : Host.Outcome State Fault Refusal :=
  .next (settle (withDesc t 0x12 (runOp fun r s => dwOut r s 0 2 (r.optView 5)) s))

/-- The units of the dW product of a matmul_alt (R226). -/
def dwUnits (r : Ref) : Nat :=
  let e := (r.slotView 3).ext
  mParts r.map * (product (e.drop 2) * ceilDiv (e.getD 1 1) 16) * ceilDiv (ceilDiv (e.getD 0 1) 8) (mGroup r.map)

/-- The tasks of a matmul_alt: as many as the longer of its two unit lists (R263). -/
def altUnits (r : Ref) : Nat := max (mUnits r.map) (dwUnits r)

/-- matmul_alt: both products (R226). -/
def matmulAlt (r : Ref) (s : State) : OpOut :=
  let x := dxOut r s none
  let w := dwOut r s 3 4 (r.optView 5)
  { outs := x.outs ++ w.outs, events := x.events ++ w.events.map fun e => { e with out := e.out + 1 } }

/-- MATMUL_ALT. -/
def execMatmulAlt (t : TaskRef) (s : State) : Host.Outcome State Fault Refusal :=
  .next (settle (withDesc t 0x13 (runUnits altUnits matmulAlt) s))

/-! ### Attention -/

/-- The shared fields of the attention operations (R227). -/
def attnFields (r : Ref) : AttnP :=
  { qPos := rd r.d 36 4, kPos := rd r.d 40 4, window := rd r.d 44 4, causal := bit (rd r.d 48 1) 0, sigma := (r.f32 52).rat }

/-- attention_fwd (R229). -/
def attentionFwdOut (r : Ref) (s : State) : OpOut :=
  let q := r.slotView 1
  let k := r.slotView 2
  let v := r.slotView 3
  attentionFwd (srcOf s r.t.job) (attnForward r.b.cfg q k v r.margin r.promoted) (jobBlock r.b) (attnFields r)
    (r.slotView 0) q k v (r.slotView 4)

/-- ATTENTION_FWD. -/
def execAttentionFwd (t : TaskRef) (s : State) : Host.Outcome State Fault Refusal :=
  .next (settle (withDesc t 0x14 (runOp attentionFwdOut) s))

/-- attention_bwd (R230). -/
def attentionBwdOut (r : Ref) (s : State) : OpOut :=
  let q := r.slotView 3
  let k := r.slotView 4
  let v := r.slotView 5
  let dO := r.view (rd r.d 28 2)
  attentionBwd (srcOf s r.t.job) (attnBackward r.b.cfg (rd r.d 34 1) q k v dO r.margin) (jobBlock r.b) (attnFields r)
    (r.slotView 0) (r.slotView 1) (r.slotView 2) q k v dO (r.view (rd r.d 30 2)) (r.view (rd r.d 32 2))

/-- ATTENTION_BWD. -/
def execAttentionBwd (t : TaskRef) (s : State) : Host.Outcome State Fault Refusal :=
  .next (settle (withDesc t 0x15 (runOp attentionBwdOut) s))

/-! ### Rows and elements -/

/-- norm (R231, R232). -/
def normOut (r : Ref) (s : State) : OpOut :=
  normOp (srcOf s r.t.job) (rd r.d 28 1 == 1) (r.f32 32).rat (r.slotView 0) (r.slotView 1) (r.slotView 2) (r.optView 3) (r.optView 4)

/-- NORM. -/
def execNorm (t : TaskRef) (s : State) : Host.Outcome State Fault Refusal :=
  .next (settle (withDesc t 0x16 (runOp normOut) s))

/-- norm_bwd (R233). -/
def normBwdOut (r : Ref) (s : State) : OpOut :=
  normBwdOp (srcOf s r.t.job) (rd r.d 28 1 == 1) (r.slotView 0) (r.slotView 1) (r.slotView 2) (r.slotView 3) (r.slotView 4) (r.slotView 5)

/-- NORM_BWD. -/
def execNormBwd (t : TaskRef) (s : State) : Host.Outcome State Fault Refusal :=
  .next (settle (withDesc t 0x17 (runOp normBwdOut) s))

/-- 2 to the loss-scale exponent over the divisor (R235). -/
def lossFactor (r : Ref) : Rat := pow2 (r.b.num.exponent : Int) / (r.f32 36).rat

/-- softmax in its two modes (R234, R235). -/
def softmaxOut (r : Ref) (s : State) : OpOut :=
  let m := srcOf s r.t.job
  if rd r.d 28 1 = 0 then softmaxOp m (r.f32 32).rat 1 (r.slotView 0) (r.slotView 1) none none
  else softmaxOp m (r.f32 32).rat (lossFactor r) (r.slotView 0) (r.slotView 1) (some (r.slotView 2)) (r.optView 3)

/-- SOFTMAX. -/
def execSoftmax (t : TaskRef) (s : State) : Host.Outcome State Fault Refusal :=
  .next (settle (withDesc t 0x18 (runOp softmaxOut) s))

/-- elementwise (R236). -/
def elementwiseOut (r : Ref) (s : State) : OpOut :=
  elementwiseOp (srcOf s r.t.job) (rd r.d 28 1) (r.f32 32) (r.f32 36) (rd r.d 40 4) (r.slotView 0) (r.slotView 1) (r.optView 2) (r.optView 3)

/-- ELEMENTWISE. -/
def execElementwise (t : TaskRef) (s : State) : Host.Outcome State Fault Refusal :=
  .next (settle (withDesc t 0x19 (runOp elementwiseOut) s))

/-- reduce (R238, R239). -/
def reduceOut (r : Ref) (s : State) : OpOut :=
  reduceOp (srcOf s r.t.job) (rd r.d 28 1) (rd r.d 29 1) (r.slotView 0) (r.slotView 1)

/-- REDUCE. -/
def execReduce (t : TaskRef) (s : State) : Host.Outcome State Fault Refusal :=
  .next (settle (withDesc t 0x1A (runOp reduceOut) s))

/-- cast (R237). -/
def castOut (r : Ref) (s : State) : OpOut :=
  castOp (srcOf s r.t.job) (rd r.d 28 1) (r.slotView 0) (r.slotView 1)

/-- CAST. -/
def execCast (t : TaskRef) (s : State) : Host.Outcome State Fault Refusal :=
  .next (settle (withDesc t 0x1B (runOp castOut) s))

/-- transpose_copy (R240). -/
def transposeOut (r : Ref) (s : State) : OpOut :=
  transposeOp (srcOf s r.t.job) (r.slotView 0) (r.slotView 1)

/-- TRANSPOSE_COPY. -/
def execTransposeCopy (t : TaskRef) (s : State) : Host.Outcome State Fault Refusal :=
  .next (settle (withDesc t 0x1C (runOp transposeOut) s))

/-- copy (R240). -/
def copyOut (r : Ref) (s : State) : OpOut :=
  copyOp (srcOf s r.t.job) (r.slotView 0) (r.slotView 1) (r.optView 2)

/-- COPY. -/
def execCopy (t : TaskRef) (s : State) : Host.Outcome State Fault Refusal :=
  .next (settle (withDesc t 0x1D (runOp copyOut) s))

/-- fill (R240). -/
def fillOut (r : Ref) (_ : State) : OpOut :=
  fillOp (r.slotView 0) (r.f32 32)

/-- FILL. -/
def execFill (t : TaskRef) (s : State) : Host.Outcome State Fault Refusal :=
  .next (settle (withDesc t 0x1E (runOp fillOut) s))

/-- scatter_reduce (R241). -/
def scatterOut (r : Ref) (s : State) : OpOut :=
  scatterOp (srcOf s r.t.job) (r.slotView 0) (r.slotView 1) (r.slotView 2)

/-- SCATTER_REDUCE. -/
def execScatterReduce (t : TaskRef) (s : State) : Host.Outcome State Fault Refusal :=
  .next (settle (withDesc t 0x1F (runOp scatterOut) s))

/-! ### Stash and unstash (R252) -/

/-- The two tensors hold the same encodings under the same scales: a stash is then a bit copy (R252). -/
def sameKind (b : Job) (y x : TV) : Bool :=
  let raw := fun (v : TV) => ((tget b.tensors v.idx).map (·.raw)).getD []
  y.fmt == x.fmt && y.block == x.block && y.bf16 == x.bf16 && y.fixed == x.fixed && y.ts == x.ts &&
  tDynamic (raw y) == tDynamic (raw x)

/-- A bit copy of the stored encodings and scales, as stores. -/
def bitCopy (m : Src) (y x : TV) : Stores :=
  coalesce ((List.range (tensorBytes x)).map fun o => (byteAddr y o, m (byteAddr x o)))

/-- stash and unstash: a bit copy between tensors of one kind, else logical values (R252). -/
def stashOut (r : Ref) (e u : State) : State :=
  let y := r.slotView 0
  let x := r.slotView 1
  let s := finishOp r (copyOp (srcOf e r.t.job) y x none) u
  if sameKind r.b y x then applyStores r.t.job (bitCopy (srcOf e r.t.job) y x) s else s

/-- stash and unstash. -/
def stashRun (r : Ref) (s : State) : State := launch (mapUnits r) (stashOut r) r s

/-- STASH. -/
def execStash (t : TaskRef) (s : State) : Host.Outcome State Fault Refusal :=
  .next (settle (withDesc t 0x27 stashRun s))

/-- UNSTASH. -/
def execUnstash (t : TaskRef) (s : State) : Host.Outcome State Fault Refusal :=
  .next (settle (withDesc t 0x28 stashRun s))

/-! ### Digest and statistics (R256, R257) -/

/-- The scale tensor's stored bytes in element order. -/
def scaleBytes (m : Src) (v : TV) : Bytes :=
  if is8 v.fmt then tensorSlice m v (elementBytes v) (tensorBytes v - elementBytes v) else []

/-- Stores that put eight words into a tensor's stored elements. -/
def wordStores (v : TV) (b : Bytes) : Stores := (List.range 8).map fun i => (elemAddr v (indexOf v.ext i), sub b (4 * i) 4)

/-- What a write of eight FP32 words counts (R158). -/
def wordsSum (b : Bytes) : WriteSum :=
  (List.range 8).foldl (fun w i =>
    let v := decodeBits .fp32 (rd b (4 * i) 4)
    { w with elements := w.elements + 1, zeroCount := w.zeroCount + (match v with | .zero _ => 1 | _ => 0)
             nonFinite := w.nonFinite + v.nonFinite.toNat, amax := if v.nonFinite then w.amax else max w.amax (qabs v.rat) }) {}

/-- digest (R256): the SHA-256 of the stored encodings, and a mismatch event if it differs from a reference. -/
def digestOut (r : Ref) (e u : State) : State :=
  let j := r.t.job
  let m := srcOf e j
  let x := r.slotView 1
  let h := sha256 (storedBytes m x ++ (if bit (rd r.d 28 1) 0 then scaleBytes m x else []))
  let differs := match r.optView 2 with
    | none => false
    | some v => storedBytes m v != h
  let s := applyStores j (wordStores (r.slotView 0) h) u
  let s := orMasks j (masksOf s j (opReads r.d)) (opWrites r.d) s
  let s := if dStats r.d = 0xFFFF then s
    else putRecord r (dStats r.d) (dT r.d 0) (recordOf r (wordsSum h) (dT r.d 0)) s
  if differs then
    match spanPos r.u r.t.desc with
    | some k => modSpan j r.t.sub k (fun y => { y with mismatches := y.mismatches ++ [dT r.d 1] }) s
    | none => mismatchEvent j r.u.prog (dT r.d 1) s
  else s

/-- digest. -/
def digestRun (r : Ref) (s : State) : State := launch (mapUnits r) (digestOut r) r s

/-- DIGEST. -/
def execDigest (t : TaskRef) (s : State) : Host.Outcome State Fault Refusal :=
  .next (settle (withDesc t 0x2A digestRun s))

/-- statistics (R257): a record over the current values of t1, into t0. -/
def statisticsOut (r : Ref) (e u : State) : State :=
  let j := r.t.job
  let w := statisticsOf (srcOf e j) (r.slotView 1)
  let s := orMasks j (masksOf e j (opReads r.d)) (opWrites r.d) u
  let s := raiseEvents r [r.slotView 1] w.2 s
  let rec' := recordOf r w.1 (dT r.d 1)
  let s := putRecord r (dT r.d 0) (dT r.d 1) rec' s
  if dStats r.d = 0xFFFF then s else putRecord r (dStats r.d) (dT r.d 0) (recordOf r (wordsSum rec') (dT r.d 0)) s

/-- statistics. -/
def statisticsRun (r : Ref) (s : State) : State := launch (mapUnits r) (statisticsOut r) r s

/-- STATISTICS. -/
def execStatistics (t : TaskRef) (s : State) : Host.Outcome State Fault Refusal :=
  .next (settle (withDesc t 0x2B statisticsRun s))

/-! ### Ingress wait (R260) -/

/-- ingress_wait: retires once the ingress destination is readable (R16, R17, R260), now or when it becomes so. -/
def ingressWaitRun (r : Ref) (s : State) : State := if readsBlocked r then setRunning r 0 s else retire r.t s

/-- INGRESS_WAIT. -/
def execIngressWait (t : TaskRef) (s : State) : Host.Outcome State Fault Refusal :=
  .next (settle (withDesc t 0x2D ingressWaitRun s))

end Sys2Proof.Machine
end

