-- ==== Sys2Proof/Machine/Cells.lean ====
section
/-! DEFINITION. Array instructions on a core: operand streams in the tile store, accumulators and drains (R74, R76, R130 to R144), and
the steps of a task of a multiply (R223 to R226, R263, R264). -/

namespace Sys2Proof.Machine

/-! ### The array instruction (R130 to R136) -/

/-- What an array instruction's accumulators start from (R130). -/
inductive AccInit where
  | zero
  | keep
  | load (row : Nat)
deriving DecidableEq, Repr

/-- An array instruction (R130). -/
structure ArrayInstr where
  cls : Cls
  aFmt : Fmt
  bFmt : Fmt
  chopA : Bool := false
  chopB : Bool := false
  k : Nat
  aRow : Nat
  bRow : Nat
  block : Nat := 16
  aScaleRow : Nat := 0
  bScaleRow : Nat := 0
  acc : Nat
  init : AccInit
deriving DecidableEq, Repr

/-- Rows of a stream of depth k (R132). -/
def streamRows : Cls → Nat → Nat
  | .c8, k => ceilDiv k 2
  | .c16, k => k
  | .cF19, k => 2 * k

/-- Tile-store address of A[m][k] of a stream that begins at a row (R132). -/
def aPlace (c : Cls) (row m k : Nat) : Nat :=
  match c with
  | .c8 => 48 * (row + k / 2) + 2 * m + k % 2
  | .c16 => 48 * (row + k) + 2 * m
  | .cF19 => 48 * (row + 2 * k + m / 8) + 4 * (m % 8)

/-- Tile-store address of B[n][k] of a stream that begins at a row (R132). -/
def bPlace (c : Cls) (row n k : Nat) : Nat :=
  match c with
  | .c8 => 48 * (row + k / 2) + 32 + 2 * n + k % 2
  | .c16 => 48 * (row + k) + 32 + 2 * n
  | .cF19 => 48 * (row + 2 * k + n / 4) + 32 + 4 * (n % 4)

/-- Tile-store address of an offset of a scale stream (R134). -/
def scalePlace (row o : Nat) : Nat := 48 * (row + o / 32) + o % 32

/-- Rows of a scale stream of `w` scales a block (R134). -/
def scaleRows (w k block : Nat) : Nat := ceilDiv (w * ceilDiv k block) 32

/-- No stream, scale stream or loaded tile of an instruction runs past row 511 (R133). -/
def ArrayInstr.fits (i : ArrayInstr) : Bool :=
  decide (i.aRow + streamRows i.cls i.k ≤ 512) && decide (i.bRow + streamRows i.cls i.k ≤ 512) &&
  (i.cls != .c8 || (decide (i.aScaleRow + scaleRows 16 i.k i.block ≤ 512) && decide (i.bScaleRow + scaleRows 8 i.k i.block ≤ 512))) &&
  (match i.init with | .load row => decide (row + 16 ≤ 512) | _ => true)

/-- An operand element as the array reads it: decoded, times its block scale, or narrowed to F19 (R103, R105, R114). -/
def cellValue (c : Cls) (f : Fmt) (chop : Bool) (tile : Memory) (at' scaleAt : Nat) : Val :=
  let v := leNat (tile.readN at' (fmtBytes f))
  match c with
  | .c8 =>
    match (readScale false (leNat (tile.readN scaleAt 1))).1 with
    | none => .nan
    | some q => (mulVal (decodeBits f v) (.num q)).1
  | .c16 => decodeBits f v
  | .cF19 => decodeBits .fp32 (narrowF19 chop v)

/-- A[m][k] of an instruction. -/
def ArrayInstr.a (i : ArrayInstr) (tile : Memory) (m k : Nat) : Val :=
  cellValue i.cls i.aFmt i.chopA tile (aPlace i.cls i.aRow m k) (scalePlace i.aScaleRow (16 * (k / i.block) + m))

/-- B[n][k] of an instruction. -/
def ArrayInstr.b (i : ArrayInstr) (tile : Memory) (n k : Nat) : Val :=
  cellValue i.cls i.bFmt i.chopB tile (bPlace i.cls i.bRow n k) (scalePlace i.bScaleRow (8 * (k / i.block) + n))

/-- FP32 bits of a value. -/
def fp32Bits (v : Val) : Nat := (convert .fp32 v).bits

/-- The FP32 value at (m, n) of a tile that a partial drain has written from a row on: 8 values a row, in the A lane (R140, log 91). -/
def tileAt (tile : Memory) (row x : Nat) : Val := decodeBits .fp32 (leNat (tile.readN (48 * (row + x / 8) + 4 * (x % 8)) 4))

/-- What an accumulator holds at a cell. -/
def accAt (c : CoreSt) (acc x : Nat) : Val := decodeBits .fp32 ((tgetD c.acc acc []).getD x 0)

/-- An array instruction on a core: the 16 × 8 tile of its accumulator by the procedure of R136; an access error where a stream runs past
the tile store (R133). -/
def arrayInstr (i : ArrayInstr) (c : CoreSt) : Option CoreSt :=
  if ¬ i.fits then none
  else
    let words := (List.range 128).map fun x =>
      let start := match i.init with
        | .zero => .zero false
        | .keep => accAt c i.acc x
        | .load row => tileAt c.tile row x
      fp32Bits (arrayRun start ((List.range i.k).map (i.a c.tile (x / 8))) ((List.range i.k).map (i.b c.tile (x % 8)))).v
    some { c with acc := tset c.acc i.acc words }

/-! ### Steps of a task on its core -/

/-- A step that a task's microcode issues: bytes written by a fill or a final drain; an array instruction; a partial drain to 16 rows; a
partial tile added to an accumulator; what a task leaves in an accumulator by steps that the manual does not give. -/
inductive CellStep where
  | write (address : Nat) (bytes : Bytes)
  | array (i : ArrayInstr)
  | drain (acc row : Nat)
  | add (acc row : Nat)
  | leave (acc : Nat) (words : List Nat)
deriving DecidableEq, Repr

/-- A step on a core, in issue order (R141, R142); none for an access error (R74, R133). -/
def cellStep (x : CellStep) (c : CoreSt) : Option CoreSt :=
  match x with
  | .write a b => if 0x6000 < a + b.length then none else some { c with tile := c.tile.writeN a b }
  | .array i => arrayInstr i c
  | .drain acc row =>
    if 512 < row + 16 then none
    else some { c with tile := (List.range 16).foldl (fun t m =>
      t.writeN (48 * (row + m)) ((List.range 8).flatMap fun n => leBytes 4 (fp32Bits (accAt c acc (8 * m + n))))) c.tile }
  | .add acc row =>
    if 512 < row + 16 then none
    else some { c with acc := tset c.acc acc ((List.range 128).map fun x =>
      fp32Bits (addPart { v := accAt c acc x } { v := tileAt c.tile row x }).v) }
  | .leave acc words => some { c with acc := tset c.acc acc words }

/-- Steps on a core, up to an access error. -/
def cellSteps (l : List CellStep) (c : CoreSt) : Option CoreSt := l.foldl (fun c x => c.bind (cellStep x)) (some c)

/-! ### The steps of a multiply (R202, R224, R264) -/

/-- The class of a filled operand pair. -/
def pairClass (a : Operand) : Cls := (clsOf a.fmt).getD .c16

/-- Reduction values of one instruction: at most 128, whole blocks, so that its streams fit in the tile store beside a drained tile
(R134; log 91). -/
def instrDepth : Nat := 128

/-- The fills of one instruction: A and B streams from a row, scale streams behind them. -/
def fillSteps (c : Cls) (a b : Nat → List FillElem) (block row lo k : Nat) : List CellStep :=
  let el := fun (l : List FillElem) (n : Nat) => l.getD (lo + n) ⟨.zero false, noFlags, 0, 0x7F⟩
  let put := fun (at' n bits : Nat) => CellStep.write at' (leBytes n bits)
  let width := match c with | .c8 => 1 | .c16 => 2 | .cF19 => 4
  ((List.range 16).flatMap fun m => (List.range k).map fun x => put (aPlace c row m x) width (el (a m) x).bits) ++
  ((List.range 8).flatMap fun n => (List.range k).map fun x => put (bPlace c row n x) width (el (b n) x).bits) ++
  (if c = .c8 then
    (List.range (ceilDiv k block)).flatMap fun j =>
      ((List.range 16).map fun m => put (scalePlace (row + 256) (16 * j + m)) 1 (el (a m) (j * block)).scale) ++
      ((List.range 8).map fun n => put (scalePlace (row + 260) (8 * j + n)) 1 (el (b n) (j * block)).scale)
  else [])

/-- The chained instructions of one part of a tile's reduction, over elements `lo` to `hi - 1`, each after its fills. -/
def partSteps (c : Cls) (a b : Operand) (ra rb : Nat → List FillElem) (acc row lo hi : Nat) : List CellStep :=
  let block := if lo % a.block = 0 then a.block else 16
  (List.range (max 1 (ceilDiv (hi - lo) instrDepth))).flatMap fun n =>
    let p := lo + n * instrDepth
    let k := min instrDepth (hi - p)
    fillSteps c ra rb block row p k ++
      [.array ⟨c, a.fmt, b.fmt, a.chop, b.chop, k, row, row, block, row + 256, row + 260, acc, if n = 0 then .zero else .keep⟩]

/-- The elements of a part of a reduction: first, and behind the last (R143). -/
def partRange (red parts kp : Nat) : Nat × Nat :=
  if parts ≤ 1 then (0, red)
  else
    let q := ceilDiv (ceilDiv red 16) parts
    (min red (16 * q * kp), min red (16 * q * (kp + 1)))

/-- The steps of one output tile of a product in a unit of part `kp`: its part of the reduction; a partial drain of a later part; in part
0 the tiles of the later parts added in order (R143), and the final drain, 8 values a row (R76, R140). -/
def tileSteps (m : Src) (p : Product) (a b : Operand) (parts kp i0 j0 : Nat) (bix : List Nat) (acc row : Nat) : List CellStep :=
  let c := pairClass a
  let ra := fun (x : Nat) => a.row (i0 + x)
  let rb := fun (x : Nat) => b.row (j0 + x)
  let red := (a.row 0).length
  let part := fun (n : Nat) => let r := partRange red parts n; partSteps c a b ra rb acc row r.1 r.2
  let at' := row + 262
  if kp ≠ 0 then part kp ++ [.drain acc at']
  else
    let later := (List.range (parts - 1)).flatMap fun n =>
      (List.range 16).map (fun x => CellStep.write (48 * (at' + x)) ((List.range 8).flatMap fun y =>
        let r := partRange red parts (n + 1)
        let l := ((ra x).zip (rb y)).drop r.1 |>.take (r.2 - r.1)
        leBytes 4 (fp32Bits (arrayRun (.zero false) (l.map fun e => e.1.val) (l.map fun e => e.2.val)).v))) ++ [.add acc at']
    let out := (List.range 16).map fun x => CellStep.write (48 * (at' + x)) ((List.range 8).flatMap fun y =>
      if p.out.ext.getD 1 1 ≤ i0 + x ∨ p.out.ext.getD 0 1 ≤ j0 + y then []
      else
        let n := fmtBytes p.out.fmt
        leBytes n (srcNum m (elemAddr p.out (((j0 + y) :: (i0 + x) :: bix).take p.out.ext.length)) n))
    part 0 ++ later ++ out

/-- The tiles of a unit of a product, each as the steps that an accumulator and a row give (R202, R656). -/
def unitTiles (r : Ref) (s : State) (p : Product) (unit : Nat) : List (Nat → Nat → List CellStep) :=
  let m := srcOf s r.t.job
  let g := max (mGroup r.map) 1
  let mt := ceilDiv (p.out.ext.getD 1 1) 16
  let nt := ceilDiv (p.out.ext.getD 0 1) 8
  let rowUnits := ceilDiv nt g
  let perPart := product (p.out.ext.drop 2) * mt * rowUnits
  let u := unit % perPart
  let bix := indexOf (p.out.ext.drop 2) (u / rowUnits / mt)
  let a := p.a.fill m (jobBlock r.b) bix
  let b := p.b.fill m (jobBlock r.b) bix
  if mParts r.map * perPart ≤ unit then []
  else (List.range (min g (nt - u % rowUnits * g))).map fun i acc row =>
    tileSteps m p a b (mParts r.map) (unit / perPart) (16 * (u / rowUnits % mt)) (8 * (u % rowUnits * g + i)) bix acc row

/-- Two lists taken by turns, from the first on. -/
def alternate {α : Type} : List α → List α → List α
  | [], l => l
  | x :: xs, [] => x :: xs
  | x :: xs, y :: ys => x :: y :: alternate xs ys

/-- The row from which a task's streams lie, so that they fit. -/
def taskRow (t : TaskRef) (unit : Nat) : Nat := Config.cellChoice t unit 0 % 234

/-- The steps of a task of a multiply: its tiles in increasing order. Those of a matmul_alt alternate between dX, on A0 and A1, and dW, on
A2 and A3 (R226, R263, R264); elsewhere the accumulators are the microcode's choice (log 91). -/
def multiplySteps (r : Ref) (s : State) (unit : Nat) : List CellStep :=
  let row := taskRow r.t unit
  let free := fun (p : Product) => (unitTiles r s p unit).zipIdx.flatMap fun x => x.1 (Config.cellChoice r.t unit (x.2 + 1) % 4) row
  match dOp r.d with
  | 0x10 => free (matmulProduct (valuesNow r (r.slotView 1) s) (valuesNow r (r.slotView 2) s) r)
  | 0x11 => free (dxProduct r s (r.optView 5))
  | 0x12 => free (dwProduct r s 0 2 (r.optView 5))
  | _ =>
    let dx := (unitTiles r s (dxProduct r s none) unit).zipIdx.map fun x => x.1 (x.2 % 2) row
    let dw := (unitTiles r s (dwProduct r s 3 4 (r.optView 5)) unit).zipIdx.map fun x => x.1 (2 + x.2 % 2) row
    (alternate dx dw).flatten

/-- The steps of a unit's task on its core's tile store and accumulators. What tasks other than the multiplies leave there is the
microcode's (log 91). -/
def unitSteps (r : Ref) (s : State) (unit : Nat) : List CellStep :=
  let op := dOp r.d
  if 0x10 ≤ op ∧ op ≤ 0x13 then multiplySteps r s unit
  else
    let left := [CellStep.write 0 ((Config.tileLeft r.t unit).take 0x6000)]
    if op = 0x14 ∨ op = 0x15 then
      left ++ (List.range 4).map fun a => CellStep.leave a ((List.range 128).map fun x => Config.accLeft r.t unit a x % 2 ^ 32)
    else left

end Sys2Proof.Machine
end

