-- ==== Sys2Proof/Machine/Boundary.lean ====
section
/-! DEFINITION. The end of a task: its core's predictor, caches and threads, and the retirement of its descriptor (R62 to R75,
R190, R202, R211). -/

namespace Sys2Proof.Machine

/-! ### The branch predictor (R65 to R68) -/

/-- The predicted direction of a branch: by its counter where that is valid, else taken to a lower address alone (R65, R66). -/
def predictsTaken (c : CoreSt) (address target : Nat) : Bool :=
  match tget c.counters (address / 4 % 256) with
  | some v => decide (2 ≤ v)
  | none => decide (target < address)

/-- A counter of the predictor after its branch has resolved (R65, R66). -/
def nextCounter (old : Option Nat) (taken : Bool) : Nat :=
  match old with
  | none => if taken then 2 else 1
  | some v => if taken then min 3 (v + 1) else v - 1

/-- The entry that predicts a return: the most recent of its thread (R67). -/
def returnEntry (st : List (Nat × Nat)) (thread : Nat) : Option (Nat × Nat) := st.reverse.find? fun e => e.1 == thread

/-- A return is predicted right: by its entry's address, or, without one, as a branch to a lower address (R67). -/
def predictsReturn (c : CoreSt) (thread address target : Nat) : Bool :=
  match returnEntry c.returns thread with
  | some e => e.2 == target
  | none => decide (target < address)

/-- The return stack after a call, which pushes the address behind it, or a return of a thread (R67, log 11). -/
def nextReturns (st : List (Nat × Nat)) (kind thread address : Nat) : List (Nat × Nat) :=
  if kind = 1 then (if 8 ≤ st.length then st.drop 1 else st) ++ [(thread, address + 4)]
  else if kind = 2 then
    match returnEntry st thread with
    | none => st
    | some e => (st.reverse.erase e).reverse
  else st

/-- An instruction cache line is there. -/
def icacheHolds (c : List (Nat × Bytes)) (line : Nat) : Bool := c.any fun x => x.1 == line

/-- An instruction cache line comes from a microcode store into its 2-way set (R62, R70): 64 sets of 32-byte lines, the way filled
first goes from a full set (log 11). -/
def fillIcache (store : Bytes) (c : List (Nat × Bytes)) (line : Nat) : List (Nat × Bytes) :=
  let same := c.filter fun x => x.1 % 64 == line % 64
  (match same with
   | a :: _ :: _ => c.erase a
   | _ => c) ++ [(line, sub store (32 * line) 32)]

/-- A branch of microcode, as its address, target, whether it was taken, and its kind: 0 a branch, 1 a call, 2 a return. A miss of the
instruction cache stops the thread until the line is there (R63, R70), and a misprediction costs it 4 core cycles (R65 to R68). -/
def traceBranch (store : Bytes) (thread : Nat) (c : CoreSt) (x : Nat × Nat × Bool × Nat) : CoreSt :=
  let c := if icacheHolds c.icache (x.1 / 32) then c
    else readyThread thread (stopThread thread { c with icache := fillIcache store c.icache (x.1 / 32) })
  let right := if x.2.2.2 = 0 then predictsTaken c x.1 x.2.1 == x.2.2.1
    else if x.2.2.2 = 2 then predictsReturn c thread x.1 x.2.1 else true
  { c with
    counters := if x.2.2.2 = 0 then tset c.counters (x.1 / 4 % 256) (nextCounter (tget c.counters (x.1 / 4 % 256)) x.2.2.1) else c.counters
    returns := nextReturns c.returns x.2.2.2 thread x.1
    lost := if right then c.lost else c.lost + 4 }

/-- What a task's microcode leaves in its core's predictor and instruction cache (log 11). -/
def traceCore (store : Bytes) (trace : List (Nat × Nat × Bool × Nat)) (thread : Nat) (c : CoreSt) : CoreSt :=
  trace.foldl (traceBranch store thread) c

/-! ### The fill buffer (R75) -/

/-- The oldest flit of the fill buffer goes to the tile store. -/
def drainFlit (c : CoreSt) : CoreSt :=
  match c.fill with
  | [] => c
  | x :: rest => { c with fill := rest, tile := c.tile.writeN x.1 x.2.payload }

/-- The whole fill buffer goes to the tile store, in order. -/
def drainFill (c : CoreSt) : CoreSt := (List.range c.fill.length).foldl (fun c _ => drainFlit c) c

/-! ### The boundary -/

/-- The core after a task of a thread has ended: its dirty lines have gone to their home slices and its L1 is empty (R72), the fills have
reached the tile store, the thread's place in the array's issue queue is free for the thread that waits for one (R63), and the next
ready thread issues (R64). -/
def endTask (thread : Nat) (c : CoreSt) : CoreSt :=
  let c := drainFill { c with l1 := [], threads := terase c.threads thread, issue := c.issue.filter (· != thread) }
  let c := match c.slotWaits with
    | [] => c
    | w :: rest => if c.issue.length < 2 then readyThread w { c with issue := c.issue ++ [w], slotWaits := rest } else c
  stopThread thread c

/-- A unit of a running descriptor ends: its core's tile store and accumulators, thread, caches and predictor, and the descriptor with its
last unit. An access error in the tile store faults the program (R74, R133). -/
def endUnit (t : TaskRef) (unit : Nat) (r : Ref) (s : State) : State :=
  let st := descAt r.u t.desc
  let thread := unitThread r.part r.map unit
  let core := unitCore r.part r.map unit
  let store := s.fw.microcode.getD (blockQuarter (coreBlock core)) []
  match cellSteps (unitSteps r s unit) (coreAt s core) with
  | none => programFault t 0x60 s
  | some c =>
    let s := modCore core (fun _ => endTask thread (traceCore store (Config.branchTrace t unit) thread c)) s
    let s := modSub t.job t.sub (fun u => { u with state := tset u.state t.desc { st with ended := st.ended ++ [unit] } }) s
    if st.ended.length + 1 = st.units then retire t s else s

/-- The effect of an operation on tensors, by its opcode, given the state that it reads and the one that it goes on from (R213). -/
def effectOf (r : Ref) (e u : State) : State :=
  match dOp r.d with
  | 0x10 => outputs matmulNow r e u
  | 0x11 => outputs (fun r s => dxOut r s (r.optView 5)) r e u
  | 0x12 => outputs (fun r s => dwOut r s 0 2 (r.optView 5)) r e u
  | 0x13 => outputs matmulAlt r e u
  | 0x14 => outputs attentionFwdOut r e u
  | 0x15 => outputs attentionBwdOut r e u
  | 0x16 => outputs normOut r e u
  | 0x17 => outputs normBwdOut r e u
  | 0x18 => outputs softmaxOut r e u
  | 0x19 => outputs elementwiseOut r e u
  | 0x1A => outputs reduceOut r e u
  | 0x1B => outputs castOut r e u
  | 0x1C => outputs transposeOut r e u
  | 0x1D => outputs copyOut r e u
  | 0x1E => outputs fillOut r e u
  | 0x1F => outputs scatterOut r e u
  | 0x27 => stashOut r e u
  | 0x28 => stashOut r e u
  | 0x2A => digestOut r e u
  | 0x2B => statisticsOut r e u
  | _ => u

/-- The last unit of a descriptor that began while blocks of its map were not lent: its outputs are written now, once its pages are
there (R73, R211). -/
def endLate (t : TaskRef) (unit : Nat) (r : Ref) (s : State) : State :=
  let st := descAt r.u t.desc
  if st.late ∧ st.ended.length + 1 = st.units then
    let e := ensurePages r s
    if e.2 then
      let s := effectOf r e.1 (modDesc t (fun d => { d with late := false }) e.1)
      match refOf s t with
      | none => s
      | some r => endUnit t unit r s
    else e.1
  else endUnit t unit r s

/-- The core of a unit has it on its thread, which waits for nothing. -/
def unitRuns (s : State) (r : Ref) (unit : Nat) : Bool :=
  let c := coreAt s (unitCore r.part r.map unit)
  let thread := unitThread r.part r.map unit
  tget c.threads thread == some (r.t, unit) &&
  !(c.waiting.contains thread) && !(c.regWaits.contains thread) && !(c.slotWaits.contains thread)

/-- A unit of a running descriptor that is on its thread reaches its boundary. -/
def taskBoundary (t : TaskRef) (unit : Nat) (s : State) : State :=
  match refOf s t with
  | none => s
  | some r =>
    let st := descAt r.u t.desc
    if begun r.u t.desc ∧ ¬ st.retired ∧ unit < st.units ∧ ¬ st.ended.contains unit ∧ unitRuns s r unit then endLate t unit r s else s

/-- TASK_BOUNDARY: then the next ready tasks may begin (R190). -/
def execTaskBoundary (t : TaskRef) (unit : Nat) (s : State) : Host.Outcome State Fault Refusal :=
  .next (if alive s then settle (taskBoundary t unit s) else s)

end Sys2Proof.Machine
end

