-- ==== Sys2Proof/Machine/Narrow.lean ====
section
/-! DEFINITION. Transit narrowing (R396 to R399), the levels and chunks of a reduction (R388, R390), and the bytes of its
transfers (R395). -/

namespace Sys2Proof.Machine

/-! ### Transit blocks -/

/-- A block of 32 values, padded with +0. -/
def padBlock (l : List Val) : List Val := l ++ List.replicate (32 - l.length) (.zero false)

/-- The largest magnitude of a block. -/
def blockMax (l : List Val) : Rat := l.foldl (fun a x => max a (qabs x.rat)) 0

/-- The shared exponent of R397. -/
def t12Exponent (l : List Val) : Nat :=
  if l.any Val.nonFinite then 0xFF
  else
    let a := blockMax l
    if a = 0 then 0
    else ((List.range 254).map (· + 1)).find? (fun (e : Nat) => decide (roundHalfEven (a / pow2 ((e : Int) - 137)) ≤ 2047)) |>.getD 0xFF

/-- The field of a value under an exponent (R396, R397). -/
def t12Field (ec : Nat) (v : Val) : Nat :=
  if ec = 0xFF then 0
  else v.neg?.toNat * 2048 + (if ec = 0 then 0 else roundHalfEven (qabs v.rat / pow2 ((ec : Int) - 137)))

/-- A T12 block: 49 bytes. -/
def t12Block (vals : List Val) : Bytes :=
  let l := padBlock vals
  let ec := t12Exponent l
  leBytes 49 (l.zipIdx.foldl (fun a x => a + t12Field ec x.1 * 2 ^ (12 * x.2 + 8)) ec)

/-- The values of a T12 block. -/
def t12Values (b : Bytes) : List Val :=
  let n := rd b 0 49
  let ec := n % 256
  (List.range 32).map fun i =>
    let f := n / 2 ^ (12 * i + 8) % 4096
    if ec = 0xFF then .nan
    else ofRat (bit f 11) ((if bit f 11 then -1 else 1) * ((f % 2048 : Nat) : Rat) * pow2 ((ec : Int) - 137))

/-- A T8 block: 33 bytes (R398, R399). -/
def t8Block (vals : List Val) : Bytes :=
  let l := padBlock vals
  if l.any Val.nonFinite then (0xFF : Byte) :: List.replicate 32 (BitVec.ofNat 8 (nanBits .e5m2))
  else
    let sc := chooseE8m0 .e5m2 1 (blockMax l)
    BitVec.ofNat 8 sc :: l.map fun v =>
      BitVec.ofNat 8 (convert .e5m2 (mulVal v (.num (pow2 (127 - (sc : Int))))).1).bits

/-- The values of a T8 block. -/
def t8Values (b : Bytes) : List Val :=
  let sc := rd b 0 1
  (List.range 32).map fun i =>
    if sc = 0xFF then .nan else (mulVal (decodeBits .e5m2 (rd b (1 + i) 1)) (.num (pow2 ((sc : Int) - 127)))).1

/-- Bytes of a block of a narrowing code: 1 is T12, 2 is T8. -/
def narrowSize (code : Nat) : Nat := if code = 1 then 49 else 33

/-- A block of a code. -/
def narrowBlock (code : Nat) (l : List Val) : Bytes := if code = 1 then t12Block l else t8Block l

/-- The values of a block of a code. -/
def narrowValues (code : Nat) (b : Bytes) : List Val := if code = 1 then t12Values b else t8Values b

/-- Cut a list into pieces of 32. -/
def blocks32 (l : List Val) : List (List Val) :=
  (List.range (ceilDiv l.length 32)).map fun i => (l.drop (32 * i)).take 32

/-- The value that a receiver reads of each value of a chunk, after narrowing. -/
def narrowed (code : Nat) (l : List Val) : List Val :=
  (blocks32 l).flatMap fun b => (narrowValues code (narrowBlock code b)).take b.length

/-! ### Levels (R387, R388) -/

/-- Radix of level `l`, from 1. -/
def radix (radices : List Nat) (l : Nat) : Nat := radices.getD (l - 1) 1

/-- Ranks between neighbours of level `l`. -/
def levelStride (radices : List Nat) (l : Nat) : Nat := product (radices.take (l - 1))

/-- The digit of a rank at a level. -/
def digit (radices : List Nat) (g l : Nat) : Nat := g / levelStride radices l % max 1 (radix radices l)

/-- Levels of a group: the position of the last radix above 1, or 1. -/
def levels (radices : List Nat) : Nat := ((radices.zipIdx.filter fun x => decide (1 < x.1)).getLast?.map fun x => x.2 + 1).getD 1

/-- The level-`l` peers of a rank, the rank itself among them, by digit. -/
def levelPeers (radices : List Nat) (g l : Nat) : List Nat :=
  (List.range (radix radices l)).map fun d => g - digit radices g l * levelStride radices l + d * levelStride radices l

/-- Chunks that a rank holds when it begins a level. -/
def heldAt (radices : List Nat) (g l : Nat) : List Nat :=
  (List.range (product radices)).filter fun c => (List.range (l - 1)).all fun k => digit radices c (k + 1) == digit radices g (k + 1)

/-- Chunks that a rank sends to a peer at a level, or gets from it when `g` is the receiver. -/
def chunksFor (radices : List Nat) (g q l : Nat) : List Nat :=
  (heldAt radices g l).filter fun c => digit radices c l == digit radices q l

/-! ### Chunks (R390) -/

/-- The element numbers of a chunk, in element order: a slab along the shard dimension of a reduce_scatter, a run of
elements of an all_reduce. -/
def chunkElems (allReduce : Bool) (ext : List Nat) (sd g c : Nat) : List Nat :=
  if allReduce then
    let n := product ext
    (List.range ((c + 1) * n / g - c * n / g)).map (· + c * n / g)
  else
    let e := ext.getD sd 1 / max 1 g
    let small := setAt ext sd e
    (List.range (product small)).map fun i => flatten ext (moveIx sd (c * e) (indexOf small i))

/-! ### Bytes of a transfer -/

/-- Values in a format under a tensor scale. -/
def encVals (f : Fmt) (ts : Rat) (l : List Val) : Bytes :=
  l.flatMap fun v => leBytes (fmtBytes f) (convert f (mulVal v (.num (1 / ts))).1).bits

/-- The values of `n` stored elements. -/
def decVals (f : Fmt) (ts : Rat) (n : Nat) (b : Bytes) : List Val :=
  (List.range n).map fun i => (mulVal (decodeBits f (rd b (i * fmtBytes f) (fmtBytes f))) (.num ts)).1

/-- The crossing format and scale of a level (R395). -/
def crossing (x : TV) (l : Nat) : Fmt × Rat := if l = 1 then (x.fmt, x.ts) else (.fp32, 1)

/-- The bytes of a transfer of chunks with given sizes. -/
def transferBytes (code : Nat) (f : Fmt) (sizes : List Nat) : Nat :=
  if code = 0 then fmtBytes f * sizes.foldl (· + ·) 0
  else narrowSize code * sizes.foldl (fun a n => a + ceilDiv n 32) 0

/-- The values of a transfer, by chunk. -/
def readTransfer (code : Nat) (f : Fmt) (ts : Rat) : List Nat → Bytes → List (List Val)
  | [], _ => []
  | n :: rest, b =>
    if code = 0 then decVals f ts n b :: readTransfer code f ts rest (b.drop (n * fmtBytes f))
    else
      let k := ceilDiv n 32
      (((List.range k).flatMap fun i => narrowValues code (b.drop (narrowSize code * i))).take n) ::
        readTransfer code f ts rest (b.drop (k * narrowSize code))

/-- The packets of a transfer of chunks (R395, R399). -/
def transferPackets (code : Nat) (f : Fmt) (ts : Rat) (vc dst mask tag : Nat) (chunks : List (List Val)) : List Packet :=
  if code = 0 then cutTransfer 1 vc dst mask tag (chunks.flatMap (encVals f ts))
  else
    let blks := (chunks.foldl (fun (acc : List (Nat × List Val) × Nat) c =>
      (acc.1 ++ (blocks32 c).zipIdx.map (fun x => (acc.2 + 32 * x.2, x.1)), acc.2 + c.length)) ([], 0)).1
    let per := 4096 / narrowSize code
    let n := ceilDiv blks.length per
    (List.range n).map fun i =>
      let mine := (blks.drop (per * i)).take per
      { typ := 1, vc, dst, mask, tag, offset := ((mine.head?.map (·.1)).getD 0) * fmtBytes f / 64, last := i + 1 == n
        payload := mine.flatMap fun x => narrowBlock code x.2 }

end Sys2Proof.Machine
end

