-- ==== Sys2Proof/Machine/Collectives.lean ====
section
/-! DEFINITION. Collectives, sends and receives (R19, R22, R23, R245 to R251, R387 to R395, R402, R403): how they start,
what arriving data do, how they end, and their timeouts. The verdict's exchange is here; what it applies is in Verdict. -/

namespace Sys2Proof.Machine

/-! ### Shared -/

/-- Take the output pages of a descriptor into Vale or the Basin; false where R23 or a fetch holds the write. -/
def ensureOutputs (r : Ref) (s : State) : State × Bool :=
  bringForWrite r.t.job (r.pages (opWrites r.d)) s

/-- The statistics record and step maximum of an output whose bytes were placed as they came (R156, R158). -/
def placedOutput (r : Ref) (s : State) : State := noteWrite r (r.slotView 0) (placedSum s r.t.job (r.slotView 0)) s

/-- The owner mask that a descriptor's source data carry (R46). -/
def sourceMask (s : State) (r : Ref) : Nat := masksOf s r.t.job (opReads r.d)

/-- Change a collective. -/
def modColl (t : TaskRef) (f : Coll → Coll) (s : State) : State :=
  modJob t.job (fun b => { b with colls := b.colls.map fun c => if c.task = t then f c else c }) s

/-- The collective of a descriptor. -/
def collAt (s : State) (t : TaskRef) : Option Coll := (tget s.jobs t.job).bind fun b => b.colls.find? fun c => c.task == t

/-- A collective ends: it leaves the list and its descriptor retires. -/
def endColl (t : TaskRef) (s : State) : State :=
  retire t (modJob t.job (fun b => { b with colls := b.colls.filter fun c => c.task != t }) s)

/-! ### The transfers that a member expects -/

/-- Narrowing code of a descriptor (R245). -/
def narrowCodeOf (d : Bytes) : Nat := rd d 32 1 % 4

/-- Chunk `c`'s element numbers of a reduction. -/
def collChunk (c : Coll) (x : TV) (sd k : Nat) : List Nat := chunkElems (c.kind == 0x23) x.ext sd c.members.length k

/-- Shard dimension of a collective: the input's (R245). -/
def shardDim (r : Ref) : Nat := tShard (((tget r.b.tensors (dT r.d 1)).map (·.raw)).getD [])

/-- The level at which a rank is a peer of this member, if it is one. -/
def peerLevel (c : Coll) (q : Nat) : Option Nat :=
  ((List.range (levels c.radices)).map (· + 1)).find? fun l => q != c.rank && (levelPeers c.radices c.rank l).contains q

/-- What a rank is to send, in order: the level, and its bytes; level 0 stands for a whole input, a verdict's word, or the
final chunk of an all_reduce. Nothing is sent where there are no bytes. -/
def expected (c : Coll) (r : Ref) (q : Nat) : List (Nat × Nat) :=
  let x := r.slotView 1
  if c.kind = 0x26 then [(0, 16)]
  else if c.kind = 0x21 then (if tensorBytes x = 0 then [] else [(0, tensorBytes x)])
  else
    let sd := shardDim r
    let reduce := match peerLevel c q with
      | none => []
      | some l => [(l, transferBytes (narrowCodeOf r.d) (crossing x l).1
          ((chunksFor c.radices c.rank c.rank l).map fun k => (collChunk c x sd k).length))]
    let final := if c.kind = 0x23 then [(0, fmtBytes x.fmt * (collChunk c x sd q).length)] else []
    (reduce ++ final).filter fun e => decide (0 < e.2)

/-- Transfers of a rank so far, in order. -/
def gotOf (c : Coll) (q : Nat) : List Transfer := c.got.filter fun t => t.rank == q

/-- The bytes of a rank's transfer of a level, once whole. -/
def transferOf (c : Coll) (r : Ref) (q l : Nat) : Option Bytes :=
  (((expected c r q).zip (gotOf c q)).find? fun x => x.1.1 == l && x.2.done).map (·.2.bytes)

/-- A rank's transfer of a level has come, or it sends none. -/
def hasCome (c : Coll) (r : Ref) (q l : Nat) : Bool :=
  !((expected c r q).any fun e => e.1 == l) || (transferOf c r q l).isSome

/-! ### Reduction (R392, R402) -/

/-- The values that a member brings to level 1: its logical values, with the error-feedback buffer's added (R402); their events. -/
def inputValues (r : Ref) (s : State) (l : List Nat) : List Val × NumFlags :=
  let m := srcOf s r.t.job
  let x := r.slotView 1
  gatherFlags (l.map fun n =>
    let v := logicalN m x n
    match r.optView 2 with
    | none => v
    | some e =>
      let y := logicalN m e n
      let z := addVal v.1 y.1
      (z.1, orFlags v.2 (orFlags y.2 (invalidIf z.2))))

/-- What error feedback writes for the chunks that a member narrows at level 1, by element number; +0 elsewhere. -/
def feedbackOf (c : Coll) (r : Ref) (sd : Nat) : Tab Val :=
  let code := narrowCodeOf r.d
  if (r.optView 2).isNone then []
  else
    let x := r.slotView 1
    let kept := chunksFor c.radices c.rank c.rank 1
    c.parts.foldl (fun t p =>
      let es := collChunk c x sd p.1
      let out : List Val := if kept.contains p.1 then p.2.map fun _ => .zero false
        else (blocks32 p.2).flatMap fun b =>
          if b.any Val.nonFinite then b.map fun _ => Val.zero false
          else (b.zip (narrowed code b)).map fun y => (addVal y.1 (negVal y.2)).1
      (es.zip out).foldl (fun t y => tset t y.1 y.2) t) []

/-- Send the level's transfers to every peer. -/
def sendLevel (t : TaskRef) (s : State) : State :=
  match collAt s t, refOf s t with
  | some c, some r =>
    let x := r.slotView 1
    let cr := crossing x c.level
    ((levelPeers c.radices c.rank c.level).filter (· != c.rank)).foldl (fun s q =>
      let chunks := (chunksFor c.radices c.rank q c.level).map fun k => tgetD c.parts k []
      if chunks.flatten.isEmpty then s
      else sendAll t.job (transferPackets (narrowCodeOf r.d) cr.1 cr.2 c.vc (c.members.getD q 0) (c.mask ||| sourceMask s r) c.tag chunks) s) s
  | _, _ => s

/-- The sums of a level over the contributions of its peers, in increasing digit (R392), with the events of the additions. -/
def sumLevel (c : Coll) (r : Ref) (l : Nat) : Tab (List Val) × NumFlags :=
  let x := r.slotView 1
  let sd := shardDim r
  let cr := crossing x l
  let mine := chunksFor c.radices c.rank c.rank l
  let sizes := mine.map fun k => (collChunk c x sd k).length
  let terms := (levelPeers c.radices c.rank l).map fun q =>
    if q = c.rank then mine.map fun k => tgetD c.parts k []
    else readTransfer (narrowCodeOf r.d) cr.1 cr.2 sizes ((transferOf c r q l).getD [])
  mine.zipIdx.foldl (fun t k =>
    let cols := terms.map fun y => y.getD k.2 []
    let sums := gatherFlags ((List.range (sizes.getD k.2 0)).map fun i =>
      match cols.map fun y => y.getD i (.zero false) with
      | [] => (.zero false, noFlags)
      | a :: rest => rest.foldl (fun acc b =>
          let z := addVal acc.1 b
          let x := roundTo .fp32 z.1
          (x.1, orFlags acc.2 (orFlags x.2 (invalidIf z.2)))) (a, noFlags))
    (tset t.1 k.1 sums.1, orFlags t.2 sums.2)) ([], noFlags)

/-! ### Endings -/

/-- Error-feedback values, written when the collective retires (R403). -/
def writeFeedback (c : Coll) (r : Ref) (s : State) : State :=
  match r.optView 2 with
  | none => s
  | some e =>
    let o := encodeTensor (srcOf s r.t.job) e fun n => (tget c.feedback n).map RealV.val
    raiseFlags (isGap r.t.job) r.core o.2.flags (applyStores r.t.job o.1 s)

/-- A reduction writes its output and retires (R160, R246, R301): bit 7 adds the old output exactly. -/
def finishReduction (c : Coll) (r : Ref) (vals : Nat → Val) (own : Nat → Bool) (s : State) : State :=
  let y := r.slotView 0
  let m := srcOf s r.t.job
  let acc := bit (rd r.d 32 1) 7
  let news := (List.range y.count).map fun n =>
    if acc && own n then
      let old := logicalN m y n
      let z := addVal (vals n) old.1
      (RealV.val z.1, orFlags old.2 (invalidIf z.2), false)
    else (RealV.val (vals n), noFlags, false)
  let fl := (List.range y.count).any fun n => (vals n).nonFinite
  let s := orMasks r.t.job c.mask (opWrites r.d) (finishOp r (oneOut y news) s)
  let bad := fl || (List.range y.count).any fun n => ((logicalN (srcOf s r.t.job) y n).1).nonFinite
  let s := if bad then setOverflow r.t.job 4 s else s
  endColl r.t (writeFeedback c r s)

/-- The final chunk of a member as it is stored (R393). -/
def finalChunk (c : Coll) (r : Ref) (s : State) : List Val :=
  let y := r.slotView 0
  let m := srcOf s r.t.job
  let es := chunkElems true y.ext 0 c.members.length c.rank
  (es.zip (tgetD c.parts c.rank [])).map fun p =>
    let v := if bit (rd r.d 32 1) 7 then (addVal p.2 (logicalN m y p.1).1).1 else p.2
    (mulVal (decodeBits y.fmt (convert y.fmt (mulVal v (.num (1 / y.ts))).1).bits) (.num y.ts)).1

/-- All other ranks of a collective. -/
def otherRanks (c : Coll) : List Nat := (List.range c.members.length).filter (· != c.rank)

/-- Bytes of a rank's shard of an all_gather go to their place in the output, from a byte of the shard on (R390). -/
def putShard (r : Ref) (q off : Nat) (b : Bytes) (s : State) : State :=
  let put := fun (s : State) (z : Nat × Bytes) => poke r.t.job z.1 z.2 s
  (coalesce (b.zipIdx.map fun z => (shardAddr (r.slotView 0) (r.slotView 1) (shardDim r) q (off + z.2), z.1))).foldl put s

/-- Go on with a collective as far as what has come allows: fuel. -/
def advance : Nat → TaskRef → State → State
  | 0, _, s => s
  | k + 1, t, s =>
    match collAt s t, refOf s t with
    | some c, some r =>
      let x := r.slotView 1
      let y := r.slotView 0
      let n := levels c.radices
      if c.kind = 0x26 then s
      else if c.kind = 0x21 then
        if (otherRanks c).all fun q => hasCome c r q 0 then
          let e := ensureOutputs r s
          if ¬ e.2 then e.1
          else
            let s := putShard r c.rank 0 c.own e.1
            endColl t (placedOutput r (orMasks t.job (c.mask ||| sourceMask s r) (opWrites r.d) s))
        else s
      else if c.level ≤ n then
        if (levelPeers c.radices c.rank c.level).all fun q => q == c.rank || hasCome c r q c.level then
          let next := c.level + 1
          let s := raiseFlags (isGap t.job) r.core (sumLevel c r c.level).2
            (modColl t (fun c => { c with parts := (sumLevel c r c.level).1, level := next }) s)
          if next ≤ n then advance k t (sendLevel t s)
          else if c.kind = 0x22 then advance k t s
          else
            let e := ensureOutputs r s
            if ¬ e.2 then modColl t (fun d => { d with parts := c.parts, level := c.level }) e.1
            else
              match collAt e.1 t with
              | none => e.1
              | some c =>
                let fin := finalChunk c r e.1
                let s := if fin.isEmpty then e.1
                  else (otherRanks c).foldl (fun s q =>
                    sendAll t.job (cutTransfer 1 c.vc (c.members.getD q 0) (c.mask ||| sourceMask s r) c.tag (encVals y.fmt y.ts fin)) s) e.1
                advance k t s
        else s
      else if c.kind = 0x22 then
        let e := ensureOutputs r s
        if ¬ e.2 then e.1
        else
          let l := (tgetD c.parts c.rank []).toArray
          finishReduction c r (fun i => l.getD i (.zero false)) (fun _ => true) e.1
      else if (otherRanks c).all fun q => hasCome c r q 0 then
        let e := ensureOutputs r s
        if ¬ e.2 then e.1
        else
          let all := (List.range c.members.length).flatMap fun q =>
            if q = c.rank then tgetD c.parts q []
            else decVals y.fmt y.ts (collChunk c x 0 q).length ((transferOf c r q 0).getD [])
          let l := all.toArray
          let mine := collChunk c x 0 c.rank
          finishReduction c r (fun i => l.getD i (.zero false)) (fun i => mine.contains i) e.1
      else s
    | _, _ => s

/-- Go on with a collective. -/
def goOn (t : TaskRef) (s : State) : State := advance 6 t s

/-! ### Starting -/

/-- The tag that the next collective of a group takes, counting it as issued (R389). -/
def takeTag (i : Nat) (s : State) : Nat × State :=
  match objAt s i with
  | some { data := .group g, .. } =>
    (g.issued % 65536, modObj i (fun o => { o with data := .group { g with issued := g.issued + 1 } }) s)
  | _ => (0, s)

/-- A collective as its descriptor and group say it, under a tag. -/
def collBase (r : Ref) (grp : Group) (tag : Nat) : Coll :=
  { task := r.t, kind := dOp r.d, vc := rd r.d 31 1, tag, members := grp.members, rank := grp.rank, radices := grp.radices }

/-- An all_gather whose input is there: it goes to every other member (R392). -/
def startGathering (r : Ref) (grp : Group) (s : State) : State :=
  let tag := takeTag (rd r.d 28 2) s
  let s := setRunning r 0 tag.2
  let base := collBase r grp tag.1
  let own := tensorSlice (srcOf s r.t.job) (r.slotView 1) 0 (tensorBytes (r.slotView 1))
  let s := modJob r.t.job (fun b => { b with colls := b.colls ++ [{ base with own }] }) s
  let s := if own.isEmpty then s
    else (otherRanks base).foldl (fun s q =>
      sendAll r.t.job (cutTransfer 1 base.vc (grp.members.getD q 0) (sourceMask s r) base.tag own) s) s
  goOn r.t s

/-- A reduction whose input is there: its values are taken chunk by chunk, and its first level is sent (R393, R394). -/
def startReducing (r : Ref) (grp : Group) (s : State) : State :=
  let tag := takeTag (rd r.d 28 2) s
  let s := setRunning r 0 tag.2
  let base := collBase r grp tag.1
  let sd := shardDim r
  let ins := (List.range grp.members.length).map fun k => inputValues r s (collChunk base (r.slotView 1) sd k)
  let s := raiseFlags (isGap r.t.job) r.core ((ins.map (·.2)).foldl orFlags noFlags) s
  let c := { base with parts := (List.range grp.members.length).foldl (fun t k => tset t k (inputValues r s (collChunk base (r.slotView 1) sd k)).1) [] }
  let c := { c with feedback := feedbackOf c r sd }
  goOn r.t (sendLevel r.t (modJob r.t.job (fun b => { b with colls := b.colls ++ [c] }) s))

/-- Start a collective (R389): its inputs resident, its values taken, its first transfers sent. -/
def collStart (r : Ref) (s : State) : State :=
  match groupOf s r.d with
  | none => programFault r.t 0x67 s
  | some grp =>
    let ins := bringPages r.t.job (r.pages (opReads r.d)) s
    if ¬ ins.2 then ins.1
    else if (badRead r ins.1).isSome then lineFails ((badRead r ins.1).getD 0) 0 (some r.t) ins.1
    else if dOp r.d = 0x21 then startGathering r grp ins.1
    else startReducing r grp ins.1

/-- The Proends of a job that this one knows: its lead, the members of its keying, and its peers. -/
def knownMembers (s : State) (j : Nat) : List Nat :=
  ((((tget s.jobs j).map fun b => b.lead :: b.keying.members).getD []) ++ jobPeers s j ++ [deviceAddress s]).eraseDups

/-- Start a verdict (R250, R251): its step must be the verdict count, no other verdict of the step may be in progress, and its group must
hold every Proend of the job; the word and the step go to every member. -/
def verdictStart (r : Ref) (s : State) : State :=
  match groupOf s r.d with
  | none => programFault r.t 0x67 s
  | some grp =>
    let step := rd r.d 32 8
    if step ≠ r.b.num.verdicts ∨ (r.b.colls.any fun c => c.kind == 0x26) then verdictFault r.t s
    else if ¬ (knownMembers s r.t.job).all grp.members.contains then taskFault r.t 0x66 s
    else
      let tag := takeTag (rd r.d 28 2) s
      let own := leBytes 8 r.b.num.word ++ leBytes 8 step
      let c : Coll := { task := r.t, kind := 0x26, vc := 0, tag := tag.1, members := grp.members, rank := grp.rank
                        radices := grp.radices, own }
      let s := modJob r.t.job (fun b => { b with colls := b.colls ++ [c] }) (setRunning r 0 tag.2)
      (otherRanks c).foldl (fun s q => sendAll r.t.job (cutTransfer 1 0 (grp.members.getD q 0) 0 c.tag own) s) s

/-! ### Sends and receives (R248, R249) -/

/-- The peer of a send or receive. -/
def xferPeer (d : Bytes) : Nat := rd d 28 4 % 2 ^ 20

/-- Change a transfer. -/
def modXfer (t : TaskRef) (f : Xfer → Xfer) (s : State) : State :=
  modJob t.job (fun b => { b with xfers := b.xfers.map fun x => if x.task = t then f x else x }) s

/-- A transfer ends. -/
def endXfer (t : TaskRef) (s : State) : State :=
  retire t (modJob t.job (fun b => { b with xfers := b.xfers.filter fun x => x.task != t }) s)

/-- A byte count does not match: the job faults, and so does the peer's copy (R249). -/
def mismatch (t : TaskRef) (peer vc tag : Nat) (s : State) : State := taskFault t 0x66 (errorTo t.job peer vc 0x66 tag s)

/-- A send that has its clear-to-send transmits (R249). -/
def transmit (r : Ref) (want : Nat) (s : State) : State :=
  let x := r.slotView 1
  let n := tensorBytes x
  if n ≠ want then mismatch r.t (xferPeer r.d) (rd r.d 32 1) (rd r.d 34 2) s
  else if (badRead r s).isSome then lineFails ((badRead r s).getD 0) 0 (some r.t) s
  else
    let data := tensorSlice (srcOf s r.t.job) x 0 n
    sendAll r.t.job (cutTransfer 1 (rd r.d 32 1) (xferPeer r.d) (sourceMask s r) (rd r.d 34 2) data)
      (modXfer r.t (fun x => { x with cleared := true }) s)

/-- Start a send: it transmits if its clear-to-send has come. -/
def sendStart (r : Ref) (s : State) : State :=
  let e := ensurePages r s
  if ¬ e.2 then e.1
  else
    let x : Xfer := { task := r.t, peer := xferPeer r.d, tag := rd r.d 34 2, vc := rd r.d 32 1, isSend := true }
    let s := modJob r.t.job (fun b => { b with xfers := b.xfers ++ [x] }) (setRunning r 0 e.1)
    match r.b.clears.find? fun c => c.1 == x.peer && c.2.1 == x.tag with
    | none => s
    | some c => transmit r c.2.2 (modJob r.t.job (fun b => { b with clears := b.clears.erase c }) s)

/-- Start a receive: a clear-to-send goes to its peer. -/
def receiveStart (r : Ref) (s : State) : State :=
  let e := ensurePages r s
  if ¬ e.2 then e.1
  else
    let x : Xfer := { task := r.t, peer := xferPeer r.d, tag := rd r.d 34 2, vc := rd r.d 32 1, isSend := false }
    let s := modJob r.t.job (fun b => { b with xfers := b.xfers ++ [x] }) (setRunning r 0 e.1)
    sendOrFault r.t.job { typ := 2, vc := x.vc, dst := x.peer, tag := x.tag, payload := leBytes 8 (tensorBytes (r.slotView 0)) } s

/-- A clear-to-send arrives: the oldest send of the peer and tag that has none transmits, or it waits for one. -/
def clearArrives (j src tag want : Nat) (s : State) : State :=
  match tget s.jobs j with
  | none => s
  | some b =>
    match b.xfers.find? fun x => x.isSend && !x.cleared && x.peer == src && x.tag == tag with
    | none => modJob j (fun b => { b with clears := b.clears ++ [(src, tag, want)] }) s
    | some x =>
      match refOf s x.task with
      | none => s
      | some r => transmit r want s

/-- A placement acknowledgement arrives: the oldest send of the peer and tag that has transmitted retires. -/
def placementArrives (j src tag placed : Nat) (s : State) : State :=
  match tget s.jobs j with
  | none => s
  | some b =>
    match b.xfers.find? fun x => x.isSend && x.cleared && x.peer == src && x.tag == tag with
    | none => s
    | some x =>
      match refOf s x.task with
      | none => s
      | some r => if tensorBytes (r.slotView 1) ≠ placed then taskFault x.task 0x66 s else endXfer x.task s

/-- Data of a send arrive at an open receive: each packet is written when it comes (R29, R44); the last is acknowledged, and the receive
retires. -/
def receiveData (x : Xfer) (off mask : Nat) (last : Bool) (data : Bytes) (s : State) : State :=
  match refOf s x.task with
  | none => s
  | some r =>
    let v := r.slotView 0
    let got := x.got ++ data
    if off * 64 ≠ x.got.length ∨ tensorBytes v < got.length ∨ (last ∧ got.length ≠ tensorBytes v) then
      mismatch r.t x.peer x.vc x.tag s
    else
      let s := modXfer x.task (fun x => { x with got, mask := x.mask ||| mask }) s
      let s := (coalesce (data.zipIdx.map fun z => (byteAddr v (x.got.length + z.2), z.1))).foldl (fun s z => engineWrite r.t.job z.1 z.2 s) s
      let s := orMasks r.t.job (x.mask ||| mask) (opWrites r.d) s
      if ¬ last then s
      else
        let s := placedOutput r s
        let s := sendOrFault r.t.job { typ := 3, vc := x.vc, dst := x.peer, tag := x.tag, payload := leBytes 8 got.length } s
        endXfer x.task s

/-! ### Arriving data -/

/-- What becomes of a data packet: it is used up, or it waits in its buffer. -/
inductive Taken where
  | used
  | held
deriving DecidableEq, Repr

/-- The transfer of a rank that data go to: its place among the rank's transfers, with level and bytes. -/
def openTransfer (c : Coll) (r : Ref) (q : Nat) : Option (Nat × Nat × Nat) :=
  let got := gotOf c q
  ((expected c r q).zipIdx.find? fun x => !((got[x.2]?).map (·.done)).getD false).map fun x => (x.2, x.1)

/-- Add data to the newest open transfer of a rank. -/
def addTransfer (q : Nat) (data : Bytes) (last : Bool) (l : List Transfer) : List Transfer :=
  if l.any fun t => t.rank == q && !t.done then
    l.map fun t => if t.rank = q ∧ ¬ t.done then { t with bytes := t.bytes ++ data, done := last } else t
  else l ++ [⟨q, data, last⟩]

/-- Where the payload of a packet stands in its transfer, in units of 64 bytes of the transfer without narrowing (R395). -/
def offsetOf (c : Coll) (r : Ref) (l got : Nat) : Nat :=
  let code := if l = 0 then 0 else narrowCodeOf r.d
  if code = 0 then got / 64
  else
    let x := r.slotView 1
    let sizes := (chunksFor c.radices c.rank c.rank l).map fun k => (collChunk c x (shardDim r) k).length
    let blk := got / narrowSize code
    let pos := (sizes.foldl (fun (acc : Nat × Nat) n =>
      let k := ceilDiv n 32
      if k ≤ acc.1 then (acc.1 - k, acc.2 + n) else (0, acc.2 + 32 * acc.1)) (blk, 0)).2
    pos * fmtBytes (crossing x l).1 / 64

/-- Data that do not match a collective fault the job: a verdict's by its own check (R251, R389). -/
def collFault (c : Coll) (s : State) : State := if c.kind = 0x26 then verdictFault c.task s else taskFault c.task 0x66 s

/-- Data of a member arrive at a collective (R389, R395): an all_gather writes them to its output when they come (R29); those of a
reduction are in their destination once the collective holds them. -/
def collData (c : Coll) (src off mask : Nat) (last : Bool) (data : Bytes) (s : State) : State × Taken :=
  match refOf s c.task with
  | none => (s, .used)
  | some r =>
    let q := c.members.idxOf src
    match openTransfer c r q with
    | none => (collFault c s, .used)
    | some (k, l, size) =>
      let so := ((gotOf c q)[k]?).map (·.bytes.length) |>.getD 0
      if off ≠ offsetOf c r l so ∨ size < so + data.length ∨ (last ∧ so + data.length ≠ size) ∨
          (c.kind = 0x26 ∧ rd data 8 8 ≠ rd c.own 8 8) then (collFault c s, .used)
      else
        let e := if c.kind = 0x21 then ensureOutputs r s
          else if c.kind = 0x22 ∨ c.kind = 0x23 then
            let g := (r.pages (opWrites r.d)).filter fun p => (dirAt s c.task.job p).gradient
            g.foldl (fun acc p => let x := gradientWrite c.task.job p acc.1; (x.1, acc.2 && x.2)) (s, true)
          else (s, true)
        if ¬ e.2 then (e.1, .held)
        else
          let s := modColl c.task (fun c => { c with got := addTransfer q data last c.got, mask := c.mask ||| mask }) e.1
          let s := if c.kind = 0x21 then orMasks c.task.job mask (opWrites r.d) (putShard r q so data s) else s
          (if last then goOn c.task s else s, .used)

/-- A member of a group of the job, whose collective with a tag is still to be issued here. -/
def tagToCome (s : State) (j src tag : Nat) : Bool :=
  s.objects.objs.any fun o => o.2.job == some j && (match o.2.data with
    | .group g => g.members.contains src && decide ((tag + 65536 - g.issued % 65536) % 65536 < 32768)
    | _ => false)

/-- The source is a member of some group of the job. -/
def inGroup (s : State) (j src : Nat) : Bool :=
  s.objects.objs.any fun o => o.2.job == some j && (match o.2.data with | .group g => g.members.contains src | _ => false)

/-- A data packet arrives for a job (R389, R395, R249): to an open receive, to a collective, or to wait for one, as for a
receive that has not been posted (R373). -/
def dataArrives (j src vc tag off mask : Nat) (last : Bool) (data : Bytes) (s : State) : State × Taken :=
  match tget s.jobs j with
  | none => (s, .used)
  | some b =>
    let recv := fun (same : Bool) => b.xfers.find? fun x =>
      !x.isSend && x.peer == src && x.tag == tag && (!same || x.vc / 2 == vc / 2)
    match recv true with
    | some x => (receiveData x off mask last data s, .used)
    | none =>
      match b.colls.find? fun c => c.tag == tag && c.members.contains src && c.vc / 2 == vc / 2 with
      | some c => collData c src off mask last data s
      | none =>
        match recv false with
        | some x => (receiveData x off mask last data s, .used)
        | none =>
          if tagToCome s j src tag then (s, .held)
          else if inGroup s j src then (mechFault j 0x66 s, .used)
          else (s, .held)

/-! ### Commands -/

/-- SEND. -/
def execSend (t : TaskRef) (s : State) : Host.Outcome State Fault Refusal :=
  .next (settle (withDesc t 0x24 sendStart s))

/-- A collective or a Saddle gather that has not retired when its group's timeout ends faults the job (R389, R220). -/
def collTimeout (t : TaskRef) (s : State) : State :=
  if (collAt s t).isSome ∨ (gatherAt s t false).isSome ∨ (gatherAt s t true).isSome then taskFault t 0x64 s else s

/-- COLLECTIVE_TIMEOUT. -/
def execCollectiveTimeout (t : TaskRef) (s : State) : Host.Outcome State Fault Refusal :=
  .next (if alive s then settle (collTimeout t s) else s)

/-- The timeout of a send or receive ends (R248); a timeout of 0 never does. -/
def xferTimeout (t : TaskRef) (s : State) : State :=
  match refOf s t with
  | none => s
  | some r => if (r.b.xfers.any fun x => x.task == t) ∧ rd r.d 36 4 ≠ 0 then taskFault t 0x64 s else s

/-- TRANSFER_TIMEOUT. -/
def execTransferTimeout (t : TaskRef) (s : State) : Host.Outcome State Fault Refusal :=
  .next (if alive s then settle (xferTimeout t s) else s)

end Sys2Proof.Machine
end

