-- ==== Sys2Proof/Machine/Deliver.lean ====
section
/-! DEFINITION. How checked packets reach their operations: request-class packets that an endpoint cannot take yet wait in the
receive buffer and stall their channel (R23, R29, R373), packets in transit go on (R374 to R376), and the commands that can
take up what waited. -/

namespace Sys2Proof.Machine

/-- Credit units of a packet by its header (R365). -/
def unitsBy (b : Bytes) : Nat := ceilDiv (48 + pLength b) 64

/-- Add one to a counter of a job: 0 drops by the replay check, 1 by the tag check (R368), 2 fence signals refused (R455). -/
def bumpJob (j k : Nat) (s : State) : State :=
  modJob j (fun b => { b with counters := tset b.counters k (tgetD b.counters k 0 + 1) }) s

/-! ### Wanted descriptors (R523) -/

/-- The descriptor that data of a source and a tag are for before it has started: the collective that will take the tag, counting
those of its group in the order of submission (R389). -/
def dataFor (s : State) (j src tag : Nat) : Option TaskRef :=
  match tget s.jobs j with
  | none => none
  | some b =>
    let later := b.subs.flatMap fun u => (u.2.descs.zipIdx.filter fun x => (dOp x.1 == 0x21 || dOp x.1 == 0x22 || dOp x.1 == 0x23 ||
      dOp x.1 == 0x26) && !begun u.2 x.2).map fun x => ((⟨j, u.1, x.2⟩ : TaskRef), rd x.1 28 2)
    s.objects.objs.findSome? fun o => match o.2.data with
      | .group g =>
        if o.2.job = some j ∧ g.members.contains src then
          ((later.filter fun x => x.2 == o.1)[(tag + 65536 - g.issued % 65536) % 65536]?).map (·.1)
        else none
      | _ => none

/-- The receive that data of a source and a match tag are for before it has started: the first in the order of submission (R249, R373). -/
def receiveFor (s : State) (j src tag : Nat) : Option TaskRef :=
  (tget s.jobs j).bind fun b => b.subs.findSome? fun u =>
    (u.2.descs.zipIdx.find? fun x => dOp x.1 == 0x25 && !begun u.2 x.2 && xferPeer x.1 == src && rd x.1 34 2 == tag).map fun x => ⟨j, u.1, x.2⟩

/-- A descriptor and those that it depends on, as far as none lies in a span: fuel. -/
def wantClosure (u : Sub) : Nat → List Nat → List Nat
  | 0, l => l
  | k + 1, l =>
    let next := (l ++ l.flatMap fun i => (depsOf (u.descs.getD i []) i)).eraseDups
    if next.length = l.length then l else wantClosure u k next

/-- The descriptors that waiting data of a job make wanted; a span is never wanted. -/
def wantedBy (s : State) (j : Nat) : List TaskRef :=
  let data := s.pass.ports.flatMap fun p => p.waiting.filterMap fun x =>
    if x.1 = some j ∧ pType x.2 = 1 then (dataFor s j (pSrc x.2) (pTag x.2)).or (receiveFor s j (pSrc x.2) (pTag x.2)) else none
  (data.flatMap fun t => match getSub s j t.sub with
    | none => []
    | some u => ((wantClosure u u.descs.length [t.desc]).filter fun i => (spanPos u i).isNone).map fun i => { t with desc := i }).eraseDups

/-- Mark what waiting data make wanted, once a capture's enter has come. -/
def markWanted (j : Nat) (s : State) : State :=
  match tget s.jobs j with
  | none => s
  | some b =>
    if b.capture.phase = .entered then
      let w := wantedBy s j
      modJob j (fun b => { b with capture := { b.capture with wanted := (b.capture.wanted ++ w).eraseDups } }) s
    else s

/-! ### Read requests (R243, R281, R364) -/

/-- Pages of a range of a tensor's bytes: brought in, and true once all are there. -/
def ensureBytes (j : Nat) (v : TV) (off n : Nat) (s : State) : State × Bool :=
  bringPages j ((List.range n).filterMap fun i => windowPage (byteAddr v (off + i))).eraseDups s

/-- Serve a read request: bytes of the tensor with the logical_id, at their place in the transfer of the tensor's bytes (log 30).
The output of an uncommitted span waits for its commit (R19). A read that meets a line which fails faults the job, and after a Vale integrity error has faulted it the answer is 0x61. -/
def serveRead (j : Nat) (b : Bytes) (s : State) : State × Taken :=
  let req := pPayload b
  let off := rd req 8 8
  let n := rd req 4 4
  let refuse := fun (code : Nat) => (errorTo j (pSrc b) (pVc b) code (pTag b) s, Taken.used)
  match tget s.jobs j with
  | none => (s, .used)
  | some job =>
    match (byLogical job (rd req 0 4)).bind fun i => (viewOf job 0 0 none i) with
    | none => refuse 0x66
    | some v =>
      if tensorBytes v < off + n then refuse 0x66
      else if job.fault = some 0x61 then refuse 0x61
      else if writtenUncommitted job v.idx then (s, .held)
      else
        let e := ensureBytes j v off n s
        if ¬ e.2 then (e.1, .held)
        else if (badLine e.1 j ((List.range n).map fun i => byteAddr v (off + i))).isSome then
          (errorTo j (pSrc b) (pVc b) 0x61 (pTag b)
            (lineFails ((badLine e.1 j ((List.range n).map fun i => byteAddr v (off + i))).getD 0) 0 none e.1), .used)
        else
          let ps := (cutTransfer 5 (pVc b) (pSrc b) (ownerMask s j v.idx) (pTag b) (tensorSlice (srcOf e.1 j) v off n)).map fun p =>
            { p with offset := off / 64 + p.offset }
          (sendAll j ps e.1, .used)

/-! ### Fence signals (R383, R448, R455) -/

/-- A fence signal packet: applied to a live fence of the job that is shared with devices and has its generation, or refused with
an error packet. It waits while its fence has no slot. -/
def fencePacket (j : Nat) (b : Bytes) (s : State) : State × Taken :=
  let p := pPayload b
  let i := rd p 0 2
  let refused := (bumpJob j 2 (errorTo j (pSrc b) (pVc b) 0x67 (pTag b) s), Taken.used)
  match objAt s i with
  | some { data := .fence f, job := owner, .. } =>
    if owner = some j ∧ f.sharedDevices ∧ genOf s i = rd p 2 1 then
      if i ∈ s.objects.resident ∨ s.objects.resident.length < 64 then (applySignal i (rd p 8 8) s, .used)
      else (touchFence i s, .held)
    else refused
  | _ => refused

/-! ### Transit (R374 to R376) -/

/-- Forward a packet that a port received: routed, or dropped and counted with its units given back. -/
def forward (port : Nat) (b : Bytes) (s : State) : State :=
  let drop := fun (i : Nat) => freeBuffer port (pVc b) (creditUnits b) (bumpPort port i s)
  match route s (pDst b) (pSrc b) (pVc b) (pHops b) (some port) with
  | .noRoute => drop 6
  | .hopLimit => drop 7
  | .here => drop 6
  | .out n vc => egress n vc (some (port, pVc b)) (setHops (pHops b + 1) (setVc vc b)) s

/-! ### Waiting packets -/

/-- Give a checked request-class packet of a job to its operation: its header, and its payload in plain. -/
def takeRequest (j : Nat) (b : Bytes) (s : State) : State × Taken :=
  match pType b with
  | 1 =>
    let r := dataArrives j (pSrc b) (pVc b) (pTag b) (pOffset b) (pMask b) (pLast b) (pPayload b) s
    match r.2 with
    | .used => (modJob j (fun b => { b with capture := { b.capture with placed := b.capture.placed + 1 } }) r.1, .used)
    | .held => r
  | 4 => serveRead j b s
  | 6 => fencePacket j b s
  | _ => (s, .used)

/-- Add a packet to those that wait at a port. -/
def addWaiting (port : Nat) (x : Option Nat × Bytes) (s : State) : State :=
  modPort port (fun p => { p with waiting := p.waiting ++ [x] }) s

/-- A channel of a port is stalled: a packet of it waits (R373). -/
def stalled (s : State) (port vc : Nat) : Bool := (portAt s port).waiting.any fun x => pVc x.2 == vc

/-- Try a request-class packet: it is used and its buffer freed, or it waits. -/
def tryPacket (port : Nat) (x : Option Nat × Bytes) (s : State) : State :=
  match x.1 with
  | none => forward port x.2 s
  | some j =>
    let r := takeRequest j x.2 s
    match r.2 with
    | .used => freeBuffer port (pVc x.2) (unitsBy x.2) r.1
    | .held => markWanted j (addWaiting port x r.1)

/-- Try again what waits at a port, each channel in the order its packets came. -/
def retryPort (port : Nat) (s : State) : State :=
  let l := (portAt s port).waiting
  let s := modPort port (fun p => { p with waiting := [] }) s
  l.foldl (fun s x => if stalled s port (pVc x.2) then addWaiting port x s else tryPacket port x s) s

/-- Whatever waited goes on as far as it can: the packets at every port, and the collectives of a job. -/
def retryHeld (j : Nat) (s : State) : State :=
  let s := ((List.range 32).filter fun n => !(portAt s n).waiting.isEmpty).foldl (fun s n => retryPort n s) s
  (((tget s.jobs j).map fun b => b.colls.map (·.task)).getD []).foldl (fun s t => goOn t s) s

/-- The packets of a job that wait are dropped, and their buffers freed (R57 step 4). -/
def dropWaiting (j : Nat) (s : State) : State :=
  (List.range 32).foldl (fun s n =>
    let p := portAt s n
    let mine := p.waiting.filter fun x => x.1 == some j
    mine.foldl (fun s x => freeBuffer n (pVc x.2) (unitsBy x.2) s)
      (if mine.isEmpty then s else modPort n (fun p => { p with waiting := p.waiting.filter fun x => x.1 != some j }) s)) s

/-! ### Commands -/

/-- SPAN_COMMIT: reads of the span's output that wait go on (R19). -/
def execSpanCommit (job sub span : Nat) (s : State) : Host.Outcome State Fault Refusal :=
  .next (settle (retryHeld job (withSpan job sub span (commitSpan job sub) s)))

/-- ALL_GATHER. -/
def execAllGather (t : TaskRef) (s : State) : Host.Outcome State Fault Refusal :=
  .next (settle (retryHeld t.job (withDesc t 0x21 collStart s)))

/-- REDUCE_SCATTER. -/
def execReduceScatter (t : TaskRef) (s : State) : Host.Outcome State Fault Refusal :=
  .next (settle (retryHeld t.job (withDesc t 0x22 collStart s)))

/-- ALL_REDUCE. -/
def execAllReduce (t : TaskRef) (s : State) : Host.Outcome State Fault Refusal :=
  .next (settle (retryHeld t.job (withDesc t 0x23 collStart s)))

/-- RECEIVE. -/
def execReceive (t : TaskRef) (s : State) : Host.Outcome State Fault Refusal :=
  .next (settle (retryHeld t.job (withDesc t 0x25 receiveStart s)))

/-- VERDICT. -/
def execVerdict (t : TaskRef) (s : State) : Host.Outcome State Fault Refusal :=
  .next (settle (retryHeld t.job (withDesc t 0x26 verdictStart s)))

/-- FENCE_EVICTION_DONE. -/
def execFenceEvictionDone (slot : Nat) (s : State) : Host.Outcome State Fault Refusal :=
  .next (settle (retryHeld 0 (evictionDone slot s)))

end Sys2Proof.Machine
end

