-- ==== Sys2Proof/Machine/Keys.lean ====
section
/-! DEFINITION. Glen's key slots, the keys that it derives, its reports and certificate, and the engines' use of them
(R34, R487 to R501, R505 to R507). -/

namespace Sys2Proof.Machine

/-! ### Slots -/

/-- An attribute word (R489). -/
def attrWord (cls key j owner low : Nat) : Nat :=
  cls * 2 ^ 24 + key % 256 * 2 ^ 16 + partOf j % 16 * 2 ^ 12 + (isGap j).toNat * 2 ^ 11 + owner % 16 * 2 ^ 7 + low

/-- The owner index of an attribute word. -/
def attrOwner (a : Nat) : Nat := bits a 10 7

/-- The class of an attribute word. -/
def attrClass (a : Nat) : Nat := bits a 27 24

/-- The slot belongs to a job index and is of a job-scoped class (R489). -/
def attrOf (a j : Nat) : Bool := decide (6 ≤ attrClass a) && bits a 15 12 == partOf j && bit a 11 == isGap j

/-- Slots that changes waiting for the mirror have taken (R476). -/
def promisedSlots (s : State) : List Nat :=
  s.ledger.deferred.flatMap fun d => match d.change with
    | .createJob _ _ l => l.map (·.1)
    | .jobKey _ _ l => l.map (·.1)
    | .ownerKey _ _ _ _ n => [n]
    | .sweepKey _ k _ => [15 + k]
    | _ => []

/-- The free dynamic slots, lowest first (R488). -/
def freeSlots (s : State) : List Nat :=
  ((List.range 177).map (· + 79)).filter fun n => (tget s.glen.slots n).isNone && !((promisedSlots s).contains n)

/-- Memory key ids that a waiting job creation or sweep has taken. -/
def promisedIds (s : State) : List Nat :=
  s.ledger.deferred.flatMap fun d => match d.change with
    | .createJob _ b _ => [b.keys.anchor]
    | .sweepKey _ k _ => [k]
    | _ => []

/-- The lowest free memory key id (R328). -/
def freeKeyId (s : State) : Option Nat :=
  ((List.range 63).map (· + 1)).find? fun k => (tget s.vale.keyIds k).isNone && !((promisedIds s).contains k)

/-- The detail of a kind 0x04 record (R493). -/
def slotDetail (n : Nat) (k : KeySlot) : Bytes :=
  leBytes 1 n ++ leBytes 4 k.attr ++ (hmac k.material (ascii "mutrum check")).take 8

/-- A kind 0x04 record: 1 created, before its effect; 2 and 3 destroyed. -/
def slotRecord (action n jobId : Nat) (k : KeySlot) (s : State) : State :=
  ledger 0x04 action 0x04 0xFF 0xFFFF 0xFF (action == 1) jobId (slotDetail n k) s

/-- The id of the job that an attribute word names; 0 for a slot of Glen's own (R473, R489). -/
def slotJobId (s : State) (a : Nat) : Nat :=
  if attrClass a < 6 then 0
  else ((s.jobs.find? fun x => attrOf a x.1).map (·.2.id)).getD 0

/-- Put a slot in place; its record is written before. -/
def fillSlot (n : Nat) (k : KeySlot) (s : State) : State :=
  { s with glen := { s.glen with slots := tset s.glen.slots n k } }

/-- Destroy a slot with its record (R481, R493); destruction waits for nothing. -/
def destroySlot (action n : Nat) (s : State) : State :=
  match tget s.glen.slots n with
  | none => s
  | some k => slotRecord action n (slotJobId s k.attr) k { s with glen := { s.glen with slots := terase s.glen.slots n } }

/-- After the flush, Glen destroys a retiring key id's slot, the key id is free, and a record is written (R336). -/
def keyIdFree (k : Nat) (s : State) : State :=
  match tget s.vale.keyIds k with
  | none => s
  | some x =>
    if ¬ x.retiring then s
    else
      let s := destroySlot 3 (15 + k) s
      let s := { s with vale := { s.vale with keyIds := terase s.vale.keyIds k } }
      ledgerSelf 0x05 1 (partOf x.job) false (((tget s.jobs x.job).map (·.id)).getD 0) (leBytes 1 k) s

/-- The root is usable: neither zeroised nor lost (R484, R487). -/
def rootAlive (s : State) : Bool := !s.glen.rootLost && !s.glen.tamperLatched

/-! ### Derived keys (R494, R495) -/

/-- A memory key: the allocation number rises until the halves of the XTS key differ. -/
def memoryKey (s : State) (secret : Bytes) (jobId key alloc : Nat) : Nat × Bytes :=
  go 4 alloc
where
  /-- One derivation after another: fuel. -/
  go : Nat → Nat → Nat × Bytes
    | 0, n => (n, one n)
    | k + 1, n => if sub (one n) 0 32 = sub (one n) 32 32 then go k (n + 1) else (n, one n)
  /-- The derivation under an allocation number. -/
  one (n : Nat) : Bytes :=
    derive s.glen.measurement (s.glen.root ++ secret) "mutrum vale" (leBytes 4 jobId ++ leBytes 1 key ++ leBytes 8 n) 96

/-- The slots of a job that holds its job key: job key, link, Steppe and checkpoint keys, and the anchor's (R491, R494). -/
def jobSlots (s : State) (j : Nat) (b : Job) (link : Nat) (free : List Nat) : List (Nat × KeySlot) :=
  let at' := fun (i : Nat) => free.getD i 0
  [(at' 0, ⟨b.keys.secret, attrWord 8 0 j 0 0x41⟩),
   (15 + b.keys.anchor, ⟨(memoryKey s b.keys.secret b.id b.keys.anchor 1).2, attrWord 6 b.keys.anchor j 0 0x21⟩),
   (at' 1, ⟨linkKey b, attrWord 0xA link j 0 0x21⟩),
   (at' 2, ⟨steppeKey b, attrWord 0xB 0 j 0 0x21⟩), (at' 3, ⟨ckptKey b, attrWord 0xC 0 j 0 0x21⟩)]

/-- The link key id that the slots of a job name (R489). -/
def linkIdOf (slots : List (Nat × KeySlot)) : Option Nat :=
  (slots.find? fun x => attrClass x.2.attr == 0xA).map fun x => bits x.2.attr 23 16

/-- The lowest link key id that is free and not taken by a change that waits. -/
def freeLink (s : State) : Nat :=
  let promised := s.ledger.deferred.filterMap fun d => match d.change with
    | .createJob _ _ l => linkIdOf l
    | .jobKey _ _ l => linkIdOf l
    | _ => none
  ((List.range 256).find? fun i => (tget s.pass.linkKeys i).isNone && !(promised.contains i)).getD 0

/-- The job holds its job key: its slots are filled and loaded, its link key id is taken, its sequence counter starts at 1,
and it is Keyed (R33, R367, R381, R497). -/
def keyUp (j : Nat) (secret : Bytes) (slots : List (Nat × KeySlot)) (s : State) : State :=
  match tget s.jobs j with
  | none => s
  | some b =>
    let link := (linkIdOf slots).getD (freeLink s)
    let b := { b with keys := { b.keys with secret } }
    let s := slots.foldl (fun t x => fillSlot x.1 x.2 t) s
    let s := { s with pass := { s.pass with linkKeys := tset s.pass.linkKeys link { job := j, jobId := b.id } } }
    modJob j (fun _ => { b with
      phase := .keyed, passSeq := 1, capture := { b.capture with since := s.timeNs }, keys := { b.keys with link, allocations := (memoryKey s secret b.id b.keys.anchor 1).1 } }) s

/-- The records of slots about to be created. -/
def slotRecords (jobId : Nat) (l : List (Nat × KeySlot)) (s : State) : State :=
  l.foldl (fun t x => slotRecord 1 x.1 jobId x.2 t) s

/-! ### Reports (R499 to R501) -/

/-- The signed part of a report. -/
def reportBody (s : State) (j : Option Nat) (nonce : Bytes) : Bytes :=
  let b := j.bind fun j => tget s.jobs j
  let st := match b with
    | none => 0
    | some b => match b.phase with | .created => 1 | .keyed => 2 | .closing => 3
  let flags := b.isSome.toNat + 2 * ((j.map isGap).getD false && b.isSome).toNat + 4 * s.config.locked.toNat
  leBytes 2 1 ++ leBytes 2 0x8012 ++ [0xB0, BitVec.ofNat 8 (lifeCycle s), BitVec.ofNat 8 s.lc.debugOpen.toNat, BitVec.ofNat 8 flags] ++
  leBytes 8 s.timeNs ++ leBytes 4 s.boot ++ leBytes 4 (deviceAddress s) ++ leBytes 4 ((b.map (·.id)).getD 0) ++
  leBytes 1 st ++ zeros 3 ++ sub nonce 0 16 ++ sub Config.unitId 0 32 ++ sub Config.romDigest 0 32 ++
  sub s.glen.measurement 0 32 ++ sub s.config.image.digest 0 32 ++ sub ((b.map (·.digest)).getD []) 0 32 ++
  leBytes 8 (s.ledger.next - 1) ++ s.ledger.headDigest ++ zeros 8 ++
  sub (Config.slh128Public (slotMaterial s 0)) 0 32 ++ sub (Config.kemPublic (slotMaterial s 1)) 0 1568

/-- A report with its signature. -/
def reportBytes (s : State) (j : Option Nat) (nonce : Bytes) : Bytes :=
  let r := reportBody s j nonce
  r ++ sub (Config.slh128Sign (slotMaterial s 0) r) 0 17088

/-- The certificate. -/
def certBytes : Bytes := sub Config.certificate 0 29920

/-- A report of 18,944 bytes and its certificate verify (R34, R499, R500). -/
def reportVerifies (report cert : Bytes) : Bool :=
  rd cert 0 2 == 1 && rd report 0 2 == 1 &&
  Config.slh256Verify (sub (Config.romKey 0) 0 64) (sub cert 0 0x80) (sub cert 0x80 29792) &&
  sub cert 0x30 32 == sub report 0x100 32 && sub cert 0x10 32 == sub report 0x30 32 && sub cert 0x50 32 == sub report 0x50 32 &&
  Config.slh128Verify (sub report 0x100 32) (sub report 0 0x740) (sub report 0x740 17088)

/-! ### Glen's queue (R481) -/

/-- Run a message that needs Glen, or queue it behind the operation in progress. -/
def withGlen (m : Msg) (body : Msg → State → State) (s : State) : State :=
  if s.glen.current.isSome then
    let t := newTicket s
    keepRunning m (.ticket t.1) { t.2 with glen := { t.2.glen with queue := t.2.glen.queue ++ [.message t.1 m] } }
  else body m s

end Sys2Proof.Machine
end

