-- ==== Sys2Proof/Machine/Jobs.lean ====
section
/-! DEFINITION. Jobs: policies, creation, attestation, owner keys, sealing, keying between Proends (R30 to R36, R48 to
R52, R481, R487, R496 to R512). -/

namespace Sys2Proof.Machine

/-! ### Policies (R48 to R51) -/

/-- Owner and entry counts of a policy. -/
def polOwners (p : Bytes) : Nat := rd p 2 1
def polEntries (p : Bytes) : Nat := rd p 0x10 2
def polThreshold (p : Bytes) : Nat := rd p 3 1

/-- The signed part. -/
def signedPart (p : Bytes) : Bytes := sub p 0 (0x520 + 16 * polEntries p)

/-- A release entry. -/
def polEntry (p : Bytes) (i : Nat) : Bytes := sub p (0x520 + 16 * i) 16

/-- A release entry is well formed (R49). -/
def entryOk (n : Nat) (e : Bytes) : Bool :=
  1 ≤ rd e 0 2 && rd e 2 2 / 2 ^ n == 0 && rd e 4 1 / 4 == 0 && allZero (sub e 5 3) && 1 ≤ rd e 8 4

/-- Whether the Proend accepts a policy of a length for a job kind (R50). -/
def policyOk (p : Bytes) (gap : Bool) : Bool :=
  let n := polOwners p
  let m := polEntries p
  let tags := (List.range m).map fun i => rd (polEntry p i) 0 2
  rd p 0 2 == 1 && 1 ≤ n && n ≤ 16 && 1 ≤ polThreshold p && polThreshold p ≤ n && 1 ≤ rd p 4 4 && m ≤ 256 &&
  1 ≤ rd p 0x12 1 && rd p 0x12 1 ≤ 8 && rd p 0x13 1 == gap.toNat && allZero (sub p 0x14 12) &&
  p.length == 0x520 + 16 * m + 29792 * n && allZero (sub p (0x20 + 64 * n) (64 * (16 - n))) &&
  allZero (sub p (0x420 + 32 * rd p 0x12 1) (32 * (8 - rd p 0x12 1))) &&
  ((List.range m).all fun i => entryOk n (polEntry p i)) && tags.eraseDups.length == m &&
  (List.range n).all fun i =>
    Config.slh256Verify (sub p (0x20 + 64 * i) 64) (signedPart p) (sub p (0x520 + 16 * m + 29792 * i) 29792)

/-- Detail of a kind 0x06 record (R475). -/
def jobDetail (digest : Bytes) (serial address last : Nat) : Bytes :=
  sub digest 0 32 ++ leBytes 8 serial ++ leBytes 3 address ++ leBytes 1 last

/-- The detail for a held job. -/
def detailOf (b : Job) (address last : Nat) : Bytes := jobDetail b.digest (rd b.policy 8 8) address last

/-! ### JOB_CREATE (R34, R50, R329, R470, R496, R511) -/

/-- Micro-batch or policy slots assigned to a job index. -/
def assigned (slots : List Nat) (j : Nat) : List Nat :=
  (slots.zipIdx.filter fun x => bit x.1 7 && x.1 % 16 == partOf j && bit x.1 4 == isGap j).map (·.2)

/-- The job that a JOB_CREATE makes. -/
def newJob (s : State) (j : Nat) (policy : Bytes) (lead ctx key : Nat) (await : Bool) : Job :=
  let cfg := tgetD s.config.image.numeric j {}
  { id := rd policy 4 4, policy := signedPart policy, digest := sha256 (signedPart policy), lead
    isLead := lead == deviceAddress s, awaitUnseal := await, eventCtx := ctx, carve := carveOf s j, cfg
    mbSlots := assigned s.config.image.mbSlots j, keys := { anchor := key, newest := key }
    num := { exponent := if cfg.gradBf16 then 0 else cfg.expInit } }

/-- An enabled partition that contains a failed block is held disabled (R548). -/
def partHeld (s : State) (p : Nat) : Bool :=
  s.start.blockFailed.any fun b => (partBlocks (s.config.image.parts.getD p {})).contains b

/-- What refuses every JOB_CREATE with 0x18 (R583, R586, R594, R603), and a reset that waits for teardown. -/
def createBarred (s : State) : Bool :=
  s.errors.keyFault || s.errors.accounting || s.lc.resetDue || (s.lc.debugOpen && lifeCycle s == 2) || !s.afterJobs.isEmpty

/-- Judge a JOB_CREATE and start it: its records are written, and it takes effect when they are in the mirror. One that arrives
during the activation of an image waits (R469). -/
def jobCreateRun (m : Msg) (s : State) : State :=
  let off := arg m.bytes 0 5
  let len := arg m.bytes 5 4
  let lead := arg m.bytes 9 3
  let kind := arg m.bytes 12 1
  let await := arg m.bytes 15 1 == 1
  let part := ctxPart s (m.ctx.getD 0)
  let j := 2 * part + kind
  if configBusy s then { s with held := s.held ++ [.message m] }
  else if 1 < kind ∨ 1 < arg m.bytes 15 1 ∨ 2 ^ 20 ≤ lead ∨ 4096 ≤ arg m.bytes 13 2 then complete m 0x12 s
  else if await ∧ lead ≠ deviceAddress s then complete m 0x12 s
  else if ¬ rootAlive s ∨ s.ledger.mirrorFault then complete m 0x1A s
  else if createBarred s ∨ partHeld s part then complete m 0x18 s
  else if (tget s.config.image.carves j).isNone ∨ ¬ (s.config.image.parts.getD part {}).enabled ∨ (tget s.jobs j).isSome ∨
      (jobIndex s (msgJob m.bytes)).isSome ∨ creating s j (msgJob m.bytes) then complete m 0x18 s
  else if ¬ rangeIn (carveOf s j) off len then complete m 0x19 s
  else
    let p := peekN s j off len
    if ¬ policyOk p (kind == 1) ∨ (assigned s.config.image.policySlots j).isEmpty then complete m 0x28 s
    else if rd p 4 4 ≠ msgJob m.bytes then complete m 0x12 s
    else if ¬ accepts p s.glen.measurement then
      complete m 0x29 (ledgerFor m 0x06 2 part false (rd p 4 4)
        (jobDetail (sha256 (signedPart p)) (rd p 8 8) (deviceAddress s) 2) s)
    else
      match freeKeyId s with
      | none => complete m 0x2A s
      | some k =>
        let b := newJob s j p lead (arg m.bytes 13 2) k await
        let free := freeSlots s
        if b.isLead ∧ ¬ await ∧ free.length < 4 then complete m 0x1A s
        else
          let r := if b.isLead ∧ ¬ await then freshBytes 32 s else ([], s)
          let b := { b with keys := { b.keys with secret := r.1 } }
          let slots := if r.1.isEmpty then [] else jobSlots s j b (freeLink s) free
          let s := ledgerFor m 0x06 1 part true b.id (detailOf b 0 0) r.2
          deferChange m (.createJob j b slots) (slotRecords b.id slots s)

/-- JOB_CREATE. -/
def execJobCreate (ctx : Nat) (s : State) : Host.Outcome State Fault Refusal :=
  .next (settle (withMessage ctx 0x10 (fun m s => withGlen m jobCreateRun s) s))

/-- A keying record to a device (R505). -/
def sendKeying (device jobId : Nat) (kind : KeyingKind) (record : Bytes) (s : State) : State :=
  emit (.keying device jobId kind record) s

/-- A created job takes effect (R129, R329, R343, R506, R642): its regions, key id and directory, its keying report, its job key where
the lead has generated one, and a member's first request; flags and counters start at zero. -/
def applyCreate (j : Nat) (b : Job) (slots : List (Nat × KeySlot)) (s : State) : State :=
  let secret := b.keys.secret
  let s := { s with
    jobs := tset s.jobs j { b with keys := { b.keys with secret := [] } }
    dir := s.dir.filter fun p => !(decide (b.carve.dirBase ≤ p.1) && decide (p.1 < b.carve.dirBase + b.carve.dirCount))
    vale := { s.vale with
      keyIds := tset s.vale.keyIds b.keys.anchor { job := j }
      regions := b.carve.regions.foldl (fun t r => tset t r { owner := some j, key := b.keys.anchor }) s.vale.regions } }
  let s := clearPartitionFlags (partCfg s j) { s with mgmt := { s.mgmt with kept := terase s.mgmt.kept j }, power := { s.power with hintsIgnored := terase s.power.hintsIgnored j } }
  let rep := reportBytes s (some j) (zeros 16)
  let s := modJob j (fun b => { b with keying := { b.keying with report := rep } }) s
  if b.isLead then (if secret.isEmpty then s else keyUp j secret slots s)
  else sendKeying b.lead b.id .reportRequest [] s

/-! ### ATTEST, CERT_READ -/

/-- The job index whose carve-out a message without a job names: the partition's primary (log 24). -/
def carveIndex (s : State) (m : Msg) : Option Nat :=
  if msgJob m.bytes = 0 then some (2 * ctxPart s (m.ctx.getD 0)) else liveJob s m

/-- Glen begins an attestation (R501). -/
def attestRun (m : Msg) (s : State) : State :=
  match carveIndex s m with
  | none => complete m 0x18 s
  | some j =>
    if ¬ rootAlive s then complete m 0x1A s
    else if ¬ rangeIn (carveOf s j) (arg m.bytes 0 5) 48864 then complete m 0x19 s
    else
      let t := newTicket s
      let rep := reportBytes s (if msgJob m.bytes = 0 then none else some j) (sub m.bytes 53 11)
      keepRunning m (.ticket t.1)
        { t.2 with glen := { t.2.glen with current := some (.attest t.1 j (arg m.bytes 0 5) rep) } }

/-- ATTEST. -/
def execAttest (ctx : Nat) (s : State) : Host.Outcome State Fault Refusal :=
  .next (settle (withMessage ctx 0x12 (fun m s => withGlen m attestRun s) s))

/-- An attestation ends: the report and the certificate are written (R501). -/
def attestDone (ticket j off : Nat) (report : Bytes) (s : State) : State :=
  finish (.ticket ticket) 0x00 {} (engineWrite j off (report ++ certBytes) s)

/-- Write the certificate (R512). -/
def certReadBody (m : Msg) (s : State) : State :=
  match carveIndex s m with
  | none => complete m 0x18 s
  | some j =>
    if ¬ rangeIn (carveOf s j) (arg m.bytes 0 5) 29920 then complete m 0x19 s
    else complete m 0x00 (engineWrite j (arg m.bytes 0 5) certBytes s)

/-- CERT_READ. -/
def execCertRead (ctx : Nat) (s : State) : Host.Outcome State Fault Refusal :=
  .next (settle (withMessage ctx 0x80 certReadBody s))

/-! ### KEY_DELIVER (R36, R502 to R504) -/

/-- The highest serial of the deliveries for an owner of a job that wait for their records (R476, R504). -/
def awaitedSerial (s : State) (jobId own : Nat) : Nat :=
  s.ledger.deferred.foldl (fun n d => match d.change with
    | .ownerKey j o serial _ _ => if o = own ∧ ((tget s.jobs j).map (·.id)) = some jobId then max n serial else n
    | _ => n) 0

/-- The data key of a delivery record, or the cause of R504 that refuses it. -/
def openDelivery (s : State) (b : Job) (r : Bytes) : Except Nat Bytes :=
  let own := rd r 2 1
  let head := sub r 0 0x80
  if polOwners b.policy ≤ own then .error 3
  else if ¬ Config.slh256Verify (sub b.policy (0x20 + 64 * own) 64) (sub r 0 0x6D0) (sub r 0x6D0 29792) then .error 1
  else if sub r 0x10 32 ≠ sub Config.unitId 0 32 ∨ sub r 0x30 32 ≠ b.digest ∨
      sub r 0x50 32 ≠ sha256 (sub (Config.kemPublic (slotMaterial s 1)) 0 1568) then .error 2
  else if rd r 8 8 ≤ max (tgetD b.narrows.delivered own 0) (awaitedSerial s b.id own) then .error 4
  else
    let shared := Config.kemDecap (slotMaterial s 1) (sub r 0x80 1568)
    match gcmOpen (derive b.digest shared "mutrum datakey" head 32) (zeros 12) head (sub r 0x6A0 32) (sub r 0x6C0 16) with
    | none => .error 5
    | some k => .ok k

/-- The slot that holds an owner's data key. -/
def ownerSlot (s : State) (j own : Nat) : Option Nat :=
  (s.glen.slots.find? fun x => attrClass x.2.attr == 9 && attrOf x.2.attr j && attrOwner x.2.attr == own).map (·.1)

/-- Judge a delivery; it takes effect when its records are in the mirror. -/
def keyDeliverRun (m : Msg) (s : State) : State :=
  match liveJob s m with
  | none => complete m 0x18 s
  | some j =>
    let b := (tget s.jobs j).getD { id := 0 }
    if ¬ rootAlive s ∨ s.ledger.mirrorFault then complete m 0x1A s
    else if ¬ rangeOk s j (arg m.bytes 0 5) 31536 then complete m 0x19 s
    else
      let r := peekN s j (arg m.bytes 0 5) 31536
      if rd r 0 2 ≠ 1 ∨ rd r 2 1 ≠ arg m.bytes 5 1 ∨ rd r 3 1 ≠ 0 ∨ rd r 4 4 ≠ b.id ∨ ¬ allZero (sub r 0x70 16) then complete m 0x12 s
      else
        match openDelivery s b r with
        | .error c => completeResult m 0x12 [BitVec.ofNat 8 c] s
        | .ok k =>
          let own := rd r 2 1
          match (freeSlots s).head? with
          | none => complete m 0x1A s
          | some n =>
            let ks : KeySlot := ⟨k, attrWord 9 0 j own 0x21⟩
            deferChange m (.ownerKey j own (rd r 8 8) k n) (slotRecord 1 n b.id ks s)

/-- KEY_DELIVER. -/
def execKeyDeliver (ctx : Nat) (s : State) : Host.Outcome State Fault Refusal :=
  .next (settle (withMessage ctx 0x13 (fun m s => withGlen m keyDeliverRun s) s))

/-- A delivered key takes effect: it replaces an earlier one, with a record (R36, R475). -/
def applyOwnerKey (m : Option Msg) (j own serial : Nat) (k : Bytes) (n : Nat) (s : State) : State :=
  match tget s.jobs j with
  | none => s
  | some b =>
    let from' := match m with | some m => (originOf s m).2 | none => (0xFF, 0xFFFF)
    let s := match ownerSlot s j own with
      | none => s
      | some o => ledger 0x06 3 0x06 from'.1 from'.2 (partOf j) false b.id (detailOf b 0 own) (destroySlot 2 o s)
    modJob j (fun b => { b with
      keys := { b.keys with owners := tset b.keys.owners own k }
      narrows := { b.narrows with delivered := tset b.narrows.delivered own serial } })
      (fillSlot n ⟨k, attrWord 9 0 j own 0x21⟩ s)

/-! ### Sealing (R509 to R511) -/

/-- The seal key of an accepted field (R494). -/
def sealKey (s : State) (accepted : Bytes) (jobId : Nat) : Bytes :=
  derive (sha256 accepted) s.glen.root "mutrum seal" (sub Config.unitId 0 32 ++ leBytes 4 jobId) 32

/-- The sealed blob of a job (R509). -/
def sealedBlob (s : State) (b : Job) : Bytes :=
  let acc := sub b.policy 0x420 256
  let head := leBytes 2 1 ++ leBytes 1 (rd b.policy 0x12 1) ++ [0] ++ leBytes 4 b.id ++ sub Config.unitId 0 32 ++ sub b.digest 0 32 ++ acc
  let r := gcmSeal (sealKey s acc b.id) (zeros 12) head b.keys.secret
  head ++ r.1 ++ r.2

/-- Seal the job key. -/
def sealRun (m : Msg) (s : State) : State :=
  match liveJob s m with
  | none => complete m 0x18 s
  | some j =>
    let b := (tget s.jobs j).getD { id := 0 }
    if b.keys.secret.isEmpty then complete m 0x18 s
    else if ¬ rangeOk s j (arg m.bytes 0 5) 376 then complete m 0x19 s
    else complete m 0x00 (engineWrite j (arg m.bytes 0 5) (sealedBlob s b) s)

/-- JOB_KEY_SEAL. -/
def execJobKeySeal (ctx : Nat) (s : State) : Host.Outcome State Fault Refusal :=
  .next (settle (withMessage ctx 0x81 (fun m s => withGlen m sealRun s) s))

/-- The job key of a blob, if Glen opens it for a job (R510). -/
def openBlob (s : State) (b : Job) (r : Bytes) : Option Bytes :=
  let acc := sub r 0x48 256
  if rd r 0 2 = 1 ∧ sub r 8 32 = sub Config.unitId 0 32 ∧ rd r 4 4 = b.id ∧ sub r 0x28 32 = b.digest ∧
      ((List.range (min 8 (rd r 2 1))).any fun i => sub acc (32 * i) 32 == s.glen.measurement) then
    gcmOpen (sealKey s acc b.id) (zeros 12) (sub r 0 0x148) (sub r 0x148 32) (sub r 0x168 16)
  else none

/-- A job's key arrives: its records are written, and it takes effect when they are in the mirror (R493, R497). -/
def startKeying (j : Nat) (b : Job) (secret : Bytes) (s : State) : Option (Change × State) :=
  let free := freeSlots s
  if free.length < 4 ∨ s.ledger.mirrorFault then none
  else
    let slots := jobSlots s j { b with keys := { b.keys with secret } } (freeLink s) free
    some (.jobKey j secret slots, slotRecords b.id slots s)

/-- A job's key has come and waits for the mirror. -/
def keyComing (s : State) (j : Nat) : Bool :=
  s.ledger.deferred.any fun d => match d.change with | .jobKey k _ _ => k == j | _ => false

/-- Unseal a job key on its lead. -/
def unsealRun (m : Msg) (s : State) : State :=
  match liveJob s m with
  | none => complete m 0x18 s
  | some j =>
    let b := (tget s.jobs j).getD { id := 0 }
    if ¬ b.isLead ∨ ¬ b.awaitUnseal ∨ b.phase ≠ .created ∨ ¬ b.keys.secret.isEmpty ∨ keyComing s j then complete m 0x18 s
    else if ¬ rangeOk s j (arg m.bytes 0 5) 376 then complete m 0x19 s
    else
      match openBlob s b (peekN s j (arg m.bytes 0 5) 376) with
      | none => complete m 0x12 s
      | some k =>
        match startKeying j b k s with
        | none => complete m 0x1A s
        | some c => deferChange m c.1 c.2

/-- JOB_KEY_UNSEAL. -/
def execJobKeyUnseal (ctx : Nat) (s : State) : Host.Outcome State Fault Refusal :=
  .next (settle (withMessage ctx 0x82 (fun m s => withGlen m unsealRun s) s))

/-! ### Keying records (R34, R35, R505 to R508, R511) -/

/-- The first cause of R506 that a member's record meets, or 0. -/
def memberCause (s : State) (b : Job) (sender : Nat) (r : Bytes) : Nat :=
  let rep := sub r 0 18944
  if ¬ reportVerifies rep (sub r 18944 29920) then 1
  else if ¬ accepts b.policy (sub rep 0x70 32) then 2
  else if sub rep 0xB0 32 ≠ b.digest then 3
  else if rd rep 0x1C 1 ≠ 1 ∨ rd rep 0x18 4 ≠ b.id then 4
  else if rd rep 0x14 4 ≠ sender then 5
  else if rd rep 5 1 ≠ lifeCycle s ∨ rd rep 6 1 ≠ 0 then 6
  else 0

/-- The lead serves a member (R34, R35, R507). -/
def serveMember (sender j : Nat) (b : Job) (r : Bytes) (s : State) : State :=
  let c := memberCause s b sender r
  if c ≠ 0 then
    let s := modJob j (fun b => { b with keying := { b.keying with
      refusedMembers := (b.keying.refusedMembers.filter (· != sender)) ++ [sender] } }) s
    let s := ledgerSelf 0x06 2 (partOf j) false b.id (detailOf b sender c) s
    let s := jobEvent j 0x09 (timed s (leBytes 4 sender ++ leBytes 1 c)) s
    sendKeying sender b.id .refusal [BitVec.ofNat 8 c] s
  else
    let rnd := freshBytes 32 s
    let s1 := Config.kemDecap (slotMaterial s 1) (sub r 48864 1568)
    let enc := Config.kemEncap (sub r 0x120 1568) rnd.1
    let head := leBytes 2 1 ++ zeros 2 ++ leBytes 4 b.id ++ sub r 0x30 32 ++ zeros 24
    let w := gcmSeal (derive b.digest (s1 ++ enc.2) "mutrum jobkey" head 32) (zeros 12) head b.keys.secret
    sendKeying sender b.id .jobKeyDelivery (head ++ sub enc.1 0 1568 ++ w.1 ++ w.2)
      (modJob j (fun b => { b with keying := { b.keying with units := tset b.keying.units sender (sub r 0x30 32) } }) rnd.2)

/-- A member takes the lead's report, and answers with its own and an encapsulation to the lead (R506). -/
def takeLeadReport (j : Nat) (b : Job) (r : Bytes) (s : State) : State :=
  let rep := sub r 0 18944
  if reportVerifies rep (sub r 18944 29920) ∧ (rd rep 0x1C 1 = 1 ∨ rd rep 0x1C 1 = 2) ∧ sub rep 0xB0 32 = b.digest ∧
      accepts b.policy (sub rep 0x70 32) ∧ rd rep 0x14 4 = b.lead then
    let rnd := freshBytes 32 s
    let enc := Config.kemEncap (sub rep 0x120 1568) rnd.1
    sendKeying b.lead b.id .memberReport (b.keying.report ++ certBytes ++ sub enc.1 0 1568)
      (modJob j (fun b => { b with keying := { b.keying with seed := enc.2 } }) rnd.2)
  else s

/-- A member takes a job-key delivery (R507, R508): a tag that fails is counted, and its requests go on. -/
def takeDelivery (j : Nat) (b : Job) (r : Bytes) (s : State) : State :=
  let head := sub r 0 0x40
  let s2 := Config.kemDecap (slotMaterial s 1) (sub r 0x40 1568)
  let key := if rd r 0 2 = 1 ∧ rd r 4 4 = b.id ∧ sub r 8 32 = sub Config.unitId 0 32 then
      gcmOpen (derive b.digest (b.keying.seed ++ s2) "mutrum jobkey" head 32) (zeros 12) head (sub r 0x660 32) (sub r 0x680 16)
    else none
  match key.bind fun k => startKeying j b k s with
  | none => modJob j (fun b => { b with keying := { b.keying with discarded := b.keying.discarded + 1 } }) s
  | some c => { c.2 with ledger := { c.2.ledger with deferred := c.2.ledger.deferred ++ [⟨c.2.ledger.next - 1, c.2.tickets, c.1⟩] }
                         tickets := c.2.tickets + 1 }

/-- A keying record acts on the job that it names (R505 to R508). -/
def keyingRun (sender jobId : Nat) (kind : KeyingKind) (r : Bytes) (s : State) : State :=
  match jobIndex s jobId with
  | none => s
  | some j =>
    match tget s.jobs j with
    | none => s
    | some b =>
      let member := ¬ b.isLead ∧ sender = b.lead ∧ b.phase = .created ∧ ¬ b.keying.refusedHere ∧ ¬ keyComing s j
      match kind with
      | .reportRequest =>
        if b.isLead ∧ b.phase ≠ .closing then
          sendKeying sender b.id .leadReport (b.keying.report ++ certBytes)
            (modJob j (fun b => { b with keying := { b.keying with members := (b.keying.members.filter (· != sender)) ++ [sender] } }) s)
        else s
      | .memberReport =>
        if b.isLead ∧ b.phase ≠ .closing ∧ ¬ b.keys.secret.isEmpty then serveMember sender j b r s else s
      | .leadReport => if member then takeLeadReport j b r s else s
      | .jobKeyDelivery => if member then takeDelivery j b r s else s
      | .refusal => if member then modJob j (fun b => { b with keying := { b.keying with refusedHere := true } }) s else s
      | .retirement => s

/-- A keying record arrives: one that needs Glen waits behind the operation in progress. -/
def keyingArrives (sender jobId : Nat) (kind : KeyingKind) (r : Bytes) (s : State) : State :=
  let glen : Bool := match kind with | .leadReport => true | .memberReport => true | .jobKeyDelivery => true | _ => false
  if ¬ alive s then s
  else if glen ∧ s.glen.current.isSome then
    { s with glen := { s.glen with queue := s.glen.queue ++ [.record sender jobId kind r] } }
  else if glen ∧ ¬ rootAlive s then s
  else keyingRun sender jobId kind r s

/-- KEYING_REPORT_REQUEST. -/
def execKeyingReportRequest (sender jobId : Nat) (s : State) : Host.Outcome State Fault Refusal :=
  .next (keyingArrives sender jobId .reportRequest [] s)

/-- LEAD_REPORT. -/
def execLeadReport (sender jobId : Nat) (record : Bytes) (s : State) : Host.Outcome State Fault Refusal :=
  .next (keyingArrives sender jobId .leadReport record s)

/-- MEMBER_REPORT. -/
def execMemberReport (sender jobId : Nat) (record : Bytes) (s : State) : Host.Outcome State Fault Refusal :=
  .next (keyingArrives sender jobId .memberReport record s)

/-- JOB_KEY_DELIVERY. -/
def execJobKeyDelivery (sender jobId : Nat) (record : Bytes) (s : State) : Host.Outcome State Fault Refusal :=
  .next (keyingArrives sender jobId .jobKeyDelivery record s)

/-- KEYING_REFUSAL: the member stays in Created, and asks no more (R35, R506). -/
def execKeyingRefusal (sender jobId cause : Nat) (s : State) : Host.Outcome State Fault Refusal :=
  .next (keyingArrives sender jobId .refusal [BitVec.ofNat 8 cause] s)

/-- A member that is still Created, and whose job key has not come, asks again every 100 ms (R506). -/
def keyingRetry (j : Nat) (s : State) : State :=
  match tget s.jobs j with
  | none => s
  | some b => if ¬ b.isLead ∧ b.phase = .created ∧ ¬ b.keying.refusedHere ∧ ¬ keyComing s j then sendKeying b.lead b.id .reportRequest [] s else s

/-- KEYING_RETRY_TIMER. -/
def execKeyingRetryTimer (job : Nat) (s : State) : Host.Outcome State Fault Refusal :=
  .next (if alive s then keyingRetry job s else s)

end Sys2Proof.Machine
end

