-- ==== Sys2Proof/Machine/Optim.lean ====
section
/-! DEFINITION. The optimiser step: its start, the moment and weight tasks of its pages, the page headers and what a
skipped step leaves (R163, R253 to R255, R284, R287 to R303, R659, R660). -/

namespace Sys2Proof.Machine

/-- The step that an optimiser_step concludes (R253). -/
def optStep (d : Bytes) : Nat := rd d 56 8

/-- The mode: complete or normal (R253). -/
def optComplete (d : Bytes) : Bool := rd d 29 1 == 1

/-- Pages of an optimiser_step. -/
def Ref.optPages (r : Ref) : Nat := pageCount (r.slotView 0).ext

/-- The fields of the descriptor (R253). -/
def Ref.optP (r : Ref) : OptP :=
  { adam := rd r.d 28 1 == 0, lr := (r.f32 32).rat, beta1 := (r.f32 36).rat, beta2 := (r.f32 40).rat
    eps := (r.f32 44).rat, wd := (r.f32 48).rat, mult := (r.f32 52).rat }

/-- The page of a root's header table that a page of a view of it is (R284, R288). -/
def headerPage (v rv : TV) (page : Nat) : Nat :=
  let off := indexAt rv.ext rv.stride (v.base - rv.base)
  match v.ext, rv.ext, off with
  | k :: n :: rest, rk :: rn :: rrest, ok :: on :: orest =>
    let kt := page % (k / 128)
    let nt := page / (k / 128) % (n / 32)
    let bix := indexOf rest (page / (k / 128) / (n / 32))
    let b := flatten rrest (orest.zipIdx.map fun x => bix.getD x.2 0 + x.1)
    kt + ok / 128 + rk / 128 * (nt + on / 32 + rn / 32 * b)
  | _, _, o :: _ => page + o / 4096
  | _, _, [] => page

/-- The root and the page of its header table that a page of the descriptor's master is. -/
def headerOf (r : Ref) (page : Nat) : Nat × Nat :=
  let v := r.slotView 0
  let root := rootOf r.b.tensors v.idx
  (root, headerPage v (r.view root) page)

/-- The header entry of a page: moment step and weight step (R287). -/
def headerAt (b : Job) (h : Nat × Nat) : Nat × Nat :=
  ((tget b.tensors h.1).map fun e => tgetD e.headers h.2 (0, 0)).getD (0, 0)

/-- Write a header entry. -/
def setHeader (j : Nat) (h : Nat × Nat) (v : Nat × Nat) (s : State) : State :=
  modTensor j h.1 (fun e => { e with headers := tsetD e.headers h.2 v (0, 0) }) s

/-- The window pages that hold a parameter page's bytes in the roles that a descriptor names (R298). -/
def parameterTiers (r : Ref) (page : Nat) : List Nat :=
  let of := fun (v : TV) (runs : List (List (List Nat))) => runs.flatten.flatMap fun ix =>
    (windowPage (elemAddr v ix)).toList ++ (if is8 v.fmt then (windowPage (scaleAddr v ix)).toList else [])
  let plain := ([some (r.slotView 0), some (r.slotView 1), r.optView 2, some (r.slotView 3), some (r.slotView 4)]).flatMap fun o =>
    match o with | none => [] | some v => of v (pageRuns v.ext page)
  let transposed := match r.optView 5 with | none => [] | some v => of v (pageRunsT (r.slotView 0).ext page)
  (plain ++ transposed).eraseDups

/-- Bring in the tier pages of a parameter page; true where all are resident (R298). -/
def residentPage (r : Ref) (page : Nat) (s : State) : State × Bool :=
  let ps := parameterTiers r page
  let t := ps.foldl (fun t p => requestPage r.t.job p t) s
  (t, ps.all fun p => (dirAt t r.t.job p).st == .resident)

/-- A Basin page whose bytes are all +0, in the Plain cache or in Vale where no valid copy stands, holds no gradient any more (R303). -/
def basinEmpty (s : State) (j p : Nat) : Bool :=
  let e := dirAt s j p
  match directAddress (carveOf s j) (basinOffset (carveOf s j) e.basin) with
  | none => true
  | some a =>
    (s.vale.mem.all fun c => decide (c.1 < a) || decide (a + 2 ^ 20 ≤ c.1) || !(readsVale s j (2 ^ 39 + p * 2 ^ 20 + (c.1 - a)))) &&
    (s.cache.lines.all fun x => !(x.2.job == j && decide (2 ^ 39 + p * 2 ^ 20 ≤ x.2.line * 256) &&
      decide (x.2.line * 256 < 2 ^ 39 + (p + 1) * 2 ^ 20)) || x.2.data.all (· == 0))

/-- Write +0 to the gradient elements of a page where their tier page is resident, and free the Basin pages that hold
nothing else (R255, R303). A tier page that rests needs no write: R298 fills it with +0. -/
def clearGradient (r : Ref) (page : Nat) (s : State) : State :=
  let j := r.t.job
  let v := r.slotView 3
  let s := (zeroGradient v page).foldl (fun t st =>
    match windowPage st.1 with
    | none => poke j st.1 st.2 t
    | some p => let e := dirAt t j p; if e.basinValid ∨ e.st = .resident then poke j st.1 st.2 t else t) s
  let tiers := ((pageRuns v.ext page).flatten.flatMap fun ix => (windowPage (elemAddr v ix)).toList).eraseDups
  tiers.foldl (fun t p => if (dirAt t j p).basinValid ∧ basinEmpty t j p then freeBasin j p t else t) s

/-- The parameter page that a page of the descriptor is: model-tensor number and page, by its gradient's root (R281, R284). -/
def parameterPage (r : Ref) (page : Nat) : Nat × Nat :=
  let v := r.slotView 3
  let root := rootOf r.b.tensors v.idx
  (tLogical (((tget r.b.tensors root).map (·.raw)).getD []) / 16, headerPage v (r.view root) page)

/-- What a descriptor's writes of masters have counted, as a write's sum (R158). -/
def writtenSum (x : StatSum) : WriteSum :=
  { elements := x.elements, zeroCount := x.zeroCount, saturations := x.saturations, nonFinite := x.nonFinite, amax := x.amax }

/-- Add a page's writes of masters to those of its descriptor. -/
def addWritten (x : StatSum) (w : WriteSum) : StatSum :=
  ⟨x.elements + w.elements, x.zeroCount + w.zeroCount, x.saturations + w.saturations, x.nonFinite + w.nonFinite, max x.amax w.amax⟩

/-- An optimiser_step retires: where it has written masters, its statistics record is put (R158). -/
def retireOptim (t : TaskRef) (s : State) : State :=
  match refOf s t with
  | none => s
  | some r =>
    let w := (descAt r.u t.desc).written
    retire t (if dStats r.d = 0xFFFF ∨ w.elements = 0 then s
      else putRecord r (dStats r.d) (dT r.d 0) (recordOf r (writtenSum w) (dT r.d 0)) s)

/-- The step was skipped: gradients, Basin bytes and pins go, every page counts as left unchanged (R163, R255, R299, R659). -/
def skipOptim (r : Ref) (s : State) : State :=
  let n := r.optPages
  let s := (List.range n).foldl (fun t p => unpinParameter r.t.job (parameterPage r p) (clearGradient r p t)) (setRunning r 0 s)
  let s := modSub r.t.job r.t.sub (fun u => { u with unchanged := u.unchanged + n }) s
  retireOptim r.t s

/-- An optimiser_step begins once the verdict of its step has completed (R24, R660). -/
def optimiserStart (r : Ref) (s : State) : State :=
  let n := optStep r.d
  let k := r.b.num.verdicts
  if k ≤ n then s
  else if n + 1 < k then taskFault r.t 0x66 s
  else if (match r.b.num.last with | some v => v.skipped | none => false) then skipOptim r s
  else if r.optPages = 0 then retire r.t s
  else setRunning r 0 s

/-- OPTIMISER_STEP. -/
def execOptimiserStep (t : TaskRef) (s : State) : Host.Outcome State Fault Refusal :=
  .next (settle (withDesc t 0x29 optimiserStart s))

/-- A task of a running descriptor may begin (R21, R27, R211, R221, R578, R594). -/
def mayTask (s : State) (r : Ref) (unit : Nat) : Bool :=
  tasksRun s r && begun r.u r.t.desc && !(descAt r.u r.t.desc).retired &&
  blockRuns s r.t.job (coreBlock (unitCore r.part r.map unit))

/-- The first line that a task of a page reads in Vale, of tensors, and that fails (R320, R323, R326). -/
def badPage (l : List (Option TV)) (r : Ref) (page : Nat) (s : State) : Option Nat :=
  badLine s r.t.job (l.flatMap fun o =>
    match o with
    | none => []
    | some v => (pageRuns v.ext page).flatten.flatMap fun ix => if is8 v.fmt then [elemAddr v ix, scaleAddr v ix] else [elemAddr v ix])

/-- The core and the thread of a page's unit (R202, R289). -/
def pagePlace (r : Ref) (page : Nat) : Nat × Nat := (unitCore r.part r.map page, unitThread r.part r.map page)

/-- The new moments of a page that its moment task left in the tile store, where the map uses 1 or 2 threads (R294). -/
def keptMoments (r : Ref) (page : Nat) (s : State) : Option (List (Nat × Bytes)) :=
  match tget (coreAt s (pagePlace r page).1).kept (pagePlace r page).2 with
  | some k => if k.task = r.t ∧ k.page = page ∧ mThreads r.map ≤ 2 ∧ ¬ optComplete r.d then some k.bytes else none
  | none => none

/-- Bytes at job offsets laid on a source. -/
def laidOn (st : List (Nat × Bytes)) (m : Src) : Src := fun a =>
  match st.reverse.find? fun x => decide (x.1 ≤ a) && decide (a < x.1 + x.2.length) with
  | some x => x.2.getD (a - x.1) 0
  | none => m a

/-- What the moment task of a page reads. -/
def momentReads (r : Ref) : List (Option TV) := [some (r.slotView 1), r.optView 2, some (r.slotView 3)]

/-- What the weight task of a page reads in memory: the moments too, unless the tile store keeps them (R294). -/
def weightReads (r : Ref) (page : Nat) (s : State) : List (Option TV) :=
  if (keptMoments r page s).isSome then [some (r.slotView 0)] else [some (r.slotView 0), some (r.slotView 1), r.optView 2]

/-- Run a task on a page of a running optimiser_step that reads tensors. -/
def withPage (t : TaskRef) (page : Nat) (reads : Ref → State → List (Option TV)) (f : Ref → State → State) (s : State) : State :=
  match refOf s t with
  | none => s
  | some r =>
    if dOp r.d = 0x29 ∧ mayTask s r page ∧ page < r.optPages ∧ ¬ (descAt r.u t.desc).ended.contains page then
      let q := residentPage r page s
      if ¬ q.2 then q.1
      else
        match badPage (reads r q.1) r page q.1 with
        | some l => lineFails l 0 (some t) q.1
        | none => f r q.1
    else s

/-- Flags of a page's task, in the core of its unit; the masks of R43. -/
def pageEffects (r : Ref) (page : Nat) (f : NumFlags) (s : State) : State :=
  raiseFlags (isGap r.t.job) (unitCore r.part r.map page) f
    (orMasks r.t.job (masksOf s r.t.job (opReads r.d)) (opWrites r.d) s)

/-- The loss-scale exponent in effect during a step whose verdict has completed (R293). -/
def heldExponent (b : Job) (n : Nat) : Nat :=
  ((b.num.held.find? fun v => v.step == n).map (·.exponent)).getD ((b.num.last.map (·.exponent)).getD b.num.exponent)

/-- The moment task of a page (R254, R290): normal mode, at (n, n) only; the header follows every moment byte (R25), and the new moments
stay in the tile store for the weight task (R294). -/
def momentTask (page : Nat) (r : Ref) (s : State) : State :=
  if optComplete r.d ∨ (descAt r.u r.t.desc).moments.contains page then s
  else
    let n := optStep r.d
    let h := headerOf r page
    if headerAt r.b h ≠ (n, n) then taskFault r.t 0x68 s
    else
      let p := r.optP
      let o := momentStores (srcOf s r.t.job) p (p.mult / (2 : Rat) ^ heldExponent r.b n) (r.slotView 1) (r.optView 2) (r.slotView 3) page
      let s := pageEffects r page o.2 (applyStores r.t.job o.1 s)
      let s := modCore (pagePlace r page).1 (fun c => { c with kept := tset c.kept (pagePlace r page).2 ⟨r.t, page, o.1⟩ }) s
      modDesc r.t (fun d => { d with moments := d.moments ++ [page] }) (setHeader r.t.job h (n + 1, n) s)

/-- MOMENT_TASK. -/
def execMomentTask (t : TaskRef) (page : Nat) (s : State) : Host.Outcome State Fault Refusal :=
  .next (settle (withPage t page (fun r _ => momentReads r) (momentTask page) s))

/-- A page ends, counted as finished, left unchanged or not started (R659); the descriptor retires with the last. -/
def endPage (r : Ref) (page finished unchanged : Nat) (s : State) : State :=
  let s := modDesc r.t (fun d => { d with
    ended := d.ended ++ [page], finished := d.finished + finished, unchanged := d.unchanged + unchanged }) s
  let s := modSub r.t.job r.t.sub (fun u => { u with finished := u.finished + finished, unchanged := u.unchanged + unchanged }) s
  if (descAt r.u r.t.desc).ended.length + 1 = r.optPages then retireOptim r.t s else s

/-- Weights, copies, header and gradient of a page (R25, R255, R291); the gradient is consumed (R299). -/
def writeWeights (page : Nat) (r : Ref) (h : Nat × Nat) (s : State) : State :=
  let n := optStep r.d
  let m := srcOf s r.t.job
  let mo := laidOn ((keptMoments r page s).getD []) m
  let o := weightStores m mo r.optP n (r.slotView 0) (r.slotView 1) (r.optView 2) (r.slotView 4) (r.optView 5) page
  let s := pageEffects r page o.flags (applyStores r.t.job o.stores s)
  let s := modDesc r.t (fun d => { d with written := addWritten d.written o.sum }) s
  let s := modCore (pagePlace r page).1 (fun c => { c with kept := terase c.kept (pagePlace r page).2 }) s
  unpinParameter r.t.job (parameterPage r page) (clearGradient r page (setHeader r.t.job h (n + 1, n + 1) s))

/-- The weight task of a page (R254): after its moment task, or in complete mode as the page's header says. -/
def weightTask (page : Nat) (r : Ref) (s : State) : State :=
  let n := optStep r.d
  let h := headerOf r page
  let a := headerAt r.b h
  if optComplete r.d then
    if a = (n + 1, n) then endPage r page 1 0 (writeWeights page r h s)
    else if a = (n + 1, n + 1) then endPage r page 0 1 (unpinParameter r.t.job (parameterPage r page) s)
    else if a = (n, n) then endPage r page 0 0 s
    else taskFault r.t 0x68 s
  else if ¬ (descAt r.u r.t.desc).moments.contains page then s
  else if a = (n + 1, n) then endPage r page 1 0 (writeWeights page r h s)
  else taskFault r.t 0x68 s

/-- WEIGHT_TASK. -/
def execWeightTask (t : TaskRef) (page : Nat) (s : State) : Host.Outcome State Fault Refusal :=
  .next (settle (withPage t page (fun r => weightReads r page) (weightTask page) s))

end Sys2Proof.Machine
end

