-- ==== Sys2Proof/Machine/Shard.lean ====
section
/-! DEFINITION. What a capture holds (R515, R530, R531), its sections and chunks (R532 to R534), and the manifest (R535). -/

namespace Sys2Proof.Config

/-- The bytes of a job's control area that have no layout in the manual nor in the model: the rest of the job record, the replay state
and the shared pool, for what they hold (R515, R653, log 8). -/
opaque controlRest : Machine.Job → List (Nat × Nat × Machine.Obj) → Nat → Byte

/-- What those bytes hold when a restore reads them back (log 8). -/
opaque readRest : Bytes → Option (Machine.Job × List (Nat × Nat × Machine.Obj))

/-- The member index that a lead takes a device address of a job to have: no packet of R522 carries it (log 28). -/
opaque memberIndex : Nat → Nat → Nat

end Sys2Proof.Config

namespace Sys2Proof.Machine

/-! ### The control area (R515, R653) -/

/-- Objects of a job that lie in its control area, with index and generation: fences, proxies, groups; program objects keep
their place in the object table. -/
def controlObjects (s : State) (j : Nat) : List (Nat × Nat × Obj) :=
  (s.objects.objs.filter fun o => o.2.job == some j && (match o.2.data with
    | .queuePair _ => false | .window _ => false | _ => true)).map fun o => (o.1, genOf s o.1, o.2)

/-- A tensor table entry as it stands in the control area, with its owner mask (R44, R195). -/
def tensorBytesOf (e : TensorE) : Bytes := overlay e.raw 12 (leBytes 2 e.mask)

/-- A scale-journal entry (R269). -/
def journalBytes (e : JournalE) : Bytes := leBytes 2 e.tensor ++ [0, 0] ++ leBytes 4 e.generation ++ leBytes 4 e.old ++ leBytes 4 e.new

/-- A commit-log entry (R267). -/
def commitBytes (e : CommitE) : Bytes := leBytes 2 e.span ++ leBytes 1 e.rung ++ leBytes 1 e.calibrated.toNat ++ leBytes 4 e.generation

/-- A promotion-table entry (R180; log 8): program, span, rung and remaining count; an empty entry has count 0. -/
def promoBytes (e : PromoE) : Bytes := leBytes 2 e.prog ++ leBytes 2 e.span ++ leBytes 1 e.rung ++ [0, 0, 0] ++ leBytes 4 e.count ++ zeros 4

/-- The part of the job record that the slots and the journal take (R271, R273; log 8): a bit for each occupied slot, the generation, and
the length of each slot's commit log. -/
def recordBytes (n : NumState) : Bytes :=
  leBytes 4 ((List.range 32).foldl (fun a k => a + if n.occupied.contains k then 2 ^ k else 0) 0) ++ leBytes 4 n.generation ++
    (List.range 32).flatMap fun k => leBytes 2 (tgetD n.commits k []).length

/-- Offsets of the tables of the fixed part (R653). -/
def atTensors : Nat := 0x1000
def atHistory : Nat := 0x401000
def atPromotions : Nat := 0x801000
def atJournal : Nat := 0x811000
def atCommits : Nat := 0x821000
def atReplay : Nat := 0x921000

/-- A byte of a job's control area. -/
def controlByte (b : Job) (objs : List (Nat × Nat × Obj)) (o : Nat) : Byte :=
  if atTensors ≤ o ∧ o < atHistory then
    ((tget b.tensors ((o - atTensors) / 64)).map fun e => (tensorBytesOf e).getD ((o - atTensors) % 64) 0).getD 0
  else if o < 72 then (recordBytes b.num).getD o 0
  else if atHistory ≤ o ∧ o < atPromotions then (tgetD b.hist ((o - atHistory) / 64) []).getD ((o - atHistory) % 64) 0
  else if atPromotions ≤ o ∧ o < atJournal then
    ((tget b.num.promotions ((o - atPromotions) / 16)).map fun e => (promoBytes e).getD ((o - atPromotions) % 16) 0).getD 0
  else if atJournal ≤ o ∧ o < atCommits then
    ((b.num.journal[(o - atJournal) / 16]?).map fun e => (journalBytes e).getD ((o - atJournal) % 16) 0).getD 0
  else if atCommits ≤ o ∧ o < atReplay then
    (((tgetD b.num.commits ((o - atCommits) / 32768) [])[(o - atCommits) % 32768 / 8]?).map fun e =>
      (commitBytes e).getD ((o - atCommits) % 8) 0).getD 0
  else Config.controlRest b objs o

/-! ### Directory and core images -/

/-- A directory entry with its frame field zero (R342, R515). -/
def dirBytes (e : DirE) : Bytes := dirEntry { e with frame := 0 }

/-- A core's image: its tile store, then 512 bytes of thread state (R515). -/
def coreImage (s : State) (jobId serial core : Nat) : Bytes :=
  (coreAt s core).tile.readN 0 24576 ++ (List.range 512).map fun i => Config.opaqueByte jobId serial (core * 512 + i)

/-- The cores of a partition in increasing index. -/
def partCores (p : PartCfg) : List Nat := (List.range 80000).filter (coreIn p)

/-! ### Narrowing (R531) -/

/-- A tensor's role (R281). -/
def roleOf (raw : Bytes) : Nat := tLogical raw % 16

/-- Slots that the narrowed stash covers: each occupied slot with its stride. -/
def stashSlots (b : Job) : List (Nat × Nat) := b.num.occupied.map fun k => (k, tgetD b.num.slotStrides k 0)

/-- The views of the narrowed stash: every slot-indexed FP16 or BF16 tensor in every occupied slot. -/
def stashViews (b : Job) : List TV :=
  (stashSlots b).flatMap fun k => b.tensors.filterMap fun e =>
    if tSlotIndexed e.2.raw then
      (viewOf b k.1 k.2 none e.1).bind fun v => if is16 v.fmt then some v else none
    else none

/-- Job offsets that a setup's options leave out, as half-open ranges. -/
def omittedRanges (b : Job) (options : Nat) : List (Nat × Nat) :=
  let all := fun (v : TV) => (List.range (tensorBytes v)).map fun o => (byteAddr v o, byteAddr v o + 1)
  let tails := if bit options 0 then b.tensors.flatMap fun e =>
      match viewOf b 0 0 none e.1 with
      | some v => if v.fmt = .m48 ∧ tLogical e.2.raw ≠ 0 ∧ roleOf e.2.raw = 0 then
          (List.range v.count).map fun n => (elemAddr v (indexOf v.ext n), elemAddr v (indexOf v.ext n) + 2)
        else []
      | none => []
    else []
  let copies := if bit options 1 then b.tensors.flatMap fun e =>
      match viewOf b 0 0 none e.1 with
      | some v => if tLogical e.2.raw ≠ 0 ∧ (roleOf e.2.raw = 4 ∨ roleOf e.2.raw = 5) then all v else []
      | none => []
    else []
  let stash := if bit options 2 then (stashViews b).flatMap all else []
  tails ++ copies ++ stash

/-- A job offset is left out. -/
def isOmitted (l : List (Nat × Nat)) (o : Nat) : Bool := l.any fun r => decide (r.1 ≤ o) && decide (o < r.2)

/-- The contiguous strides of extents. -/
def denseStrides : Nat → List Nat → List Nat
  | _, [] => []
  | k, e :: es => k :: denseStrides (k * e) es

/-- The E4M3 image of a tensor: its elements in element order, then E8M0 scales of blocks of 32 (R531). -/
def narrowView (v : TV) : TV :=
  { v with
    fmt := .e4m3, stride := denseStrides 1 v.ext, base := 0, ts := 1, block := 32, bf16 := false, fixed := none
    scaleBase := v.count, scaleStride := denseStrides 1 (scaleExt { v with block := 32 }) }

/-- The bytes of a narrowed tensor. -/
def narrowBytes (m : Src) (v : TV) : Bytes :=
  let w := narrowView v
  let o := encodeTensor m w fun n => some (.val (logicalN m v n).1)
  o.1.foldl (fun b st => overlay b st.1 st.2) (zeros (tensorBytes w))

/-! ### Sections (R534) -/

/-- A piece of literal bytes. -/
def litPiece (b : Bytes) : Piece := { lit := b }

/-- Captured direct slots: those that the region map names, but for the control area, whose section is its own, the spill region
and the promotion area (R515, log 28). -/
def capturedSlots (b : Job) : List Nat :=
  (b.carve.regionMap.map (·.1)).filter fun k =>
    decide (b.carve.controlGib ≤ k) && !(decide (b.carve.spillSlot ≤ k) && decide (k < b.carve.spillSlot + b.carve.spillGib)) &&
    !(decide (b.carve.promotionSlot ≤ k) && decide (k < b.carve.promotionSlot + b.cfg.promotionGib))

/-- Pages of a job by their state. -/
def pagesIn (s : State) (j : Nat) (p : DirE → Bool) : List Nat :=
  let c := carveOf s j
  (List.range c.dirCount).filter fun k => p (dirAt s j k)

/-- The sections of a capture, as the state stands. -/
def sectionsOf (s : State) (j : Nat) (b : Job) : List Section :=
  let objs := controlObjects s j
  let opts := rd b.capture.setup 3 1
  let resident := pagesIn s j fun e => e.st == .resident || e.st == .evicting
  let resting := pagesIn s j fun e => (e.st == .resting || e.st == .fetching) && decide (0 < e.version)
  let index := b.tensors.flatMap fun e => if tLogical e.2.raw = 0 then []
    else tensorBytesOf e.2 ++ (match tget b.tensors (tScaleTensor e.2.raw) with | some c => tensorBytesOf c | none => [])
  [ { kind := 1, pieces := (partCores (partCfg s j)).map fun c => litPiece (coreImage s b.id b.capture.serial c) },
    { kind := 2, base := b.carve.dirBase, pieces := [litPiece ((List.range b.carve.dirCount).flatMap fun k => dirBytes (dirAt s j k))] },
    { kind := 3, pieces := [litPiece index] },
    { kind := 4, pieces := [litPiece ((List.range (b.carve.controlGib * 2 ^ 30)).map (controlByte b objs))] } ] ++
  (capturedSlots b).map (fun k => ({ kind := 5, base := k * 2 ^ 30, pieces :=
      [{ offset := k * 2 ^ 30, address := tgetD b.carve.regionMap k 0 * 2 ^ 30, length := 2 ^ 30 }] } : Section)) ++
  (if resident.isEmpty then [] else [{ kind := 6, pieces := resident.flatMap fun p =>
      [litPiece (leBytes 8 p), { offset := 2 ^ 39 + p * 2 ^ 20, address := (frameAddress b.carve (dirAt s j p).frame).getD 0, length := 2 ^ 20 }] }]) ++
  (if resting.isEmpty then [] else [{ kind := 7, pieces := resting.map fun p => litPiece (leBytes 8 p ++ leBytes 8 (dirAt s j p).version) }]) ++
  (if bit opts 2 ∧ ¬ (stashViews b).isEmpty then
    [{ kind := 8, pieces := (stashViews b).map fun v => litPiece (leBytes 8 v.base ++ narrowBytes (srcOf s j) v) }] else [])

/-- Every Vale byte range of the sections, as capture units of 4 KiB (R528). -/
def unitsOf (l : List Section) : List Nat :=
  l.flatMap fun x => x.pieces.flatMap fun p => (List.range (p.length / 4096)).map fun i => p.address / 4096 + i

/-- The step-clean flag of R533. -/
def stepClean (s : State) (j : Nat) (b : Job) : Bool :=
  b.num.occupied.isEmpty && b.tier.basin.isEmpty && !(pagesIn s j (·.basinValid)).any (fun _ => true) &&
  b.tensors.all fun e => e.2.headers.all fun h => h.2.1 == h.2.2

/-- A byte of Vale as it stood at the barrier: the spilled copy's, or what the unit still holds (R529). -/
def capturedByte (s : State) (b : Job) (a : Nat) : Byte :=
  match tget b.capture.spilled (a / 4096) with
  | some c => c.getD (a % 4096) 0
  | none => s.vale.mem.read a

/-- The bytes of a piece, without those left out. -/
def pieceBytes (s : State) (b : Job) (p : Piece) : Bytes :=
  p.lit ++ ((List.range p.length).filter fun i => !(isOmitted b.capture.omitted (p.offset + i))).map fun i =>
    capturedByte s b (p.address + i)

/-- The bytes of a section. A resting image follows its page and version as the Steppe server returns it: bytes from outside
(log 28). -/
def sectionBytes (b : Job) (x : Section) (s : State) : Bytes × State :=
  if x.kind = 7 then
    x.pieces.foldl (fun acc p => let r := freshBytes 1052672 acc.2; (acc.1 ++ p.lit ++ r.1, r.2)) ([], s)
  else (x.pieces.flatMap (pieceBytes s b), s)

/-- A section padded to whole chunks. -/
def padChunk (b : Bytes) : Bytes := b ++ zeros ((4096 - b.length % 4096) % 4096)

/-- The section entries of the header: first chunk and length of each (R533). -/
def sectionEntries : Nat → List (Section × Bytes) → Bytes
  | _, [] => []
  | c, (x, b) :: rest =>
    leBytes 2 x.kind ++ zeros 6 ++ leBytes 8 c ++ leBytes 8 b.length ++ leBytes 8 x.base ++ sectionEntries (c + ceilDiv b.length 4096) rest

/-- The shard header (R533); a shard of more than 126 sections lists the first 126 (log 28). -/
def shardHeader (s : State) (b : Job) (l : List (Section × Bytes)) : Bytes :=
  let setup := b.capture.setup
  sub (leBytes 2 1 ++ leBytes 1 (rd setup 3 1) ++ leBytes 1 b.capture.clean.toNat ++ leBytes 4 b.id ++ leBytes 8 b.capture.serial ++
    leBytes 8 b.capture.step ++ leBytes 4 (rd setup 4 4) ++ leBytes 4 (rd setup 8 4) ++ leBytes 4 (deviceAddress s) ++
    leBytes 4 (min l.length 126) ++ leBytes 8 (b.capture.stall / 1000) ++ zeros 16 ++ sectionEntries 1 (l.take 126)) 0 4096

/-- The IV of a chunk (R532). -/
def shardIv (serial member c : Nat) : Bytes := leBytes 4 serial ++ leBytes 4 member ++ leBytes 4 c

/-- Chunk records of a plaintext (R532). -/
def chunkRecords (key : Bytes) (serial member : Nat) (plain : Bytes) : Bytes :=
  (pieces 4096 (plain.length / 4096 + 1) plain).zipIdx.flatMap fun x =>
    let r := gcmSeal (sub key 0 32) (shardIv serial member x.2) [] (sub x.1 0 4096)
    r.1 ++ r.2

/-- The shard of a job's capture. -/
def shardBytes (b : Job) (s : State) : Bytes × State :=
  let l := b.capture.sections.foldl (fun (acc : List (Section × Bytes) × State) x =>
    let r := sectionBytes b x acc.2
    (acc.1 ++ [(x, r.1)], r.2)) ([], s)
  (chunkRecords (ckptKey b) b.capture.serial (rd b.capture.setup 4 4)
    (shardHeader s b l.1 ++ l.1.flatMap fun x => padChunk x.2), l.2)

/-! ### Extents (R519) -/

/-- The offset of the setup record's shard fields: set A when the serial is odd. -/
def shardSet (serial : Nat) : Nat := if serial % 2 = 1 then 16 else 40

/-- The offset of the setup record's manifest fields. -/
def manifestSet (serial : Nat) : Nat := if serial % 2 = 1 then 64 else 80

/-! ### The manifest (R535) -/

/-- The members of a lead's job with their device addresses: those served and itself. -/
def leadMembers (s : State) (b : Job) : List Nat :=
  ((deviceAddress s :: b.keying.members).filter fun a => !(b.keying.refusedMembers.contains a)).eraseDups

/-- A member's index as the lead takes it. -/
def indexOfMember (s : State) (b : Job) (a : Nat) : Nat :=
  if a = deviceAddress s then rd b.capture.setup 4 4 else Config.memberIndex b.id a

/-- A member table entry. -/
def memberEntry (s : State) (b : Job) (a : Nat) : Bytes :=
  let parts := tgetD b.capture.lead.parts a []
  leBytes 4 a ++ leBytes 4 (rd b.capture.setup 3 1 % 8) ++ leBytes 8 (tgetD parts 0 0) ++
  (List.range 4).flatMap (fun i => leBytes 8 (tgetD parts (i + 1) 0)) ++
  sub (if a = deviceAddress s then Config.unitId else tgetD b.keying.units a []) 0 32

/-- The manifest up to its certificate: header, member table in member order, blobs and tag. -/
def manifestBody (s : State) (b : Job) (barrierNs captureNs : Nat) : Bytes :=
  let c := b.capture
  let n := rd c.setup 8 4
  let ms := leadMembers s b
  let head := leBytes 2 1 ++ leBytes 1 c.clean.toNat ++ leBytes 1 c.blobs.length ++ leBytes 4 b.id ++ leBytes 8 c.serial ++
    leBytes 8 c.step ++ leBytes 4 n ++ leBytes 4 (rd c.setup 4 4) ++ sub b.digest 0 32 ++ leBytes 1 c.cause ++ zeros 7 ++
    leBytes 8 barrierNs ++ leBytes 8 captureNs ++ zeros 40
  let table := (List.range n).flatMap fun i => ((ms.find? fun a => indexOfMember s b a == i).map (memberEntry s b)).getD (zeros 80)
  let body := head ++ table ++ c.blobs.flatten
  body ++ gcmTag (sub (ckptKey b) 32 32) (leBytes 8 c.serial ++ leBytes 4 b.id) body []

/-- The manifest with the lead's certificate and signature. -/
def manifestBytes (s : State) (b : Job) (barrierNs captureNs : Nat) : Bytes :=
  let m := manifestBody s b barrierNs captureNs ++ certBytes
  m ++ sub (Config.slh128Sign (slotMaterial s 0) m) 0 17088

end Sys2Proof.Machine
end

