-- ==== Sys2Proof/Machine/Mesh.lean ====
section
/-! DEFINITION. The mesh of the Plain (R78 to R85): where agents stand, the one path of a packet, its header and its flits. -/

namespace Sys2Proof.Machine

/-! ### Places (R5, R84, R85, R86) -/

/-- The column and row of a core. -/
def corePlace (c : Nat) : Nat × Nat := (c % 320, c / 320)

/-- The router that a block's slice attaches to. -/
def slicePlace (b : Nat) : Nat × Nat := (16 * (b % 20) + 8, 5 * (b / 20) + 2)

/-- The agents at the edge of the mesh (R84). -/
inductive EdgeAgent where
  | valeController (stack : Nat)
  | passPort (port : Nat)
  | ethernetPort (port : Nat)
  | microcodeStore (quarter : Nat)
  | management
deriving DecidableEq, Repr

/-- The column of the edge that a quarter's ports stand at: west for Q0 and Q2, east for Q1 and Q3. -/
def edgeColumn (q : Nat) : Nat := if q % 2 = 0 then 0 else 319

/-- The first column of a stack's controller. -/
def controllerColumn (stack : Nat) : Nat := [16, 64, 112, 184, 232, 280].getD (stack % 6) 0

/-- The routers that an agent attaches to (R84). -/
def agentRouters : EdgeAgent → List (Nat × Nat)
  | .valeController n => (List.range 24).map fun k => (controllerColumn n + k, if n < 6 then 0 else 249)
  | .passPort n => [0, 1].map fun k => (edgeColumn (n / 8), 125 * (n / 8 / 2) + 15 * (n % 8) + 7 + k)
  | .ethernetPort q => (List.range 4).map fun k => (edgeColumn q, 125 * (q / 2) + 118 + k)
  | .microcodeStore q => [(edgeColumn q, 125 * (q / 2) + 1)]
  | .management => [(0, 3)]

/-- The router at which a request from a column enters a stack's controller: that in the nearest of its columns (R85). -/
def valeRouter (stack column : Nat) : Nat × Nat :=
  (max (controllerColumn stack) (min column (controllerColumn stack + 23)), if stack < 6 then 0 else 249)

/-! ### Paths (R78, R80, R83) -/

/-- The numbers from one to another, both included. -/
def walk (a b : Nat) : List Nat := if a ≤ b then (List.range (b - a + 1)).map (a + ·) else (List.range (a - b + 1)).map (a - ·)

/-- The routers of a packet's path: along the row to the destination's column, then along the column (R80). -/
def meshRoute (a b : Nat × Nat) : List (Nat × Nat) := (walk a.1 b.1).map (fun c => (c, a.2)) ++ ((walk a.2 b.2).drop 1).map fun r => (b.1, r)

/-- The sides of a router. -/
inductive Side where
  | west | east | north | south | core
deriving DecidableEq, Repr

/-- The side at which a packet enters its last router: from the last leg of its path. -/
def entrySide (a b : Nat × Nat) : Side :=
  if a.2 < b.2 then .north else if b.2 < a.2 then .south
  else if a.1 < b.1 then .west else if b.1 < a.1 then .east else .core

/-- The number of a side. -/
def sideNumber : Side → Nat
  | .west => 0
  | .east => 1
  | .north => 2
  | .south => 3
  | .core => 4

/-- Seams that a path crosses (R78): between columns 159 and 160, and between rows 124 and 125. -/
def seams (a b : Nat × Nat) : Nat :=
  (decide (a.1 < 160) != decide (b.1 < 160)).toNat + (decide (a.2 < 125) != decide (b.2 < 125)).toNat

/-- Mesh cycles of a header from source to destination (R83). -/
def meshTransit (a b : Nat × Nat) : Nat :=
  4 + ((a.1 - b.1) + (b.1 - a.1) + (a.2 - b.2) + (b.2 - a.2)) + (decide (a.1 ≠ b.1) && decide (a.2 ≠ b.2)).toNat + 4 * seams a b

/-! ### Packets (R79, R82) -/

/-- The fields of a header flit (R82). -/
structure MeshHeader where
  dst : Nat × Nat
  dstEdge : Bool := false
  src : Nat × Nat
  srcEdge : Bool := false
  response : Bool := false
  opcode : Nat
  dataFlits : Nat := 0
  key : Nat := 0
  thread : Nat := 0
  tag : Nat := 0
  address : Nat := 0
  mask : Nat := 0
  status : Nat := 0
deriving DecidableEq, Repr

/-- A header's bits; those that the table of R82 does not list are zero. -/
def MeshHeader.word (h : MeshHeader) : Nat :=
  h.dst.1 + 2 ^ 9 * h.dst.2 + 2 ^ 17 * h.dstEdge.toNat + 2 ^ 18 * h.src.1 + 2 ^ 27 * h.src.2 + 2 ^ 35 * h.srcEdge.toNat +
  2 ^ 36 * h.response.toNat + 2 ^ 37 * h.opcode + 2 ^ 41 * h.dataFlits + 2 ^ 44 * h.key + 2 ^ 50 * h.thread + 2 ^ 52 * h.tag +
  2 ^ 64 * h.address + 2 ^ 104 * h.mask + 2 ^ 168 * h.status

/-- The opcode of a request. -/
def reqOpcode : ReqKind → Nat
  | .read64 => 0
  | .read256 => 1
  | .writeMask => 2
  | .writeFull => 3
  | .reserved n => n

/-- The data flits of a request. -/
def reqFlits : ReqKind → Nat
  | .writeMask => 1
  | .writeFull => 4
  | _ => 0

/-- The header of a core's request to a slice (R82, R316): the job offset, under the anchor key id of its job. -/
def requestHeader (s : State) (r : CoreReq) (slice : Nat) : MeshHeader :=
  { dst := slicePlace slice, src := corePlace r.core, opcode := reqOpcode r.kind, dataFlits := reqFlits r.kind
    key := ((tget s.jobs r.job).map (·.keys.anchor)).getD 0, thread := r.thread, tag := r.tag, address := r.offset
    mask := r.mask.toNat }

/-- The header of a response to it: read data, write acknowledged, or an error with its status. -/
def responseHeader (s : State) (r : CoreReq) (slice status : Nat) : MeshHeader :=
  let reads : Bool := r.kind == .read64 || r.kind == .read256
  { dst := corePlace r.core, src := slicePlace slice, response := true
    opcode := if status ≠ 0 then 6 else if reads then 4 else 5
    dataFlits := if status ≠ 0 then 0 else match r.kind with | .read64 => 1 | .read256 => 4 | _ => 0
    key := ((tget s.jobs r.job).map (·.keys.anchor)).getD 0, thread := r.thread, tag := r.tag, address := r.offset, status }

/-- The header of a slice's read of a line at a Vale address (R82, R85, R316). -/
def valeHeader (s : State) (slice job address : Nat) : MeshHeader :=
  let from' := slicePlace slice
  { dst := valeRouter (place (address / 256)).1 from'.1, dstEdge := true, src := from', opcode := 1
    key := ((tget s.jobs job).map (·.keys.anchor)).getD 0, address }

/-- The flits of some bytes: 64 bytes each, with the check byte of every word (R79, R590). -/
def flitsOf (b : Bytes) : List Flit :=
  (List.range (ceilDiv b.length 64)).map fun i =>
    let p := sub b (64 * i) 64
    ⟨p, (List.range 8).map fun k => BitVec.ofNat 8 (checkByte (rd p (8 * k) 8))⟩

end Sys2Proof.Machine
end

