-- ==== Sys2Proof/Machine/Slice.lean ====
section
/-! DEFINITION. A slice of the Plain cache seen by its requests (R71 to R75, R80 to R93, R315, R316, R343, R345), and the request
tags of Vale (R339). -/

namespace Sys2Proof.Machine

/-! ### Request tags (R339) -/

/-- A slice's read asks for a tag: it takes one, waits in the queue of 64, or is withheld. -/
def askTag (p slice line : Nat) (s : State) : State × Bool :=
  let x := pchanAt s p
  if x.held < 256 then (modPchan p (fun x => { x with held := x.held + 1 }) s, true)
  else if x.waiting.length < 64 then (modPchan p (fun x => { x with waiting := x.waiting ++ [(slice, line)] }) s, true)
  else (s, false)

/-- A queued request takes a freed tag. -/
def tagAccept (p : Nat) (s : State) : State :=
  let x := pchanAt s p
  if x.held < 256 ∧ ¬ x.waiting.isEmpty then modPchan p (fun x => { held := x.held + 1, waiting := x.waiting.drop 1 }) s
  else s

/-- VALE_REQUEST_ACCEPT. -/
def execValeRequestAccept (pchan : Nat) (s : State) : Host.Outcome State Fault Refusal :=
  .next (if alive s then tagAccept pchan s else s)

/-! ### Requests -/

/-- The line of a request. -/
def reqLine (r : CoreReq) : Nat := r.offset / 256

/-- The first byte of a request in its line: that of its 64-byte unit, or of the line. -/
def reqStart (r : CoreReq) : Nat := match r.kind with
  | .read64 => r.offset % 256 / 64 * 64
  | .writeMask => r.offset % 256 / 64 * 64
  | _ => 0

/-- The bytes of the line that a request reads or writes. -/
def reqMask (r : CoreReq) : Nat := match r.kind with
  | .read64 => maskOf (reqStart r) 64
  | .writeMask => r.mask.toNat * 2 ^ reqStart r
  | _ => fullMask

/-- A request writes. -/
def reqWrites (r : CoreReq) : Bool := match r.kind with | .writeMask => true | .writeFull => true | _ => false

/-- The offset lies in the carve-out of the job (R87, R315). -/
def inCarve (c : Carve) (off : Nat) : Bool :=
  match windowPage off with
  | none => (tget c.regionMap (off / 2 ^ 30)).isSome
  | some p => decide (p < c.dirCount) && decide (off < 2 ^ 40)

/-- The home slice holds what a request reads. -/
def lineHolds (s : State) (r : CoreReq) : Bool :=
  match cachedLine s r.job (reqLine r) with
  | some x => x.valid &&& reqMask r == reqMask r
  | none => false

/-- A unit enters a core's L1 as the most recently used of its set of 4; the least recently used of a full set goes (R62, R71,
log 21). -/
def fillL1 (x : L1Line) (l : List L1Line) : List L1Line :=
  let rest := l.filter fun y => y.unit != x.unit
  let same := rest.filter fun y => y.unit % 32 == x.unit % 32
  (match same with
   | a :: _ :: _ :: _ :: _ => rest.erase a
   | _ => rest) ++ [x]

/-- Bytes stored into a core's L1, which allocates their unit (R71): the line as it stands then. -/
def storeL1 (r : CoreReq) (l : List L1Line) : List L1Line :=
  let old := ((l.find? fun y => y.unit == r.offset / 64).map (·.data)).getD (zeros 64)
  fillL1 ⟨r.offset / 64, (List.range 64).map fun i => if bit r.mask.toNat i then r.data.getD i 0 else old.getD i 0⟩ l

/-- A request leaves its core: a read of a unit takes a miss register and its thread waits (R63, R71); a masked write is a line's
write-back, which the home slice is to acknowledge (R72, log 21). -/
def threadWaits (r : CoreReq) (s : State) : State :=
  match r.kind with
  | .read64 => modCore r.core (fun c => stopThread r.thread { c with
      l1Misses := c.l1Misses + 1, waiting := if c.waiting.contains r.thread then c.waiting else c.waiting ++ [r.thread] }) s
  | .writeMask => modCore r.core (fun c => { c with l1 := storeL1 r c.l1, unacked := c.unacked ++ [r.offset / 64] }) s
  | _ => s

/-- Flits that arrive for the tile store (R75): the fill buffer holds 8, and where it is full the array yields to the oldest; while no
array instruction stands in the issue queue they all go on. -/
def fillTile (address : Nat) (l : List Flit) (c : CoreSt) : CoreSt :=
  let c := l.zipIdx.foldl (fun (c : CoreSt) x =>
    let c := if 8 ≤ c.fill.length then drainFlit c else c
    { c with fill := c.fill ++ [(address + 64 * x.2, x.1)] }) c
  if c.issue.isEmpty then drainFill c else c

/-- A response reaches its core (R81, R82): a unit read fills the L1 and frees its miss register, for which other threads may wait; a
line read goes to the tile store; a write-back is acknowledged. -/
def takeResponse (r : CoreReq) (header : Nat) (data : Option Bytes) (c : CoreSt) : CoreSt :=
  let c := { c with responses := tset c.responses r.tag header }
  match r.kind with
  | .read64 =>
    (r.thread :: c.regWaits).foldl (fun c t => readyThread t c) { c with
      l1Misses := c.l1Misses - 1, waiting := c.waiting.filter (· != r.thread), regWaits := []
      l1 := match data with | some b => fillL1 ⟨r.offset / 64, b⟩ c.l1 | none => c.l1 }
  | .read256 => match data with | some b => fillTile r.tile (flitsOf b) c | none => c
  | .writeMask => { c with unacked := c.unacked.erase (r.offset / 64) }
  | _ => c

/-- Answer a request, with its data or with the status of an error. -/
def answerCore (r : CoreReq) (status : Nat) (data : Option Bytes) (s : State) : State :=
  modCore r.core (takeResponse r (responseHeader s r (sliceOf s r.job (reqLine r * 256)) status).word data) s

/-- The slice performs a request that it can answer (R88). -/
def performReq (r : CoreReq) (s : State) : State :=
  if reqWrites r then
    answerCore r 0 none
      (markDirty r.job r.offset (cacheLineWrite r.job (reqLine r) (reqMask r) (zeros (reqStart r) ++ sub r.data 0 (256 - reqStart r)) s))
  else
    let slice := sliceOf s r.job (reqLine r * 256)
    let line := ((cachedLine s r.job (reqLine r)).map (·.data)).getD (zeros 256)
    let s := match findWay s.cache slice r.job (reqLine r) with
      | some w => touchWay slice (setOf (reqLine r)) w s
      | none => s
    answerCore r 0 (some (match r.kind with | .read64 => sub line (reqStart r) 64 | _ => line)) s

/-- The directory entry of a page comes into the slice's directory cache: 256 lines of 8 entries, the oldest goes (R343,
log 21). -/
def cacheDir (slice : Nat) (r : CoreReq) (s : State) : State :=
  match windowPage r.offset with
  | none => s
  | some p =>
    let k := ((carveOf s r.job).dirBase + p) / 8
    let l := tgetD s.cache.dirCache slice []
    if l.contains k then s
    else { s with cache := { s.cache with dirCache := tset s.cache.dirCache slice ((if 256 ≤ l.length then l.drop 1 else l) ++ [k]) } }

/-- What the page of a request allows now (R345): it is translated, or the access is held; a write to a gradient page that
rests or is fetched goes to the Basin. -/
def pageReady (r : CoreReq) (s : State) : State × Bool :=
  match windowPage r.offset with
  | none => (s, true)
  | some p =>
    let e := dirAt s r.job p
    if e.gradient ∧ reqWrites r then gradientWrite r.job p s
    else if e.basinValid ∨ e.st = .resident then (s, true)
    else let t := requestPage r.job p s; (t, (dirAt t r.job p).st == .resident)

/-- A request that the slice can answer without Vale. -/
def answerable (s : State) (r : CoreReq) : Bool := reqWrites r || lineHolds s r

/-! ### Miss registers (R92, R93) -/

/-- The miss registers of a slice. -/
def missRegs (s : State) (slice : Nat) : List MissReg := tgetD s.cache.miss slice []

/-- Change them. -/
def setMiss (slice : Nat) (l : List MissReg) (s : State) : State :=
  { s with cache := { s.cache with miss := tsetD s.cache.miss slice l [] } }

/-- Change the register of a line of a job, or drop it. -/
def modMiss (slice j line : Nat) (f : MissReg → Option MissReg) (s : State) : State :=
  setMiss slice ((missRegs s slice).filterMap fun m => if m.job = j ∧ m.line = line then f m else some m) s

/-- Answer the requests of a register in order, as far as they need no fill; the rest. -/
def answerReqs : List CoreReq → State → State × List CoreReq
  | [], s => (s, [])
  | r :: rs, s =>
    let p := pageReady r s
    if p.2 ∧ answerable p.1 r then answerReqs rs (performReq r p.1) else (p.1, r :: rs)

/-- Go on with a register that has no read out: requests that need no fill are answered, and a read goes to Vale once its
page is there. -/
def workMiss (slice : Nat) (m : MissReg) (s : State) : State :=
  if m.pchan.isSome then s
  else
    let a := answerReqs m.reqs s
    if a.2.isEmpty then modMiss slice m.job m.line (fun _ => none) a.1
    else
      let s := modMiss slice m.job m.line (fun m => some { m with reqs := a.2 }) a.1
      match translate s m.job (m.line * 256) with
      | none => s
      | some v =>
        let p := pchanOf (v / 256)
        let t := askTag p slice m.line s
        if t.2 then
          modMiss slice m.job m.line (fun m => some { m with pchan := some p, request := (valeHeader s slice m.job (v / 256 * 256)).word }) t.1
        else s

/-- Every register that waits for a page or for the queue of a pseudo-channel tries again. -/
def workAll (s : State) : State :=
  s.cache.miss.foldl (fun t x => x.2.foldl (fun t m => workMiss x.1 m t) t) s

/-- A request that its slice cannot answer now joins a miss register of its line, which holds up to 16, or takes a free one where it may;
false where it can do neither. -/
def takeMiss (slice : Nat) (mayTake : Bool) (r : CoreReq) (s : State) : State × Bool :=
  let regs := missRegs s slice
  match regs.find? fun m => m.job == r.job && m.line == reqLine r with
  | some m =>
    if m.reqs.length < 16 then
      (modMiss slice r.job (reqLine r) (fun m => some { m with reqs := m.reqs ++ [r] }) s, true)
    else (s, false)
  | none =>
    if mayTake ∧ regs.length < 96 then
      let m : MissReg := { job := r.job, line := reqLine r, reqs := [r] }
      (workMiss slice m (setMiss slice (regs ++ [m]) s), true)
    else (s, false)

/-- A request is a hit: no register holds its line, its page is there, and the slice can answer it. -/
def tryHit (slice : Nat) (r : CoreReq) (s : State) : State × Bool :=
  if (missRegs s slice).any fun m => m.job == r.job && m.line == reqLine r then (s, false)
  else
    let p := pageReady r s
    if p.2 ∧ answerable p.1 r then (performReq r p.1, true) else (p.1, false)

/-- A slice takes a request as a hit, into a miss register, or into its miss queue of 32; false where none has room (R92, R93). -/
def sliceTakes (slice : Nat) (r : CoreReq) (s : State) : State × Bool :=
  let h := tryHit slice r s
  if h.2 then h
  else
    let q := tgetD s.cache.queue slice []
    let m := takeMiss slice q.isEmpty r h.1
    if m.2 then m
    else if q.length < 32 then ({ m.1 with cache := { m.1.cache with queue := tset m.1.cache.queue slice (q ++ [r]) } }, true)
    else (m.1, false)

/-- The input of a slice's router by which a core's requests come: the last leg of their one path (R80). -/
def inputOf (slice core : Nat) : Nat := 5 * slice + sideNumber (entrySide (corePlace core) (slicePlace slice))

/-- The requests that the mesh holds at an input of a slice's router and behind it, in the order they came (R80, R81). -/
def inputAt (s : State) (n : Nat) : List CoreReq := tgetD s.cache.inputs n []

/-- Change them. -/
def setInput (n : Nat) (l : List CoreReq) (s : State) : State :=
  { s with cache := { s.cache with inputs := tsetD s.cache.inputs n l [] } }

/-- The task of a request takes an access error, and its core the response that says so (R82, R87). -/
def refuse (r : CoreReq) (s : State) : State :=
  let s := answerCore r 3 none s
  match r.task with
  | some t => programFault t 0x60 s
  | none => s

/-- The job, offset and task of a request fit its carve-out (R87, R315). -/
def reqAllowed (b : Job) (r : CoreReq) : Bool :=
  inCarve b.carve r.offset && match r.task with | some t => t.job == r.job | none => true

/-- All 8 miss registers of the requester's L1 are busy: its thread waits, and the request stays in the core (R71). -/
def registersBusy (s : State) (r : CoreReq) : Bool := r.kind == .read64 && decide (8 ≤ (coreAt s r.core).l1Misses)

/-- A thread waits for a miss register, and the core switches (R63, R71). -/
def waitRegister (r : CoreReq) (c : CoreSt) : CoreSt :=
  stopThread r.thread { c with regWaits := if c.regWaits.contains r.thread then c.regWaits else c.regWaits ++ [r.thread] }

/-- A packet of a reserved opcode, which its router takes as an uncorrectable error of the job (R82). -/
def reservedPacket (r : CoreReq) (s : State) : State :=
  match r.task with
  | some t => taskFault t 0x62 s
  | none => jobFault r.job 0x62 0xFFFF {} s

/-- A core's request: an access error outside the tile store (R74) or the carve-out (R87), else on its way over the mesh to its home
slice, behind those that wait at the same input of the slice's router (R80); one that the slice cannot take waits there without a
credit (R93). -/
def cacheAccess (r : CoreReq) (s : State) : State :=
  match tget s.jobs r.job with
  | none => s
  | some b =>
    match r.kind with
    | .reserved _ => reservedPacket r s
    | _ =>
      if r.kind = .read256 ∧ 0x5FFF < r.tile + 255 then refuse r s
      else if ¬ reqAllowed b r then refuse r s
      else if registersBusy s r then modCore r.core (waitRegister r) s
      else
        let slice := sliceOf s r.job (reqLine r * 256)
        let n := inputOf slice r.core
        let s := threadWaits r (cacheDir slice r s)
        if (inputAt s n).isEmpty then
          let h := sliceTakes slice r s
          if h.2 then h.1 else setInput n [r] h.1
        else setInput n (inputAt s n ++ [r]) s

/-- Lines with an uncorrectable word go: the slice's without being written to Vale, the core's L1 unit (R594). -/
def dropDamaged (r : CoreReq) (ecc : List EccReport) (s : State) : State :=
  let bad := fun (u : Nat) => ecc.any fun e => e.unit == u && (readWord e.data.toNat e.check.toNat).isNone
  let s := if bad 0x02 then modCore r.core (fun c => { c with l1 := c.l1.filter fun x => x.unit != r.offset / 64 }) s else s
  if bad 0x06 then
    let slice := sliceOf s r.job (reqLine r * 256)
    match findWay s.cache slice r.job (reqLine r) with
    | some w => setWay (wayKey slice (setOf (reqLine r)) w) none s
    | none => s
  else s

/-- PLAIN_CACHE_ACCESS: damaged words of the access act first (R594). -/
def execPlainCacheAccess (req : CoreReq) (ecc : List EccReport) (s : State) : Host.Outcome State Fault Refusal :=
  .next (if alive s then
    let e := meetWords { task := req.task, job := some req.job } ecc (dropDamaged req ecc s)
    settle (if e.2 then cacheAccess req e.1 else e.1)
  else s)

/-- The requests that wait at an input go on, in order, as far as the slice takes them. -/
def drainInput (slice n : Nat) : List CoreReq → State → State
  | [], s => setInput n [] s
  | r :: rest, s =>
    let h := sliceTakes slice r s
    if h.2 then drainInput slice n rest h.1 else setInput n (r :: rest) h.1

/-- A freed place of the miss queue gives the inputs of the slice's router credits again, lowest side first (R93, log 21). -/
def drainInputs (slice : Nat) (s : State) : State :=
  (List.range 5).foldl (fun s k => drainInput slice (5 * slice + k) (inputAt s (5 * slice + k)) s) s

/-- The oldest request of a miss queue takes a register, or is answered; then what the mesh holds goes on. -/
def dequeueMiss (slice : Nat) (s : State) : State :=
  match tgetD s.cache.queue slice [] with
  | [] => s
  | r :: rest =>
    let pop := fun (t : State) => drainInputs slice { t with cache := { t.cache with queue := tsetD t.cache.queue slice rest [] } }
    let h := tryHit slice r s
    if h.2 then pop h.1
    else
      let m := takeMiss slice true r h.1
      if m.2 then pop m.1 else s

/-- MISS_QUEUE_DEQUEUE. -/
def execMissQueueDequeue (slice : Nat) (s : State) : Host.Outcome State Fault Refusal :=
  .next (if alive s then settle (dequeueMiss slice s) else s)

/-! ### Fills (R88) -/

/-- A whole line read from Vale merges under the valid mask. -/
def mergeFill (slice j line v : Nat) (s : State) : State :=
  let data := s.vale.mem.readN (v / 256 * 256) 256
  let set := setOf line
  match findWay s.cache slice j line with
  | some w =>
    match tget s.cache.lines (wayKey slice set w) with
    | none => s
    | some x =>
      touchWay slice set w (setWay (wayKey slice set w) (some { x with data := mergeMask data x.valid x.data, valid := fullMask }) s)
  | none =>
    let a := allocWay slice set s
    touchWay slice set a.1 (setWay (wayKey slice set a.1) (some ⟨j, line, data, fullMask, false, none⟩) a.2)

/-- The controller serves a write that it holds to the line before the slice's read of it (R312). -/
def heldBefore (s : State) (j line : Nat) : Bool :=
  match translate s j (line * 256) with
  | none => false
  | some v => s.vale.blocked.any fun x => x.address == v / 256 * 256

/-- The job's anchor key id is that of the job that owns the line's region (R316). -/
def anchorOk (s : State) (j l : Nat) : Bool :=
  match (regionOf s (lineRegion l)).owner with
  | none => false
  | some o => ((tget s.jobs o).map (·.keys.anchor)) == ((tget s.jobs j).map (·.keys.anchor))

/-- A read response reaches its slice: the register's requests are answered in order. A failed read answers them with
status 0x01, and the job faults (R323); one under another job's anchor, with status 0x03 (R316). -/
def lineFill (slice line : Nat) (first second : Fetch) (ecc : List EccReport) (s : State) : State :=
  match (missRegs s slice).find? fun m => m.line == line && m.pchan.isSome with
  | none => s
  | some m =>
    let p := m.pchan.getD 0
    if (pchanAt s p).waiting.contains (slice, line) ∨ heldBefore s m.job line then s
    else
      let s := freeTagOf p s
      let task := (m.reqs.head?).bind (·.task)
      match translate s m.job (line * 256) with
      | none => modMiss slice m.job line (fun m => some { m with pchan := none }) s
      | some v =>
        if ¬ anchorOk s m.job (v / 256) then
          m.reqs.foldl (fun t r => answerCore r 3 none t) (modMiss slice m.job line (fun _ => none) s)
        else
        let f := readLine (v / 256) first second s
        let e := if f.2 then meetWords { task, job := some m.job } ecc f.1 else (lineFails (v / 256) 0 task f.1, false)
        let s := modMiss slice m.job line (fun _ => none) e.1
        if e.2 then
          let s := mergeFill slice m.job line v s
          m.reqs.foldl (fun t r => performReq r t) s
        else m.reqs.foldl (fun t r => answerCore r (if f.2 then 2 else 1) none t) s

/-- LINE_FILL. -/
def execLineFill (slice line : Nat) (first second : Fetch) (ecc : List EccReport) (s : State) :
    Host.Outcome State Fault Refusal :=
  .next (if alive s then settle (lineFill slice line first second ecc s) else s)

end Sys2Proof.Machine
end

