-- ==== Sys2Proof/Machine/Vale.lean ====
section
/-! DEFINITION. Vale controllers (R316, R320 to R327), re-key sweeps (R330 to R335) and key ids (R328, R336). -/

namespace Sys2Proof.Machine

/-! ### What the stacks hold of a line (R317 to R319) -/

/-- The key material of a memory key id: the XTS data and tweak keys and the GMAC key (R336, R489). -/
def lineKey (s : State) (k : Nat) : Bytes := slotMaterial s (if k = 0 then 6 else 15 + k)

/-- The tweak of a line under a counter and a key id (R318). -/
def lineTweak (l counter key : Nat) : Bytes := leBytes 4 l ++ leBytes 4 counter ++ leBytes 1 (key % 64) ++ zeros 7

/-- The IV of a line's tag (R319). -/
def lineIv (l counter key : Nat) : Bytes := leBytes 4 l ++ leBytes 4 counter ++ leBytes 4 (key % 64)

/-- The ciphertext stored for line `l` (R318). -/
def storedCipher (l : Nat) (s : State) : Bytes :=
  let m := metaOf s l
  let k := lineKey s m.2
  xtsEncrypt (sub k 0 32) (sub k 32 32) (lineTweak l m.1 m.2) (s.vale.mem.readN (256 * l) 256)

/-- The metadata stored for line `l` (R317, R319). -/
def storedMeta (l : Nat) (s : State) : Bytes :=
  let m := metaOf s l
  let tail := leBytes 4 m.1 ++ leBytes 4 (m.2 % 64)
  sub (gcmTag (sub (lineKey s m.2) 64 32) (lineIv l m.1 m.2) (storedCipher l s ++ tail) []) 0 8 ++ tail

/-! ### The controller area (R311, R334, R342) -/

/-- The key material of the controller area: K5, which Glen derives at boot (R494). -/
def controllerKey (s : State) : Bytes := slotMaterial s 5

/-- The ciphertext of a line of the controller area, encrypted like any line (R311): its line index, counter and plain bytes. -/
def controllerCipher (l counter : Nat) (plain : Bytes) (s : State) : Bytes :=
  xtsEncrypt (sub (controllerKey s) 0 32) (sub (controllerKey s) 32 32) (lineTweak l counter 0) plain

/-- Its metadata, tagged like any line's. -/
def controllerMeta (l counter : Nat) (plain : Bytes) (s : State) : Bytes :=
  let tail := leBytes 4 counter ++ zeros 4
  sub (gcmTag (sub (controllerKey s) 64 32) (lineIv l counter 0) (controllerCipher l counter plain s ++ tail) []) 0 8 ++ tail

/-- The controller area's lines of the tier directory, of 16 entries each (R342), and of the error log, of 4 records each (R597). -/
def directoryLine (n : Nat) (s : State) : Bytes := (List.range 16).flatMap fun i => dirEntry (tgetD s.dir (16 * n + i) {})

/-- A line of the error log as the controller area holds it. -/
def errorLine (n : Nat) (s : State) : Bytes := (List.range 4).flatMap fun i => sub (s.errors.log.getD (4 * n + i) []) 0 64

/-! ### Requests of agents -/

/-- A controller serves a request only under the anchor key id of the job that owns the region (R316); any other gets status
0x03. -/
def ownedReq (s : State) (r : ValeReq) : Bool :=
  match (regionOf s (lineRegion (r.address / 256))).owner with
  | none => false
  | some j => match tget s.jobs j with | some b => b.keys.anchor == r.key | none => false

/-- The access of R596 that an agent's read is. -/
def accessOf (a : ValeAgent) : Nat := match a with | .sweep => 2 | .tier => 4 | .capture => 5 | _ => 0

/-- The 64 or 256 bytes that a read returns (R323). -/
def readData (r : ValeReq) (s : State) : Bytes :=
  if r.length = 64 then s.vale.mem.readN (r.address / 64 * 64) 64 else s.vale.mem.readN (r.address / 256 * 256) 256

/-- The read of an agent's request (R323): answered with its bytes, or with status 0x01 and an integrity error. -/
def performRead (r : ValeReq) (first second : Fetch) (s : State) : State :=
  let f := readLine (r.address / 256) first second s
  if f.2 then answerVale (some r) 0 (readData r f.1) f.1
  else lineFails (r.address / 256) (accessOf r.agent) r.task (answerVale (some r) 1 [] f.1)

/-- A partial write of an agent reads the line first; a read that fails twice abandons it, leaves the line as it was and faults the
job (R325). -/
def performPartial (x : Blocked) (r : ValeReq) (s : State) : State :=
  let f := readLine (r.address / 256) x.fetches.1 x.fetches.2 s
  if f.2 then performWrite x f.1 else lineFails (r.address / 256) 1 none (answerVale (some r) 1 [] f.1)

/-- A request that a controller can serve has its effect. -/
def performHeld (x : Blocked) (s : State) : State :=
  match x.req with
  | none => performWrite x s
  | some r =>
    if x.isRead then performRead r x.fetches.1 x.fetches.2 s
    else if x.mask = fullMask then performWrite x s
    else performPartial x r s

/-- An agent's request: status 0x03 under a wrong anchor, else served, or held behind another of its line or for want of a tag (R312,
R316, R339). -/
def agentReq (r : ValeReq) (x : Blocked) (s : State) : State :=
  if ¬ ownedReq s r then answerVale (some r) 3 [] s
  else if mustWait (r.address / 256) s then holdRequest x s
  else performHeld x s

/-- A read by an agent (R323). -/
def valeReadReq (r : ValeReq) (first second : Fetch) (s : State) : State :=
  agentReq r { writeOf (r.address / 256) 0 [] with isRead := true, req := some r, fetches := (first, second) } s

/-- VALE_READ. -/
def execValeRead (req : ValeReq) (first second : Fetch) (s : State) : Host.Outcome State Fault Refusal :=
  .next (if alive s then settle (valeReadReq req first second s) else s)

/-- A full-line write verifies nothing and always succeeds (R324). -/
def valeFullReq (r : ValeReq) (data : Bytes) (s : State) : State :=
  agentReq r { writeOf (r.address / 256) fullMask (sub data 0 256) with req := some r } s

/-- VALE_FULL_LINE_WRITE. -/
def execValeFullLineWrite (req : ValeReq) (data : Bytes) (s : State) : Host.Outcome State Fault Refusal :=
  .next (if alive s then settle (valeFullReq req data s) else s)

/-- A partial write by an agent (R325). -/
def valePartialReq (r : ValeReq) (mask : Nat) (data : Bytes) (first second : Fetch) (s : State) : State :=
  agentReq r { writeOf (r.address / 256) mask (sub data 0 256) with req := some r, fetches := (first, second) } s

/-- VALE_PARTIAL_WRITE. -/
def execValePartialWrite (req : ValeReq) (mask : BitVec 256) (data : Bytes) (first second : Fetch) (s : State) :
    Host.Outcome State Fault Refusal :=
  .next (if alive s then settle (valePartialReq req mask.toNat data first second s) else s)

/-! ### Sweeps (R330 to R334) -/

/-- Change a region's entry. -/
def modRegion (r : Nat) (f : Region → Region) (s : State) : State :=
  { s with vale := { s.vale with regions := tset s.vale.regions r (f (regionOf s r)) } }

/-- A sweep begins under a target key id: the old one becomes the region's previous key id (R332). -/
def beginSweep (r target : Nat) (s : State) : State :=
  let s := modRegion r (fun x => { x with key := target, previous := some x.key }) s
  { s with vale := { s.vale with sweepQueue := s.vale.sweepQueue.erase r, sweep := some { region := r }, sweepWaits := false } }

/-- A sweep's new key id is about to be created: its slot's record is written, and it waits for the mirror (R331, R476). -/
def allocSweepKey (j k : Nat) (b : Job) (s : State) : State :=
  let n := memoryKey s b.keys.secret b.id k (b.keys.allocations + 1)
  let slot : KeySlot := ⟨n.2, attrWord 6 k j 0 0x21⟩
  let s := modJob j (fun b => { b with keys := { b.keys with allocations := n.1 } }) s
  let s := slotRecord 1 (15 + k) b.id slot s
  { s with ledger := { s.ledger with deferred := s.ledger.deferred ++ [⟨s.ledger.next - 1, s.tickets, .sweepKey j k slot⟩] }
           tickets := s.tickets + 1 }

/-- A sweep key of a job waits for the mirror. -/
def sweepKeyComing (s : State) (j : Nat) : Bool :=
  s.ledger.deferred.any fun d => match d.change with | .sweepKey k _ _ => k == j | _ => false

/-- The region at the head of the queue begins its sweep once its target is there (R331); in mirror fault no key slot is
created (R480); a job in teardown has its regions cleared instead (R59). -/
def sweepStart (s : State) : State :=
  match s.vale.sweepQueue, s.vale.sweep with
  | r :: _, none =>
    match (regionOf s r).owner with
    | none => { s with vale := { s.vale with sweepQueue := s.vale.sweepQueue.erase r } }
    | some j =>
      match tget s.jobs j with
      | none => s
      | some b =>
        if b.teardown.isSome then { s with vale := { s.vale with sweepQueue := s.vale.sweepQueue.erase r } }
        else if b.keys.newest ≠ (regionOf s r).key then beginSweep r b.keys.newest s
        else if sweepKeyComing s j ∨ s.ledger.mirrorFault then s
        else
          match freeKeyId s with
          | some k => allocSweepKey j k b s
          | none =>
            if s.vale.sweepWaits then s
            else
              jobEvent j 0x0A (timed s (leBytes 2 r)) { s with vale := { s.vale with sweepWaits := true } }
  | _, _ => s

/-- SWEEP_START. -/
def execSweepStart (s : State) : Host.Outcome State Fault Refusal := .next (if alive s && s.fw.activating.isNone then sweepStart s else s)

/-- The next line of the sweep is read and written under the target with counter 0, unless it is under it already; the
cursor is stored every 4,096 lines, and the last line ends the sweep (R332, R334). A step whose line's pseudo-channel has no tag waits
(R339). -/
def sweepStep (first second : Fetch) (s : State) : State :=
  match s.vale.sweep with
  | none => s
  | some w =>
    let l := w.region * 2 ^ 22 + w.next
    if ¬ tagFree s l then s else
    let target := (regionOf s w.region).key
    let s := if (metaOf s l).2 = target then s
      else
        let f := readLine l first second s
        if f.2 then { f.1 with vale := { f.1.vale with lineMeta := tsetD f.1.vale.lineMeta l (0, target) (0, 0) } }
        else lineFails l 2 none f.1
    if w.next + 1 = 2 ^ 22 then
      modRegion w.region (fun x => { x with previous := none }) { s with vale := { s.vale with sweep := none } }
    else
      { s with vale := { s.vale with sweep := some { w with
          next := w.next + 1, cursor := if (w.next + 1) % 4096 = 0 then w.next + 1 else w.cursor } } }

/-- SWEEP_STEP. -/
def execSweepStep (first second : Fetch) (s : State) : Host.Outcome State Fault Refusal :=
  .next (if alive s && s.fw.activating.isNone then settle (sweepStep first second s) else s)

/-- A held request may go on: none of its line is held before it and it has a tag; a write's line has no exhausted counter under the
region's key id, and its unit can be copied if a capture still needs it (R312, R335, R339, R529). -/
def mayResume (s : State) (x : Blocked) : Bool :=
  let l := x.address / 256
  let m := metaOf s l
  (s.vale.blocked.find? fun y => y.address == x.address) == some x && (x.tag || tagFree s l) &&
  (x.isRead || (!(m.2 == (regionOf s x.region).key && m.1 == 0xFFFFFFFF) && (spillUnit l s).2))

/-- A region's job waits for spill space no longer, once no write held in its regions does (R529). -/
def endStall (region : Nat) (s : State) : State :=
  match (regionOf s region).owner with
  | none => s
  | some j =>
    if s.vale.blocked.any fun y => !y.isRead && (regionOf s y.region).owner == some j && !(spillUnit (y.address / 256) s).2 then s
    else modJob j (fun b => { b with capture := { b.capture with
      stall := b.capture.stall + (s.timeNs - b.capture.stallSince.getD s.timeNs), stallSince := none } }) s

/-- The oldest held request that may go on proceeds, and its tag is free; those of one line go in order (R312, R335, R339). -/
def resumeBlocked (s : State) : State :=
  match s.vale.blocked.find? fun x => mayResume s x with
  | none => s
  | some x =>
    let t := { s with vale := { s.vale with blocked := s.vale.blocked.erase x } }
    let t := if x.tag then freeTagOf (pchanOf (x.address / 256)) t else t
    endStall x.region (performHeld { x with tag := false } t)

/-- BLOCKED_WRITE_RESUME. -/
def execBlockedWriteResume (s : State) : Host.Outcome State Fault Refusal :=
  .next (if alive s then settle (resumeBlocked s) else s)

/-! ### Key ids (R336) -/

/-- A key id that nothing needs any more. -/
def keyUnused (s : State) (k : Nat) : Bool :=
  k != 0 && !(s.vale.regions.any fun r => r.2.key == k || r.2.previous == some k) &&
  !(s.jobs.any fun b => b.2.keys.anchor == k || b.2.keys.newest == k)

/-- An active key id left unused becomes retiring. -/
def keyIdRetire (k : Nat) (s : State) : State :=
  match tget s.vale.keyIds k with
  | none => s
  | some x =>
    if x.retiring ∨ ¬ keyUnused s k then s
    else { s with vale := { s.vale with keyIds := tset s.vale.keyIds k { x with retiring := true } } }

/-- KEY_ID_RETIRE. -/
def execKeyIdRetire (key : Nat) (s : State) : Host.Outcome State Fault Refusal := .next (if alive s then keyIdRetire key s else s)

/-- KEY_ID_FREE. -/
def execKeyIdFree (key : Nat) (s : State) : Host.Outcome State Fault Refusal := .next (if alive s then keyIdFree key s else s)

end Sys2Proof.Machine
end

