-- ==== Sys2Proof/Machine/Steppe.lean ====
section
/-! DEFINITION. Commands and events of the Steppe tier (R302, R340, R345 to R349, R439). -/

namespace Sys2Proof.Machine

/-- What follows once pages have come, gone or been freed: accesses held in miss registers and held reduce traffic go on
(R23, R345). -/
def pagesMoved (j : Nat) (s : State) : State := settle (retryHeld j (workAll s))

/-! ### STEPPE_ATTACH (R340, R439) -/

/-- The extent records of a message. -/
def extentRecords (m : Msg) : List Bytes := pieces 24 ((msgBody m.bytes).length / 24) (msgBody m.bytes)

/-- What a record's queue pair object says: the status that refuses it. -/
def extentStatus (s : State) (part cls qi gen : Nat) : Option Nat :=
  if genOf s qi ≠ gen then some 0x15
  else
    match objAt s qi with
    | some { data := .queuePair q, destroying := dying, .. } =>
      match tget s.eth.qps q with
      | none => some 0x14
      | some p => if dying then some 0x17 else if p.partition ≠ part then some 0x13 else if p.cls ≠ cls then some 0x14 else none
    | _ => some 0x14

/-- Attach extents; each must hold its share of the allotment's images. -/
def steppeAttachBody (m : Msg) (s : State) : State :=
  let es := extentRecords m
  match liveJob s m with
  | none => complete m 0x18 s
  | some j =>
    let b := (tget s.jobs j).getD { id := 0 }
    if (msgBody m.bytes).length % 24 ≠ 0 ∨ es.isEmpty ∨ 16 < es.length ∨ ¬ (es.all fun e => allZero (sub e 3 5)) then
      complete m 0x12 s
    else if ¬ b.tier.extents.isEmpty then complete m 0x1A s
    else
      match es.findSome? fun e => extentStatus s (partOf j) 2 (xQp e) (rd e 2 1) with
      | some st => complete m st s
      | none =>
        if es.any fun e => xLen e < ceilDiv b.carve.dirCount es.length * 1056768 then complete m 0x12 s
        else complete m 0x00 (modTier j (fun t => { t with extents := es }) s)

/-- STEPPE_ATTACH. -/
def execSteppeAttach (ctx : Nat) (s : State) : Host.Outcome State Fault Refusal :=
  .next (settle (withMessage ctx 0x05 steppeAttachBody s))

/-! ### TIER_MOVE (R347, R348) -/

/-- An eviction that the host asks for: a pinned page stays; a page at the last version is refused and counted; nothing goes
to a failed extent (R347 to R349). -/
def hostEvict (j p : Nat) (s : State) : State :=
  let e := dirAt s j p
  if e.st = .resident then
    if e.version = 2 ^ 40 - 1 then modTier j (fun t => { t with refusals := t.refusals + 1 }) s
    else if evictable s j p then startEvict j p s else s
  else s

/-- Move the pages of a range. -/
def tierMoveBody (evict : Bool) (m : Msg) (s : State) : State :=
  match liveJob s m with
  | none => complete m 0x18 s
  | some j =>
    let first := arg m.bytes 0 4
    let count := arg m.bytes 4 4
    if (carveOf s j).dirCount < first + count then complete m 0x19 s
    else
      let s := (List.range count).foldl (fun t k => if evict then hostEvict j (first + k) t else requestPage j (first + k) t) s
      pagesMoved j (keepRunning m (.tierMove j first count evict) s)

/-- A TIER_MOVE with a selector other than 0 or 1 is malformed, and either row starts it. -/
def tierMove (ctx : Nat) (evict : Bool) (s : State) : State :=
  let sel := arg ((((tget s.ctxs ctx).map (·.inbox)).getD []).headD []) 8 1
  if sel = (if evict then 0 else 1) then s
  else withMessage ctx 0x06 (fun m s => if 1 < arg m.bytes 8 1 then complete m 0x12 s else tierMoveBody evict m s) s

/-- TIER_MOVE_FETCH. -/
def execTierMoveFetch (ctx : Nat) (s : State) : Host.Outcome State Fault Refusal := .next (settle (tierMove ctx false s))

/-- TIER_MOVE_EVICT. -/
def execTierMoveEvict (ctx : Nat) (s : State) : Host.Outcome State Fault Refusal := .next (settle (tierMove ctx true s))

/-! ### Fetches (R346, R347, R349) -/

/-- The oldest fetch that waits for a frame takes one, evicting a victim if none is free. -/
def frameResume (j : Nat) (s : State) : State :=
  match tget s.jobs j with
  | none => s
  | some b =>
    match b.tier.frameWaits with
    | [] => s
    | p :: _ =>
      let waits := b.tier.waitsCounted
      pagesMoved j (modTier j (fun t => { t with waitsCounted := waits }) (startFetch j p s))

/-- FETCH_FRAME_RESUME. -/
def execFetchFrameResume (job : Nat) (s : State) : Host.Outcome State Fault Refusal :=
  .next (if alive s then frameResume job s else s)

/-- A chunk or a fetch fails (R349). -/
def fetchFails (j p c : Nat) (s : State) : State := fetchLost j p (dirAt s j p).frame c (dropFlight (.fetch j p) s)

/-- A chunk record arrives: it is verified under the page's version and written as 16 full lines; the last of 256 makes the
page resident and clean. -/
def chunkArrives (j p c : Nat) (record : Bytes) (s : State) : State :=
  match tget s.jobs j with
  | none => s
  | some b =>
    match tget b.tier.fetches p with
    | none => s
    | some f =>
      if 256 ≤ c ∨ f.chunks.contains c then s
      else
        let e := dirAt s j p
        match gcmOpen (steppeKey b) (chunkIv p e.version c) [] (sub record 0 4096) (sub record 4096 16), frameAddress b.carve f.frame with
        | some data, some a =>
          if record.length ≠ 4112 then fetchFails j p c s
          else
            let s := valeWrite 17 (a + 4096 * c) data s
            if f.chunks.length + 1 = 256 then
              let s := dropFlight (.fetch j p) s
              let s := modTier j (fun t => { t with fetches := terase t.fetches p }) s
              pagesMoved j (modDir j p (fun e => { e with st := .resident, dirty := false }) s)
            else modTier j (fun t => { t with fetches := tset t.fetches p { f with chunks := f.chunks ++ [c] } }) s
        | _, _ => fetchFails j p c s

/-- STEPPE_CHUNK_ARRIVAL. -/
def execSteppeChunkArrival (job page chunk : Nat) (record : Bytes) (s : State) : Host.Outcome State Fault Refusal :=
  .next (if alive s then settle (chunkArrives job page chunk record s) else s)

/-! ### Evictions (R345, R348, R349) -/

/-- An eviction has been acknowledged: the version advances, the entry rests, the frame is free; a fetch that waited for the
page starts, and so does the oldest that waited for a frame. -/
def evictDone (j p : Nat) (s : State) : State :=
  let e := dirAt s j p
  if e.st ≠ .evicting then s
  else
    let s := dropFlight (.evict j p) s
    let s := restPage j p (fun e => { e with version := e.version + 1 }) s
    let again := ((tget s.jobs j).map fun b => b.tier.thenFetch.contains p).getD false
    let s := modTier j (fun t => { t with thenFetch := t.thenFetch.filter (· != p) }) s
    let s := match (tget s.jobs j).bind fun b => b.tier.frameWaits.head? with
      | some w => startFetch j w s
      | none => s
    pagesMoved j (if again then requestPage j p s else s)

/-- EVICTION_COMPLETE. -/
def execEvictionComplete (job page : Nat) (s : State) : Host.Outcome State Fault Refusal :=
  .next (if alive s then settle (evictDone job page s) else s)

/-- The transport reports an eviction failed (R349); what waited goes on as far as it can. -/
def evictFails (j p : Nat) (s : State) : State := pagesMoved j (evictLost j p (dropFlight (.evict j p) s))

/-! ### Folds (R302) -/

/-- A Basin page of a resident tier page is folded. -/
def basinFold (j bp : Nat) (s : State) : State := pagesMoved j (foldPage j bp s)

/-- BASIN_FOLD. -/
def execBasinFold (job basin : Nat) (s : State) : Host.Outcome State Fault Refusal :=
  .next (if alive s then basinFold job basin s else s)

end Sys2Proof.Machine
end

