-- ==== Sys2Proof/Machine/Capture.lean ====
section
/-! DEFINITION. Checkpoint setup, triggers, the barrier, and what a capture does on each member (R27, R28, R515 to R530,
R535). -/

namespace Sys2Proof.Machine

/-- Change the capture state of a job. -/
def modCapture (j : Nat) (f : Capture → Capture) (s : State) : State := modJob j (fun b => { b with capture := f b.capture }) s

/-- A live job that a checkpoint message names, and that its context is bound to (R435, R517). -/
def boundJob (s : State) (m : Msg) : Except Nat Nat :=
  let bound : Bool := match m.ctx with
    | some c => ((tget s.ctxs c).map (·.jobId)) == some (msgJob m.bytes) && msgJob m.bytes != 0
    | none => false
  if ¬ bound then .error 0x13
  else match liveJob s m with | some j => .ok j | none => .error 0x18

/-! ### CKPT_SETUP (R518, R519) -/

/-- The reserved fields, ranges and lead-only fields of a setup record. -/
def setupFieldsOk (b : Job) (r : Bytes) : Bool :=
  r.length == 112 && rd r 3 1 < 8 && rd r 4 4 < rd r 8 4 && decide (1 ≤ rd r 8 4) && decide (rd r 8 4 ≤ 1048576) &&
  rd r 12 4 == b.lead && allZero (sub r 28 4) && allZero (sub r 52 4) && allZero (sub r 76 4) && allZero (sub r 102 10) &&
  (if b.isLead then decide (1 ≤ rd r 101 1) && decide (rd r 101 1 ≤ 16) else allZero (sub r 64 38))

/-- The sealed blobs that a lead's setup names. -/
def setupBlobs (s : State) (j : Nat) (r : Bytes) : List Bytes :=
  (List.range (rd r 101 1)).map fun i => peekN s j (rd r 96 5 + 376 * i) 376

/-- A blob belongs to the job and to the unit of a member. -/
def blobOk (b : Job) (blob : Bytes) : Bool :=
  rd blob 4 4 == b.id && sub blob 0x28 32 == sub b.digest 0 32 &&
  (sub blob 8 32 == sub Config.unitId 0 32 ||
    b.keying.units.any fun u => !(b.keying.refusedMembers.contains u.1) && sub u.2 0 32 == sub blob 8 32)

/-- CKPT_SETUP. -/
def ckptSetupBody (m : Msg) (s : State) : State :=
  match boundJob s m with
  | .error st => complete m st s
  | .ok j =>
    let b := (tget s.jobs j).getD { id := 0 }
    let r := msgBody m.bytes
    if b.capture.phase ≠ .none then complete m 0x18 s
    else if ¬ setupFieldsOk b r then complete m 0x12 s
    else
      match extentStatus s (partOf j) 3 (rd r 0 2) (rd r 2 1) with
      | some st => complete m st s
      | none =>
        if b.isLead ∧ ¬ rangeOk s j (rd r 96 5) (376 * rd r 101 1) then complete m 0x19 s
        else if b.isLead ∧ ¬ ((setupBlobs s j r).all (blobOk b)) then complete m 0x12 s
        else complete m 0x00 (modCapture j (fun c => { c with setup := r, blobs := if b.isLead then setupBlobs s j r else [] }) s)

/-- CKPT_SETUP. -/
def execCkptSetup (ctx : Nat) (s : State) : Host.Outcome State Fault Refusal :=
  .next (settle (withMessage ctx 0x60 ckptSetupBody s))

/-- The result of CKPT_STATUS (R517). -/
def statusResult (c : Capture) : Bytes :=
  leBytes 8 (if c.phase = .none then 0 else c.serial) ++ leBytes 8 c.lastManifest ++ leBytes 8 (c.stall / 1000) ++ leBytes 8 c.counted

/-- CKPT_STATUS. -/
def ckptStatusBody (m : Msg) (s : State) : State :=
  match boundJob s m with
  | .error st => complete m st s
  | .ok j => completeResult m 0x00 (statusResult ((tget s.jobs j).getD { id := 0 }).capture) s

/-- CKPT_STATUS. -/
def execCkptStatus (ctx : Nat) (s : State) : Host.Outcome State Fault Refusal :=
  .next (settle (withMessage ctx 0x62 ckptStatusBody s))

/-! ### Arriving at the barrier (R523 to R525) -/

/-- A communication operation that has started holds the barrier back unless it has retired or has sent and placed no data
packet: one in progress whose peers' bytes have come, or whose own have gone. -/
def commQuiet (b : Job) : Bool :=
  b.colls.isEmpty && (b.xfers.all fun x => x.got.isEmpty && !(x.isSend && x.cleared)) &&
  b.gathers.all fun g => g.left.all fun q => q.2 == g.size

/-- No task of the job runs and no span is open (R524); units of a gap descriptor that only wait for a block hold nothing back
(R278). -/
def tasksQuiet (s : State) (j : Nat) (b : Job) : Bool :=
  !(onThread s (fun _ => true) fun t => t.job == j) &&
  b.subs.all fun u =>
    (u.2.state.all fun d => rd (u.2.descs.getD d.1 []) 0 2 != 0x29 || decide (d.2.moments.length ≤ d.2.ended.length)) &&
    u.2.spans.all fun x => x.committed || !x.started || x.discarded

/-- Write the job's dirty lines back and keep them (R524). -/
def writeDirty (j : Nat) (s : State) : State := flushLines true (fun x => x.job == j && x.staged.isNone) s

/-- A report value: bit 63 arrived, then the counts (R522). -/
def reportValue (c : Capture) : Nat := c.arrived.toNat * 2 ^ 63 + c.sent % 2 ^ 31 * 2 ^ 31 + c.placed % 2 ^ 31

/-- The core images leave less than 256 MiB of the spill region (R527 cause 6). -/
def spillTooSmall (s : State) (j : Nat) (b : Job) : Bool :=
  decide (b.carve.spillGib * 2 ^ 30 < 25088 * (80 * (partBlocks (partCfg s j)).length) + 2 ^ 28)

/-- A member's shard has been written: it tells the lead its length and digest in five parts (R522). -/
def doneParts (shard : Bytes) : List (Nat × Nat) :=
  let d := sha256 shard
  (0, shard.length) :: (List.range 4).map fun i => (i + 1, leNat (sub d (8 * i) 8))

/-- A member cannot go on with a capture: it stops, and reports that it has not arrived (R522, log 28). -/
def memberFails (j : Nat) (s : State) : State :=
  match tget s.jobs j with
  | none => s
  | some b => toLead j (barrierPayload 3 b.capture.reportRound b.capture.serial (reportValue { b.capture with arrived := false })) s

/-- The start of a capture's writing on a member (R526, R528): core images go to the spill region, every unit of the captured
Vale bytes is pending, and the job resumes. -/
def releaseMember (j : Nat) (s : State) : State :=
  match tget s.jobs j with
  | none => s
  | some b =>
    if b.capture.phase ≠ .entered then s
    else
      let secs := sectionsOf s j b
      let opts := rd b.capture.setup 3 1
      let clean := stepClean s j b
      let images := pagesIn s j fun e => (e.st == .resting || e.st == .fetching) && decide (0 < e.version)
      let cores := 25088 * (80 * (partBlocks (partCfg s j)).length)
      let s := modCapture j (fun c => { c with
        phase := .released, wanted := [], sections := secs, units := unitsOf secs, omitted := omittedRanges b opts
        images, clean, coreImages := cores, releasedAt := s.timeNs, arrived := false }) s
      let set := shardSet b.capture.serial
      match qpOfObj s (rd b.capture.setup 0 2) with
      | none => s
      | some q => addFlight q (.shard j) (ceilDiv (rd b.capture.setup (set + 16) 4) 4096) s

/-- A started capture on the lead ends by release for all (R525). -/
def leadRelease (j : Nat) (s : State) : State :=
  match tget s.jobs j with
  | none => s
  | some b => releaseMember j (toMembers j (barrierPayload 5 0 b.capture.serial 0) s)

/-- The lead judges the latest reports (R525): when all have arrived for the round in progress and the counts agree, it asks
once more, and after two successive rounds with unchanged counts it releases. Fuel: the lead's own answers come at once. -/
def leadJudge : Nat → Nat → State → State
  | 0, _, s => s
  | k + 1, j, s =>
    match tget s.jobs j with
    | none => s
    | some b =>
      let c := b.capture
      let ms := leadMembers s b
      let latest := ms.map fun a => tget c.lead.reports a
      let whole := latest.all fun r => match r with
        | some (round, v) => round == c.lead.round % 65536 && bit v 63
        | none => false
      let add := fun (f : Nat → Nat) => (latest.foldl (fun n r => n + (r.map fun x => f x.2).getD 0) 0) % 2 ^ 31
      let counts := (add fun v => v / 2 ^ 31 % 2 ^ 31, add fun v => v % 2 ^ 31)
      if c.phase ≠ .entered ∨ ¬ whole ∨ counts.1 ≠ counts.2 then s
      else
        let steady := if 0 < c.lead.round ∧ counts = c.lead.counts then c.lead.steady + 1 else 0
        if 2 ≤ steady then leadRelease j s
        else
          let round := c.lead.round + 1
          let s := modCapture j (fun c => { c with
            reportRound := round % 65536
            lead := { c.lead with round, steady, counts
                                  reports := tset c.lead.reports (deviceAddress s) (round % 65536, reportValue c) } }) s
          leadJudge k j (toMembers j (barrierPayload 4 (round % 65536) c.serial 0) s)

/-- A report reaches the lead (R522, R524, R525). The first report of a member that has not arrived tells a mismatch of step,
cause 2; after the release, one tells a shard that failed, cause 4 (log 28). -/
def reportArrives (j src round value : Nat) (s : State) : State :=
  match tget s.jobs j with
  | none => s
  | some b =>
    let c := b.capture
    if ¬ b.isLead ∨ c.phase = .none then s
    else if c.phase ≠ .entered then (if bit value 63 then s else abandonCapture j 4 s)
    else if ¬ bit value 63 ∧ (tget c.lead.reports src).isNone then abandonCapture j 2 s
    else
      leadJudge 4 j (modCapture j (fun c => { c with lead := { c.lead with
        reports := tset c.lead.reports src (round, value), steady := if bit value 63 then c.lead.steady else 0 } }) s)

/-- A member reports: to the lead, or in the lead's own book. -/
def sendReport (j : Nat) (s : State) : State :=
  match tget s.jobs j with
  | none => s
  | some b =>
    if b.isLead then reportArrives j (deviceAddress s) b.capture.reportRound (reportValue b.capture) s
    else toLead j (barrierPayload 3 b.capture.reportRound b.capture.serial (reportValue b.capture)) s

/-- A member arrives, or stops being arrived (R524). -/
def memberArrived (j : Nat) (arrived : Bool) (s : State) : State :=
  match tget s.jobs j with
  | none => s
  | some b =>
    let quiet : Bool := tasksQuiet s j b && commQuiet b
    if b.capture.phase ≠ .entered ∨ b.capture.arrived = arrived ∨ quiet ≠ arrived then s
    else
      let s := if arrived then writeDirty j s else s
      sendReport j (modCapture j (fun c => { c with arrived }) s)

/-- MEMBER_ARRIVED. -/
def execMemberArrived (job : Nat) (arrived : Bool) (s : State) : Host.Outcome State Fault Refusal :=
  .next (if alive s then settle (memberArrived job arrived s) else s)

/-! ### Triggers (R27, R28, R520, R521) -/

/-- A capture falls between moment and weight tasks: no weight task takes its moments from a tile store any more (R294). -/
def dropKept (j : Nat) (s : State) : State :=
  { s with cores := s.cores.map fun c => (c.1, { c.2 with kept := c.2.kept.filter fun k => k.2.task.job != j }) }

/-- A capture starts on the lead: its serial rises, enter goes to every member, and the lead enters. -/
def startCapture (j cause : Nat) (s : State) : State :=
  match tget s.jobs j with
  | none => s
  | some b =>
    let serial := b.capture.serial + 1
    let step := b.num.verdicts
    let s := modCapture j (fun c => { c with
      serial, phase := .entered, arrived := false, reportRound := 0, wanted := [], lead := {}, cause, step, lastStep := step
      enteredAt := s.timeNs }) (dropKept j s)
    let s := toMembers j (barrierPayload 2 0 serial step) s
    if spillTooSmall s j b then abandonCapture j 6 s else markWanted j s

/-- A trigger reaches the lead: it starts a capture, or is counted: while one is in progress (R28), and before the setup
(R520; the lead judges by its own, log 28). -/
def leadTrigger (j cause : Nat) (s : State) : State :=
  match tget s.jobs j with
  | none => s
  | some b =>
    if ¬ b.isLead ∨ b.phase ≠ .keyed then s
    else if b.capture.phase ≠ .none ∨ b.capture.setup.isEmpty then modCapture j (fun c => { c with counted := c.counted + 1 }) s
    else startCapture j cause s

/-- A trigger fires on a member: on the lead it acts, elsewhere it is sent on. -/
def fireTrigger (j cause : Nat) (s : State) : State :=
  match tget s.jobs j with
  | none => s
  | some b => if b.isLead then leadTrigger j cause s else if b.phase = .keyed then toLead j (barrierPayload 1 0 b.capture.serial cause) s else s

/-- CKPT_TRIGGER: the message completes when a capture ends. -/
def ckptTriggerBody (m : Msg) (s : State) : State :=
  match boundJob s m with
  | .error st => complete m st s
  | .ok j =>
    if ((tget s.jobs j).map (·.phase)) ≠ some .keyed then complete m 0x18 s
    else fireTrigger j 0x03 (modCapture j (fun c => { c with trigger := c.trigger ++ [m] }) s)

/-- CKPT_TRIGGER. -/
def execCkptTrigger (ctx : Nat) (s : State) : Host.Outcome State Fault Refusal :=
  .next (settle (withMessage ctx 0x61 ckptTriggerBody s))

/-- The checkpoint-trigger record of a job index (R462). -/
def trigCfg (s : State) (j : Nat) : TrigCfg := tgetD s.config.image.triggers j {}

/-- The timer of a lead's job runs out (R520, log 16). -/
def checkpointTimer (j : Nat) (s : State) : State :=
  match tget s.jobs j with
  | none => s
  | some b => if b.isLead ∧ (trigCfg s j).timer ≠ 0 then leadTrigger j 0x01 s else s

/-- CHECKPOINT_TIMER. -/
def execCheckpointTimer (job : Nat) (s : State) : Host.Outcome State Fault Refusal :=
  .next (if alive s then settle (checkpointTimer job s) else s)

/-- The steps trigger, judged at each verdict (R520). -/
def stepTrigger (j : Nat) (s : State) : State :=
  match tget s.jobs j with
  | none => s
  | some b =>
    let n := (trigCfg s j).steps
    if b.isLead ∧ n ≠ 0 ∧ b.capture.lastStep + n ≤ b.num.verdicts then leadTrigger j 0x02 s else s

/-- A warning cause of a member holds, or does not (R521, R599): it fires when it holds, unless it has fired and has not been
false for 60 s since. -/
def warnTrigger (j bitNo : Nat) (holds : Bool) (s : State) : State :=
  match tget s.jobs j with
  | none => s
  | some b =>
    let key := 0x10 + bitNo
    if ¬ bit (trigCfg s j).warnings bitNo then s
    else
      match holds, tget b.capture.fired key with
      | true, none => fireTrigger j key (modCapture j (fun c => { c with fired := tset c.fired key 0 }) s)
      | true, some 0 => s
      | true, some t =>
        let again := decide (t + 60000000000 ≤ s.timeNs)
        let s := modCapture j (fun c => { c with fired := tset c.fired key 0 }) s
        if again then fireTrigger j key s else s
      | false, some 0 => modCapture j (fun c => { c with fired := tset c.fired key (s.timeNs + 1) }) s
      | false, _ => s

/-! ### Barrier packets, as they reach this Proend (R522) -/

/-- The serial of a packet: its low 32 bits, with the high bits that make it not less than the last one seen. -/
def wholeSerial (last low : Nat) : Nat :=
  let k := last / 2 ^ 32 * 2 ^ 32 + low
  if k < last then k + 2 ^ 32 else k

/-- Enter reaches a member (R522, R523): one that has no setup takes no part; one whose verdict count differs abandons. -/
def enterArrives (j low step : Nat) (s : State) : State :=
  match tget s.jobs j with
  | none => s
  | some b =>
    if b.isLead ∨ b.capture.setup.isEmpty ∨ b.capture.phase ≠ .none then s
    else
      let serial := wholeSerial b.capture.serial low
      let s := modCapture j (fun c => { c with serial }) s
      if b.num.verdicts ≠ step then memberFails j s
      else markWanted j (modCapture j (fun c => { c with
        phase := .entered, arrived := false, reportRound := 0, wanted := [], step, lastStep := step, enteredAt := s.timeNs }) (dropKept j s))

/-- Confirm reaches a member: it answers with its report (R524). -/
def confirmArrives (j round : Nat) (s : State) : State :=
  match tget s.jobs j with
  | none => s
  | some b =>
    if b.capture.phase ≠ .entered then s else sendReport j (modCapture j (fun c => { c with reportRound := round }) s)

/-- Release reaches a member (R526): one whose spill region is too small stops (R527). -/
def releaseArrives (j : Nat) (s : State) : State :=
  match tget s.jobs j with
  | none => s
  | some b =>
    if b.capture.phase ≠ .entered then s
    else if spillTooSmall s j b then memberFails j s
    else releaseMember j s

/-- The barrier's second runs out on the lead (R525). -/
def barrierTimeout (j : Nat) (s : State) : State :=
  match tget s.jobs j with
  | none => s
  | some b => if b.isLead ∧ b.capture.phase = .entered then abandonCapture j 1 s else s

/-- BARRIER_TIMEOUT. -/
def execBarrierTimeout (job : Nat) (s : State) : Host.Outcome State Fault Refusal :=
  .next (if alive s then settle (barrierTimeout job s) else s)

/-! ### Shards and the manifest (R529, R532 to R535) -/

/-- The lead has every shard done: it writes the manifest, or abandons a manifest that its extent cannot hold. -/
def writeManifest (j : Nat) (s : State) : State :=
  match tget s.jobs j with
  | none => s
  | some b =>
    let c := b.capture
    let ms := leadMembers s b
    let all := ms.all fun a => (List.range 5).all fun p => (tget (tgetD c.lead.parts a []) p).isSome
    if ¬ all ∨ c.lead.manifestWriting ∨ c.phase ≠ .sharded then s
    else
      let m := manifestBytes s b (c.releasedAt - c.enteredAt) (s.timeNs - c.releasedAt)
      if rd c.setup 92 4 < m.length then abandonCapture j 4 s
      else
        let at' := manifestSet c.serial
        let s := modCapture j (fun c => { c with lead := { c.lead with manifestWriting := true } }) s
        match qpOfObj s (rd c.setup 0 2) with
        | none => abandonCapture j 4 s
        | some q => if ¬ carries s q then abandonCapture j 4 s else addFlight q (.manifest j) (ceilDiv m.length 4096)
            (putOut q (.rdmaWrite (0x1000 + q) (rd c.setup at' 8) (rd c.setup (at' + 8) 4) m none) s)

/-- A part of a member's shard done reaches the lead. -/
def shardDoneArrives (j src part value : Nat) (s : State) : State :=
  match tget s.jobs j with
  | none => s
  | some b =>
    if ¬ b.isLead ∨ b.capture.phase = .none ∨ b.capture.phase = .entered ∨ 4 < part then s
    else writeManifest j (modCapture j (fun c => { c with lead := { c.lead with
      parts := tset c.lead.parts src (tset (tgetD c.lead.parts src []) part value) } }) s)

/-- A capture stops on this member: the lead abandons it for all, another tells the lead (R527). -/
def captureFails (j : Nat) (s : State) : State :=
  match tget s.jobs j with
  | none => s
  | some b =>
    if b.capture.phase = .none then s
    else if b.isLead then abandonCapture j 4 s else memberFails j s

/-- A written shard frees its spill space, and its length and digest go to the lead. -/
def shardSent (j : Nat) (b : Job) (shard : Bytes) (s : State) : State :=
  let set := shardSet b.capture.serial
  let s := match qpOfObj s (rd b.capture.setup 0 2) with
    | none => s
    | some q => putOut q (.rdmaWrite (0x1000 + q) (rd b.capture.setup set 8) (rd b.capture.setup (set + 8) 4) shard none) s
  let s := modCapture j (fun c => { c with
    phase := .sharded, units := [], spilled := [], coreImages := 0, sections := [], omitted := [], images := [] }) s
  (doneParts shard).foldl (fun t p =>
    if b.isLead then shardDoneArrives j (deviceAddress t) p.1 p.2 t
    else toLead j (barrierPayload 6 p.1 b.capture.serial p.2) t) s

/-- Every write of a shard has been acknowledged, or one has failed; a shard longer than its extent abandons the capture (R527
cause 4). -/
def shardWritten (j : Nat) (ok : Bool) (s : State) : State :=
  match tget s.jobs j with
  | none => s
  | some b =>
    if b.capture.phase ≠ .released then s
    else
      let s := dropFlight (.shard j) s
      if ¬ ok ∨ ¬ ((qpOfObj s (rd b.capture.setup 0 2)).map (carries s)).getD false then captureFails j s
      else
        let r := shardBytes b s
        let shard := r.1
        let set := shardSet b.capture.serial
        if rd b.capture.setup (set + 16) 8 < shard.length then captureFails j r.2
        else
          shardSent j b shard r.2

/-- SHARD_WRITE_COMPLETE. -/
def execShardWriteComplete (job : Nat) (ok : Bool) (s : State) : Host.Outcome State Fault Refusal :=
  .next (if alive s then settle (shardWritten job ok s) else s)

/-- The manifest has been written, or its write has failed: the capture ends on every member (R28, R535). -/
def manifestDone (j : Nat) (ok : Bool) (s : State) : State :=
  match tget s.jobs j with
  | none => s
  | some b =>
    if ¬ b.capture.lead.manifestWriting then s
    else
      let s := dropFlight (.manifest j) s
      if ok then endCapture j 0 (toMembers j (barrierPayload 8 0 b.capture.serial 0) s) else abandonCapture j 4 s

/-- MANIFEST_WRITE_COMPLETE. -/
def execManifestWriteComplete (job : Nat) (ok : Bool) (s : State) : Host.Outcome State Fault Refusal :=
  .next (if alive s then settle (manifestDone job ok s) else s)

/-- Manifest written reaches a member. -/
def manifestArrives (j : Nat) (s : State) : State :=
  match tget s.jobs j with
  | none => s
  | some b => if b.isLead ∨ b.capture.phase = .none then s else endCapture j 0 s

/-- Abandon reaches a member. -/
def abandonArrives (j cause : Nat) (s : State) : State :=
  match tget s.jobs j with
  | none => s
  | some b => if b.isLead ∨ (b.capture.phase = .none ∧ b.capture.trigger.isEmpty) then s else endCapture j cause s

end Sys2Proof.Machine
end

