-- ==== Sys2Proof/Machine/Restore.lean ====
section
/-! DEFINITION. Restore of a whole capture (R516, R536 to R540) and the import of state from a shard (R541, R542). -/

namespace Sys2Proof.Machine

/-! ### Reading a shard (R532 to R534) -/

/-- The plaintext of chunk `c` of a shard, if its tag verifies. -/
def shardChunk (key : Bytes) (serial member : Nat) (shard : Bytes) (c : Nat) : Option Bytes :=
  let r := (shard.drop (4112 * c)).take 4112
  if r.length = 4112 then gcmOpen (sub key 0 32) (shardIv serial member c) [] (sub r 0 4096) (sub r 4096 16) else none

/-- A section entry of a header: kind, first chunk, length, base. -/
structure SecRef where
  kind : Nat
  first : Nat
  length : Nat
  base : Nat
deriving DecidableEq, Repr

/-- The section entries of a header. -/
def headerSections (h : Bytes) : List SecRef :=
  (List.range (rd h 36 4)).map fun i => ⟨rd h (64 + 32 * i) 2, rd h (72 + 32 * i) 8, rd h (80 + 32 * i) 8, rd h (88 + 32 * i) 8⟩

/-- Bytes `o` to `o + n - 1` of a section; none where a chunk that holds them fails. -/
def sectionSlice (chunk : Nat → Option Bytes) (x : SecRef) (o n : Nat) : Option Bytes :=
  if n = 0 then some []
  else
    (List.range ((o + n - 1) / 4096 - o / 4096 + 1)).foldl (fun (acc : Option Bytes) k =>
      match acc, chunk (x.first + o / 4096 + k) with
      | some a, some c => some (a ++ c)
      | _, _ => none) (some []) |>.map fun b => (b.drop (o % 4096)).take n

/-- A whole section. -/
def wholeSection (chunk : Nat → Option Bytes) (x : SecRef) : Bytes := (sectionSlice chunk x 0 x.length).getD []

/-! ### The manifest (R535, R537) -/

/-- Bytes of a manifest up to its tag, and up to its signature. -/
def manifestTagAt (m : Bytes) : Nat := 0x80 + 80 * rd m 0x18 4 + 376 * rd m 3 1

/-- A member's table entry. -/
def manifestEntry (m : Bytes) (i : Nat) : Bytes := sub m (0x80 + 80 * i) 80

/-- Causes 1 to 3 of R537, in order: 0 where none holds. -/
def manifestCause (b : Job) (m : Bytes) : Nat :=
  let t := manifestTagAt m
  let cert := sub m (t + 16) 29920
  let signed := m.take (t + 16 + 29920)
  if ¬ (rd m 0 2 = 1 ∧ rd cert 0 2 = 1 ∧
      Config.slh256Verify (sub (Config.romKey 0) 0 64) (sub cert 0 0x80) (sub cert 0x80 29792) ∧
      Config.slh128Verify (sub cert 0x30 32) signed (sub m (t + 16 + 29920) 17088)) then 1
  else if gcmTag (sub (ckptKey b) 32 32) (leBytes 8 (rd m 8 8) ++ leBytes 4 (rd m 4 4)) (m.take t) [] ≠ sub m t 16 then 2
  else if rd m 4 4 ≠ b.id ∨ sub m 0x20 32 ≠ sub b.digest 0 32 then 3
  else 0

/-- The members of the new job, as far as this Proend knows them: the lead from their keying, any member from its setup; a
member that has neither takes the manifest's count (log 28). -/
def knownCount (s : State) (b : Job) (m : Bytes) : Nat :=
  if b.isLead then (leadMembers s b).length
  else if b.capture.setup.isEmpty then rd m 0x18 4 else rd b.capture.setup 8 4

/-- The carve-out fits a shard (R537 cause 5), as its header tells. -/
def shardFits (s : State) (j : Nat) (b : Job) (h : Bytes) : Bool :=
  (headerSections h).all fun x =>
    match x.kind with
    | 1 => x.length == 25088 * (80 * (partBlocks (partCfg s j)).length)
    | 2 => decide (x.length / 16 ≤ b.carve.dirCount)
    | 4 => x.length == b.carve.controlGib * 2 ^ 30
    | 5 => (tget b.carve.regionMap (x.base / 2 ^ 30)).isSome
    | 6 => decide (x.length ≤ poolFrames b * (2 ^ 20 + 8))
    | 7 => !b.tier.extents.isEmpty
    | _ => true

/-- The first cause of R537 that a restore meets before it loads, with the shard's step. -/
def restoreCause (s : State) (j : Nat) (b : Job) (record : Bytes) (manifest chunk : ReadResult) : Nat × Nat × Bytes × Bytes :=
  match manifest, chunk with
  | .bytes m, .bytes c =>
    let member := rd record 36 4
    let h := shardChunk (ckptKey b) (rd m 8 8) member c 0
    let step := ((h.map fun h => rd h 16 8)).getD 0
    let k := manifestCause b m
    let cause :=
      if k ≠ 0 then k
      else if rd m 0x18 4 ≠ knownCount s b m ∨ rd m 0x18 4 ≤ member then 4
      else
        match h with
        | none => 6
        | some h =>
          if ¬ shardFits s j b h then 5
          else if rd h 8 8 ≠ rd m 8 8 ∨ rd h 16 8 ≠ rd m 0x10 8 ∨ rd h 24 4 ≠ member then 6
          else 0
    (cause, step, m, h.getD [])
  | _, _ => (9, 0, [], [])

/-! ### The lead's decisions (R538, R539) -/

/-- The new device addresses in member order (R536). -/
def newAddresses (s : State) (j : Nat) (x : RestoreSt) : List Nat :=
  (List.range (rd x.manifest 0x18 4)).map fun i => leNat (peekN s j (rd x.record 40 5 + 4 * i) 4) % 2 ^ 20

/-- The restore of a member ends with a cause: its message completes with it under 0x12 (R537). -/
def endRestore (j cause : Nat) (s : State) : State :=
  let s := modJob j (fun b => { b with restore := none, checks := [] }) s
  finish (.restore j) 0x12 { result := leBytes 1 cause } s

/-- A member is told that the restore is refused: its own cause, or 8 (R538). -/
def refuseArrives (j : Nat) (s : State) : State :=
  match (tget s.jobs j).bind (·.restore) with
  | none => s
  | some x => if x.imported then s else endRestore j (if x.cause = 0 then 8 else x.cause) s

/-- The lead refuses a restore: the members hear it, and the failed ones are listed at the report offset (R538). -/
def leadRefuse (j : Nat) (failed : List (Nat × Nat × Nat)) (s : State) : State :=
  match tget s.jobs j with
  | none => s
  | some b =>
    match b.restore, failed with
    | some x, (i, c, _) :: _ =>
      let s := toMembers j (barrierPayload 0xB c (rd x.manifest 8 4) i) s
      let list := failed.flatMap fun f => leBytes 4 f.1 ++ leBytes 1 f.2.1 ++ zeros 3 ++ leBytes 8 f.2.2
      refuseArrives j (engineWrite j (rd x.record 3 5) list s)
    | _, _ => s

/-- Restore go reaches a member (R539): the first begins its loading, the second resumes the job. -/
def goArrives (j : Nat) (s : State) : State :=
  match tget s.jobs j with
  | none => s
  | some b =>
    match b.restore with
    | none => s
    | some x =>
      if x.imported ∨ x.cause ≠ 0 then s
      else if ¬ x.going then
        let s := modJob j (fun b => { b with restore := some { x with going := true } }) s
        match qpOfObj s (rd x.record 0 2) with
        | none => s
        | some q => (readPieces (rd (manifestEntry x.manifest (rd x.record 36 4)) 8 8)).foldl (fun s p =>
            startRead q (.restoreRead j) (ceilDiv p.2 4096) (.rdmaRead (0x1000 + q) (rd x.record 24 8 + p.1) (rd x.record 32 4) p.2) s) s
      else if x.loaded then
        finish (.restore j) 0x00 {} (modJob j (fun b => { b with restore := none, checks := [] }) s)
      else s

/-- The lead judges the checks once every member has sent one (R538). -/
def judgeChecks (j : Nat) (s : State) : State :=
  match tget s.jobs j with
  | none => s
  | some b =>
    match b.restore with
    | none => s
    | some x =>
      let as := (newAddresses s j x).zipIdx
      let all := as.all fun a => (tget b.checks a.1).isSome
      if ¬ b.isLead ∨ x.imported ∨ x.going ∨ (¬ all ∧ ¬ as.isEmpty) then s
      else
        let mine := if as.isEmpty then [(rd x.record 36 4, x.cause, x.step)] else []
        let failed := mine ++ as.filterMap fun a =>
          match tget b.checks a.1 with
          | some (c, st) => if c = 0 then none else some (a.2, c, st)
          | none => none
        if failed.isEmpty then goArrives j (toMembers j (barrierPayload 0xA 0 (rd x.manifest 8 4) 0) s) else leadRefuse j failed s

/-- A restore check reaches the lead (R537). -/
def checkArrives (j src cause step : Nat) (s : State) : State :=
  match tget s.jobs j with
  | none => s
  | some b => if ¬ b.isLead then s else judgeChecks j (modJob j (fun b => { b with checks := tset b.checks src (cause, step) }) s)

/-- A restore done reaches the lead: any cause refuses the restore; when all are done the members resume (R539). -/
def doneArrives (j src cause : Nat) (s : State) : State :=
  match tget s.jobs j with
  | none => s
  | some b =>
    match b.restore with
    | none => s
    | some x =>
      if ¬ b.isLead ∨ x.imported ∨ ¬ x.going then s
      else
        let x := { x with done := tset x.done src cause }
        let s := modJob j (fun b => { b with restore := some x }) s
        let as := newAddresses s j x
        if cause ≠ 0 then leadRefuse j [(as.idxOf src, cause, x.step)] s
        else if as.all fun a => (tget x.done a).isSome then goArrives j (toMembers j (barrierPayload 0xA 0 (rd x.manifest 8 4) 0) s)
        else s

/-! ### RESTORE (R536, R537) -/

/-- RESTORE: the checks are made and sent to the lead. -/
def restoreBody (manifest chunk : ReadResult) (m : Msg) (s : State) : State :=
  match boundJob s m with
  | .error st => complete m st s
  | .ok j =>
    let b := (tget s.jobs j).getD { id := 0 }
    let r := msgBody m.bytes
    if r.length ≠ 64 ∨ ¬ allZero (sub r 45 19) then complete m 0x12 s
    else if b.phase ≠ .keyed ∨ b.restore.isSome ∨ b.capture.phase ≠ .none then complete m 0x18 s
    else
      match extentStatus s (partOf j) 3 (rd r 0 2) (rd r 2 1) with
      | some st => complete m st s
      | none =>
        let c := restoreCause s j b r manifest chunk
        if ¬ rangeOk s j (rd r 40 5) (4 * rd c.2.2.1 0x18 4) ∨ (b.isLead ∧ ¬ rangeOk s j (rd r 3 5) (16 * rd c.2.2.1 0x18 4)) then
          complete m 0x19 s
        else
          let x : RestoreSt := { msg := m, record := r, manifest := c.2.2.1, header := c.2.2.2, cause := c.1, step := c.2.1 }
          let s := keepRunning m (.restore j) (modJob j (fun b => { b with restore := some x }) s)
          if b.isLead then checkArrives j (deviceAddress s) c.1 c.2.1 s
          else toLead j (barrierPayload 9 c.1 (rd c.2.2.1 8 4) c.2.1) s

/-- RESTORE. -/
def execRestore (ctx : Nat) (manifest chunk : ReadResult) (s : State) : Host.Outcome State Fault Refusal :=
  .next (settle (withMessage ctx 0x63 (restoreBody manifest chunk) s))

/-! ### Loading (R516, R531, R534, R539, R540) -/

/-- A directory entry read back (R342). -/
def readDirEntry (b : Bytes) : DirE :=
  let f := rd b 0 1
  { version := rd b 8 5
    basin := if bit f 4 then rd b 4 2 else 0
    gradient := bit f 5, basinValid := bit f 4, pinned := bit f 3, dirty := bit f 2
    st := if f % 4 = 1 ∨ f % 4 = 3 then .resident else .resting }

/-- A device address moved from the manifest's member to the new one (R540). -/
def moveAddress (old new : List Nat) (a : Nat) : Nat := if old.contains a then new.getD (old.idxOf a) a else a

/-- The peer of a send or receive descriptor moved. -/
def moveDesc (f : Nat → Nat) (d : Bytes) : Bytes :=
  if rd d 0 2 = 0x24 ∨ rd d 0 2 = 0x25 then
    let w := rd d 28 4
    overlay d 28 (leBytes 4 (w / 2 ^ 20 * 2 ^ 20 + f (w % 2 ^ 20)))
  else d

/-- The addresses of an object moved. -/
def moveObj (f : Nat → Nat) (o : Obj) : Obj :=
  match o.data with
  | .group g => { o with data := .group { g with members := g.members.map f } }
  | .proxy p => { o with data := .proxy { p with peer := f p.peer } }
  | _ => o

/-- A Saddle gather into staging whose copy an operation still needs reruns (R516). -/
def rerunGathers (u : Sub) : Sub :=
  let anc := ancestors u.descs
  let again := (List.range u.descs.length).filter fun g =>
    let d := u.descs.getD g []
    dOp d == 0x20 && rd d 31 1 != 1 && (descAt u g).retired &&
    u.descs.zipIdx.any fun x => bit (anc.getD x.2 0) g && (opNames x.1).contains (dT d 0) && !(descAt u x.2).retired
  { u with state := u.state.filter fun x => !(again.contains x.1) }

/-- Tables of the fixed part read back: tensor descriptors with their masks, and scale-history records (R653). -/
def readTensors (c : Bytes) (old : Tab TensorE) : Tab TensorE :=
  ((List.range 65535).filterMap fun i =>
    let raw := sub c (atTensors + 64 * i) 64
    if tRank raw = 0 then none
    else
      let e := (tget old i).getD { raw := raw }
      some (i, { e with raw := overlay raw 12 [0, 0], mask := rd raw 12 2 }))

/-- The scale-history records of the dynamic tensors of a table. -/
def readHistory (c : Bytes) (ts : Tab TensorE) : Tab Bytes :=
  (ts.filter fun e => tDynamic e.2.raw).foldl (fun t e => tset t (tRecord e.2.raw) (sub c (atHistory + 64 * tRecord e.2.raw) 64)) []

/-- The promotion table of a control area (R180). -/
def readPromotions (c : Bytes) : Tab PromoE :=
  (List.range 4096).foldl (fun t i =>
    let e := sub c (atPromotions + 16 * i) 16
    if rd e 8 4 = 0 then t else tset t i ⟨rd e 0 2, rd e 2 2, rd e 4 1, rd e 8 4⟩) []

/-- The scale journal of a control area: its entries up to the generation (R269). -/
def readJournal (c : Bytes) : List JournalE :=
  (List.range (min 4096 (rd c 4 4))).map fun i =>
    let e := sub c (atJournal + 16 * i) 16
    ⟨rd e 0 2, rd e 4 4, rd e 8 4, rd e 12 4⟩

/-- The commit logs of a control area (R267). -/
def readCommits (c : Bytes) : Tab (List CommitE) :=
  (List.range 32).foldl (fun t k =>
    let n := rd c (8 + 2 * k) 2
    if n = 0 then t
    else tset t k ((List.range n).map fun i =>
      let e := sub c (atCommits + 32768 * k + 8 * i) 8
      ⟨rd e 0 2, rd e 2 1, bit (rd e 3 1) 0, rd e 4 4⟩)) []

/-- The numeric state of a control area: promotion table, journal, generation, commit logs and occupied slots from their places, the
sticky state of the log empty (R180, R273, R516). -/
def numFrom (c : Bytes) (n : NumState) : NumState :=
  { n with
    log := [], logHead := 0, lost := 0, promotions := readPromotions c, journal := readJournal c, generation := rd c 4 4
    commits := readCommits c, occupied := (List.range 32).filter fun k => bit (rd c 0 4) k }

/-- The control area becomes the job's own again, with the addresses of the new members (R515, R516, R540). -/
def loadControl (j : Nat) (c : Bytes) (f : Nat → Nat) (s : State) : State :=
  match tget s.jobs j, Config.readRest c with
  | some b, some (o, objs) =>
    let ts := readTensors c o.tensors
    let b' := { b with
      tensors := ts
      hist := readHistory c ts
      num := numFrom c o.num
      subs := o.subs.map fun (u : Nat × Sub) => (u.1, rerunGathers { u.2 with descs := u.2.descs.map (moveDesc f) })
      nextSub := o.nextSub
      narrows := { o.narrows with delivered := b.narrows.delivered, releases := [] }
      tier := { b.tier with basin := o.tier.basin, graded := o.tier.graded }
      xfers := o.xfers.map fun (x : Xfer) => { x with peer := f x.peer }
      clears := o.clears.map fun x => (f x.1, x.2)
      passSeq := o.passSeq
      peers := o.peers.map f
      replay := o.replay.foldl (fun t x => tset t (4 * f (x.1 / 4) + x.1 % 4) x.2) []
      capture := { b.capture with serial := o.capture.serial } }
    let s := modJob j (fun _ => b') s
    objs.foldl (fun t x =>
      if (objAt t x.1).isSome then t
      else { t with objects := { t.objects with
        objs := tset t.objects.objs x.1 { moveObj f x.2.2 with job := some j, destroying := false }
        gens := tsetD t.objects.gens x.1 x.2.1 0
        freed := t.objects.freed.filter (· != x.1) } }) s
  | _, _ => s

/-- Bytes with those left out put back as zeros: `n` bytes from job offset `o` on, taken from a list; the rest of it. -/
def fillOmitted (om : List (Nat × Nat)) : Nat → Nat → Bytes → Bytes × Bytes
  | 0, _, l => ([], l)
  | n + 1, o, l =>
    if isOmitted om o then
      let r := fillOmitted om n (o + 1) l
      (0 :: r.1, r.2)
    else
      let r := fillOmitted om n (o + 1) (l.drop 1)
      (l.headD 0 :: r.1, r.2)

/-- Resident pages take frames of the new pool, and their bytes (R540): fuel, the section's bytes. -/
def loadPages (j : Nat) (om : List (Nat × Nat)) : Nat → Bytes → State → State
  | 0, _, s => s
  | k + 1, l, s =>
    if l.isEmpty then s
    else
      let p := rd l 0 8
      let r := fillOmitted om (2 ^ 20) (2 ^ 39 + p * 2 ^ 20) (l.drop 8)
      let f := ((tget s.jobs j).bind freeFrame).getD 0
      let s := modTier j (fun t => { t with framesUsed := t.framesUsed ++ [f] }) s
      let s := modDir j p (fun e => { e with st := .resident, frame := f }) s
      let s := match frameAddress (carveOf s j) f with
        | none => s
        | some a => valeWrite 4097 a r.1 s
      loadPages j om k r.2 s

/-- Resting images go to the new extents (R540): fuel, the section's bytes. -/
def loadImages (j : Nat) : Nat → Bytes → State → State
  | 0, _, s => s
  | k + 1, l, s =>
    if l.isEmpty then s
    else
      let p := rd l 0 8
      let image := (l.drop 16).take 1052672
      let s := match (tget s.jobs j).bind fun b => pageExtent b p with
        | none => s
        | some x =>
          match qpOfObj s (xQp x.2.1) with
          | none => s
          | some q => putOut q (.rdmaWrite (0x1000 + q) x.2.2 (xKey x.2.1) image none) s
      loadImages j k (l.drop (16 + 1052672)) s

/-- The narrowed stash goes back to 16 bits (R531): the tensors in order, the section's bytes. -/
def loadStash (j : Nat) : List TV → Bytes → State → State
  | [], _, s => s
  | v :: vs, l, s =>
    let w := narrowView v
    let n := tensorBytes w
    let img := ((l.drop 8).take n).toArray
    let src : Src := fun a => img.getD a 0
    let o := encodeTensor src v fun k => some (.val (logicalN src w k).1)
    loadStash j vs (l.drop (8 + n)) (applyStores j o.1 s)

/-- A job offset has a place in Vale now. -/
def placed (s : State) (j o : Nat) : Bool := (translate s j o).isSome

/-- Working copies rebuilt from the masters, as the weight task of R291 writes them (R531 bit 1), where both lie in Vale. -/
def rebuildCopies (j : Nat) (only : Nat → Bool) (s : State) : State :=
  match tget s.jobs j with
  | none => s
  | some b =>
    b.tensors.foldl (fun t e =>
      let id := tLogical e.2.raw
      if id ≠ 0 ∧ (id % 16 = 4 ∨ id % 16 = 5) ∧ only e.1 then
        match viewOf b 0 0 none e.1, (byLogical b (id / 16 * 16)).bind fun i => viewOf b 0 0 none i with
        | some v, some mv =>
          let m := srcOf t j
          let o := encodeTensor m v fun n =>
            let ix := masterIx (id % 16) (indexOf v.ext n)
            if placed t j (elemAddr mv ix) then some (.val (logical m mv ix).1) else none
          applyStores j (o.1.filter fun st => placed t j st.1) t
        | _, _ => t
      else t) s

/-- Load every section of a shard that has verified whole (R539, R540). -/
def loadShard (j : Nat) (x : RestoreSt) (chunk : Nat → Option Bytes) (s : State) : State :=
  let n := rd x.manifest 0x18 4
  let old := (List.range n).map fun i => rd (manifestEntry x.manifest i) 0 4 % 2 ^ 20
  let f := moveAddress old (newAddresses s j x)
  let secs := headerSections x.header
  let of := fun (k : Nat) => secs.filter fun y => y.kind == k
  let s := (of 4).foldl (fun t y => loadControl j (wholeSection chunk y) f t) s
  let om := ((tget s.jobs j).map fun b => omittedRanges b (rd x.header 2 1)).getD []
  let s := (of 1).foldl (fun t y =>
    let img := wholeSection chunk y
    (partCores (partCfg t j)).zipIdx.foldl (fun t c =>
      modCore c.1 (fun k => { k with tile := Memory.writeN [] 0 (sub img (25088 * c.2) 24576) }) t) t) s
  let s := (of 2).foldl (fun t y =>
    (pieces 16 (y.length / 16 + 1) (wholeSection chunk y)).zipIdx.foldl (fun t e =>
      modDir j e.2 (fun _ => readDirEntry e.1) t) t) s
  let s := (of 5).foldl (fun t y => engineWrite j y.base (fillOmitted om (2 ^ 30) y.base (wholeSection chunk y)).1 t) s
  let s := (of 6).foldl (fun t y => loadPages j om (y.length / 8 + 1) (wholeSection chunk y) t) s
  let s := (of 7).foldl (fun t y => loadImages j (y.length / 16 + 1) (wholeSection chunk y) t) s
  let s := (of 8).foldl (fun t y => loadStash j (((tget t.jobs j).map stashViews).getD []) (wholeSection chunk y) t) s
  if bit (rd x.header 2 1) 1 then rebuildCopies j (fun _ => true) s else s

/-- A member's loading ends, and it tells the lead (R539). -/
def loadDone (j : Nat) (shard : ReadResult) (s : State) : State :=
  match tget s.jobs j with
  | none => s
  | some b =>
    match b.restore with
    | none => s
    | some x =>
      if x.imported ∨ ¬ x.going ∨ x.loaded then s
      else
        let up := ((qpOfObj s (rd x.record 0 2)).map (carries s)).getD false
        let s := dropFlight (.restoreRead j) s
        let tell := fun (cause : Nat) (s : State) =>
          let s := modJob j (fun b => { b with restore := b.restore.map fun y => { y with cause, loaded := cause == 0 } }) s
          if b.isLead then doneArrives j (deviceAddress s) cause s else toLead j (barrierPayload 0xC cause (rd x.manifest 8 4) 0) s
        match (if up then shard else .failed) with
        | .failed => tell 9 s
        | .bytes d =>
          let member := rd x.record 36 4
          let e := manifestEntry x.manifest member
          let chunk := shardChunk (ckptKey b) (rd x.manifest 8 8) member d
          let whole := d.length == rd e 8 8 && decide (sha256 d = sub e 16 32) &&
            (List.range (d.length / 4112)).all fun c => (chunk c).isSome
          if ¬ whole then tell 7 s else tell 0 (loadShard j x chunk s)

/-- RESTORE_LOAD_COMPLETE. -/
def execRestoreLoadComplete (job : Nat) (shard : ReadResult) (s : State) : Host.Outcome State Fault Refusal :=
  .next (if alive s then settle (loadDone job shard s) else s)

/-! ### STATE_IMPORT (R541, R542) -/

/-- The source tensor with a logical_id in a tensor index, and its scale tensor's descriptor if one follows (R534). -/
def sourceTensor (id : Nat) : List Bytes → Option (Bytes × Bytes)
  | [] => none
  | d :: rest =>
    if tLogical d = id ∧ id ≠ 0 then some (d, match rest with | c :: _ => if tLogical c = 0 then c else [] | [] => [])
    else sourceTensor id rest

/-- The descriptors of a tensor index. -/
def indexEntries (b : Bytes) : List Bytes := pieces 64 (b.length / 64 + 1) b

/-- A source descriptor as a view, with its scale tensor. -/
def sourceView (d sc : Bytes) (dflt : Nat) : Option TV :=
  (fmtOf (tFmt d)).map fun f =>
    { idx := 0, fmt := f, ext := tExts d, stride := strides d, base := tBase d, ts := 1
      block := blockSize (tBlockCode d) dflt, bf16 := tBf16Scale d, fixed := none
      scaleBase := tBase sc, scaleStride := if sc.isEmpty then [] else strides sc }

/-- The overlap of source and target along the shard dimension, in model indices. -/
def importOverlap (src dst : Bytes) : Nat × Nat :=
  let sd := tShard dst
  (max (tOrigin src) (tOrigin dst), min (tOrigin src + tExt src sd) (tOrigin dst + tExt dst sd))

/-- The conditions of R541 on a source and a target. -/
def importOk (src dst : Bytes) (sv dv : TV) : Bool :=
  let sd := tShard dst
  let o := importOverlap src dst
  tFmt src == tFmt dst && tShard src == sd && tRank src == tRank dst && (!(is8 dv.fmt) || sv.block == dv.block) &&
  ((List.range (tRank dst)).all fun i => i == sd || tExt src i == tExt dst i) &&
  (!(is8 dv.fmt) || sd != 0 || decide (o.2 ≤ o.1) ||
    ((o.1 - tOrigin src) % sv.block == 0 && (o.1 - tOrigin dst) % dv.block == 0 &&
     ((o.2 - o.1) % dv.block == 0 || (o.2 == tOrigin src + tExt src 0 && o.2 == tOrigin dst + tExt dst 0))))

/-- STATE_IMPORT: the manifest, the shard's header and its tensor index are judged. -/
def importBody (manifest header index : ReadResult) (m : Msg) (s : State) : State :=
  match boundJob s m with
  | .error st => complete m st s
  | .ok j =>
    let b := (tget s.jobs j).getD { id := 0 }
    let r := msgBody m.bytes
    let target := rd r 42 2
    if r.length ≠ 64 ∨ ¬ allZero (sub r 3 5) ∨ 2 ^ 20 ≤ rd r 36 4 ∨ 2 ≤ rd r 40 1 ∨ rd r 41 1 ≠ 0 ∨ ¬ allZero (sub r 44 20) then
      complete m 0x12 s
    else if b.phase ≠ .keyed ∨ b.restore.isSome then complete m 0x18 s
    else
      match extentStatus s (partOf j) 3 (rd r 0 2) (rd r 2 1) with
      | some st => complete m st s
      | none =>
        match manifest, header, index, tget b.tensors target with
        | .bytes man, .bytes h0, .bytes ix, some e =>
          let source := rd r 36 4
          if manifestCause b man ≠ 0 ∨ ¬ bit (rd man 2 1) 0 ∨ rd man 0x18 4 ≤ source then
            completeResult m 0x12 (leBytes 1 (manifestCause b man)) s
          else
            match shardChunk (ckptKey b) (rd man 8 8) source h0 0 with
            | none => completeResult m 0x12 (leBytes 1 6) s
            | some h =>
              let entries := indexEntries ix
              match sourceTensor (tLogical e.raw) entries, viewOf b 0 0 none target with
              | some (d, sc), some dv =>
                match sourceView d sc b.cfg.block with
                | some sv =>
                  if ¬ importOk d e.raw sv dv then complete m 0x12 s
                  else
                    let x : RestoreSt := { msg := m, record := r, manifest := man, header := h, imported := true, index := ix }
                    let s := modJob j (fun b => { b with restore := some x }) s
                    let pages := (byteRange b.tensors 0 0 target).flatMap pagesOf
                    pages.foldl (fun t p => requestPage j p t) (keepRunning m (.restore j) s)
                | none => complete m 0x12 s
              | _, _ => complete m 0x12 s
        | .bytes _, .bytes _, .bytes _, none => complete m 0x12 s
        | _, _, _, _ => completeResult m 0x12 (leBytes 1 9) s

/-- STATE_IMPORT. -/
def execStateImport (ctx : Nat) (manifest header index : ReadResult) (s : State) : Host.Outcome State Fault Refusal :=
  .next (settle (withMessage ctx 0x64 (importBody manifest header index) s))

/-- The omitted ranges of a source shard's masters: only the tails touch roles 0 to 2 (R531 bit 0). -/
def sourceTails (options : Nat) (entries : List Bytes) : List (Nat × Nat) :=
  if bit options 0 then
    entries.flatMap fun d =>
      match sourceView d [] 2 with
      | some v => if v.fmt = .m48 ∧ tLogical d ≠ 0 ∧ tLogical d % 16 = 0 then
          (List.range v.count).map fun n => (elemAddr v (indexOf v.ext n), elemAddr v (indexOf v.ext n) + 2)
        else []
      | none => []
  else []

/-- All job offsets that a source shard leaves out: tails, and working copies with their scales. -/
def sourceOmitted (options : Nat) (entries : List Bytes) : List (Nat × Nat) :=
  sourceTails options entries ++
  (if bit options 1 then
    (entries.zip (entries.drop 1 ++ [[]])).flatMap fun p =>
      if tLogical p.1 ≠ 0 ∧ (tLogical p.1 % 16 = 4 ∨ tLogical p.1 % 16 = 5) then
        match sourceView p.1 (if tLogical p.2 = 0 then p.2 else []) 2 with
        | some v => (List.range (tensorBytes v)).map fun o => (byteAddr v o, byteAddr v o + 1)
        | none => []
      else []
  else [])

/-- Bytes of an offset range that a shard keeps. -/
def keptCount (om : List (Nat × Nat)) (lo hi : Nat) : Nat := ((List.range (hi - lo)).filter fun i => !(isOmitted om (lo + i))).length

/-- Where the page with a number lies in a resident-page section: fuel, offset in the section. -/
def findPage (slice : Nat → Nat → Option Bytes) (om : List (Nat × Nat)) (length p : Nat) : Nat → Nat → Option Nat
  | 0, _ => none
  | k + 1, o =>
    if length ≤ o then none
    else
      match slice o 8 with
      | none => none
      | some b =>
        let q := leNat b
        if q = p then some (o + 8) else findPage slice om length p k (o + 8 + keptCount om (2 ^ 39 + q * 2 ^ 20) (2 ^ 39 + (q + 1) * 2 ^ 20))

/-- The byte of a source shard at a job offset; one left out is zero; none where a chunk fails or nothing holds it. -/
def sourceByte (steppe h : Bytes) (om : List (Nat × Nat)) (chunk : Nat → Option Bytes) (o : Nat) : Option Byte :=
  let secs := headerSections h
  if isOmitted om o then some 0
  else
    match windowPage o with
    | none =>
      (secs.find? fun y => y.kind == 5 && decide (y.base ≤ o) && decide (o < y.base + 2 ^ 30)).bind fun y =>
        (sectionSlice chunk y (keptCount om y.base o) 1).bind (·.head?)
    | some p =>
      let six := (secs.find? fun y => y.kind == 6).bind fun y =>
        (findPage (sectionSlice chunk y) om y.length p (y.length / 8 + 1) 0).bind fun at' =>
          (sectionSlice chunk y (at' + keptCount om (2 ^ 39 + p * 2 ^ 20) o) 1).bind (·.head?)
      six.or ((secs.find? fun y => y.kind == 7).bind fun y =>
        ((List.range (y.length / 1052688)).find? fun i => (sectionSlice chunk y (1052688 * i) 8).map leNat == some p).bind fun i =>
          let c := o % 2 ^ 20 / 4096
          match sectionSlice chunk y (1052688 * i + 8) 8, sectionSlice chunk y (1052688 * i + 16 + 4112 * c) 4112 with
          | some v, some r => (gcmOpen steppe (chunkIv p (leNat v) c) [] (sub r 0 4096) (sub r 4096 16)).bind fun d => d[o % 4096]?
          | _, _ => none)

/-- The overlap's elements of a target, with their source index. -/
def importPairs (src dst : Bytes) (dv : TV) : List (List Nat × List Nat) :=
  let sd := tShard dst
  let o := importOverlap src dst
  ((List.range dv.count).map (indexOf dv.ext)).filterMap fun ix =>
    let g := ix.getD sd 0 + tOrigin dst
    if o.1 ≤ g ∧ g < o.2 then some (ix, ix.zipIdx.map fun z => if z.2 = sd then g - tOrigin src else z.1) else none

/-- The bytes that an import copies: each target offset with its source offset, elements and scales. -/
def importCopies (dv sv : TV) (ps : List (List Nat × List Nat)) : List (Nat × Nat) :=
  ps.flatMap fun p =>
    ((List.range (fmtBytes dv.fmt)).map fun i => (elemAddr dv p.1 + i, elemAddr sv p.2 + i)) ++
    (if is8 dv.fmt ∧ p.1.headD 0 % dv.block = 0 then
      (List.range (scaleSize dv)).map fun i => (scaleAddr dv p.1 + i, scaleAddr sv p.2 + i) else [])

/-- An index is covered by ranges along the shard dimension. -/
def coveredBy (l : List (Nat × Nat)) (i : Nat) : Bool := l.any fun r => decide (r.1 ≤ i) && decide (i < r.2)

/-- Pages of a master that imports have completed now take the source's header value (R542). -/
def importHeaders (j target : Nat) (dv : TV) (sd value : Nat) (new : Nat × Nat) (s : State) : State :=
  match tensorAt s j target with
  | none => s
  | some e =>
    let l := e.covered ++ [new]
    let full := (List.range (pageCount dv.ext)).filter fun p => (pageRuns dv.ext p).flatten.all fun ix => coveredBy l (ix.getD sd 0)
    modTensor j target (fun e => { e with
      covered := l
      headers := if dv.fmt = .m48 then full.foldl (fun t p => tsetD t p (value, value) (0, 0)) e.headers else e.headers }) s

/-- The source bytes of an import's target bytes; none where a chunk fails. -/
def importBytes (b : Job) (x : RestoreSt) (d : Bytes) (e : TensorE) (src : Bytes) (dv sv : TV) : List (Nat × Option Byte) :=
  let entries := indexEntries x.index
  let chunk := shardChunk (ckptKey b) (rd x.manifest 8 8) (rd x.record 36 4) d
  let om := sourceOmitted (rd x.header 2 1) entries
  let cs := if tLogical e.raw % 16 < 3 then importCopies dv sv (importPairs src e.raw dv) else []
  cs.map fun c => (c.1, sourceByte (steppeKey b) x.header om chunk c.2)

/-- The source job of an import, as its shard's control area tells. -/
def sourceJob (b : Job) (x : RestoreSt) (d : Bytes) : Option Job :=
  let chunk := shardChunk (ckptKey b) (rd x.manifest 8 8) (rd x.record 36 4) d
  let control := ((headerSections x.header).find? fun y => y.kind == 4).map (wholeSection chunk)
  (control.bind Config.readRest).map (·.1)

/-- An import whose bytes are all there is placed (R541, R542): copied bytes, gradients at zero, working copies rebuilt, page headers, and
the numeric state where the message asks for it. -/
def placeImport (j : Nat) (b : Job) (x : RestoreSt) (d : Bytes) (e : TensorE) (src : Bytes) (dv sv : TV) (s : State) : State :=
  let target := rd x.record 42 2
  let role := tLogical e.raw % 16
  let source := sourceJob b x d
  let sd := tShard e.raw
  let o := importOverlap src e.raw
  let value := (((source.bind fun r => (byLogical r (tLogical e.raw)).bind fun i => tget r.tensors i).bind fun t =>
    t.headers.head?).map fun h => h.2.1).getD 0
  let s := (importBytes b x d e src dv sv).foldl (fun t c => engineWrite j c.1 [c.2.getD 0] t) s
  let s := if role = 3 then (importPairs src e.raw dv).foldl (fun t p => engineWrite j (elemAddr dv p.1) (zeros (fmtBytes dv.fmt)) t) s else s
  let s := if role = 4 ∨ role = 5 then rebuildCopies j (fun i => i == target) s else s
  let s := importHeaders j target dv sd value (o.1 - tOrigin e.raw, o.2 - tOrigin e.raw) s
  match bit (rd x.record 40 1) 0, source with
  | true, some r => modNum j (fun n => { n with
      exponent := r.num.exponent, clean := r.num.clean, skips := r.num.skips, verdicts := r.num.verdicts }) s
  | _, _ => s

/-- An import's chunks are there: it is placed, or ends with 0x12 where one fails. -/
def importDone (j : Nat) (chunks : ReadResult) (s : State) : State :=
  match tget s.jobs j with
  | none => s
  | some b =>
    match b.restore with
    | none => s
    | some x =>
      if ¬ x.imported then s
      else
        let target := rd x.record 42 2
        match chunks, tget b.tensors target, viewOf b 0 0 none target with
        | .bytes d, some e, some dv =>
          match sourceTensor (tLogical e.raw) (indexEntries x.index) with
          | none => endRestore j 7 s
          | some (src, sc) =>
            match sourceView src sc b.cfg.block with
            | none => endRestore j 7 s
            | some sv =>
              if ¬ (((byteRange b.tensors 0 0 target).flatMap pagesOf).all fun p => (dirAt s j p).st == .resident) then s
              else if (importBytes b x d e src dv sv).any fun c => c.2.isNone then endRestore j 7 s
              else finish (.restore j) 0x00 {} (modJob j (fun b => { b with restore := none }) (placeImport j b x d e src dv sv s))
        | .failed, _, _ => endRestore j 9 s
        | _, _, _ => endRestore j 7 s

/-- STATE_IMPORT_COMPLETE. -/
def execStateImportComplete (job : Nat) (chunks : ReadResult) (s : State) : Host.Outcome State Fault Refusal :=
  .next (if alive s then settle (importDone job chunks s) else s)

end Sys2Proof.Machine
end

