-- ==== Sys2Proof/Machine/Warn.lean ====
section
/-! DEFINITION. Failure warnings (R521, R598, R599). -/

namespace Sys2Proof.Machine

/-- The hour count of R598: correctable and recovered events over the last 60 completed minutes. -/
def hourCount (s : State) : Nat :=
  let now := s.timeNs / 60000000000
  s.errors.minutes.foldl (fun n m => if m.1 < now ∧ now ≤ m.1 + 60 then n + m.2 else n) 0

/-- Codewords on a port in the second in progress. -/
def laneCount (s : State) (p : PassPort) : Nat := if p.second = s.timeNs / 1000000000 then p.codewords else 0

/-- Every junction reading, in sixteenths of a degree. -/
def junctions (s : State) : List Int := (s.power.blockTemp ++ s.power.stackTemp ++ s.power.opticTemp).map (·.2)

/-- The condition of a cause of R599 under a record, by bit. -/
def warnHolds (s : State) (c : TrigCfg) (i : Nat) : Bool :=
  match i with
  | 0 => decide (c.correctable ≤ hourCount s)
  | 1 => s.pass.ports.any fun p => decide (c.laneErrors ≤ laneCount s p)
  | 2 => (junctions s).any fun t => decide (16 * (105 - (c.thermalMargin : Int)) ≤ t)
  | 3 => decide (c.droops ≤ (s.errors.droops.filter fun t => decide (s.timeNs < t + 60000000000)).length)
  | 4 => s.errors.ceilingMargin
  | _ => false

/-- Set failure-warning bits; any of bits 0 to 4 asserts ALERT_L (R599, R633, R635). -/
def failWarn (mask : Nat) (s : State) : State :=
  let s := { s with mgmt := { s.mgmt with failWarn := s.mgmt.failWarn ||| mask } }
  if mask % 32 = 0 then s else alert 0x400 s

/-- Judge the causes under every job's record: a cause that holds sets its bit and goes to the lead of each job that enables it
(R521, R599). Ceiling margin is judged once for the module. -/
def evalWarnings (s : State) : State :=
  let s := if s.errors.ceilingMargin then failWarn 16 s else s
  s.jobs.foldl (fun s j =>
    (List.range 5).foldl (fun s i =>
      let h := warnHolds s (trigCfg s j.1) i
      let s := if h ∧ i < 4 then failWarn (2 ^ i) s else s
      warnTrigger j.1 i h s) s) s

end Sys2Proof.Machine
end

