-- ==== Sys2Proof/Machine/Ports.lean ====
section
/-! DEFINITION. Pass ports: link-control packets and their timers (R353, R354, R358 to R360, R370), training (R356 to R358, R386,
R619), and a port that goes down (R384, R385). -/

namespace Sys2Proof.Machine

/-- A port number is one of the 32. -/
def isPort (n : Nat) : Bool := decide (n < 32)

/-- A link-control packet: 32 bytes of a subtype, with its fields from byte 2 on. -/
def linkControl (subtype : Nat) (fields : Bytes) : Bytes := [0, BitVec.ofNat 8 subtype] ++ sub fields 0 30

/-- Send a link-control packet. -/
def sendControl (n subtype : Nat) (fields : Bytes) (s : State) : State := emit (.packet n (linkControl subtype fields)) s

/-- A received link-control packet has its 32 bytes, its type and its subtype. -/
def isControl (b : Bytes) (subtype : Nat) : Bool := b.length == 32 && rd b 0 1 == 0 && rd b 1 1 == subtype

/-- Run an arriving link-control packet on a port whose state takes it. -/
def onControl (n : Nat) (b : Bytes) (subtype : Nat) (ok : PassPort → Bool) (f : PassPort → State → State) (s : State) : State :=
  let p := portAt s n
  if s.power.mainPower && s.power.railsOn && isPort n && isControl b subtype && ok p then f p s else s

/-! ### Acknowledgement and replay (R353, R354) -/

/-- The replay buffer without the packets up to an acknowledged sequence. -/
def ackedReplay (l : List (Nat × Bytes)) (seq : Nat) : List (Nat × Bytes) :=
  match l.findIdx? fun x => x.1 == seq with
  | none => l
  | some i => l.drop (i + 1)

/-- Free what a sequence acknowledges. -/
def ackUpTo (n seq : Nat) (s : State) : State := modPort n (fun p => { p with replay := ackedReplay p.replay seq }) s

/-- Send again whatever the replay buffer holds, oldest first. -/
def resend (n : Nat) (s : State) : State :=
  let l := (portAt s n).replay
  if l.isEmpty then s
  else bumpPort n 1 (l.foldl (fun s x => emit (.packet n (leBytes 2 x.1 ++ [0, 0] ++ x.2)) s) s)

/-- A port in use. -/
def upPort (p : PassPort) : Bool := p.st == .up

/-- ACK. -/
def execAck (port : Nat) (bytes : Bytes) (s : State) : Host.Outcome State Fault Refusal :=
  .next (settle (onControl port bytes 4 upPort (fun _ s => drainPort port (ackUpTo port (rd bytes 2 2) s)) s))

/-- NAK: the sender replays from the sequence after the one named. -/
def execNak (port : Nat) (bytes : Bytes) (s : State) : Host.Outcome State Fault Refusal :=
  .next (settle (onControl port bytes 5 upPort (fun _ s => drainPort port (resend port (ackUpTo port (rd bytes 2 2) s))) s))

/-- IDLE: it carries nothing. -/
def execIdle (port : Nat) (bytes : Bytes) (s : State) : Host.Outcome State Fault Refusal :=
  .next (onControl port bytes 6 upPort (fun _ s => s) s)

/-- Run a port's timer while it is up. -/
def onTimer (n : Nat) (f : PassPort → State → State) (s : State) : State :=
  let p := portAt s n
  if s.power.railsOn && isPort n && upPort p then f p s else s

/-- ACK_TIMER: the highest sequence accepted in order is acknowledged. -/
def execAckTimer (port : Nat) (s : State) : Host.Outcome State Fault Refusal :=
  .next (onTimer port (fun p s => sendControl port 4 (leBytes 2 p.inSeq) s) s)

/-! ### Credits (R369, R370) -/

/-- Eight 16-bit counts, channel 0 first. -/
def readCounts (b : Bytes) : List Nat := (List.range 8).map fun i => rd b (16 + 2 * i) 2

/-- The fields of a packet that carries counts, with a sequence in its first two bytes. -/
def countFields (seq : Nat) (counts : List Nat) : Bytes := leBytes 2 seq ++ zeros 12 ++ counts.flatMap (leBytes 2)

/-- The units that a port's receive buffer has free: allotment and reserve, less what is held (R369). -/
def freeUnits (s : State) (p : PassPort) : List Nat :=
  (List.range 8).map fun vc => s.config.image.pass.allot.getD vc 0 + 128 - tgetD p.held vc 0

/-- Counts as a table. -/
def countTab (l : List Nat) : Tab Nat := l.zipIdx.foldl (fun t x => tsetD t x.2 x.1 0) []

/-- CREDIT_INIT: the sender's counts start from it, and its sequence says from where to replay (R358). -/
def execCreditInit (port : Nat) (bytes : Bytes) (s : State) : Host.Outcome State Fault Refusal :=
  .next (onControl port bytes 2 (fun p => p.st == .training && p.step == 6 && !p.initSeen) (fun _ s =>
    modPort port (fun p => { p with credits := countTab (readCounts bytes), initSeen := true }) (ackUpTo port (rd bytes 2 2) s)) s)

/-- CREDIT_RETURN. -/
def execCreditReturn (port : Nat) (bytes : Bytes) (s : State) : Host.Outcome State Fault Refusal :=
  .next (settle (onControl port bytes 3 upPort (fun _ s => drainPort port (modPort port (fun p => { p with
    credits := (readCounts bytes).zipIdx.foldl (fun t x => tsetD t x.2 (tgetD t x.2 0 + x.1) 0) p.credits }) s)) s))

/-- CREDIT_RETURN_TIMER: units to return are sent, at most what a count holds. -/
def execCreditReturnTimer (port : Nat) (s : State) : Host.Outcome State Fault Refusal :=
  .next (onTimer port (fun p s =>
    if p.toReturn.isEmpty then s
    else
      let give := (List.range 8).map fun vc => min 65535 (tgetD p.toReturn vc 0)
      sendControl port 3 (countFields 0 give) (modPort port (fun p => { p with
        toReturn := give.zipIdx.foldl (fun t x => tsetD t x.2 (tgetD t x.2 0 - x.1) 0) p.toReturn }) s)) s)

/-- IDLE_TIMER: a port with nothing else to send sends an idle packet. -/
def execIdleTimer (port : Nat) (s : State) : Host.Outcome State Fault Refusal :=
  .next (onTimer port (fun p s => if p.queues.all fun q => q.2.isEmpty then sendControl port 6 [] s else s) s)

/-! ### A port goes down (R384, R385) -/

/-- Event 0x08: a port, its cause and the address from the peer's last HELLO (R658). -/
def portEvent (n cause : Nat) (s : State) : State :=
  let p := portAt s n
  mgmtEvent 0x08 (timed s (leBytes 1 n ++ leBytes 1 cause ++ zeros 2 ++ leBytes 4 (p.peerValid.toNat * 2 ^ 31 + p.peer))) s

/-- A lead that no port leads to a member of its job any more abandons a capture with cause 3 (R527). -/
def loseMembers (s : State) : State :=
  s.jobs.foldl (fun s j =>
    let reach := fun (a : Nat) => match route s a (deviceAddress s) 0 0 none with | .noRoute => false | _ => true
    if j.2.isLead && j.2.capture.phase != .none && !(leadMembers s j.2).all reach then abandonCapture j.1 3 s else s) s

/-- A port stops (R385): its replay buffer and queues are discarded, and every job that owned a packet there faults with 0x63. Packets
in transit leave the buffers that held them. The event, where there is one, comes before the faults. -/
def portStops (n : Nat) (ev : State → State) (s : State) : State :=
  let p := portAt s n
  let queued := p.queues.flatMap (·.2)
  let ids := ((p.replay.map (·.2)) ++ queued.map (·.1)).map pJob
  let s := modPort n (fun p => { p with
    st := .down, step := 0, fast := false, replay := [], queues := [], credits := [], toReturn := [], nakSent := false
    lost := true, fullFails := 0, fastFails := [], helloSeen := false, initSeen := false, outSeq := 0, inSeq := 0 }) s
  let s := queued.foldl (fun s q => leaveBuffer q.2 q.1 s) s
  let s := (ids.eraseDups.filterMap (jobIndex s)).foldl (fun s j => mechFault j 0x63 s) (ev s)
  loseMembers s

/-- A port goes down for a cause, which event 0x08 names. -/
def portDown (n cause : Nat) (s : State) : State := portStops n (portEvent n cause) s

/-- A port has a peer that it can lose: it is up, or retrains. -/
def hasPeer (p : PassPort) : Bool := p.st == .up || (p.st == .training && p.fast)

/-- A port loses its peer. -/
def losePeer (n cause : Nat) (s : State) : State :=
  if s.power.railsOn && isPort n && hasPeer (portAt s n) then settle (portDown n cause s) else s

/-- LIGHT_ABSENT. -/
def execLightAbsent (port lane : Nat) (s : State) : Host.Outcome State Fault Refusal :=
  .next (if lane < 4 then losePeer port 1 s else s)

/-- NO_VALID_PACKET. -/
def execNoValidPacket (port : Nat) (s : State) : Host.Outcome State Fault Refusal :=
  .next (losePeer port 2 s)

/-! ### Readiness (R546) -/

/-- The Proend becomes ready once steps 1 to 6 have ended and every enabled port has come up or failed (R546, R548). -/
def checkReady (s : State) : State :=
  let passDone := (List.range 32).all fun n => portRole s n == 0 || (portAt s n).st == .up || (portAt s n).st == .down
  let ethDone := (List.range 4).all fun n =>
    let e := s.eth.ports.getD n {}
    (s.config.image.eth.getD n {}).mask == 0 || e.link || e.failed
  if ¬ s.start.ready ∧ s.start.step = 6 ∧ ¬ s.start.bootHold ∧ s.start.stackFailed.isEmpty ∧ passDone ∧ ethDone then
    { s with start := { s.start with step := 7, ready := true } }
  else s

/-! ### Training (R356 to R358, R386) -/

/-- Full training begins at step 1, and is counted. -/
def beginFull (n : Nat) (s : State) : State :=
  bumpPort n 3 (modPort n (fun p => { p with st := .training, step := 1, fast := false, half := false, plp := 0,
                                              helloSeen := false, initSeen := false }) s)

/-- A fast retrain begins at step 2 with the stored coefficients, and is counted. -/
def beginFast (n : Nat) (s : State) : State :=
  bumpPort n 2 (modPort n (fun p => { p with st := .training, step := 2, fast := true, helloSeen := false, initSeen := false }) s)

/-- PORT_TRAINING: a lit port that is in use and dark starts. -/
def execPortTraining (port : Nat) (s : State) : Host.Outcome State Fault Refusal :=
  let p := portAt s port
  .next (if s.power.railsOn && isPort port && p.lit && p.st == .dark && portRole s port != 0 then beginFull port s else s)

/-- A training attempt fails (R357): a third fast retrain within 1 s leads to full training, a third full training in succession
leaves the port down. A port that was down stays down (R386). -/
def attemptFails (n : Nat) (s : State) : State :=
  let p := portAt s n
  if p.fast then
    let recent := (p.fastFails.filter fun t => decide (s.timeNs < t + 1000000000)) ++ [s.timeNs]
    let s := modPort n (fun p => { p with fastFails := recent }) s
    if 3 ≤ recent.length then beginFull n (modPort n (fun p => { p with fastFails := [] }) s) else beginFast n s
  else if p.lost then modPort n (fun p => { p with st := .down, step := 0 }) s
  else if 2 ≤ p.fullFails then portDown n 3 s
  else beginFull n (modPort n (fun p => { p with fullFails := p.fullFails + 1 }) s)

/-- CLOCK_LOCK_TIMEOUT: a mixed port at the full rate repeats step 2 at half rate; any other fails its attempt. -/
def execClockLockTimeout (port : Nat) (s : State) : Host.Outcome State Fault Refusal :=
  let p := portAt s port
  .next (if s.power.railsOn && isPort port && p.st == .training && p.step == 2 then
      (if portRole s port = 2 ∧ ¬ p.half ∧ ¬ p.fast then modPort port (fun p => { p with half := true }) s
       else settle (checkReady (attemptFails port s)))
    else s)

/-- TRAINING_STEP_TIMEOUT: any other step, or a fast retrain, ran out of time. -/
def execTrainingStepTimeout (port : Nat) (s : State) : Host.Outcome State Fault Refusal :=
  let p := portAt s port
  .next (if s.power.railsOn && isPort port && p.st == .training && (p.step != 2 || p.fast) then settle (checkReady (attemptFails port s)) else s)

/-- FAST_RETRAIN. -/
def execFastRetrain (port : Nat) (s : State) : Host.Outcome State Fault Refusal :=
  .next (if s.power.railsOn && isPort port && upPort (portAt s port) then beginFast port s else s)

/-- FULL_TRAINING_RETRY. -/
def execFullTrainingRetry (port : Nat) (s : State) : Host.Outcome State Fault Refusal :=
  let p := portAt s port
  .next (if s.power.railsOn && isPort port && p.st == .down && p.lit && portRole s port != 0 then beginFull port s else s)

/-! ### HELLO (R359, R360) -/

/-- The PLP versions that a port marks: bit 2 for PLP 2, bit 1 for PLP 1. -/
def markedVersions (s : State) (n : Nat) : Nat := if portRole s n = 2 then 6 else 4

/-- The fields of this Proend's HELLO (R359). -/
def helloFields (s : State) (n : Nat) : Bytes :=
  leBytes 1 (markedVersions s n) ++ leBytes 1 n ++ leBytes 3 (deviceAddress s) ++ leBytes 1 (portRole s n) ++
  leBytes 2 0x8012 ++ leBytes 1 0xB0

/-- The version that both HELLOs mark: the highest, or 0. -/
def commonPlp (own peer : Nat) : Nat :=
  if bit own 2 && bit peer 2 then 2 else if bit own 1 && bit peer 1 then 1 else 0

/-- Why a HELLO leaves the port down, as event 0x08 numbers the causes (R360, R658). -/
def helloFailure (s : State) (n : Nat) (b : Bytes) : Option Nat :=
  let v := commonPlp (markedVersions s n) (rd b 2 1)
  if v = 0 then some 5
  else if v = 2 ∧ (portAt s n).half then some 6
  else if rd b 4 3 % 2 ^ 20 = deviceAddress s then some 7
  else none

/-- A HELLO arrives in step 5: the peer's address is kept and the version chosen, or the port stays down. -/
def helloArrives (n : Nat) (b : Bytes) (s : State) : State :=
  let fail := helloFailure s n b
  let v := commonPlp (markedVersions s n) (rd b 2 1)
  let s := modPort n (fun p => { p with peer := rd b 4 3 % 2 ^ 20, peerValid := true }) s
  match fail with
  | some c => portDown n c (modPort n (fun p => { p with helloFails := p.helloFails + 1 }) s)
  | none => modPort n (fun p => { p with plp := v, helloSeen := true }) s

/-- PLP_HELLO. -/
def execPlpHello (port : Nat) (bytes : Bytes) (s : State) : Host.Outcome State Fault Refusal :=
  .next (settle (onControl port bytes 1 (fun p => p.st == .training && p.step == 5 && !p.helloSeen) (fun _ s => checkReady (helloArrives port bytes s)) s))

/-! ### The end of a training step -/

/-- Step 6 ends: the port is up, replays from what its peer has accepted and serves its queues. One that was down names its new
peer (R358, R386). -/
def portUp (n : Nat) (s : State) : State :=
  let p := portAt s n
  let s := modPort n (fun p => { p with st := .up, step := 0, fast := false, fullFails := 0, lost := false, toReturn := [], nakSent := false }) s
  let s := if p.lost then portEvent n 4 s else s
  drainPort n (resend n s)

/-- A training step ends and the next begins. Step 5 waits for the peer's HELLO, step 6 for its credit-init. -/
def stepEnds (n : Nat) (reversed : Bool) (s : State) : State :=
  let p := portAt s n
  let enter := fun (k : Nat) (s : State) => modPort n (fun p => { p with step := k }) s
  match p.step with
  | 1 => enter 2 s
  | 2 => enter (if p.fast then 4 else 3) s
  | 3 => enter 4 s
  | 4 => sendControl n 1 (helloFields s n) (enter 5 (modPort n (fun p => { p with reversed }) s))
  | 5 => if p.helloSeen then sendControl n 2 (countFields p.inSeq (freeUnits s p)) (enter 6 s) else s
  | 6 => if p.initSeen then checkReady (portUp n s) else s
  | _ => s

/-- TRAINING_STEP_DONE. -/
def execTrainingStepDone (port : Nat) (reversed : Bool) (s : State) : Host.Outcome State Fault Refusal :=
  .next (if s.power.railsOn && isPort port && (portAt s port).st == .training then settle (stepEnds port reversed s) else s)

end Sys2Proof.Machine
end

