-- ==== Sys2Proof/Machine/Packets.lean ====
section
/-! DEFINITION. Packets that arrive on Pass ports (R351 to R364, R368, R370 to R376, R381 to R383): the link layer, the
destination's checks, transit, and what each type does. -/

namespace Sys2Proof.Machine

/-! ### The link layer (R352, R354, R370) -/

/-- A packet with its link prefix reaches a port that is up and runs its version (R360, R361): in order, it takes its units in the
receive buffer; any other is discarded. Port 32 stands for packets that a Proend sends to itself. -/
def linkTake (n : Nat) (bytes : Bytes) (vc units : Nat) (s : State) : Option State :=
  if ¬ alive s then none
  else if n = 32 then some s
  else
    let p := portAt s n
    if isPort n ∧ p.st = .up ∧ (p.plp = 1 ↔ rd bytes 4 1 / 16 = 1) ∧ rd bytes 0 2 = (p.inSeq + 1) % 65536 then
      some (modPort n (fun p => { p with inSeq := rd bytes 0 2, nakSent := false, held := tsetD p.held vc (tgetD p.held vc 0 + units) 0 }) s)
    else none

/-! ### The destination's checks (R60, R368, R381) -/

/-- The link key of a packet's job id, unless its entry was cleared (R594). -/
def linkOf (s : State) (id : Nat) : Option LinkKey := (s.pass.linkKeys.find? fun l => l.2.jobId == id && !l.2.cleared).map (·.2)

/-- Key of a packet's entry in the replay state. -/
def replayKey (b : Bytes) : Nat := 4 * pSrc b + pVc b / 2

/-- The header with the payload in plain, where the tag verifies. -/
def openPacket (job : Job) (b : Bytes) : Option Bytes :=
  (gcmOpen (linkKey job) (pIv b) (aadOf b) (pPayload b) (b.drop (32 + pLength b))).map fun p => b.take 32 ++ p

/-- The type is one that R364 defines for packets under a job's link key or for keying. -/
def typeDefined (b : Bytes) : Bool := pVersion b == 2 && 1 ≤ pType b && pType b ≤ 9 && headerWhole b

/-- Check a packet in the order of R368: dropped and counted, or the job index with the packet in plain. -/
def checkPacket (n : Nat) (b : Bytes) (s : State) : State × Option (Nat × Bytes) :=
  let drop := fun (s : State) => (freeBuffer n (pVc b) (creditUnits b) s, (none : Option (Nat × Bytes)))
  if ¬ typeDefined b then drop (bumpPort n 4 s)
  else
    match linkOf s (pJob b) with
    | none => drop (bumpPort n 5 s)
    | some l =>
      match tget s.jobs l.job with
      | none => drop (bumpPort n 5 s)
      | some job =>
        let last := tget job.replay (replayKey b)
        if l.retired.contains n then drop (mechFault l.job 0x63 (bumpPort n 9 s))
        else if (match last with | some q => decide (pSeq b ≤ q) | none => false) then drop (mechFault l.job 0x63 (bumpJob l.job 0 s))
        else if last.isNone ∧ 65536 ≤ job.replay.length then drop (mechFault l.job 0x63 s)
        else
          match openPacket job b with
          | none => drop (mechFault l.job 0x63 (bumpJob l.job 1 s))
          | some p => (modJob l.job (fun b' => { b' with replay := tset b'.replay (replayKey b) (pSeq b) }) s, some (l.job, p))

/-- A packet is for this Proend by its route (R375). -/
def isLocal (s : State) (n : Nat) (b : Bytes) : Bool :=
  n == 32 || (match route s (pDst b) (pSrc b) (pVc b) (pHops b) (some n) with | .here => true | _ => false)

/-- A packet of a type arrives at its destination: it passes the link layer and the checks, and its words are met; `body` takes the
job index, the port and the packet in plain. A packet of no defined type counts as a data packet that is malformed. -/
def arrive (n : Nat) (bytes : Bytes) (ecc : List EccReport) (fits : State → Bytes → Bool)
    (body : Nat → Nat → Bytes → State → State) (s : State) : State :=
  let b := bytes.drop 4
  if ¬ isLocal s n b ∨ ¬ fits s b then s
  else
    match linkTake n bytes (pVc b) (creditUnits b) s with
    | none => s
    | some s =>
      let w := meetWords { job := (linkOf s (pJob b)).map (·.job) } ecc s
      if ¬ w.2 then settle (freeBuffer n (pVc b) (creditUnits b) w.1)
      else
        let r := checkPacket n b w.1
        match r.2 with
        | none => settle r.1
        | some x => settle (body x.1 n x.2 r.1)

/-- The packet has a type. -/
def hasType (t : Nat) (_ : State) (b : Bytes) : Bool :=
  pType b == t || (t == 1 && (pType b == 0 || decide (9 < pType b)))

/-- Give a request-class packet to its operation, behind any of its channel that waits (R373). -/
def request (j n : Nat) (b : Bytes) (s : State) : State :=
  if stalled s n (pVc b) then markWanted j (addWaiting n (some j, b) s) else tryPacket n (some j, b) s

/-- A response-class packet is taken at once, and its buffer freed (R371). -/
def response (f : Nat → Bytes → State → State) (j n : Nat) (b : Bytes) (s : State) : State :=
  f j b (freeBuffer n (pVc b) (unitsBy b) s)

/-- A job-control packet of a subtype, and of a phase for a barrier packet: judged on the payload in plain where the tag verifies. -/
def hasControl (kind phase : Nat) (s : State) (b : Bytes) : Bool :=
  pType b == 7 &&
  match (linkOf s (pJob b)).bind fun l => (tget s.jobs l.job).bind fun job => openPacket job b with
  | none => true
  | some p => rd p 32 1 == kind && (kind != 3 || rd p 33 1 == phase)

/-! ### Data, sends and reads -/

/-- DATA. -/
def execData (port : Nat) (bytes : Bytes) (ecc : List EccReport) (s : State) : Host.Outcome State Fault Refusal :=
  .next (arrive port bytes ecc (hasType 1) request s)

/-- READ_REQUEST. -/
def execReadRequest (port : Nat) (bytes : Bytes) (s : State) : Host.Outcome State Fault Refusal :=
  .next (arrive port bytes [] (hasType 4) request s)

/-- FENCE_SIGNAL_PACKET. -/
def execFenceSignalPacket (port : Nat) (bytes : Bytes) (s : State) : Host.Outcome State Fault Refusal :=
  .next (arrive port bytes [] (hasType 6) request s)

/-- CLEAR_TO_SEND. -/
def execClearToSend (port : Nat) (bytes : Bytes) (s : State) : Host.Outcome State Fault Refusal :=
  .next (arrive port bytes [] (hasType 2)
    (response fun j b s => clearArrives j (pSrc b) (pTag b) (rd (pPayload b) 0 8) s) s)

/-- PLACEMENT_ACK. -/
def execPlacementAck (port : Nat) (bytes : Bytes) (s : State) : Host.Outcome State Fault Refusal :=
  .next (arrive port bytes [] (hasType 3)
    (response fun j b s => placementArrives j (pSrc b) (pTag b) (rd (pPayload b) 0 8) s) s)

/-- Read data are placed, and counted for the barrier (R522). -/
def readArrives (j : Nat) (b : Bytes) (s : State) : State :=
  readDataArrives j (pSrc b) (pTag b) (64 * pOffset b) (pMask b) (pLast b) (pPayload b)
    (modJob j (fun b => { b with capture := { b.capture with placed := b.capture.placed + 1 } }) s)

/-- READ_DATA. -/
def execReadData (port : Nat) (bytes : Bytes) (s : State) : Host.Outcome State Fault Refusal :=
  .next (arrive port bytes [] (hasType 5) (response readArrives) s)

/-! ### Errors, faults and retirement -/

/-- The latest submission that signalled through a proxy, with its descriptor (R455). -/
def signaller (b : Job) (proxy : Nat) : Option (Nat × Nat) :=
  (b.subs.reverse.filter fun u => u.2.stop.isNone).findSome? fun u =>
    (u.2.descs.zipIdx.find? fun x => dOp x.1 == 4 && rd x.1 16 2 == proxy && begun u.2 x.2).map fun x => (u.1, x.2)

/-- A remote signal was refused: the program that sent it completes with 0x67, or event 0x0C names the proxy (R455). -/
def signalRefused (j proxy : Nat) (s : State) : State :=
  match objAt s proxy, tget s.jobs j with
  | some { data := .proxy p, job := owner, .. }, some b =>
    if owner ≠ some j then s
    else
      match signaller b proxy with
      | some x => programFault ⟨j, x.1, x.2⟩ 0x67 s
      | none => fenceEvent j 0x0C proxy (timed s (leBytes 2 proxy ++ leBytes 1 (genOf s proxy) ++ zeros 1 ++ leBytes 4 p.peer ++ leBytes 8 p.last)) s
  | _, _ => s

/-- The descriptor of a job whose transfer with a peer has a tag: a send, a receive or a gather. -/
def tagTask (s : State) (j peer tag : Nat) : Option TaskRef :=
  (tget s.jobs j).bind fun b =>
    ((b.xfers.find? fun x => x.peer == peer && x.tag == tag).map (·.task)).or
      ((b.gathers.find? fun g => g.members.contains peer && g.tag == tag).map (·.task))

/-- An error packet: 0x67 refuses a signal, any other code faults the job (R364); 0x61 and 0x66 answer a transfer, whose descriptor
the fault names (R249, R404). -/
def errorArrives (j : Nat) (b : Bytes) (s : State) : State :=
  let code := rd (pPayload b) 0 1
  let tag := rd (pPayload b) 2 2
  if code = 0x67 then signalRefused j tag s
  else
    match (if code = 0x61 ∨ code = 0x66 then tagTask s j (pSrc b) tag else none) with
    | some t => taskFault t code s
    | none => mechFault j code s

/-- ERROR_PACKET. -/
def execErrorPacket (port : Nat) (bytes : Bytes) (s : State) : Host.Outcome State Fault Refusal :=
  .next (arrive port bytes [] (hasType 8) (response errorArrives) s)

/-- A peer announces that it has retired the job's link key id: it is marked on the port, and this member's copy faults (R60,
R382). -/
def retirementArrives (n j : Nat) (s : State) : State :=
  let s := { s with pass := { s.pass with linkKeys := s.pass.linkKeys.map fun (l : Nat × LinkKey) =>
    if l.2.job = j then (l.1, { l.2 with retired := l.2.retired ++ [n] }) else l } }
  mechFault j 0x63 s

/-- KEY_RETIREMENT. -/
def execKeyRetirement (port : Nat) (bytes : Bytes) (s : State) : Host.Outcome State Fault Refusal :=
  .next (arrive port bytes [] (hasControl 1 0) (response fun j _ s => retirementArrives port j s) s)

/-- JOB_FAULT_NOTICE: this member's copy of the job faults with the code (R382). -/
def execJobFaultNotice (port : Nat) (bytes : Bytes) (s : State) : Host.Outcome State Fault Refusal :=
  .next (arrive port bytes [] (hasControl 2 0)
    (response fun j b s => jobFault j (rd (pPayload b) 1 1) 0xFFFF { kind := 1, peer := pSrc b } s) s)

/-! ### Barrier and restore packets (R522) -/

/-- The part and value of a barrier packet. -/
def barPart (b : Bytes) : Nat := rd (pPayload b) 2 2
def barSerial (b : Bytes) : Nat := rd (pPayload b) 4 4
def barValue (b : Bytes) : Nat := rd (pPayload b) 8 8

/-- A packet of the capture in progress: its serial is the capture's. -/
def ofCapture (f : Nat → Bytes → State → State) (j : Nat) (b : Bytes) (s : State) : State :=
  match tget s.jobs j with
  | none => s
  | some job => if barSerial b = job.capture.serial % 2 ^ 32 then f j b s else s

/-- A barrier packet of a phase arrives. -/
def barrier (phase n : Nat) (bytes : Bytes) (f : Nat → Bytes → State → State) (s : State) : State :=
  arrive n bytes [] (hasControl 3 phase) (response f) s

/-- BARRIER_REQUEST. -/
def execBarrierRequest (port : Nat) (bytes : Bytes) (s : State) : Host.Outcome State Fault Refusal :=
  .next (barrier 1 port bytes (fun j b s => leadTrigger j (barValue b) s) s)

/-- BARRIER_ENTER. -/
def execBarrierEnter (port : Nat) (bytes : Bytes) (s : State) : Host.Outcome State Fault Refusal :=
  .next (barrier 2 port bytes (fun j b s => enterArrives j (barSerial b) (barValue b) s) s)

/-- BARRIER_REPORT. -/
def execBarrierReport (port : Nat) (bytes : Bytes) (s : State) : Host.Outcome State Fault Refusal :=
  .next (barrier 3 port bytes (ofCapture fun j b s => reportArrives j (pSrc b) (barPart b) (barValue b) s) s)

/-- BARRIER_CONFIRM. -/
def execBarrierConfirm (port : Nat) (bytes : Bytes) (s : State) : Host.Outcome State Fault Refusal :=
  .next (barrier 4 port bytes (ofCapture fun j b s => confirmArrives j (barPart b) s) s)

/-- BARRIER_RELEASE. -/
def execBarrierRelease (port : Nat) (bytes : Bytes) (s : State) : Host.Outcome State Fault Refusal :=
  .next (barrier 5 port bytes (ofCapture fun j _ s => releaseArrives j s) s)

/-- SHARD_DONE. -/
def execShardDone (port : Nat) (bytes : Bytes) (s : State) : Host.Outcome State Fault Refusal :=
  .next (barrier 6 port bytes (ofCapture fun j b s => shardDoneArrives j (pSrc b) (barPart b) (barValue b) s) s)

/-- ABANDON. -/
def execAbandon (port : Nat) (bytes : Bytes) (s : State) : Host.Outcome State Fault Refusal :=
  .next (barrier 7 port bytes (fun j b s => abandonArrives j (barValue b) s) s)

/-- MANIFEST_WRITTEN. -/
def execManifestWritten (port : Nat) (bytes : Bytes) (s : State) : Host.Outcome State Fault Refusal :=
  .next (barrier 8 port bytes (ofCapture fun j _ s => manifestArrives j s) s)

/-- RESTORE_CHECK. -/
def execRestoreCheck (port : Nat) (bytes : Bytes) (s : State) : Host.Outcome State Fault Refusal :=
  .next (barrier 9 port bytes (fun j b s => checkArrives j (pSrc b) (barPart b) (barValue b) s) s)

/-- RESTORE_GO. -/
def execRestoreGo (port : Nat) (bytes : Bytes) (s : State) : Host.Outcome State Fault Refusal :=
  .next (barrier 0xA port bytes (fun j _ s => goArrives j s) s)

/-- RESTORE_REFUSE. -/
def execRestoreRefuse (port : Nat) (bytes : Bytes) (s : State) : Host.Outcome State Fault Refusal :=
  .next (barrier 0xB port bytes (fun j _ s => refuseArrives j s) s)

/-- RESTORE_DONE. -/
def execRestoreDone (port : Nat) (bytes : Bytes) (s : State) : Host.Outcome State Fault Refusal :=
  .next (barrier 0xC port bytes (fun j b s => doneArrives j (pSrc b) (barPart b) s) s)

/-! ### Transit (R355, R361, R362, R374 to R376) -/

/-- A packet for another device: forwarded behind any of its channel that waits, if it is of the request class (R371, R373); one with
an uncorrectable word is dropped. -/
def transit (n : Nat) (bytes : Bytes) (ecc : List EccReport) (s : State) : State :=
  let b := bytes.drop 4
  if isLocal s n b then s
  else
    match linkTake n bytes (pVc b) (creditUnits b) s with
    | none => s
    | some s =>
      let w := meetWords {} ecc s
      if ¬ w.2 then settle (freeBuffer n (pVc b) (creditUnits b) w.1)
      else if stalled w.1 n (pVc b) ∧ ¬ isResponse (pType b) then settle (addWaiting n (none, b) w.1)
      else settle (forward n b w.1)

/-- TRANSIT_FORWARD. -/
def execTransitForward (port : Nat) (bytes : Bytes) (ecc : List EccReport) (s : State) : Host.Outcome State Fault Refusal :=
  .next (transit port bytes ecc s)

/-- Destination and hop count of a PLP 1 packet (R362). -/
def plp1Dst (b : Bytes) : Nat := rd b 4 2
def plp1Hops (b : Bytes) : Nat := rd b 8 1

/-- A PLP 1 packet: forwarded from one PLP 1 port to another, or dropped and counted (R361, R376). Its channel and the member of a
route's group are open (log 31). -/
def plp1 (n : Nat) (bytes : Bytes) (s : State) : State :=
  let b := bytes.drop 4
  let vc := Config.plp1Channel b % 4
  let p := portAt s n
  if p.plp ≠ 1 ∨ rd b 0 1 / 16 ≠ 1 ∨ n = 32 then s
  else
    match linkTake n bytes vc (creditUnits b) s with
    | none => s
    | some s =>
      let drop := fun (i : Nat) => settle (freeBuffer n vc (creditUnits b) (bumpPort n i s))
      match lookup s.config.image.pass.routes (plp1Dst b) with
      | none => drop 6
      | some e =>
        if rDrop e then drop 6
        else if rLocal e then drop 8
        else if 63 ≤ plp1Hops b then drop 7
        else
          let live := ((List.range (rCount e)).map (· + rBase e)).filter fun k => (portAt s k).st == .up
          if live.isEmpty then drop 6
          else
            let out := live.getD (Config.plp1Choice b % live.length) 0
            if (portAt s out).plp ≠ 1 then drop 8
            else settle (egress out vc (some (n, vc)) (overlay b 8 (leBytes 1 (plp1Hops b + 1))) s)

/-- PLP1_FORWARD. -/
def execPlp1Forward (port : Nat) (bytes : Bytes) (s : State) : Host.Outcome State Fault Refusal :=
  .next (plp1 port bytes s)

/-- A copy that a port was sending by cut-through ends with an abort marker: it took its link sequence and its credits (R355). -/
def abortCopy (n vc units : Nat) (s : State) : State :=
  let q := ((portAt s n).outSeq + 1) % 65536
  emit (.packet n (leBytes 2 q ++ [0, 0]))
    (modPort n (fun p => { p with
      outSeq := q, replay := p.replay ++ [(q, [])], credits := tsetD p.credits vc (tgetD p.credits vc 0 - units) 0 }) s)

/-- An uncorrectable codeword (R354, R355, R599): it is counted, its packet and every later one are discarded, a NAK names the last
packet accepted, and a copy that has begun to leave is aborted. -/
def badCodeword (n vc units : Nat) (forwarded : Option Nat) (s : State) : State :=
  let p := portAt s n
  if ¬ (s.power.railsOn && isPort n && upPort p) then s
  else
    let now := s.timeNs / 1000000000
    let s := modPort n (fun p => { p with
      second := now, codewords := (if p.second = now then p.codewords else 0) + 1, nakSent := true }) (bumpPort n 0 s)
    let s := sendControl n 5 (leBytes 2 p.inSeq) s
    let s := match forwarded with
      | some k => if isPort k && upPort (portAt s k) then abortCopy k vc units s else s
      | none => s
    settle (evalWarnings s)

/-- UNCORRECTABLE_CODEWORD. -/
def execUncorrectableCodeword (port vc units : Nat) (forwarded : Option Nat) (s : State) : Host.Outcome State Fault Refusal :=
  .next (badCodeword port vc units forwarded s)

/-- A packet that ends in an abort marker takes its place in the link's order, is discarded, and its credits go back (R355). -/
def abortMarker (n vc units : Nat) (s : State) : State :=
  if s.power.railsOn && isPort n && upPort (portAt s n) && decide (vc < 8) then
    modPort n (fun p => { p with
      inSeq := (p.inSeq + 1) % 65536, toReturn := tsetD p.toReturn vc (tgetD p.toReturn vc 0 + units) 0 }) s
  else s

/-- ABORT_MARKER. -/
def execAbortMarker (port vc units : Nat) (s : State) : Host.Outcome State Fault Refusal :=
  .next (abortMarker port vc units s)

end Sys2Proof.Machine
end

