-- ==== Sys2Proof/Machine/Teardown.lean ====
section
/-! DEFINITION. Ingress, release and the Narrows, and the teardown of a job (R16, R17, R26, R37 to R61, R258, R259, R382,
R442 to R447). -/

namespace Sys2Proof.Machine

/-! ### Ingress (R16, R17, R37 to R42) -/

/-- An ingress fails: its destination stays unreadable, event 0x07 goes out, and the message completes (R17, R42). -/
def ingressFails (j dst own seq status first : Nat) (m : Msg) (s : State) : State :=
  let root := ((tget s.jobs j).map fun b => rootOf b.tensors dst).getD dst
  let s := modTensor j root (fun e => { e with ingress := e.ingress.erase ⟨dst, true⟩ ++ [⟨dst, true⟩] }) s
  let s := jobEvent j 0x07 (timed s (leBytes 1 status ++ leBytes 1 own ++ leBytes 2 dst ++ leBytes 4 seq ++ leBytes 4 first)) s
  complete m status s

/-- The staging area lies within one window of the job's carve-out (R38). -/
def inOneWindow (s : State) (j off len : Nat) : Bool :=
  s.objects.objs.any fun o => match o.2.data with
    | .window w => w.job == j && decide (w.offset ≤ off) && decide (off + len ≤ w.offset + w.length)
    | _ => false

/-- Start an ingress: the destination is unreadable until it completes, and one that failed into the same destination is issued
again by it (R16, R17). The causes are judged in the order bad owner, no key, replay (R42, log 92). -/
def ingressBody (m : Msg) (s : State) : State :=
  match liveJob s m with
  | none => complete m 0x18 s
  | some j =>
    let b := (tget s.jobs j).getD { id := 0 }
    let n := arg m.bytes 5 4
    let dst := arg m.bytes 9 2
    let own := arg m.bytes 11 1
    let seq := arg m.bytes 12 4
    if n = 0 ∨ (tget b.tensors dst).isNone then complete m 0x12 s
    else if ¬ inOneWindow s j (arg m.bytes 0 5) (4128 * n) then complete m 0x19 s
    else if polOwners b.policy ≤ own then ingressFails j dst own seq 0x21 0xFFFFFFFF m s
    else if b.phase ≠ .keyed ∨ (tget b.keys.owners own).isNone then ingressFails j dst own seq 0x20 0xFFFFFFFF m s
    else if seq ≤ tgetD b.narrows.ingressSeq own 0 then ingressFails j dst own seq 0x22 0xFFFFFFFF m s
    else
      keepRunning m (.ingress j dst) (modTensor j (rootOf b.tensors dst)
        (fun e => { e with ingress := e.ingress.erase ⟨dst, true⟩ ++ [⟨dst, false⟩] }) s)

/-- INGRESS. -/
def execIngress (ctx : Nat) (s : State) : Host.Outcome State Fault Refusal :=
  .next (settle (withMessage ctx 0x14 ingressBody s))

/-- The plaintext of a chunk slot, if the chunk is right for its place and verifies (R37, R39, R41). -/
def openChunk (key : Bytes) (jobId own seq n i : Nat) (c : Bytes) : Option Bytes :=
  let last := i + 1 == n
  let len := rd c 12 4
  if rd c 0 2 = 1 ∧ rd c 2 1 = own ∧ rd c 3 1 < 2 ∧ (rd c 3 1 = 1 → last) ∧ rd c 4 4 = seq ∧ rd c 8 4 = i ∧ 1 ≤ len ∧
      len ≤ 4096 ∧ (len = 4096 ∨ last) then
    (gcmOpen key (leBytes 4 jobId ++ leBytes 4 seq ++ leBytes 4 i) (sub c 0 16) (sub c 16 4096) (sub c 4112 16)).map (·.take len)
  else none

/-- The chunks of an ingress in order: all plaintext, or the first index that fails: chunks left, index. -/
def openChunks (f : Nat → Option Bytes) : Nat → Nat → Except Nat Bytes
  | 0, _ => .ok []
  | k + 1, i =>
    match f i with
    | none => .error i
    | some p =>
      match openChunks f k (i + 1) with
      | .error e => .error e
      | .ok r => .ok (p ++ r)

/-- An ingress ends: every chunk verified and written, or nothing (R16, R17, R40 to R42). The mask keeps the bits that it has, as R44
binds it, and gains the owner's (log 92). -/
def ingressDone (j dst : Nat) (s : State) : State :=
  match tget s.jobs j, takeRunning (.ingress j dst) s with
  | some b, (some m, s) =>
    let n := arg m.bytes 5 4
    let own := arg m.bytes 11 1
    let seq := arg m.bytes 12 4
    let key := (tget b.keys.owners own).getD []
    let s := modTensor j (rootOf b.tensors dst) (fun e => { e with ingress := e.ingress.erase ⟨dst, false⟩ }) s
    let slot := fun (i : Nat) => openChunk key b.id own seq n i (peekN s j (arg m.bytes 0 5 + 4128 * i) 4128)
    if seq ≤ tgetD b.narrows.ingressSeq own 0 then ingressFails j dst own seq 0x22 0xFFFFFFFF m s
    else
      match openChunks slot n 0, viewOf b 0 0 none dst with
      | .error i, _ => ingressFails j dst own seq 0x23 i m s
      | .ok p, some v =>
        if tensorBytes v < p.length then ingressFails j dst own seq 0x24 0xFFFFFFFF m s
        else
          let s := (coalesce (p.zipIdx.map fun x => (byteAddr v x.2, x.1))).foldl (fun t x => engineWrite j x.1 x.2 t) s
          let s := modTensor j (rootOf b.tensors dst) (fun e => { e with mask := e.mask ||| 2 ^ own }) s
          let s := modJob j (fun b => { b with narrows := { b.narrows with ingressSeq := tset b.narrows.ingressSeq own seq } }) s
          complete m 0x00 s
      | .ok _, none => ingressFails j dst own seq 0x23 0xFFFFFFFF m s
  | _, _ => s

/-- INGRESS_COMPLETE. -/
def execIngressComplete (job tensor : Nat) (s : State) : Host.Outcome State Fault Refusal :=
  .next (if alive s then settle (ingressDone job tensor s) else s)

/-! ### Release (R26, R53 to R56, R258, R259) -/

/-- The release entry of a tag. -/
def findEntry (p : Bytes) (tag : Nat) : Option Bytes :=
  ((List.range (polEntries p)).map (polEntry p)).find? fun e => tag != 0 && rd e 0 2 == tag

/-- The Narrows (R54): 0 allowed, else the status of R259. A job that is closing releases nothing more (R58); its status, and that of a
release to an owner without a data key, are the model's choice (log 94). -/
def narrowsStatus (b : Job) (tag recipient own size mask : Nat) : Nat :=
  match findEntry b.policy tag with
  | none => 1
  | some e =>
    if b.phase ≠ .keyed then 1
    else if recipient = 0 ∧ ¬ bit (rd e 4 1) 0 then 2
    else if recipient = 1 ∧ (¬ (bit (rd e 4 1) 1 ∧ bit (rd e 2 2) own) ∨ (tget b.keys.owners own).isNone) then 2
    else if rd e 8 4 < size then 3
    else if rd e 12 4 ≠ 0 ∧ rd e 12 4 ≤ tgetD b.narrows.perStep tag 0 then 4
    else if polThreshold b.policy ≤ popcount 16 mask then 0
    else if recipient = 1 ∧ mask = 2 ^ own then 0
    else 5

/-- Change the Narrows of a job. -/
def modNarrows (j : Nat) (f : Narrows → Narrows) (s : State) : State := modJob j (fun b => { b with narrows := f b.narrows }) s

/-- Event 0x04 (R658). -/
def releaseEvent (r : Ref) (status mask size : Nat) (s : State) : State :=
  let raw := ((tget r.b.tensors (dT r.d 1)).map (·.raw)).getD []
  jobEvent r.t.job 0x04 (timed s (leBytes 1 status ++ leBytes 1 (rd r.d 28 1) ++
    leBytes 1 (if rd r.d 28 1 = 1 then rd r.d 29 1 else 0) ++ [0] ++ leBytes 2 (tTag raw) ++ leBytes 2 (dT r.d 1) ++ leBytes 2 mask ++
    zeros 6 ++ leBytes 8 size)) s

/-- The payload of a release (R259): the descriptor with the mask, the elements, the scales. -/
def releasePayload (s : State) (r : Ref) (mask : Nat) : Bytes :=
  let v := r.slotView 1
  let raw := ((tget r.b.tensors (dT r.d 1)).map (·.raw)).getD []
  overlay raw 12 (leBytes 2 mask) ++ tensorSlice (srcOf s r.t.job) v 0 (tensorBytes v)

/-- The payload in the chunks of R37 under an owner's data key (R53). -/
def ownerChunks (key : Bytes) (jobId own seq : Nat) (p : Bytes) : Bytes :=
  let n := ceilDiv p.length 4096
  (List.range n).flatMap fun i =>
    let x := (p.drop (4096 * i)).take 4096
    let head := leBytes 2 1 ++ leBytes 1 own ++ leBytes 1 (i + 1 == n).toNat ++ leBytes 4 seq ++ leBytes 4 i ++ leBytes 4 x.length
    let c := gcmSeal key (leBytes 4 jobId ++ leBytes 4 seq ++ leBytes 4 i) head (sub x 0 4096)
    head ++ c.1 ++ c.2

/-- A release: judged, and refused or transmitted; its queue pair must be a live one of the data class (R54, R55, R58,
R258, R259, R415). Where it is not, the step's count and the sequence number are used up all the same (log 94). -/
def releaseStart (r : Ref) (s : State) : State :=
  let e := ensurePages r s
  if ¬ e.2 then e.1
  else
    let s := e.1
    let j := r.t.job
    let mask := ownerMask s j (dT r.d 1)
    let p := releasePayload s r mask
    let rec' := rd r.d 28 1
    let own := rd r.d 29 1
    let tag := tTag (((tget r.b.tensors (dT r.d 1)).map (·.raw)).getD [])
    let st := narrowsStatus r.b tag rec' own p.length mask
    if st ≠ 0 then
      retire r.t (releaseEvent r st mask p.length
        (modNarrows j (fun n => { n with refused := tset n.refused st (tgetD n.refused st 0 + 1) }) s))
    else
      let s := modNarrows j (fun n => { n with allowed := n.allowed + 1, perStep := tset n.perStep tag (tgetD n.perStep tag 0 + 1) }) s
      let data := if rec' = 0 then p else ownerChunks ((tget r.b.keys.owners own).getD []) r.b.id own r.b.narrows.releaseSeq p
      let s := if rec' = 0 then s else modNarrows j (fun n => { n with releaseSeq := n.releaseSeq + 1 }) s
      let q := rd r.d 30 2
      let live : Bool := match tget s.eth.qps q with
        | some y => y.cls == 1 && !y.error && y.partition == partOf j
        | none => false
      if ¬ live then programFault r.t 0x69 (releaseEvent r 0x69 mask p.length s)
      else
        let n := r.b.narrows.nextRelease
        let s := modNarrows j (fun x => { x with nextRelease := n + 1, releases := x.releases ++ [⟨n, r.t, q, p.length, mask⟩] }) s
        addFlight q (.release j n) (ceilDiv data.length 4096)
          (putOut q (.rdmaWrite (0x1000 + q) (rd r.d 32 8) (rd r.d 40 4) data (some tag)) (setRunning r 0 s))

/-- RELEASE. -/
def execRelease (t : TaskRef) (s : State) : Host.Outcome State Fault Refusal :=
  .next (settle (withDesc t 0x2C releaseStart s))

/-- A release has been sent, or was cut short by a RoCEv2 failure, which stops its program with 0x69 (R220, R259). -/
def releaseDone (j n : Nat) (ok : Bool) (s : State) : State :=
  match tget s.jobs j with
  | none => s
  | some b =>
    match b.narrows.releases.find? fun x => x.number == n with
    | none => s
    | some x =>
      let s := modNarrows j (fun y => { y with releases := y.releases.filter fun z => z.number != n }) s
      let s := dropFlight (.release j n) s
      match refOf s x.task with
      | none => s
      | some r =>
        let s := releaseEvent r (if ok then 0x00 else 0x69) x.mask x.bytes s
        if ok then retire x.task s else programFault x.task 0x69 s

/-- RELEASE_COMPLETE. -/
def execReleaseComplete (job release : Nat) (ok : Bool) (s : State) : Host.Outcome State Fault Refusal :=
  .next (if alive s then settle (releaseDone job release ok s) else s)

/-! ### Teardown (R57 to R61) -/

/-- Every message of a job that waits, except destroys and releases of tensors, completes: 0x18, a fence wait 0x1E (R447,
R57). -/
def stopMessages (j : Nat) (s : State) : State :=
  let id := ((tget s.jobs j).map (·.id)).getD 0
  let ours := fun (r : Running) => match r.kind with
    | .destroy _ => false
    | .tensorRelease _ _ => false
    | .jobDestroy _ => false
    | .submit _ _ => false
    | .abort _ _ => false
    | .fenceWait i _ => ((objAt s i).bind (·.job)) == some j
    | .fenceSignal i _ => ((objAt s i).bind (·.job)) == some j
    | _ => msgJob r.msg.bytes == id
  let go := s.running.filter ours
  let gone := go.filterMap fun r => match r.kind with | .ticket t => some t | _ => none
  let drop := fun (d : Deferred) => match d.change with
    | .createJob k _ _ => k == j
    | .ownerKey k _ _ _ _ => k == j
    | .jobKey k _ _ => k == j
    | .sweepKey k _ _ => k == j
    | _ => false
  let s := { s with
    running := s.running.filter fun r => !(ours r)
    ledger := { s.ledger with deferred := s.ledger.deferred.filter fun d => !(drop d) }
    glen := { s.glen with queue := s.glen.queue.filter fun g => match g with | .message t _ => !(gone.contains t) | _ => true } }
  go.foldl (fun t r => complete r.msg (match r.kind with | .fenceWait _ _ => 0x1E | _ => 0x18) t) s

/-- Regions of a job leave the sweep: one in progress is cancelled (R59). -/
def cancelSweep (regions : List Nat) (s : State) : State :=
  { s with vale := { s.vale with
      sweep := match s.vale.sweep with
        | none => none
        | some w => if regions.contains w.region then none else some w } }

/-- Every message of a job that is still in an inbox completes with 0x18 (R447). -/
def clearInboxes (j : Nat) (s : State) : State :=
  let id := ((tget s.jobs j).map (·.id)).getD 0
  let ours := fun (ctx : Nat) (b : Bytes) => msgJob b == id && bindingOk s ctx id
  let gone := s.ctxs.flatMap fun c => (c.2.inbox.filter (ours c.1)).map fun b => (⟨some c.1, b⟩ : Msg)
  let s := { s with ctxs := s.ctxs.map fun (c : Nat × Ctx) => (c.1, { c.2 with inbox := c.2.inbox.filter fun b => !(ours c.1 b) }) }
  gone.foldl (fun t m => complete m 0x18 t) s

/-- Step 3 begins: every program stops, waiters and queued messages complete (R57, R447). -/
def beginStop (j : Nat) (s : State) : State :=
  clearInboxes j <| stopMessages j (modJob j (fun b => { b with subs := b.subs.map fun u => (u.1, stopSub 0x18 0xFFFF u.2) }) s)

/-- Begin the teardown of a job, with its cause byte (R57, R59, R61): the Narrows closes at once; a primary job waits for
its partition's gap job to go first. -/
def closeJob (j cause : Nat) (s : State) : State :=
  match tget s.jobs j with
  | none => s
  | some b =>
    if b.phase = .closing then s
    else
      let s := abandonCapture j 5 s
      let s := if b.capture.phase = .none then s else endCapture j 5 s
      let gapThere := ¬ isGap j ∧ (tget s.jobs (j + 1)).isSome
      let s := modJob j (fun b => { b with phase := .closing, teardown := some (if gapThere then 0 else 3, cause), restore := none }) s
      let s := cancelSweep b.carve.regions s
      if gapThere then s else beginStop j s

/-- Begin the teardown of a job and, before it, of the gap job of its partition (R61). -/
def beginTeardown (j cause : Nat) (s : State) : State :=
  let s := if isGap j then s else closeJob (j + 1) cause s
  closeJob j cause s

/-- JOB_DESTROY (R57): completes at step 9. -/
def jobDestroyBody (m : Msg) (s : State) : State :=
  match liveJob s m with
  | none => complete m 0x18 s
  | some j =>
    let b := (tget s.jobs j).getD { id := 0 }
    keepRunning m (.jobDestroy j) (beginTeardown j (if b.keying.refusedHere then 2 else 1) s)

/-- A destroy of a job that a report in progress names waits for the report (R501). -/
def jobDestroyRun (m : Msg) (s : State) : State :=
  match s.glen.current, jobIndex s (msgJob m.bytes) with
  | some (.attest _ k _ _), some j => if j = k then withGlen m jobDestroyBody s else jobDestroyBody m s
  | _, _ => jobDestroyBody m s

/-- JOB_DESTROY. -/
def execJobDestroy (ctx : Nat) (s : State) : Host.Outcome State Fault Refusal :=
  .next (settle (withMessage ctx 0x11 jobDestroyRun s))

/-- Operations in flight of a job on any queue pair are cancelled, and the queue pairs that its Steppe and checkpoint extents
name enter error (R57 step 4, R425). -/
def cancelFlights (j : Nat) (s : State) : State :=
  let ours := fun (f : Flight) => match f.kind with
    | .send => false
    | .release k _ => k == j
    | .fetch k _ => k == j
    | .evict k _ => k == j
    | .shard k => k == j
    | .manifest k => k == j
    | .restoreRead k => k == j
  let named := ((tget s.jobs j).map fun b =>
    ((b.tier.extents.map xQp) ++ (if b.capture.setup.isEmpty then [] else [rd b.capture.setup 0 2])).filterMap (qpOfObj s)).getD []
  { s with eth := { s.eth with qps := s.eth.qps.map fun (q : Nat × Qp) =>
      let err := q.2.error || named.contains q.1
      let gone := (q.2.flights.filter ours).foldl (fun n f => n + f.segments) 0
      (q.1, { q.2 with
        flights := q.2.flights.filter fun f => !(ours f), error := err
        readWaits := if err then [] else q.2.readWaits.filter fun x => !(ours ⟨x.1, x.2.1⟩)
        quarantined := if err then 0 else q.2.quarantined + gone }) } }

/-- Step 6 ends: the job's lines are flushed and its memory and link key ids retire; a memory key id's slot goes with it (R57,
R336). -/
def retireIds (j : Nat) (s : State) : State :=
  let s := flushLines false (fun x => x.job == j) s
  let s := { s with vale := { s.vale with keyIds := s.vale.keyIds.map fun (k : Nat × KeyId) => if k.2.job = j then (k.1, { k.2 with retiring := true }) else k } }
  let ids := s.vale.keyIds.filter fun k => k.2.job == j
  let s := ids.foldl (fun t k => keyIdFree k.1 t) s
  let links := s.pass.linkKeys.filter fun l => l.2.job == j
  let s := links.foldl (fun t l => ledgerSelf 0x05 2 (partOf j) false l.2.jobId (leBytes 1 l.1) t) s
  { s with pass := { s.pass with linkKeys := s.pass.linkKeys.filter fun l => l.2.job != j } }

/-- Clear regions: every line zero under the vacant key id with counter 0; they belong to no job (R337). -/
def clearRegions (regions : List Nat) (s : State) : State :=
  let inside := fun (l : Nat) => regions.contains (lineRegion l)
  let gone := s.vale.blocked.filter fun x => regions.contains x.region && x.tag
  let s := gone.foldl (fun t x => freeTagOf (pchanOf (x.address / 256)) t) s
  { s with vale := { s.vale with
      mem := s.vale.mem.filter fun c => !(inside (c.1 / 256))
      lineMeta := s.vale.lineMeta.filter fun x => !(inside x.1)
      regions := s.vale.regions.filter fun x => !(regions.contains x.1)
      sweepQueue := s.vale.sweepQueue.filter fun r => !(regions.contains r)
      blocked := s.vale.blocked.filter fun x => !(regions.contains x.region)
      damaged := s.vale.damaged.filter fun l => !(inside l) } }

/-- Step 8: Glen destroys every slot that the job still has (R57, R481, R493). -/
def destroyJobSlots (j : Nat) (s : State) : State :=
  let mine := (s.glen.slots.filter fun x => attrOf x.2.attr j && decide (15 < x.1)).map (·.1)
  mine.foldl (fun t n => destroySlot 2 n t) s

/-- The counters of R642 of a job, from offset 0 on. -/
def jobCounters (s : State) (j : Nat) (b : Job) : List Nat :=
  let x := tgetD s.bubbles (partOf j) {}
  (if isGap j then [0, 0, 0, 0, 0] else [x.opened, x.unused, x.lentNs / 1000, x.gapNs / 1000, x.delayNs / 1000]) ++
  ((List.range 5).map fun i => tgetD b.narrows.refused (i + 1) 0) ++
  [b.narrows.allowed, b.num.lost, b.num.leaked, tgetD s.power.hintsIgnored j 0, b.num.verdicts]

/-- Step 9 (R57, R444, R447): the record, every object and tensor of the job freed, pending destroys complete, the job is
Gone; a primary job that waited for it goes on. -/
def jobGone (j cause : Nat) (s : State) : State :=
  match tget s.jobs j with
  | none => s
  | some b =>
    let s := { s with mgmt := { s.mgmt with kept := tset s.mgmt.kept j (jobCounters s j b) } }
    let dm := (s.running.find? fun r => r.kind == .jobDestroy j).map (·.msg)
    let s := match dm with
      | some m => ledgerFor m 0x06 4 (partOf j) false b.id (detailOf b 0 cause) s
      | none => ledgerSelf 0x06 4 (partOf j) false b.id (detailOf b 0 cause) s
    let objs := (s.objects.objs.filter fun o => o.2.job == some j).map (·.1)
    let destroys := s.running.filter fun r => match r.kind with | .destroy i => objs.contains i | .tensorRelease k _ => k == j | _ => false
    let s := { s with running := s.running.filter fun r => !(destroys.contains r) }
    let s := objs.foldl (fun t i => releaseObject i t) s
    let s := destroys.foldl (fun t r => complete r.msg 0x00 t) s
    let s := { s with
      jobs := terase s.jobs j
      dir := s.dir.filter fun p => !(decide (b.carve.dirBase ≤ p.1) && decide (p.1 < b.carve.dirBase + b.carve.dirCount)) }
    let s := finish (.jobDestroy j) 0x00 {} s
    if isGap j then
      let lent := (tgetD s.bubbles (partOf j) {}).lent
      let s := lent.foldl (fun t k => blockSwitch k (j - 1) t) s
      let s := if (tget s.bubbles (partOf j)).isNone then s
        else modBubbles (partOf j) (fun x => { x with lent := [] }) s
      match (tget s.jobs (j - 1)).bind (·.teardown) with
      | some (0, c) => beginStop (j - 1) (modJob (j - 1) (fun b => { b with teardown := some (3, c) }) s)
      | _ => s
    else { s with bubbles := terase s.bubbles (partOf j) }

/-- A teardown step that took time ends, and the next begins (R57, R58, R382). -/
def stepDone (j : Nat) (s : State) : State :=
  match tget s.jobs j with
  | none => s
  | some b =>
    let enter := fun (n : Nat) (c : Nat) (s : State) => modJob j (fun b => { b with teardown := some (n, c) }) s
    match b.teardown with
    | some (3, c) => if b.subs.isEmpty then enter 4 c s else s
    | some (4, c) =>
      if ¬ b.narrows.releases.isEmpty then s
      else
        let s := retryHeld j (dropWaiting j (cancelFlights j s))
        enter 5 c (if b.passSeq = 0 then s else controlAll j [1] s)
    | some (5, c) =>
      let queued : Bool := s.pass.ports.any fun p => p.queues.any fun q => q.2.any fun x => pJob x.1 == b.id && x.2.isNone
      if queued then s else enter 6 c s
    | some (6, c) => enter 7 c (retireIds j s)
    | some (7, c) => enter 8 c (clearRegions b.carve.regions s)
    | some (8, c) => jobGone j c (destroyJobSlots j s)
    | _ => s

end Sys2Proof.Machine
end

