-- ==== Sys2Proof/Machine/Verdict.lean ====
section
/-! DEFINITION. What a completed verdict applies (R24, R56, R156, R160 to R164, R179, R250, R251, R269, R272, R293). -/

namespace Sys2Proof.Machine

/-- Every other member's word has come. -/
def verdictWhole (c : Coll) : Bool := (otherRanks c).all fun q => (gotOf c q).any fun t => t.done

/-- The bitwise OR of the members' words (R160, R250). -/
def verdictWord (c : Coll) : Nat := c.got.foldl (fun w t => w ||| rd t.bytes 0 8) (rd c.own 0 8)

/-- The step maxima go into the scale-history records (R156). -/
def pushMaxima (b : Job) : Tab Bytes :=
  b.num.maxima.foldl (fun h x =>
    match tget b.tensors x.1 with
    | some e =>
      (match tget h (tRecord e.raw), fmtOf (tFmt e.raw) with
       | some r, some f => if tDynamic e.raw then tset h (tRecord e.raw) (pushMax f x.2 r) else h
       | _, _ => h)
    | none => h) b.hist

/-- The loss scale after a verdict (R161, R164): exponent, clean-step count, consecutive skips. -/
def lossScale (cfg : NumCfg) (n : NumState) (clean : Bool) : Nat × Nat × Nat :=
  if clean then
    let c := n.clean + 1
    if cfg.growth ≤ c ∧ n.exponent < cfg.expMax ∧ ¬ cfg.gradBf16 then (n.exponent + 1, 0, 0) else (n.exponent, c, 0)
  else ((if cfg.gradBf16 then n.exponent else max (n.exponent - 1) cfg.expMin), 0, n.skips + 1)

/-- Every sticky count falls by one; the entries that reach zero leave the table (R179). -/
def ageSticky (t : Tab PromoE) : Tab PromoE × List PromoE :=
  let aged := t.map fun (e : Nat × PromoE) => (e.1, { e.2 with count := e.2.count - 1 })
  (aged.filter fun e => decide (0 < e.2.count), (aged.filter fun e => e.2.count == 0).map (·.2))

/-- A slot that is still occupied at the verdict is freed, counted as leaked, and named by event 0x06 (R272). -/
def leakSlot (j slot : Nat) (s : State) : State :=
  let count := ((tget s.jobs j).map fun b => b.num.verdicts).getD 0
  let s := jobEvent j 0x06 (timed s (leBytes 1 slot ++ zeros 7 ++ leBytes 8 count)) s
  modNum j (fun n => { n with leaked := n.leaked + 1 }) (freeSlot j slot s)

/-- A skipped step's Basin contents go, with the pins of its pages (R163). -/
def dropGradients (j : Nat) (s : State) : State :=
  let pages := ((tget s.jobs j).map fun b => b.tier.basin.map (·.2)).getD []
  unpinAll j (pages.foldl (fun s p => freeBasin j p s) s)

/-- An optimiser_step of a step has begun and not retired (R293). -/
def stepOpen (b : Job) (n : Nat) : Bool :=
  b.subs.any fun u => u.2.descs.zipIdx.any fun d =>
    dOp d.1 == 0x29 && rd d.1 56 8 == n && begun u.2 d.2 && !(descAt u.2 d.2).retired

/-- Apply a verdict to the job, in the order of R250. Bits of the overflow word that came after the verdict was sent go with it (R160,
log 97). -/
def applyVerdict (j word : Nat) (s : State) : State :=
  match tget s.jobs j with
  | none => s
  | some b =>
    let clean := word == 0
    let n := b.num
    let s := if clean then modNarrows j (fun x => { x with perStep := [] }) s else dropGradients j s
    let s := modJob j (fun x => { x with hist := pushMaxima b }) s
    let l := lossScale b.cfg n clean
    let v : Verdict := { step := n.verdicts, exponent := n.exponent, skipped := !clean }
    let s := modNum j (fun x => { x with
      exponent := l.1, clean := l.2.1, skips := l.2.2, maxima := [], calibrated := [], word := 0
      last := some v, held := n.held.filter (fun y => stepOpen b y.step) ++ [v] }) s
    let s := if ¬ clean then jobNumeric j 0x04 s else if n.exponent < l.1 then jobNumeric j 0x05 s else s
    let a := ageSticky n.promotions
    let s := modNum j (fun x => { x with promotions := a.1 }) s
    let s := a.2.foldl (fun s e => numericEvent j (numericRecord s j e.prog e.span 6 e.rung 0xFF 0 0xFFFF 0xFF 0xFFFFFFFF) s) s
    let s := n.occupied.foldl (fun s slot => leakSlot j slot s) s
    let s := modNum j (fun x => { x with journal := [], generation := 0, commits := [], slotStrides := [] }) s
    let limit := ¬ clean ∧ b.cfg.skipLimit ≤ l.2.2
    let s := if limit then mechFault j 0x65 (jobNumeric j 0x08 s) else s
    stepTrigger j (modNum j (fun x => { x with verdicts := x.verdicts + 1 }) s)

/-- The word goes to the tensor that the verdict names, with its statistics record (R158, R250). -/
def storeWord (r : Ref) (word : Nat) (s : State) : State :=
  match r.optView 0 with
  | none => s
  | some v =>
    let s := (List.range 2).foldl (fun s i => poke r.t.job (elemAddr v [i]) (leBytes 4 (word / 2 ^ (32 * i))) s) s
    noteWrite r v (placedSum s r.t.job v) s

/-- A verdict completes: every member's word has come, and the word is their OR. It waits for the page of the tensor that takes the
word. -/
def verdictDone (j word : Nat) (s : State) : State :=
  match (tget s.jobs j).bind fun b => b.colls.find? fun c => c.kind == 0x26 with
  | none => s
  | some c =>
    match refOf s c.task with
    | none => s
    | some r =>
      if ¬ verdictWhole c ∨ verdictWord c ≠ word ∨ r.b.fault.isSome then s
      else
        let e := ensureOutputs r s
        if ¬ e.2 then e.1
        else retryHeld j (endColl c.task (applyVerdict j word (storeWord r word e.1)))

/-- VERDICT_COMPLETE. -/
def execVerdictComplete (job : Nat) (word : BitVec 64) (s : State) : Host.Outcome State Fault Refusal :=
  .next (if alive s then settle (verdictDone job word.toNat s) else s)

end Sys2Proof.Machine
end

