-- ==== Sys2Proof/Machine/Ether.lean ====
section
/-! DEFINITION. The Ethernet side (R406 to R426): operations that arrive, acknowledgements, NAKs and timeouts, congestion, pauses and
links. -/

namespace Sys2Proof.Machine

/-- Tags of a DMA engine that are held: its queue pairs' unacknowledged segments, outbound and inbound, as far as its 256 tags go
(R424). -/
def engineHeld (s : State) (port e : Nat) : Nat :=
  let mine := s.eth.qps.filter fun q => q.2.port == port && q.1 % 12 == e
  min (256 - (mine.foldl (fun n q => n + q.2.quarantined) 0))
    (mine.foldl (fun n q => q.2.held.foldl (fun n x => n + ceilDiv x.data.length 4096)
      (q.2.flights.foldl (fun n f => n + f.segments) n)) 0)

/-! ### Messages that arrive (R412, R427 to R437) -/

/-- RDMA_SEND. -/
def execRdmaSend (qp : Nat) (bytes : Bytes) (s : State) : Host.Outcome State Fault Refusal :=
  .next (settle (onQp qp (fun p s => arriveOp qp p { data := bytes } s) s))

/-! ### WRITEs that arrive (R345, R413, R414, R425) -/

/-- A word of the receive buffer is damaged beyond correction: its segment is discarded, and the sender sends it again (R594). -/
def segmentLost (l : List EccReport) : Bool := l.any fun r => (readWord r.data.toNat r.check.toNat).isNone

/-- RDMA_WRITE. -/
def execRdmaWrite (qp rkey offset : Nat) (data : Bytes) (fetches : List Fetch) (ecc : List EccReport) (s : State) :
    Host.Outcome State Fault Refusal :=
  .next (settle (onQp qp (fun p s =>
    let w := meetWords {} ecc s
    if segmentLost ecc then w.1 else arriveOp qp p { target := some (rkey, offset), data, fetches } w.1) s))

/-- RDMA_WRITE_WITH_IMMEDIATE: placed as a WRITE; the immediate then arrives as a message, which a full inbox answers with an RNR
NAK. -/
def execRdmaWriteWithImmediate (qp rkey offset : Nat) (data imm : Bytes) (fetches : List Fetch) (s : State) :
    Host.Outcome State Fault Refusal :=
  .next (settle (onQp qp (fun p s =>
    arriveOp qp p { target := some (rkey, offset), data, fetches, imm := some (sub imm 0 4) } s) s))

/-- RDMA_READ: refused (R412). -/
def execRdmaRead (qp : Nat) (s : State) : Host.Outcome State Fault Refusal :=
  .next (onQp qp (fun _ s => putOut qp (.nak qp .remoteAccess) s) s)

/-- ATOMIC: refused (R412). -/
def execAtomic (qp : Nat) (s : State) : Host.Outcome State Fault Refusal :=
  .next (onQp qp (fun _ s => putOut qp (.nak qp .invalidRequest) s) s)

/-! ### Acknowledgements, NAKs and timeouts (R417, R418, R424) -/

/-- Take acknowledged segments off the operations in flight, oldest first; a SEND that is whole leaves the list, any other stays until
its operation's own end. -/
def ackFlights : Nat → List Flight → List Flight
  | _, [] => []
  | n, f :: rest =>
    let left := f.segments - n
    let n' := n - f.segments
    if left = 0 ∧ f.kind = .send then ackFlights n' rest
    else { f with segments := left } :: (if n' = 0 then rest else ackFlights n' rest)

/-- RDMA_ACK: tags are freed and the retries start again. -/
def execRdmaAck (qp segments : Nat) (ecc : List EccReport) (s : State) : Host.Outcome State Fault Refusal :=
  .next (settle (onQp qp (fun p s =>
    let w := meetWords {} ecc s
    modQp qp (fun y => { y with flights := ackFlights segments y.flights, retriesLeft := p.retry }) w.1) s))

/-- How an operation ends whose queue pair has failed (R418). -/
def flightFails (p : Qp) (s : State) (f : Flight) : State :=
  match f.kind with
  | .send => { bumpEth p.port 6 1 s with eth := { (bumpEth p.port 6 1 s).eth with sendsLost := s.eth.sendsLost + 1 } }
  | .release j n => releaseDone j n false s
  | .fetch j g => fetchFails j g (((tget s.jobs j).bind fun b => tget b.tier.fetches g).map (fun x => x.chunks.length) |>.getD 0) s
  | .evict j g => evictFails j g s
  | .shard j => captureFails j (dropFlight (.shard j) s)
  | .manifest j => manifestDone j false s
  | .restoreRead j => loadDone j .failed s

/-- A queue pair enters the error state: its cancelled tags are free, its Ledger stream ends, and what it carried ends (R418, R478,
R602). -/
def qpFails (q : Nat) (p : Qp) (s : State) : State :=
  let s := modQp q (fun y => { y with error := true, flights := [], quarantined := 0, readWaits := [], held := [] }) s
  let s := modEth p.port (fun e => { e with waiting := e.waiting.filter fun x => x.2.1 != q }) (flowOf p s)
  let s := { s with ledger := { s.ledger with streams := terase s.ledger.streams p.ctx } }
  (p.flights ++ p.readWaits.map fun x => (⟨x.1, x.2.1⟩ : Flight)).foldl (flightFails p) s

/-- RC_NAK: any NAK but an RNR NAK. -/
def execRcNak (qp : Nat) (s : State) : Host.Outcome State Fault Refusal :=
  .next (settle (onQp qp (fun p s => qpFails qp p s) s))

/-- RC_ACK_TIMEOUT: a retransmission while retries are left, else the error state. -/
def execRcAckTimeout (qp : Nat) (s : State) : Host.Outcome State Fault Refusal :=
  .next (settle (onQp qp (fun p s =>
    if p.flights.isEmpty then s
    else if p.retriesLeft = 0 then qpFails qp p s
    else putOut qp (.retransmit qp) (modQp qp (fun y => { y with retriesLeft := p.retriesLeft - 1 }) s)) s))

/-- RNR_NAK: retransmission after the peer's timer, without a limit. -/
def execRnrNak (qp : Nat) (s : State) : Host.Outcome State Fault Refusal :=
  .next (onQp qp (fun p s => if p.flights.isEmpty then s else putOut qp (.retransmit qp) s) s)

/-! ### Congestion (R419, R420) -/

/-- CONGESTION_EXPERIENCED: a notification, at most one in 50 µs. -/
def execCongestionExperienced (qp : Nat) (s : State) : Host.Outcome State Fault Refusal :=
  .next (onQp qp (fun p s =>
    let free : Bool := match p.lastNote with | none => true | some t => decide (t + 50000 ≤ s.timeNs)
    if free then bumpEth p.port 2 1 (putOut qp (.congestionNote qp) (modQp qp (fun y => { y with lastNote := some s.timeNs }) s)) else s) s)

/-- The rate limiter on a notification (R420). -/
def onNotification (p : Qp) : Qp :=
  { p with target := p.rate, rate := max (p.rate * (1 - p.alpha / 2)) (1 / 10), alpha := (1 - 1 / 256) * p.alpha + 1 / 256, quiet := 0 }

/-- CONGESTION_NOTIFICATION. -/
def execCongestionNotification (qp : Nat) (s : State) : Host.Outcome State Fault Refusal :=
  .next (onQp qp (fun p s => bumpEth p.port 3 1 (modQp qp onNotification s)) s)

/-- The rate limiter after a period without notification (R420). -/
def afterQuiet (p : Qp) : Qp :=
  let quiet := p.quiet + 1
  let target := if 5 < quiet then min (p.target + 4 / 10) 400 else p.target
  { p with alpha := (1 - 1 / 256) * p.alpha, quiet, target, rate := (p.rate + target) / 2 }

/-- RATE_PERIOD. -/
def execRatePeriod (qp : Nat) (s : State) : Host.Outcome State Fault Refusal :=
  .next (onQp qp (fun _ s => modQp qp afterQuiet s) s)

/-! ### Pauses and links (R421, R426) -/

/-- Flow control is on for a priority of a port (R421, R462). -/
def pfcOn (s : State) (port priority : Nat) : Bool :=
  decide (port < 4) && decide (priority < 8) && bit (s.config.image.eth.getD port {}).pfc priority

/-- PAUSE: transmission on the priority stops. -/
def execPause (port priority : Nat) (s : State) : Host.Outcome State Fault Refusal :=
  .next (if alive s && pfcOn s port priority then
      bumpEth port 5 1 (modEth port (fun p => { p with
        paused := if p.paused.contains priority then p.paused else p.paused ++ [priority] }) s)
    else s)

/-- Transmission on a priority starts again: what waited for it goes out, in its order. -/
def resumed (n k : Nat) (s : State) : State :=
  ((s.eth.ports.getD n {}).waiting.filter fun x => x.1 == k).foldl (fun t x => emit x.2.2 t) (modEth n (fun p => { p with
    paused := p.paused.filter (· != k), waiting := p.waiting.filter fun x => x.1 != k }) s)

/-- RESUME. -/
def execResume (port priority : Nat) (s : State) : Host.Outcome State Fault Refusal :=
  .next (if alive s && pfcOn s port priority then resumed port priority s else s)

/-- ETH_LINK_LOSS: the link goes down; its queue pairs keep their states, and what waited to leave is lost with it (R417, R426). A lit port whose link has not come yet has failed its
training. -/
def execEthLinkLoss (port : Nat) (s : State) : Host.Outcome State Fault Refusal :=
  .next (if s.power.railsOn && decide (port < 4) && !(s.eth.ports.getD port {}).dark then
      settle (checkReady (modEth port (fun p => { p with failed := p.failed || !p.link, link := false, paused := [], waiting := [] }) s))
    else s)

/-- ETH_LINK_RETURN: the link comes up, for the first time or again. -/
def execEthLinkReturn (port : Nat) (s : State) : Host.Outcome State Fault Refusal :=
  .next (if s.power.railsOn && decide (port < 4) && !(s.eth.ports.getD port {}).dark then
      settle (checkReady (modEth port (fun p => { p with link := true, failed := false }) s))
    else s)

end Sys2Proof.Machine
end

