-- ==== Sys2Proof/Machine/Flash.lean ====
section
/-! DEFINITION. The flash slots of configuration images and firmware sets (R457, R458, R464 to R466, R577), Glen's request buffer,
and the Ledger's commands (R478, R479). -/

namespace Sys2Proof.Machine

/-! ### Writers and pointers (R458, R466) -/

/-- The sender of a message as a slot's writer: its context, or 4096 for the sideband. -/
def senderId (m : Msg) : Nat := m.ctx.getD 4096

/-- The copy of a pointer that a boot reads: its index, generation and slot (R458). -/
def pointerRead (l : List (Option (Nat × Nat))) : Option (Nat × Nat × Nat) :=
  match l.getD 0 none, l.getD 1 none with
  | none, none => none
  | some a, none => some (0, a.1, a.2)
  | none, some b => some (1, b.1, b.2)
  | some a, some b => if a.1 < b.1 then some (1, b.1, b.2) else some (0, a.1, a.2)

/-- A pointer that names a slot: the other copy is overwritten with the next generation (R458). -/
def pointerWrite (l : List (Option (Nat × Nat))) (slot : Nat) : List (Option (Nat × Nat)) :=
  match pointerRead l with
  | none => setAt l 0 (some (1, slot))
  | some (i, g, _) => setAt l (1 - i) (some ((g + 1) % 2 ^ 32, slot))

/-- An erased slot with its writer. -/
def erasedSlot (w : Nat) : FlashSlot := { writer := some w }

/-- A slot with bytes written. -/
def writtenSlot (off : Nat) (b : Bytes) (f : FlashSlot) : FlashSlot := { f with written := f.written ++ [(off, b)] }

/-- Judge a write of a message's body into a slot of a size (R466, R577): the status that refuses it, or none. -/
def writeStatus (m : Msg) (f : FlashSlot) (size : Nat) : Option Nat :=
  let off := arg m.bytes 0 4
  let n := (msgBody m.bytes).length
  if f.writer ≠ some (senderId m) then some 0x13
  else if n < 1 ∨ 960 < n ∨ size < off + n ∨ flashTouched f off n then some 0x12
  else none

/-! ### Configuration slots (R464 to R466) -/

/-- Change a configuration slot. -/
def modConfig (i : Nat) (f : FlashSlot → FlashSlot) (s : State) : State :=
  { s with config := { s.config with slots := setAt s.config.slots i (f (slotOf s.config.slots i)) } }

/-- Detail of a kind 0x02 record (R475). -/
def configDetail (slot serial : Nat) (digest : Bytes) : Bytes := leBytes 1 slot ++ zeros 7 ++ leBytes 8 serial ++ sub digest 0 32

/-- The detail for the image that a slot holds; zeros for a slot without a validity mark. -/
def slotDetail02 (s : State) (slot : Nat) : Bytes :=
  let f := slotOf s.config.slots slot
  if f.valid then configDetail slot (rd (flashRead f 0x10 8) 0 8) (flashRead f 0x20 32) else configDetail slot 0 []

/-- Run a message of a slot that only a management context or the sideband may send (R465, R577). -/
def forSlot (m : Msg) (slot : Nat) (body : State → State) (s : State) : State :=
  if ¬ isManagement m then complete m 0x13 s else if 1 < slot then complete m 0x12 s else body s

/-- CONFIG_ERASE. -/
def execConfigErase (src : MsgRef) (s : State) : Host.Outcome State Fault Refusal :=
  .next (settle (withMsgRef src 0x70 (fun m s =>
    let slot := arg m.bytes 0 1
    forSlot m slot (fun s => complete m 0x00
      (modConfig slot (fun _ => erasedSlot (senderId m)) (ledgerFor m 0x02 1 0xFF false 0 (slotDetail02 s slot) s))) s) s))

/-- CONFIG_WRITE. -/
def execConfigWrite (src : MsgRef) (s : State) : Host.Outcome State Fault Refusal :=
  .next (settle (withMsgRef src 0x71 (fun m s =>
    let slot := arg m.bytes 4 1
    forSlot m slot (fun s =>
      match writeStatus m (slotOf s.config.slots slot) (2 ^ 20) with
      | some c => complete m c s
      | none => complete m 0x00 (modConfig slot (writtenSlot (arg m.bytes 0 4) (msgBody m.bytes)) s)) s) s))

/-- CONFIG_COMMIT: the image is judged; the writer's hold ends. -/
def execConfigCommit (src : MsgRef) (s : State) : Host.Outcome State Fault Refusal :=
  .next (settle (withMsgRef src 0x72 (fun m s =>
    let slot := arg m.bytes 0 1
    forSlot m slot (fun s =>
      let f := slotOf s.config.slots slot
      if f.writer ≠ some (senderId m) then complete m 0x13 s
      else
        match imageFault (slotImage f) with
        | some x => completeResult m 0x12 (leBytes 1 x.1 ++ [0] ++ leBytes 2 x.2.1 ++ leBytes 4 x.2.2)
            (modConfig slot (fun f => { f with writer := none }) s)
        | none =>
          let s := modConfig slot (fun f => { f with writer := none, valid := true }) s
          completeResult m 0x00 (flashRead f 0x20 32) (ledgerFor m 0x02 2 0xFF false 0 (slotDetail02 s slot) s)) s) s))

/-- CONFIG_SELECT: its record is written, and the boot pointer follows when that is in the mirror. -/
def execConfigSelect (src : MsgRef) (s : State) : Host.Outcome State Fault Refusal :=
  .next (settle (withMsgRef src 0x73 (fun m s =>
    let slot := arg m.bytes 0 1
    forSlot m slot (fun s =>
      if ¬ (slotOf s.config.slots slot).valid then complete m 0x12 s
      else if s.ledger.mirrorFault then complete m 0x1A s
      else deferChange m (.configSelect slot) (ledgerFor m 0x02 3 0xFF true 0 (slotDetail02 s slot) s)) s) s))

/-! ### CONFIG_ACTIVATE (R467, R469) -/

/-- A slot byte is assigned to a partition. -/
def slotFor (x p : Nat) : Bool := bit x 7 && x % 16 == p

/-- The assignment of a list of slots differs for a partition. -/
def slotsDiffer (a b : List Nat) (p : Nat) : Bool :=
  (a.zip b).any fun x => x.1 != x.2 && (slotFor x.1 p || slotFor x.2 p)

/-- A source entry is a partition's. -/
def sourceFor (e : Option Bytes) (p : Nat) : Bool := match e with | none => false | some b => rd b 16 1 / 16 == p

/-- The entries of a port that a partition owns differ. -/
def portDiffers (a b : EthCfg) (p : Nat) : Bool :=
  bit a.mask p != bit b.mask p || tget a.boots p != tget b.boots p ||
  (List.range 16).any fun i => tget a.sources i != tget b.sources i && (sourceFor (tget a.sources i) p || sourceFor (tget b.sources i) p)

/-- An image would change what R467 protects for an occupied partition. -/
def touchesPart (a b : Image) (p : Nat) : Bool :=
  a.parts.getD p {} != b.parts.getD p {} || tget a.carves (2 * p) != tget b.carves (2 * p) ||
  tget a.carves (2 * p + 1) != tget b.carves (2 * p + 1) || tget a.numeric (2 * p) != tget b.numeric (2 * p) ||
  tget a.numeric (2 * p + 1) != tget b.numeric (2 * p + 1) || slotsDiffer a.mbSlots b.mbSlots p ||
  slotsDiffer a.policySlots b.policySlots p || (a.eth.zip b.eth).any fun e => portDiffers e.1 e.2 p

/-- R467 refuses an image. -/
def activationBarred (s : State) (img : Image) : Bool :=
  let held := (List.range 16).filter fun p => taken s p
  (img.pass.address != s.config.image.pass.address && !held.isEmpty) || held.any fun p => touchesPart s.config.image img p

/-- Judge a CONFIG_ACTIVATE; it takes effect when its record, and that of a lock that it brings, are in the mirror. Activations run
one at a time, in order. -/
def configActivateRun (m : Msg) (s : State) : State :=
  let slot := arg m.bytes 0 1
  forSlot m slot (fun s =>
    let f := slotOf s.config.slots slot
    if configBusy s then { s with held := s.held ++ [.message m] }
    else if ¬ f.valid then complete m 0x12 s
    else
      let img := readImage (slotImage f)
      if activationBarred s img then complete m 0x18 s
      else if s.ledger.mirrorFault then complete m 0x1A s
      else
        let d := slotDetail02 s slot
        let s := ledgerFor m 0x02 4 0xFF true 0 d s
        let s := if img.lock ∧ ¬ s.config.locked then ledgerFor m 0x02 6 0xFF true 0 d s else s
        deferChange m (.configActivate slot img) s) s

/-- CONFIG_ACTIVATE. -/
def execConfigActivate (src : MsgRef) (s : State) : Host.Outcome State Fault Refusal :=
  .next (settle (withMsgRef src 0x74 configActivateRun s))

/-! ### Firmware slots (R577) -/

/-- Change a firmware slot. -/
def modFw (i : Nat) (f : FlashSlot → FlashSlot) (s : State) : State :=
  { s with fw := { s.fw with slots := setAt s.fw.slots i (f (slotOf s.fw.slots i)) } }

/-- FW_ERASE: not of the slot in effect. -/
def execFwErase (src : MsgRef) (s : State) : Host.Outcome State Fault Refusal :=
  .next (settle (withMsgRef src 0x83 (fun m s =>
    let slot := arg m.bytes 0 1
    forSlot m slot (fun s =>
      if (s.fw.effect.map (·.slot)) = some slot then complete m 0x12 s
      else complete m 0x00 (modFw slot (fun _ => erasedSlot (senderId m)) s)) s) s))

/-- FW_WRITE. -/
def execFwWrite (src : MsgRef) (s : State) : Host.Outcome State Fault Refusal :=
  .next (settle (withMsgRef src 0x84 (fun m s =>
    let slot := arg m.bytes 4 1
    forSlot m slot (fun s =>
      match writeStatus m (slotOf s.fw.slots slot) fwSlotSize with
      | some c => complete m c s
      | none => complete m 0x00 (modFw slot (writtenSlot (arg m.bytes 0 4) (msgBody m.bytes)) s)) s) s))

/-- FW_COMMIT: the set is judged; its validity mark follows when the record is in the mirror. The writer's hold ends. -/
def execFwCommit (src : MsgRef) (s : State) : Host.Outcome State Fault Refusal :=
  .next (settle (withMsgRef src 0x85 (fun m s =>
    let slot := arg m.bytes 0 1
    forSlot m slot (fun s =>
      if (slotOf s.fw.slots slot).writer ≠ some (senderId m) then complete m 0x13 s
      else
        let fault := slotFault s slot
        let s := modFw slot (fun f => { f with writer := none }) s
        match fault with
        | some x => completeResult m 0x12 (fwResult x) s
        | none =>
          if s.ledger.mirrorFault then complete m 0x1A s
          else deferChange m (.fwCommit slot) (ledgerFor m 0x07 1 0xFF true 0 (fwDetail (slotManifest s slot) slot 0) s)) s) s))

/-- FW_ACTIVATE. -/
def execFwActivate (src : MsgRef) (s : State) : Host.Outcome State Fault Refusal :=
  .next (settle (withMsgRef src 0x86 fwActivateBody s))

/-- Some valid slot other than the one in effect holds a set below a security version (R576). -/
def olderSet (s : State) (e : FwEffect) : Bool :=
  (List.range 2).any fun i => i != e.slot && (slotOf s.fw.slots i).valid && decide (mSecurity (slotManifest s i) < mSecurity e.manifest)

/-- FW_RATCHET. -/
def execFwRatchet (src : MsgRef) (s : State) : Host.Outcome State Fault Refusal :=
  .next (settle (withMsgRef src 0x87 (fun m s =>
    if ¬ isManagement m then complete m 0x13 s
    else
      match s.fw.effect with
      | none => complete m 0x12 s
      | some e =>
        if olderSet s e then complete m 0x12 s
        else if s.ledger.mirrorFault then complete m 0x1A s
        else deferChange m (.fwRatchet (mSecurity e.manifest))
          (ledgerFor m 0x07 6 0xFF true 0 (fwDetail e.manifest e.slot 0) s)) s))

/-! ### Glen's request buffer (R577) -/

/-- `n` bytes of the request buffer from an offset on. -/
def bufferRead (s : State) (off n : Nat) : Bytes := s.glen.requestBuffer.foldl (patch off) (zeros n)

/-- REQ_WRITE: offset 0 empties the buffer first. -/
def execReqWrite (src : MsgRef) (s : State) : Host.Outcome State Fault Refusal :=
  .next (settle (withMsgRef src 0x88 (fun m s =>
    let off := arg m.bytes 0 4
    let b := msgBody m.bytes
    if ¬ isManagement m then complete m 0x13 s
    else if b.isEmpty ∨ 960 < b.length ∨ 65536 < off + b.length then complete m 0x12 s
    else complete m 0x00 { s with glen := { s.glen with
      requestBuffer := (if off = 0 then [] else s.glen.requestBuffer) ++ [(off, b)] } }) s))

/-! ### The Ledger's commands (R478, R479) -/

/-- LEDGER_ANCHOR: the offset is set, and its record is written under it. -/
def execLedgerAnchor (ctx : Nat) (s : State) : Host.Outcome State Fault Refusal :=
  .next (settle (withMessage ctx 0x78 (fun m s =>
    if ¬ isManagement m then complete m 0x13 s
    else
      let t := arg m.bytes 0 8
      let s := { s with ledger := { s.ledger with offset := (t : Int) - s.timeNs, anchored := true } }
      complete m 0x00 (ledgerFor m 0x0C 1 0xFF false 0 (leBytes 8 t) s)) s))

/-- A record that the ring or the mirror holds. -/
def recordAt (s : State) (n : Nat) : Option Bytes := (tget s.ledger.ring n).or (tget s.ledger.mirror n)

/-- The oldest record held. -/
def oldestRecord (s : State) : Nat :=
  (s.ledger.ring ++ s.ledger.mirror).foldl (fun n r => min n r.1) s.ledger.next

/-- Send one record on a stream (R478). -/
def sendRecord (ctx n status : Nat) (b : Bytes) (s : State) : State :=
  sendCtx ctx (frame (ctxVersion s ctx) ctx 0xC2 128 n 0 0xFFFF 0 status 0xFFFF 0xFFFF [] ++ b) s

/-- Send the records from a number on, at most `k` of them. -/
def sendRecords (ctx : Nat) : Nat → Nat → State → State
  | 0, _, s => s
  | k + 1, n, s =>
    sendRecords ctx k (n + 1) (match recordAt s n with | none => s | some b => sendRecord ctx n 0 b s)

/-- Bring every stream up to the newest record. -/
def pumpStreams (s : State) : State :=
  s.ledger.streams.foldl (fun (s : State) (x : Nat × Nat) =>
    let s := sendRecords x.1 (s.ledger.next - x.2) x.2 s
    { s with ledger := { s.ledger with streams := tset s.ledger.streams x.1 (max x.2 s.ledger.next) } }) s

/-- A record of kind 0x0D (R475, R480): losses are counted in a record of their own before it. -/
def ledgerNote (action first : Nat) (s : State) : State :=
  let s := if s.ledger.lost = 0 then s
    else ledgerSelf 0x0D 3 0xFF false 0 (leBytes 8 s.ledger.lost) { s with ledger := { s.ledger with lost := 0 } }
  ledgerSelf 0x0D action 0xFF false 0 (leBytes 8 first) s

/-- Start a stream: the oldest held record first, with status 0x01, where the one asked for is gone. At most four run. -/
def streamBody (ctx : Nat) (m : Msg) (s : State) : State :=
  if ¬ isManagement m then complete m 0x13 s
  else if 4 ≤ (terase s.ledger.streams ctx).length then complete m 0x1A s
  else
    let first := arg m.bytes 0 8
    let s := complete m 0x00 (ledgerNote 2 first s)
    let old := oldestRecord s
    let s := if first < old then
        (match recordAt s old with | none => s | some b => sendRecord ctx old 1 b s) else s
    pumpStreams { s with ledger := { s.ledger with streams := tset s.ledger.streams ctx (if first < old then old + 1 else first) } }

/-- LEDGER_STREAM. -/
def execLedgerStream (ctx : Nat) (s : State) : Host.Outcome State Fault Refusal :=
  .next (settle (withMessage ctx 0x79 (streamBody ctx) s))

/-- LEDGER_STOP. -/
def execLedgerStop (ctx : Nat) (s : State) : Host.Outcome State Fault Refusal :=
  .next (settle (withMessage ctx 0x7A (fun m s =>
    if ¬ isManagement m then complete m 0x13 s
    else complete m 0x00 { s with ledger := { s.ledger with streams := terase s.ledger.streams ctx } }) s))

end Sys2Proof.Machine
end

