-- ==== Sys2Proof/Machine/Activate.lean ====
section
/-! DEFINITION. Putting a configuration image into effect (R468, R469, R472), and the bootstrap queue pairs and management contexts
that it brings (R411, R434, R462, R463). -/

namespace Sys2Proof.Machine

/-- A Ledger record of a message, or of the Proend itself where none asked. -/
def ledgerBy (m : Option Msg) (kind action part : Nat) (before : Bool) (detail : Bytes) (s : State) : State :=
  match m with
  | some m => ledgerFor m kind action part before 0 detail s
  | none => ledgerSelf kind action part before 0 detail s

/-! ### Power limits (R475, R637) -/

/-- The Power section in the layout of R462. -/
def powerBytes (cap current throttle : Nat) (hints : Bool) (shares : List Nat) : Bytes :=
  leBytes 2 cap ++ leBytes 2 current ++ leBytes 1 throttle ++ leBytes 1 hints.toNat ++ zeros 2 ++ sub (shares.map (BitVec.ofNat 8)) 0 16

/-- Offset and size of each field of the section. -/
def powerFields : List (Nat × Nat) := [(0, 2), (2, 2), (4, 1), (5, 1)] ++ (List.range 16).map fun p => (8 + p, 1)

/-- The fields of a section that differ from another's; zeros elsewhere. -/
def changedFields (a b : Bytes) : Bytes :=
  powerFields.foldl (fun acc f => if sub a f.1 f.2 = sub b f.1 f.2 then acc else overlay acc f.1 (sub a f.1 f.2)) (zeros 24)

/-- The Power section that now holds: the registers with the image's flags and shares. -/
def powerNow (s : State) : Bytes :=
  powerBytes s.power.cap s.power.current s.power.throttle s.config.image.power.hints s.config.image.power.shares

/-- The record of a change of power limits, where something changes. -/
def powerRecord (m : Option Msg) (old new : Bytes) (s : State) : State :=
  if old = new then s else ledgerBy m 0x0A 1 0xFF false (changedFields old new ++ changedFields new old) s

/-- Apply a Power section to the registers. -/
def applyPower (m : Option Msg) (p : PowerCfg) (s : State) : State :=
  let s := powerRecord m (powerNow s) (powerBytes p.cap p.current p.throttle p.hints p.shares) s
  { s with power := { s.power with cap := p.cap, current := p.current, throttle := p.throttle } }

/-! ### Ethernet (R411, R434, R463) -/

/-- The bootstrap queue pair that an entry describes. -/
def bootQp (port part : Nat) (e : Bytes) : Qp where
  partition := part
  port := port
  source := rd e 17 1
  remoteQpn := rd e 18 3
  remoteAddress := sub e 0 16
  nextHop := sub e 32 6
  mtu := rd e 21 1
  timeout := rd e 22 1
  retry := rd e 23 1
  retriesLeft := rd e 23 1
  sendPsn := rd e 24 3
  recvPsn := rd e 27 3
  ctx := part

/-- The bootstrap queue pair of a partition on a port that an image names. -/
def bootOf (img : Image) (port part : Nat) : Option Qp :=
  let c := img.eth.getD port {}
  if bit c.mask part then ((tget c.boots part).filter fun e => bit (rd e 16 1) 0).map (bootQp port part) else none

/-- Bring up, replace or remove a bootstrap queue pair. -/
def setBoot (img : Image) (port part : Nat) (s : State) : State :=
  let k := 16 * port + part
  { s with eth := { s.eth with qps := match bootOf img port part with | none => terase s.eth.qps k | some q => tset s.eth.qps k q } }

/-- The management context of each enabled partition is open, and of no other. -/
def setContexts (img : Image) (s : State) : State :=
  (List.range 16).foldl (fun (s : State) p =>
    if partOn img p then (if (tget s.ctxs p).isSome then s else { s with ctxs := tset s.ctxs p { partition := p } })
    else { s with ctxs := terase s.ctxs p }) s

/-- The bootstrap queue pairs and management contexts of an image, from none (R411). -/
def startEthernet (s : State) : State :=
  let img := s.config.image
  setContexts img ((List.range 64).foldl (fun s k => setBoot img (k / 16) (k % 16) s) s)

/-- A port that no mask names any more keeps its lasers dark; one that a mask names for the first time is lit (R408). Before its
laser step a port only takes the new values. -/
def relight (img : Image) (s : State) (n : Nat) : State :=
  if s.start.step < 6 then s
  else if (img.eth.getD n {}).mask = 0 then
    modEth n (fun p => { p with dark := true, link := false, failed := false, paused := [], waiting := [] }) s
  else if (s.config.image.eth.getD n {}).mask = 0 then modEth n (fun p => { p with dark := false }) s
  else s

/-- Ethernet changes: a queue pair whose entry is new is brought up anew, and the ports are lit as the masks say. -/
def applyEth (img : Image) (s : State) : State :=
  let old := s.config.image
  (List.range 64).foldl (fun (s : State) k =>
    if bootOf old (k / 16) (k % 16) = bootOf img (k / 16) (k % 16) then s else setBoot img (k / 16) (k % 16) s)
    ((List.range 4).foldl (relight img) s)

/-! ### Pass ports (R468) -/

/-- A port's role, ring or dateline changes: it goes down, and trains again or goes dark. -/
def repurpose (n role : Nat) (s : State) : State :=
  let s := if (portAt s n).st = .dark then s else portStops n id s
  if role = 0 then modPort n (fun p => { p with st := .dark, step := 0, lit := false, lost := false }) s
  else beginFull n (modPort n (fun p => { p with lit := true }) s)

/-- Pass changes: repurposed ports, and a fast retrain of the others that are up where the allotments change. Before its laser step
a port only takes the new values. -/
def applyPass (img : Image) (s : State) : State :=
  let old := s.config.image.pass
  let s := { s with config := { s.config with image := { s.config.image with pass := img.pass } } }
  if s.start.step < 6 then s
  else
    (List.range 32).foldl (fun (s : State) n =>
      if old.ports.getD n 0 % 128 ≠ img.pass.ports.getD n 0 % 128 then repurpose n (img.pass.ports.getD n 0 % 4) s
      else if old.allot ≠ img.pass.allot ∧ (portAt s n).st = .up then beginFast n s
      else s) s

/-! ### Structure (R77, R468, R547) -/

/-- The enabled partition of an image that a block lies in. -/
def blockPart (img : Image) (b : Nat) : Option Nat :=
  (List.range 16).find? fun p => partOn img p && (partBlocks (img.parts.getD p {})).contains b

/-- A core after steps 2 and 3 of R77 and R129: zeroed, with its derate and its instruction cache (R70). -/
def zeroCore (x : CoreSt) : CoreSt := { derate := x.derate, icache := x.icache }

/-- The cores of some blocks are zeroed. -/
def zeroCores (p : Nat → Bool) (s : State) : State :=
  { s with cores := (s.cores.map fun (x : Nat × CoreSt) => if p (coreBlock x.1) then (x.1, zeroCore x.2) else x).filter fun x => x.2 != {} }

/-- The slots of the start order have passed a block (R547). -/
def slotPassed (s : State) (b : Nat) : Bool := decide (5 ≤ s.start.step) || decide (b < 10 * s.start.groups)

/-- Blocks whose partition changes are zeroed, and start by the pacing of R547. -/
def applyStructure (img : Image) (s : State) : State :=
  let moved := (List.range 1000).filter fun b => blockPart s.config.image b != blockPart img b
  let s := zeroCores (fun b => moved.contains b) s
  { s with
    power := { s.power with blockStarted := s.power.blockStarted.filter fun x => !(moved.contains x.1) }
    start := { s.start with
      toStart := (s.start.toStart.filter fun b => !(moved.contains b)) ++ moved.filter fun b => (blockPart img b).isSome && slotPassed s b } }

/-! ### The activation (R469) -/

/-- Checkpoint triggers: a running timer restarts where its record changes. -/
def applyTriggers (img : Image) (s : State) : State :=
  { s with jobs := s.jobs.map fun (x : Nat × Job) =>
      if tget s.config.image.triggers x.1 = tget img.triggers x.1 then x
      else (x.1, { x.2 with capture := { x.2.capture with since := s.timeNs } }) }

/-- Each partition entry that changes is recorded (R475). -/
def partRecords (m : Option Msg) (img : Image) (s : State) : State :=
  let entry := fun (e : PartCfg) =>
    leBytes 1 e.enabled.toNat ++ leBytes 1 e.col0 ++ leBytes 1 e.row0 ++ leBytes 1 e.width ++ leBytes 1 e.height ++ zeros 3
  let old := s.config.image
  (List.range 16).foldl (fun (s : State) p =>
    let a := old.parts.getD p {}
    let b := img.parts.getD p {}
    if a = b then s else ledgerBy m 0x03 1 p false (entry a ++ entry b) s) s

/-- An image takes effect: power, Vale, checkpoint triggers, Ethernet, Pass, routes and structure, in that order. -/
def applyImage (m : Option Msg) (slot : Nat) (img : Image) (s : State) : State :=
  let s := partRecords m img s
  let s := applyPower m img.power s
  let s := { s with vale := { s.vale with rate := img.sweepRate } }
  let s := applyTriggers img s
  let s := applyEth img s
  let s := applyPass img s
  let s := applyStructure img s
  setContexts img { s with config := { s.config with image := img, source := slot, locked := s.config.locked || img.lock } }

end Sys2Proof.Machine
end

