-- ==== Sys2Proof/Machine/Reset.lean ====
section
/-! DEFINITION. The three resets (R562 to R566), the loss of the rails (R544, R556, R614), and what waits for an operation to end
(R469, R564, R637). -/

namespace Sys2Proof.Machine

/-! ### Cold state (R477, R492, R562) -/

/-- The Ledger after a cold reset: the mirror alone is left, and numbering and chain go on from it (R476); time and offset start
anew (R477, R479). -/
def coldLedger (l : Ledger) : Ledger where
  next := l.mirrored
  headDigest := sha256 ((tget l.mirror (l.mirrored - 1)).getD [])
  mirror := l.mirror
  mirrored := l.mirrored
  lost := l.lost

/-- Of the cores only their derates last (R95). -/
def coldCores (c : Tab CoreSt) : Tab CoreSt :=
  (c.map fun (x : Nat × CoreSt) => (x.1, { derate := x.2.derate : CoreSt })).filter fun x => x.2 != {}

/-- What a cold reset leaves: flash, fuses, the root and the tamper state, the mirror, the trip, the supply and the sideband's
address; everything else starts anew. -/
def coldState (s : State) : State where
  pending := s.pending
  free := s.free
  sent := s.sent
  tickets := s.tickets
  boot := s.boot
  cores := coldCores s.cores
  config := { slots := s.config.slots, pointers := s.config.pointers }
  glen := {
    root := s.glen.root
    check := s.glen.check
    rootLost := s.glen.rootLost
    lossRecorded := s.glen.lossRecorded
    tamper := s.glen.tamper
    tamperLatched := s.glen.tamperLatched }
  fw := { slots := s.fw.slots, pointers := s.fw.pointers }
  lc := { rows := s.lc.rows, current := lifeCycleOf s.lc.rows, security := s.lc.security, request := s.lc.request, sealRecord := s.lc.sealRecord }
  ledger := coldLedger s.ledger
  power := {
    mainPower := s.power.mainPower
    vbat := s.power.vbat
    sysclk := s.power.sysclk
    netclk := s.power.netclk
    resetHeld := s.power.resetHeld
    shut := s.power.tripped
    tripped := s.power.tripped
    tripClass := s.power.tripClass
    tripIndex := s.power.tripIndex }
  start := { cold := true }
  i3c := s.i3c

/-! ### The rails turn off (R544, R556) -/

/-- Changes that the management domain and Glen carry through without the rails that turn off. -/
def outlivesRails (d : Deferred) : Bool :=
  match d.change with
  | .configSelect _ => true
  | .configActivate _ _ => true
  | .fwCommit _ => true
  | .fwRatchet _ => true
  | .lifeCycle _ => true
  | _ => false

/-- Messages of the sideband that end with the rails: those that wait for no such change. -/
def endedBySupply (s : State) : List Msg :=
  let stays := (s.ledger.deferred.filter outlivesRails).map (·.ticket)
  let going := s.running.filter fun r => match r.kind with | .ticket n => !(stays.contains n) && s.lc.ticket != some n | _ => true
  (going.map (·.msg) ++ s.held.filterMap fun h => match h with | .message m => some m | _ => none).filter fun m => m.ctx.isNone

/-- The compute-die, Vale and laser rails turn off: every job, every queue pair, Vale and the Plain are lost, and every key slot that
is not persistent. The management domain and Glen go on. -/
def railsOff (s : State) : State :=
  let s := (endedBySupply s).foldl (fun s m => complete m 0x18 s) s
  let stays := s.ledger.deferred.filter outlivesRails
  let tickets := stays.map (·.ticket)
  { s with
    jobs := []
    dir := []
    bubbles := []
    cores := coldCores s.cores
    cache := {}
    vale := { rate := s.vale.rate }
    ctxs := []
    objects := {}
    running := s.running.filter fun r => match r.kind with | .ticket n => tickets.contains n || s.lc.ticket == some n | _ => false
    held := []
    afterJobs := s.afterJobs.filter (· == .lifeCycle)
    eth := { sendsLost := s.eth.sendsLost, ports := s.eth.ports.map fun p => { counters := p.counters } }
    pass := { ports := s.pass.ports.map fun p => { counters := p.counters, peer := p.peer, peerValid := p.peerValid } }
    glen := { s.glen with slots := s.glen.slots.filter fun k => bit k.2.attr 1, current := none, queue := [] }
    fw := { s.fw with activating := none }
    ledger := { s.ledger with deferred := stays, streams := [] }
    power := { s.power with railsOn := false, shut := true, freq := [], blockStarted := [], stretched := [], revoked := false, hints := []
                            granted := 0, stackHalved := [], blockCut := [], blockHot := [], issueHeld := [], turn := [] }
    start := { s.start with ready := false, step := min s.start.step 3, groups := 0, lasers := 0, toStart := [] } }

/-! ### Function reset (R562, R564 to R566) -/

/-- A restore in progress is refused on this member, as for a read that failed (R566). -/
def refuseRestore (j : Nat) (s : State) : State :=
  match tget s.jobs j with
  | none => s
  | some b =>
    match b.restore with
    | none => s
    | some x =>
      if x.imported then s
      else
        let s := modJob j (fun b => { b with restore := some { x with cause := 9, loaded := false } }) s
        let me := deviceAddress s
        if b.isLead then (if x.going then doneArrives j me 9 s else checkArrives j me 9 x.step s)
        else toLead j (barrierPayload (if x.going then 0xC else 9) 9 (rd x.manifest 8 4) x.step) s

/-- Programs of a job stop with 0x18 at once: what runs of them is zeroed. -/
def haltJob (j : Nat) (s : State) : State :=
  let s := match tget s.jobs j with
    | none => s
    | some b => if b.capture.phase = .none then s else if b.isLead then abandonCapture j 2 s else memberFails j s
  let s := refuseRestore j s
  modJob j (fun b => { b with subs := b.subs.map fun (u : Nat × Sub) =>
    (u.1, { stopSub 0x18 0xFFFF u.2 with state := u.2.state.filter fun d => d.2.retired }) }) s

/-- The bubbles of a partition: windows close, and lent blocks return. -/
def endBubbles (p : Nat) (s : State) : State :=
  if (tget s.bubbles p).isNone then s
  else
    let s := modBubbles p (fun x => { x with windows := [] }) s
    (tgetD s.bubbles p {}).lent.foldl (fun s b => blockReturn p b s) s

/-- The partitions that a function reset names. -/
def resetParts (p : Nat) : List Nat := if p = 0xFF then List.range 16 else [p]

/-- Some job of a partition is in teardown. -/
def partCloses (s : State) (p : Nat) : Bool := s.jobs.any fun b => b.1 / 2 == p && b.2.phase == .closing

/-- A sweep of a region that a test marks goes back to its stored cursor (R334). -/
def sweepBack (mine : Nat → Bool) (s : State) : State :=
  { s with vale := { s.vale with sweep := s.vale.sweep.map fun w => if mine w.region then { w with next := w.cursor } else w } }

/-- A region belongs to a job of a partition. -/
def regionIn (s : State) (p r : Nat) : Bool := ((regionOf s r).owner.map (· / 2)) == some p

/-- The function reset of one partition; a sweep of its regions resumes from its cursor (R566). -/
def resetPart (p : Nat) (s : State) : State :=
  let s := sweepBack (regionIn s p) (haltJob (2 * p) (haltJob (2 * p + 1) s))
  let s := endBubbles p (settle s)
  zeroCores (fun b => (partBlocks (s.config.image.parts.getD p {})).contains b) s

/-- An operation in progress holds a function or warm reset back (R564). -/
def resetWaits (s : State) : Bool := configBusy s || fwRunning s || s.lc.ticket.isSome

/-- Hold a message until an operation ends. -/
def hold (m : Msg) (s : State) : State := { s with held := s.held ++ [.message m] }

/-- A function reset: a teardown completes first. -/
def functionResetRun (m : Msg) (s : State) : State :=
  let p := arg m.bytes 1 1
  if ¬ isManagement m then complete m 0x13 s
  else if 16 ≤ p ∧ p ≠ 0xFF then complete m 0x12 s
  else if resetWaits s ∨ (resetParts p).any (partCloses s) then hold m s
  else complete m 0x00 ((resetParts p).foldl (fun s p => resetPart p s) s)

/-! ### Warm reset (R562, R565) -/

/-- Every core zeroed. -/
def coldZero (c : Tab CoreSt) : Tab CoreSt :=
  (c.map fun (x : Nat × CoreSt) => (x.1, zeroCore x.2)).filter fun x => x.2 != {}

/-- Pass ports after a warm reset: those that had a peer wait for their laser step to retrain fast; the others are dark (R358). -/
def warmPort (p : PassPort) : PassPort :=
  if hasPeer p then { p with st := .training, step := 0, fast := true, lit := false, helloSeen := false, initSeen := false }
  else { p with st := .dark, step := 0, fast := false, lit := false }

/-- The rest of a warm reset, once every job is Gone: objects freed, queue pairs destroyed, debug closed, the Plain at zero; bootstrap
queue pairs return, and the start order runs from step 5 (R548). -/
def warmNow (m : Option Msg) (s : State) : State :=
  let others := (s.running.map (·.msg)).filter fun x => x.ctx.isNone
  let s := others.foldl (fun s x => complete x 0x18 s) s
  let s := (s.objects.objs.map (·.1)).foldl (fun s i => freeObject i s) s
  let s := { s with
    objects := { s.objects with resident := [], evicting := [], loads := [] }
    ctxs := []
    running := []
    held := []
    afterJobs := []
    bubbles := []
    cores := coldZero s.cores
    cache := {}
    vale := { s.vale with tags := [] }
    eth := { s.eth with qps := [], ports := s.eth.ports.map fun p => { p with link := false, dark := true, failed := false, paused := [], waiting := [] } }
    pass := { s.pass with ports := s.pass.ports.map warmPort }
    glen := { s.glen with current := none, queue := [] }
    lc := { s.lc with debugOpen := false, scope := 0, token := [] }
    ledger := { s.ledger with deferred := [], streams := [] }
    errors := { s.errors with accounting := false, reloads := [] }
    power := { s.power with blockStarted := [], stretched := [], revoked := false, hints := [], freq := [] }
    start := { s.start with ready := false, warm := true, step := min s.start.step 4, groups := 0, lasers := 0, toStart := [] } }
  let s := startEthernet s
  match m with
  | some m => if m.ctx.isNone then complete m 0x00 s else s
  | none => s

/-- Every job goes through its teardown with a cause. -/
def tearAll (cause : Nat) (s : State) : State := s.jobs.foldl (fun s j => beginTeardown j.1 cause s) s

/-- A warm reset begins: every job is torn down first. -/
def startWarm (m : Option Msg) (s : State) : State :=
  if s.jobs.isEmpty then warmNow m s
  else tearAll 4 { s with afterJobs := s.afterJobs ++ [.warmReset m] }

/-- A warm reset that a message asks for. -/
def warmResetRun (m : Msg) (s : State) : State :=
  if ¬ isManagement m then complete m 0x13 s
  else if resetWaits s then hold m s
  else startWarm (some m) s

end Sys2Proof.Machine
end

