-- ==== Sys2Proof/Machine/Boot.lean ====
section
/-! DEFINITION. The boot sequence (R458, R459, R484, R567 to R573, R584), ageing derates (R94 to R96) and the life-cycle steps (R582,
R584). -/

namespace Sys2Proof.Machine

/-! ### Ceilings (R94 to R96, R640) -/

/-- The aged step of a core: its fused step less its derate. -/
def agedStep (s : State) (c : Nat) : Nat := (Config.fusedStep c).val - (coreAt s c).derate

/-- The detail of a kind 0x0B record (R475): the aged steps of a block's cores, 5 bits each. -/
def ceilingDetail (s : State) (b : Nat) : Bytes :=
  leBytes 2 b ++ leBytes 50 ((blockCores b).zipIdx.foldl (fun n x => n + agedStep s x.1 * 2 ^ (5 * x.2)) 0)

/-- Take the derates that the ageing monitors give: a ceiling never rises, and stops at 700 MHz with a warning; each block that
changes is recorded. -/
def takeDerates (l : List (Nat × Nat)) (s : State) : State :=
  let new := fun (x : Nat × Nat) => max (coreAt s x.1).derate (min x.2 (Config.fusedStep x.1).val)
  let l := l.filter fun x => decide (x.1 < 80000)
  let low : Bool := l.any fun x => decide ((Config.fusedStep x.1).val < x.2)
  let moved := (l.filter fun x => decide ((coreAt s x.1).derate < new x)).map fun x => (x.1, new x)
  let s := moved.foldl (fun (s : State) x => modCore x.1 (fun c => { c with derate := x.2 }) s) s
  let s := (moved.map fun x => coreBlock x.1).eraseDups.foldl (fun s b => ledgerSelf 0x0B 1 0xFF false 0 (ceilingDetail s b) s) s
  if low then { s with errors := { s.errors with ceilingMargin := true } } else s

/-! ### Life-cycle steps (R581 to R584) -/

/-- The fuse row of a transition: Blank to Test, Test to Production, and to End-of-life from Test or from Production. -/
def lcRowOf (old new : Nat) : Nat := if new = 1 then 0 else if new = 2 then 1 else if old = 2 then 3 else 2

/-- The row of a transition in progress: its intent mark is set and its done mark is clear. -/
def lcRow (s : State) : Option Nat := (List.range 4).find? fun r => bit (s.lc.rows.getD r 0) 0 && !(bit (s.lc.rows.getD r 0) 31)

/-- The number of its steps. -/
def lcSteps (r : Nat) : Nat := if r < 2 then 2 else 3

/-- Burn a mark: fuses are only ever set. -/
def burn (r mark : Nat) (s : State) : State :=
  let v := s.lc.rows.getD r 0
  { s with lc := { s.lc with rows := setAt s.lc.rows r (if bit v mark then v else v + 2 ^ mark) } }

/-- Detail of a kind 0x08 record (R588), from the stored request. -/
def lcDetail (s : State) (step : Nat) : Bytes :=
  leBytes 1 (rd s.lc.request 2 1) ++ leBytes 1 (rd s.lc.request 3 1) ++ leBytes 1 step ++ zeros 5 ++ sha256 s.lc.request

/-- Zero the root and every slot (R486 step 3); no part of the Ledger is waited for. -/
def zeroKeys (s : State) : State :=
  let s := { s with
    glen := { s.glen with root := zeros 32, rootLost := true, slots := [], current := none, queue := [] }
    vale := { s.vale with keyIds := [], sweep := none, sweepQueue := [] }
    pass := { s.pass with linkKeys := [] } }
  { s with jobs := s.jobs.map fun (x : Nat × Job) => (x.1, { x.2 with keys := { x.2.keys with secret := [], owners := [] } }) }

/-- Keys that Glen derives from the root with M0 or M (R494). -/
def rootKey (s : State) (salt : Bytes) (label : String) (context : Bytes) (n : Nat) : Bytes := derive salt s.glen.root label context n

/-- Create a slot with its record. -/
def makeSlot (n : Nat) (k : KeySlot) (s : State) : State := fillSlot n k (slotRecord 1 n 0 k s)

/-- K0 and K2, which stand on M0 (R494). -/
def makeIdentity (s : State) : State :=
  let m0 := sub Config.romDigest 0 32
  let unit := sub Config.unitId 0 32
  let s := makeSlot 0 ⟨rootKey s m0 "mutrum id" unit 48, attrWord 1 0 0 0 0x13⟩ s
  makeSlot 2 ⟨rootKey s m0 "mutrum sideband" unit 32, attrWord 3 0 0 0 0x07⟩ s

/-- K1, which stands on M. -/
def makeKem (s : State) : State :=
  makeSlot 1 ⟨rootKey s s.glen.measurement "mutrum kem" (sub Config.unitId 0 32) 64, attrWord 2 0 0 0 0x0B⟩ s

/-- The sideband seal record: K2 encapsulated to the buyer's key (R513). -/
def sealBuyer (s : State) : State :=
  if ¬ s.lc.sealRecord.isEmpty then s
  else
    let rnd := freshBytes 32 s
    let e := Config.kemEncap (sub s.lc.request 0x30 1568) rnd.1
    let w := gcmSeal (derive (sub Config.unitId 0 32) e.2 "mutrum sbseal" [] 32) (zeros 12) [] (slotMaterial s 2)
    { rnd.2 with lc := { rnd.2.lc with sealRecord := sub e.1 0 1568 ++ w.1 ++ w.2 } }

/-- What a step does, but for the teardown of an End-of-life transition. -/
def lcEffect (r n : Nat) (s : State) : State :=
  match r, n with
  | 0, 1 =>
    let rnd := freshBytes 32 s
    { rnd.2 with glen := { rnd.2.glen with root := rnd.1, check := (hmac rnd.1 (ascii "mutrum check")).take 4, rootLost := false } }
  | 0, _ => makeKem (makeIdentity s)
  | 1, 1 => sealBuyer s
  | 1, _ => s
  | _, 2 => zeroKeys s
  | _, 3 => { s with config := { s.config with slots := [{}, {}] }, fw := { s.fw with slots := [{}, {}] } }
  | _, _ => s

/-- The steps of a transition that a boot resumes, from a step on: `k` of them (R584). -/
def resumeSteps (r : Nat) : Nat → Nat → State → State
  | 0, _, s => s
  | k + 1, n, s =>
    let s := ledger 0x08 2 0x04 0xFF 0xFFFF 0xFF true 0 (lcDetail s n) s
    resumeSteps r k (n + 1) (burn r n (lcEffect r n s))

/-- Resume a transition from its marks: the step after the last marked one begins again. -/
def resumeTransition (s : State) : State :=
  match lcRow s with
  | none => s
  | some r =>
    let n := ((List.range (lcSteps r)).map (· + 1)).find? fun n => !(bit (s.lc.rows.getD r 0) n)
    let first := n.getD (lcSteps r + 1)
    let s := ledger 0x08 4 0x04 0xFF 0xFFFF 0xFF true 0 (lcDetail s first) s
    let s := resumeSteps r (lcSteps r + 1 - first) first s
    burn r 31 (ledger 0x08 3 0x04 0xFF 0xFFFF 0xFF true 0 (lcDetail s 0) s)

/-! ### Step 2 of the start order (R569 step 1) -/

/-- The root is lost (R484). -/
def rootFails (s : State) : Bool := allZero (sub s.glen.root 0 32) || s.glen.check != (hmac s.glen.root (ascii "mutrum check")).take 4

/-- The root check, with the record of a loss (R487). -/
def rootCheck (s : State) : State :=
  let s := { s with glen := { s.glen with rootLost := rootFails s } }
  if rootFails s ∧ ¬ s.glen.lossRecorded then
    ledger 0x04 (if s.glen.tamperLatched then 4 else 5) 0x04 0xFF 0xFFFF 0xFF false 0 ([0xFF] ++ leBytes 4 s.glen.tamper)
      { s with glen := { s.glen with lossRecorded := true } }
  else s

/-- Glen's self-test, the root check, and a transition that resumes. -/
def glenStart (env : BootEnv) (s : State) : State :=
  if ¬ env.selfTestOk then alert 0x8 { s with start := { s.start with selfTestFailed := true } }
  else
    let s := resumeTransition (rootCheck s)
    { s with start := { s.start with step := 2 }, lc := { s.lc with current := lifeCycleOf s.lc.rows } }

/-! ### Step 3 of the start order (R569 steps 2 to 6) -/

/-- The image keys of a boot, by format. -/
def bootKey (env : BootEnv) (major : Nat) : Option Bytes :=
  if major = 2 ∧ env.k3Ok then some (Config.imageKey 3) else if major = 1 ∧ env.k4Ok then some (Config.imageKey 4) else none

/-- The manifest of a set: slot A, slot B or the recovery set. -/
def setManifest (s : State) (i : Nat) : Bytes :=
  if i < 2 then slotManifest s i else sub Config.recoverySet 0 signedLength

/-- A set passes its checks and its load (R570, R571, R573). -/
def setBoots (env : BootEnv) (s : State) (i : Nat) : Bool :=
  if i < 2 then
    (slotOf s.fw.slots i).valid && (setFault (flashRead (slotOf s.fw.slots i)) (bootKey env) s.lc.security).isNone &&
      (if i = 0 then env.loadOkA else env.loadOkB)
  else (setFault (sub Config.recoverySet) (bootKey env) 0).isNone && env.loadOkRecovery

/-- The bytes of a set. -/
def setRead (s : State) (i : Nat) : Nat → Nat → Bytes := if i < 2 then flashRead (slotOf s.fw.slots i) else sub Config.recoverySet

/-- Try sets in order; each fallback is recorded and asserts ALERT_L. -/
def trySets (env : BootEnv) : List Nat → Bool → State → Option Nat × State
  | [], _, s => (none, s)
  | i :: rest, back, s =>
    let s := if back then
        alert 0x2 (ledger 0x07 (if i = 2 then 4 else 3) 0x04 0xFF 0xFFFF 0xFF true 0 (fwDetail (setManifest s i) i 0) s)
      else s
    if setBoots env s i then (some i, s) else trySets env rest true s

/-- Try images in order; each fallback is recorded and asserts ALERT_L (R459). -/
def tryImages : List Nat → Bool → State → Nat × Image × State
  | [], back, s =>
    let s := if back then alert 0x1 (ledgerSelf 0x02 5 0xFF false 0 (configDetail 2 factoryImage.serial factoryImage.digest) s) else s
    (2, factoryImage, s)
  | i :: rest, back, s =>
    let b := slotImage (slotOf s.config.slots i)
    let s := if back then alert 0x1 (ledgerSelf 0x02 5 0xFF false 0 (slotDetail02 s i) s) else s
    match imageFault b with
    | none => (i, readImage b, s)
    | some _ => tryImages rest true s

/-- The configuration image is chosen and takes effect, and the kind 0x01 record is written (R459, R472, R475). -/
def chooseImage (s : State) : State :=
  let first := ((pointerRead s.config.pointers).map (·.2.2)).getD 0
  let r := tryImages [first, 1 - first] false s
  let img := r.2.1
  let s := r.2.2
  let s := if img.lock then ledgerSelf 0x02 6 0xFF true 0 (configDetail r.1 img.serial img.digest) s else s
  let s := { s with
    config := { s.config with image := img, source := r.1, locked := img.lock }
    power := { s.power with cap := img.power.cap, current := img.power.current, throttle := img.power.throttle }
    vale := { s.vale with rate := img.sweepRate } }
  startEthernet (ledgerSelf 0x01 (if s.start.cold then 2 else 1) 0xFF false 0 (leBytes 1 r.1 ++ zeros 7 ++ sub img.digest 0 32) s)

/-- The keys of a boot (R494): none but K6 without a root (R487). -/
def bootKeys (env : BootEnv) (s : State) : State :=
  let boot := leBytes 4 s.boot
  let k := fun (n key : Nat) (ok : Bool) (s : State) => if ok then makeSlot n ⟨Config.imageKey key, attrWord 4 0 0 0 0x03⟩ s else s
  let s := if rootAlive s then
      makeSlot 5 ⟨rootKey s s.glen.measurement "mutrum ctl" boot 96, attrWord 5 0 0 0 0x23⟩
        (makeKem (makeIdentity (k 4 4 env.k4Ok (k 3 3 env.k3Ok s))))
    else s
  let rnd := freshBytes 32 s
  makeSlot 6 ⟨rootKey s s.glen.measurement "mutrum vacant" (boot ++ rnd.1) 96, attrWord 6 0 0 0 0x23⟩ rnd.2

/-- Mirror index n mod 2^20 takes record n, over what it held before (R476). -/
def mirrorPut (n : Nat) (r : Bytes) (m : Tab Bytes) : Tab Bytes := tset (if n < 2 ^ 20 then m else terase m (n - 2 ^ 20)) n r

/-- Every record so far is in the mirror: a boot lasts longer than the 10 ms of R476. -/
def mirrorAll (s : State) : State :=
  let l := s.ledger
  { s with ledger := { l with
      mirror := (l.ring.filter fun r => decide (l.mirrored ≤ r.1)).foldl (fun (m : Tab Bytes) r => mirrorPut r.1 r.2 m) l.mirror
      mirrored := l.next } }

/-- The firmware set is chosen, measured and loaded, keys are derived, and the image is chosen; or the Proend enters boot hold. -/
def bootLoad (env : BootEnv) (s : State) : State :=
  let first := ((pointerRead s.fw.pointers).map (·.2.2)).getD 0
  let r := trySets env [first, 1 - first, 2] false s
  match r with
  | (none, s) => mirrorAll (alert 0x4 { s with start := { s.start with bootHold := true } })
  | (some i, s) =>
    let m := setManifest s i
    let s := { s with
      fw := { s.fw with effect := some ⟨i, m⟩, microcode := loadStores (setRead s i) (bootKey env) }
      glen := { s.glen with measurement := measureWith m (lifeCycle s) } }
    let s := chooseImage (takeDerates env.derates (bootKeys env s))
    mirrorAll { s with start := { s.start with step := 3 } }

/-- Steps 2 and 3 of the start order together. -/
def coldBoot (env : BootEnv) (s : State) : State :=
  let s := glenStart env s
  if s.start.step = 2 then bootLoad env s else s

/-- A cold reset, up to the end of step 3 of the start order (R562). While the board holds RESET_L nothing past step 1 runs (R610). -/
def coldReset (env : BootEnv) (s : State) : State :=
  let s := { coldState s with boot := s.boot + 1 }
  let s := { s with start := { s.start with step := 1 } }
  if ¬ s.power.mainPower ∨ s.power.resetHeld then s else coldBoot env s

end Sys2Proof.Machine
end

