-- ==== Sys2Proof/Machine/Limits.lean ====
section
/-! DEFINITION. Reaching a register over the sideband (R624 to R629), and the registers that a lock or an activation holds (R12, R13,
R471, R472, R636, R637, R648). -/

namespace Sys2Proof.Machine

/-! ### Addresses (R624, R627, R629) -/

/-- A block of the address map: base, size, whether it answers while RESET_L is held, whether it lies in the Plain or Vale. -/
structure Block where
  base : Nat
  size : Nat
  held : Bool := false
  plain : Bool := false

/-- The address map. -/
def addressMap : List Block := [
  { base := 0x00000000, size := 0x1000, held := true },
  { base := 0x00001000, size := 0x1000, held := true },
  { base := 0x00002000, size := 0x1000 },
  { base := 0x00003000, size := 0x1000 },
  { base := 0x00010000, size := 0x1000 },
  { base := 0x00080000, size := 0x7D000 },
  { base := 0x00100000, size := 0x1000, plain := true },
  { base := 0x00110000, size := 0x2000, plain := true },
  { base := 0x00120000, size := 0x1000, plain := true },
  { base := 0x00121000, size := 0x1000, plain := true },
  { base := 0x00122000, size := 0x1000 },
  { base := 0x00123000, size := 0x1000, plain := true },
  { base := 0x00124000, size := 0x1000 },
  { base := 0x00125000, size := 0x1000, plain := true },
  { base := 0x00128000, size := 0x2000 },
  { base := 0x0012A000, size := 0x400 }]

/-- The status byte of an access to one word. -/
def accessStatus (s : State) (addr : Nat) : Nat :=
  if addr % 4 ≠ 0 ∨ 2 ^ 32 ≤ addr then 4
  else
    match addressMap.find? fun b => decide (b.base ≤ addr) && decide (addr < b.base + b.size) with
    | none => 2
    | some b => if (s.power.resetHeld ∧ ¬ b.held) ∨ (b.plain ∧ (s.start.bootHold ∨ s.start.step < 5)) then 3 else 0

/-- Set sticky flags of ACCESS_ERR (R635). -/
def accessErr (mask : Nat) (s : State) : State := { s with mgmt := { s.mgmt with accessErr := s.mgmt.accessErr ||| mask } }

/-- Write one word over the sideband: a write that fails is discarded and sets write_discarded. An unpowered module has no target. -/
def writeAt (addr : Nat) (f : State → State) (s : State) : State :=
  if ¬ s.power.mainPower then s else if accessStatus s addr = 0 then f s else accessErr 4 s

/-! ### RL fields (R12, R13) -/

/-- Write an RL field: after the lock nothing but the flag changes, and a value out of range is discarded. -/
def rlWrite (lo hi v : Nat) (f : State → State) (s : State) : State :=
  if s.config.locked then accessErr 1 s else if v < lo ∨ hi < v then accessErr 2 s else f s

/-- The sideband as the source of a Ledger record (R630). -/
def sidebandMsg : Msg := {}

/-- The Power fields of a state replaced by a write, which is recorded (R637). -/
def powerSet (f : Power → Power) (s : State) : State :=
  let t := { s with power := f s.power }
  powerRecord (some sidebandMsg) (powerNow s) (powerNow t) t

/-- A write of a power limit is judged and takes effect: the offset is that of R636. -/
def powerApply (off v : Nat) (s : State) : State :=
  if off = 0 then rlWrite 800 4400 (v % 2 ^ 13) (powerSet (fun p => { p with cap := v % 2 ^ 13 })) s
  else if off = 4 then rlWrite 40 140 (v % 2 ^ 8) (powerSet (fun p => { p with current := v % 2 ^ 8 })) s
  else rlWrite 85 105 (v % 2 ^ 7) (powerSet (fun p => { p with throttle := v % 2 ^ 7 })) s

/-- A write of a power limit: one that arrives during the activation of an image waits. -/
def powerWrite (off v : Nat) (s : State) : State :=
  if configBusy s then { s with held := s.held ++ [.power off v] } else powerApply off v s

/-- A write of the sweep rate, which the next sweep step takes up (R468). -/
def sweepRateSet (v : Nat) (s : State) : State :=
  rlWrite 1 32 (v % 2 ^ 5) (fun s => { s with vale := { s.vale with rate := v % 2 ^ 5 } }) s

/-- PWR_CAP_WRITE. -/
def execPwrCapWrite (value : BitVec 32) (s : State) : Host.Outcome State Fault Refusal :=
  .next (writeAt 0x2000 (powerWrite 0 value.toNat) s)

/-- CURRENT_LIMIT_WRITE. -/
def execCurrentLimitWrite (value : BitVec 32) (s : State) : Host.Outcome State Fault Refusal :=
  .next (writeAt 0x2004 (powerWrite 4 value.toNat) s)

/-- THROTTLE_TEMP_WRITE. -/
def execThrottleTempWrite (value : BitVec 32) (s : State) : Host.Outcome State Fault Refusal :=
  .next (writeAt 0x2008 (powerWrite 8 value.toNat) s)

/-- SWEEP_RATE_WRITE. -/
def execSweepRateWrite (value : BitVec 32) (s : State) : Host.Outcome State Fault Refusal :=
  .next (writeAt 0x12500C (sweepRateSet value.toNat) s)

end Sys2Proof.Machine
end

