-- ==== Sys2Proof/Machine/LifeCycle.lean ====
section
/-! DEFINITION. Life-cycle transitions (R581 to R584), debug (R585 to R587), the commands of the resets (R562 to R565), the end of a
firmware activation (R578, R579), and the steps of a teardown with what waits for them. -/

namespace Sys2Proof.Machine

/-! ### Messages and Glen -/

/-- Glen stops: every operation in progress or waiting completes as refused (R481, R486). -/
def stopGlen (s : State) : State :=
  let tickets := (s.glen.current.toList ++ s.glen.queue).filterMap fun g => match g with
    | .attest t _ _ _ => some t
    | .message t _ => some t
    | _ => none
  tickets.foldl (fun s t => finish (.ticket t) 0x1A {} s) { s with glen := { s.glen with current := none, queue := [] } }

/-! ### LC_TRANSITION (R581, R582) -/

/-- The signed part of a request, and its whole length. -/
def requestSigned : Nat := 0x650
def requestLength : Nat := 0x650 + 29792

/-- The states that a request goes from and to. -/
def reqFrom (r : Bytes) : Nat := rd r 2 1
def reqTo (r : Bytes) : Nat := rd r 3 1

/-- A root that was zeroised, or that is lost in a state that has one: only End-of-life is left (R487). -/
def rootGone (s : State) : Bool := s.glen.tamperLatched || (s.glen.rootLost && lifeCycle s != 0)

/-- The transition stands in the table of R582; after tamper End-of-life is open from any other state. -/
def lcAllowed (s : State) (old new : Nat) : Bool :=
  if rootGone s then new == 3 && decide (old < 3)
  else (old == 0 && new == 1) || (old == 1 && new == 2) || ((old == 1 || old == 2) && new == 3)

/-- The preconditions of a transition. -/
def lcReady (s : State) (new : Nat) : Bool :=
  if new = 2 then
    !Config.certificate.isEmpty && (tget s.glen.slots 3).isSome && (tget s.glen.slots 4).isSome && !s.lc.debugOpen &&
    !((List.range 16).any (taken s))
  else true

/-- The first cause that refuses a request. -/
def lcCause (s : State) (r : Bytes) : Option Nat :=
  if ¬ Config.slh256Verify (sub (Config.romKey 2) 0 64) (sub r 0 requestSigned) (sub r requestSigned 29792) then some 1
  else if sub r 0x10 32 ≠ sub Config.unitId 0 32 then some 2
  else if reqFrom r ≠ lifeCycle s then some 3
  else if ¬ lcAllowed s (reqFrom r) (reqTo r) then some 4
  else if ¬ lcReady s (reqTo r) then some 5
  else none

/-- Run the request in the buffer: it is stored, its intent is recorded, and its steps follow when that is in the mirror. A
transition in progress, or whose reset is due, ends first. -/
def lcRun (m : Msg) (s : State) : State :=
  if s.lc.ticket.isSome ∨ s.lc.resetDue then hold m s
  else
    let r := bufferRead s 0 requestLength
    match lcCause s r with
    | some c => completeResult m 0x12 [BitVec.ofNat 8 c] s
    | none =>
      if s.ledger.mirrorFault then complete m 0x1A s
      else
        let s := { s with lc := { s.lc with request := r } }
        let s := ledgerFor m 0x08 1 0xFF true 0 (lcDetail s 0) s
        deferChange m (.lifeCycle 0) { s with lc := { s.lc with ticket := some s.tickets } }

/-- LC_TRANSITION. -/
def execLcTransition (src : MsgRef) (s : State) : Host.Outcome State Fault Refusal :=
  .next (settle (withMsgRef src 0x89 (fun m s => if ¬ isManagement m then complete m 0x13 s else withGlen m lcRun s) s))

/-- The message of the transition in progress. -/
def lcMessage (s : State) : Option Msg := s.lc.ticket.bind fun t => (s.running.find? fun r => r.kind == .ticket t).map (·.msg)

/-- A record of the transition, after which a mark waits for the mirror. -/
def lcAwait (action step mark : Nat) (s : State) : State :=
  let s := ledgerBy (lcMessage s) 0x08 action 0xFF true (lcDetail s step) s
  { s with ledger := { s.ledger with deferred := s.ledger.deferred ++ [⟨s.ledger.next - 1, s.lc.ticket.getD s.tickets, .lifeCycle mark⟩] } }

/-- A step has ended: its mark is burnt, and the next step or the done mark is recorded. -/
def lcStepDone (r n : Nat) (s : State) : State :=
  let s := burn r n s
  if n < lcSteps r then lcAwait 2 (n + 1) (n + 1) s else lcAwait 3 0 31 s

/-- The first step of an End-of-life transition tears every job down. -/
def lcTear (r : Nat) (s : State) : State :=
  if s.jobs.isEmpty then lcStepDone r 1 s else tearAll 5 { s with afterJobs := s.afterJobs ++ [.lifeCycle] }

/-- A step runs. -/
def lcStep (r n : Nat) (s : State) : State :=
  if 2 ≤ r ∧ n = 1 then lcTear r s
  else lcStepDone r n (lcEffect r n (if 2 ≤ r ∧ n = 2 then stopGlen s else s))

/-- A record of the transition is in the mirror: the mark that waited for it is burnt, or its step runs. The done mark ends it: the
reset is due (R583). -/
def lcApply (mark : Nat) (s : State) : State :=
  if mark = 0 then
    let r := lcRowOf (reqFrom s.lc.request) (reqTo s.lc.request)
    lcAwait 2 1 1 (burn r 0 s)
  else
    match lcRow s with
    | none => s
    | some r =>
      if mark = 31 then
        let t := s.lc.ticket
        let s := burn r 31 s
        let s := { s with lc := { s.lc with ticket := none, resetDue := true } }
        match t with
        | none => s
        | some t => finish (.ticket t) 0x00 {} s
      else lcStep r mark s

/-- LC_RESET. -/
def execLcReset (env : BootEnv) (s : State) : Host.Outcome State Fault Refusal :=
  .next (if s.lc.resetDue then coldReset env s else s)

/-! ### Debug (R585 to R588) -/

/-- Detail of a kind 0x09 record. -/
def debugDetail (scope : Nat) (token : Bytes) : Bytes := leBytes 1 scope ++ zeros 7 ++ sha256 token ++ sub token 40 8

/-- Judge the token in the buffer; the scopes open once its record is in the mirror. -/
def debugOpenRun (m : Msg) (s : State) : State :=
  let t := bufferRead s 0 (0x40 + 29792)
  let refuse := fun (c : Nat) => completeResult m 0x12 [BitVec.ofNat 8 c] s
  if ¬ Config.slh256Verify (sub (Config.romKey 3) 0 64) (sub t 0 0x40) (sub t 0x40 29792) then refuse 1
  else if sub t 8 32 ≠ sub Config.unitId 0 32 then refuse 2
  else if rd t 4 4 ≠ s.boot then refuse 3
  else if s.ledger.mirrorFault then complete m 0x1A s
  else
    let scope := rd t 2 1 % 8
    deferChange m (.debugOpen scope t) (ledgerFor m 0x09 1 0xFF true 0 (debugDetail scope t) s)

/-- DEBUG_OPEN. -/
def execDebugOpen (ctx : Nat) (s : State) : Host.Outcome State Fault Refusal :=
  .next (settle (withMessage ctx 0x8A (fun m s => if ¬ isManagement m then complete m 0x13 s else withGlen m debugOpenRun s) s))

/-- The scopes open. -/
def openDebug (ticket scope : Nat) (token : Bytes) (s : State) : State :=
  finish (.ticket ticket) 0x00 {} { s with lc := { s.lc with debugOpen := true, scope := s.lc.scope ||| scope, token } }

/-- The record of an opening is in the mirror: in Production every job is torn down first. -/
def debugApply (ticket scope : Nat) (token : Bytes) (s : State) : State :=
  if lifeCycle s ≠ 2 ∨ s.jobs.isEmpty then openDebug ticket scope token s
  else tearAll 3 { s with afterJobs := s.afterJobs ++ [.debugOpen ticket scope token] }

/-- DEBUG_CLOSE: its warm reset follows when its record is in the mirror. -/
def execDebugClose (ctx : Nat) (s : State) : Host.Outcome State Fault Refusal :=
  .next (settle (withMessage ctx 0x8B (fun m s =>
    if ¬ isManagement m then complete m 0x13 s
    else if s.ledger.mirrorFault then complete m 0x1A s
    else deferChange m .debugClose (ledgerFor m 0x09 2 0xFF true 0 (debugDetail s.lc.scope s.lc.token) s)) s))

/-- The warm reset that closes debug. -/
def debugCloseRun (m : Msg) (s : State) : State := if resetWaits s then hold m s else startWarm none s

/-! ### What was held goes on (R469, R564, R637) -/

/-- Run a message that was held, from its judgement on. -/
def runHeld (m : Msg) (s : State) : State :=
  if msgType m.bytes = 0x10 then withGlen m jobCreateRun s
  else if msgType m.bytes = 0x74 then configActivateRun m s
  else if msgType m.bytes = 0x89 then withGlen m lcRun s
  else if msgType m.bytes = 0x8B then debugCloseRun m s
  else if arg m.bytes 0 1 = 1 then functionResetRun m s
  else warmResetRun m s

/-- Run what was held, in order; what must still wait is held again. -/
def releaseHeld (s : State) : State :=
  s.held.foldl (fun (s : State) h =>
    match h with
    | .power off v => powerWrite off v s
    | .message m => runHeld m s) { s with held := [] }

/-! ### The resets -/

/-- The message at the front of a source. -/
def frontOf (s : State) : MsgRef → Option Bytes
  | .inbox ctx => ((tget s.ctxs ctx).map (·.inbox)).getD [] |>.head?
  | .sideband b => some b

/-- The front message asks for another kind of reset (R577). -/
def otherReset (kind : Nat) (b : Bytes) : Bool :=
  msgType b == 0x8C && arg b 0 1 != kind && [1, 2, 3].contains (arg b 0 1)

/-- Start a RESET of a kind. -/
def withReset (src : MsgRef) (kind : Nat) (body : Msg → State → State) (s : State) : State :=
  match frontOf s src with
  | none => s
  | some b =>
    if otherReset kind b then s
    else withMsgRef src 0x8C (fun m s =>
      if ¬ isManagement m then complete m 0x13 s else if arg m.bytes 0 1 ≠ kind then complete m 0x12 s else body m s) s

/-- FUNCTION_RESET. -/
def execFunctionReset (src : MsgRef) (s : State) : Host.Outcome State Fault Refusal :=
  .next (settle (withReset src 1 functionResetRun s))

/-- WARM_RESET. -/
def execWarmReset (src : MsgRef) (s : State) : Host.Outcome State Fault Refusal :=
  .next (settle (withReset src 2 warmResetRun s))

/-- COLD_RESET: it waits for nothing. -/
def execColdReset (src : MsgRef) (env : BootEnv) (s : State) : Host.Outcome State Fault Refusal :=
  .next (withReset src 3 (fun _ s => coldReset env s) s)

/-! ### FIRMWARE_ACTIVATION_DONE (R578, R579) -/

/-- Every instruction cache is invalidated (R70). -/
def clearCaches (s : State) : State :=
  { s with cores := (s.cores.map fun (x : Nat × CoreSt) => (x.1, { x.2 with icache := [] })).filter fun x => x.2 != {} }

/-- A new set is in effect: its measurement, K1 anew, and the firmware pointer. -/
def takeSet (e : FwEffect) (s : State) : State :=
  let s := { s with
    glen := { s.glen with measurement := measureWith e.manifest (lifeCycle s) }
    fw := { s.fw with
      effect := some e, pointers := pointerWrite s.fw.pointers e.slot
      microcode := loadStores (flashRead (slotOf s.fw.slots e.slot)) (heldKey s) } }
  if rootAlive s then makeKem (destroySlot 2 1 s) else s

/-- The activation in progress ends: the new set is in effect, or the previous one goes on. -/
def activationDone (ok : Bool) (s : State) : State :=
  match s.fw.activating with
  | none => s
  | some (t, e) =>
    let s := clearCaches { s with fw := { s.fw with activating := none } }
    let s := if ok then finish (.ticket t) 0x00 {} (takeSet e s)
      else
        let m := (s.running.find? fun r => r.kind == .ticket t).map (·.msg)
        let s := ledgerBy m 0x07 5 0xFF false (fwDetail e.manifest e.slot 4) s
        let x := freshBytes 6 s
        finish (.ticket t) 0x12 { result := [4, 0] ++ x.1 } x.2
    releaseHeld s

/-- FIRMWARE_ACTIVATION_DONE. -/
def execFirmwareActivationDone (ok : Bool) (s : State) : Host.Outcome State Fault Refusal :=
  .next (settle (activationDone ok s))

/-! ### TEARDOWN_STEP_DONE (R57, R562, R582, R586) -/

/-- One thing that waited for every job to be Gone. -/
def afterOne (s : State) (a : AfterJobs) : State :=
  match a with
  | .warmReset _ => s
  | .debugOpen t scope token => openDebug t scope token s
  | .lifeCycle => match lcRow s with | none => s | some r => lcStepDone r 1 s

/-- The warm reset that waits for every job to be Gone. -/
def waitingWarm (s : State) : Option (Option Msg) :=
  s.afterJobs.findSome? fun a => match a with | .warmReset m => some m | _ => none

/-- What waited for every job to be Gone goes on; a warm reset ends what else waited. -/
def afterTeardown (s : State) : State :=
  if ¬ s.jobs.isEmpty ∨ s.afterJobs.isEmpty then s
  else
    match waitingWarm s with
    | some m => warmNow m s
    | none => s.afterJobs.foldl afterOne { s with afterJobs := [] }

/-- TEARDOWN_STEP_DONE. -/
def execTeardownStepDone (job : Nat) (s : State) : Host.Outcome State Fault Refusal :=
  .next (if alive s then settle (releaseHeld (afterTeardown (stepDone job s))) else s)

end Sys2Proof.Machine
end

