-- ==== Sys2Proof/Machine/Mirror.lean ====
section
/-! DEFINITION. Records that reach the Ledger's mirror, and the changes that waited for them (R476, R480); Glen's queue (R481) and
the sideband challenge (R514). -/

namespace Sys2Proof.Machine

/-! ### Changes that waited (R476) -/

/-- The validity mark of a firmware slot, where the slot still holds what was committed. -/
def markFw (ticket slot : Nat) (s : State) : State :=
  if (slotOf s.fw.slots slot).writer.isSome then finish (.ticket ticket) 0x12 {} s
  else finish (.ticket ticket) 0x00 { result := sha256 (slotManifest s slot) } (modFw slot (fun f => { f with valid := true }) s)

/-- The message of a ticket. -/
def ticketMsg (s : State) (t : Nat) : Option Msg := (s.running.find? fun r => r.kind == .ticket t).map (·.msg)

/-- A change takes effect. -/
def applyChange (t : Nat) (c : Change) (s : State) : State :=
  match c with
  | .configSelect slot =>
    finish (.ticket t) 0x00 {} { s with config := { s.config with pointers := pointerWrite s.config.pointers slot } }
  | .configActivate slot img => releaseHeld (finish (.ticket t) 0x00 {} (applyImage (ticketMsg s t) slot img s))
  | .createJob j b slots => finish (.ticket t) 0x00 {} (applyCreate j b slots s)
  | .ownerKey j own serial k n => finish (.ticket t) 0x00 {} (applyOwnerKey (ticketMsg s t) j own serial k n s)
  | .jobKey j secret slots => finish (.ticket t) 0x00 {} (keyUp j secret slots s)
  | .sweepKey j k slot =>
    let s := fillSlot (15 + k) slot s
    modJob j (fun b => { b with keys := { b.keys with newest := k } })
      { s with vale := { s.vale with keyIds := tset s.vale.keyIds k { job := j }, sweepWaits := false } }
  | .fwCommit slot => markFw t slot s
  | .fwActivate e => { s with fw := { s.fw with activating := some (t, e) } }
  | .fwRatchet n => finish (.ticket t) 0x00 {} { s with lc := { s.lc with security := max s.lc.security n } }
  | .lifeCycle mark => lcApply mark s
  | .debugOpen scope token => debugApply t scope token s
  | .debugClose =>
    match takeRunning (.ticket t) s with
    | (some m, s) => debugCloseRun m s
    | (none, s) => startWarm none s

/-- The changes whose records are in the mirror take effect, in order. -/
def applyMirrored (s : State) : State :=
  let ready := s.ledger.deferred.filter fun d => decide (d.seq < s.ledger.mirrored)
  ready.foldl (fun (s : State) d => applyChange d.ticket d.change s)
    { s with ledger := { s.ledger with deferred := s.ledger.deferred.filter fun d => !(decide (d.seq < s.ledger.mirrored)) } }

/-! ### LEDGER_MIRROR_WRITE (R476, R480) -/

/-- The oldest record that is not in the mirror. -/
def nextUnmirrored (s : State) : Option (Nat × Bytes) := s.ledger.ring.find? fun r => decide (s.ledger.mirrored ≤ r.1)

/-- The Ledger enters mirror fault: every change that waits is refused. -/
def mirrorFails (first : Nat) (s : State) : State :=
  let waiting := s.ledger.deferred
  let s := ledgerNote 1 first { s with ledger := { s.ledger with mirrorFault := true, deferred := [] }, lc := { s.lc with ticket := none } }
  releaseHeld (waiting.foldl (fun (s : State) d => finish (.ticket d.ticket) 0x1A {} s) (alert 0x1000 s))

/-- A record is written to the mirror, or the write fails; the third failure is final. -/
def mirrorWrite (ok : Bool) (s : State) : State :=
  match nextUnmirrored s with
  | none => s
  | some (n, r) =>
    if s.ledger.mirrorFault then s
    else if ok then
      applyMirrored { s with ledger := { s.ledger with mirror := mirrorPut n r s.ledger.mirror, mirrored := n + 1, failures := 0 } }
    else
      let k := s.ledger.failures + 1
      let s := { s with ledger := { s.ledger with failures := k } }
      if k < 3 then s else mirrorFails n s

/-- LEDGER_MIRROR_WRITE; the streams follow the newest record (R478). -/
def execLedgerMirrorWrite (ok : Bool) (s : State) : Host.Outcome State Fault Refusal :=
  .next (if s.power.mainPower ∧ ¬ s.power.resetHeld then settle (pumpStreams (afterTeardown (mirrorWrite ok s))) else s)

/-! ### GLEN_OPERATION_COMPLETE (R481) -/

/-- A message that waited for Glen runs. -/
def glenMessage (m : Msg) (s : State) : State :=
  match msgType m.bytes with
  | 0x10 => jobCreateRun m s
  | 0x11 => jobDestroyBody m s
  | 0x12 => attestRun m s
  | 0x13 => keyDeliverRun m s
  | 0x81 => sealRun m s
  | 0x82 => unsealRun m s
  | 0x89 => lcRun m s
  | _ => debugOpenRun m s

/-- What waits for Glen runs in order of arrival, until an attestation is in progress or nothing waits: fuel. -/
def glenDrain : Nat → State → State
  | 0, s => s
  | k + 1, s =>
    match s.glen.current, s.glen.queue with
    | none, g :: rest =>
      let s := { s with glen := { s.glen with queue := rest } }
      glenDrain k (match g with
        | .message t m => match takeRunning (.ticket t) s with | (some _, s) => glenMessage m s | (none, s) => s
        | .record sender jobId kind b => if rootAlive s then keyingRun sender jobId kind b s else s
        | .attest _ _ _ _ => s
        | .challenge => s)
    | _, _ => s

/-- The operation in progress ends. -/
def glenDone (s : State) : State :=
  match s.glen.current with
  | some (.attest t j off r) =>
    let s := attestDone t j off r { s with glen := { s.glen with current := none } }
    glenDrain s.glen.queue.length s
  | _ => s

/-- GLEN_OPERATION_COMPLETE. -/
def execGlenOperationComplete (s : State) : Host.Outcome State Fault Refusal :=
  .next (if alive s then settle (glenDone s) else s)

/-! ### The sideband challenge (R514, R647) -/

/-- The status that a response covers. -/
def challengeStatus (s : State) : Bytes :=
  leBytes 1 (lifeCycle s) ++ leBytes 1 s.lc.debugOpen.toNat ++ leBytes 1 (s.glen.tamperLatched || s.glen.rootLost).toNat ++
  leBytes 1 s.glen.tamper ++ leBytes 4 s.boot ++ leBytes 8 (s.ledger.next - 1)

/-- The response to the challenge as it stands. -/
def challengeResponse (s : State) : Bytes :=
  if rootAlive s then
    hmac (slotMaterial s 2) (ascii "mutrum sideband" ++ [0] ++ sub Config.unitId 0 32 ++ s.glen.challenge.flatMap (leBytes 4) ++ challengeStatus s)
  else zeros 32

/-- Glen can answer: a challenge waits, nothing before it does, K2 is there or gone for good, and 1 ms has passed since the last. -/
def mayRespond (s : State) : Bool :=
  s.glen.busy && !(s.glen.queue.contains .challenge) && (!rootAlive s || (tget s.glen.slots 2).isSome) &&
  (match s.glen.lastResponse with | none => true | some t => decide (t + 1000000 ≤ s.timeNs))

/-- Glen answers. -/
def respond (s : State) : State :=
  { s with glen := { s.glen with
      response := challengeResponse s, status := challengeStatus s, busy := false, ready := true, lastResponse := some s.timeNs } }

/-- GLEN_RESPONSE_DONE. -/
def execGlenResponseDone (s : State) : Host.Outcome State Fault Refusal :=
  .next (if s.power.mainPower && !s.power.resetHeld && mayRespond s then respond s else s)

/-- A write of a challenge word; the last starts a response, behind whatever Glen does (R481). While busy nothing is taken. -/
def challengeWrite (i v : Nat) (s : State) : State :=
  if s.glen.busy then accessErr 4 s
  else
    let s := { s with glen := { s.glen with challenge := setAt s.glen.challenge i v } }
    if i ≠ 7 then s
    else { s with glen := { s.glen with
      busy := true, ready := false, queue := if s.glen.current.isSome then s.glen.queue ++ [.challenge] else s.glen.queue } }

/-- GLEN_CHAL_WRITE. -/
def execGlenChalWrite (value : BitVec 32) (s : State) : Host.Outcome State Fault Refusal :=
  .next (writeAt 0x12403C (challengeWrite 7 value.toNat) s)

end Sys2Proof.Machine
end

