-- ==== Sys2Proof/Machine/Power.lean ====
section
/-! DEFINITION. The power manager: budget, grants, throttling and its reasons (R549 to R558), and the readings of R636 and R639. -/

namespace Sys2Proof.Machine

/-! ### Demand (R550) -/

/-- The factor k of a frequency in MHz. -/
def kFactor (f : Nat) : Rat := if f < 700 then (f : Rat) / 700 else 1 + (5 : Rat) / 8 * ((f : Rat) - 700) / 140

/-- A block's demand in tokens at a frequency and an activity from 0 to 1. -/
def demand (f : Nat) (a : Rat) : Nat := (80 * (1 / 4 + 31 / 4 * a) * kFactor f).ceil.toNat

/-- What the grants of a partition see of a block: its number, its ceiling and its activity. -/
abbrev BlockIn := Nat × Nat × Rat

/-- The demand of blocks at a partition's frequency. -/
def sumDemand (l : List BlockIn) (f : Nat) : Nat := l.foldl (fun n x => n + demand (min f x.2.1) x.2.2) 0

/-- The frequency steps, highest first (R551). -/
def freqSteps : List Nat := (List.range 129).map fun i => 840 - 5 * i

/-! ### What the manager sees -/

/-- The aged ceiling of a core in MHz (R94, R640). -/
def coreCeiling (s : State) (c : Nat) : Nat := 700 + 5 * agedStep s c

/-- The highest aged ceiling among the cores of a block. -/
def blockCeiling (s : State) (b : Nat) : Nat := (blockCores b).foldl (fun n c => max n (coreCeiling s c)) 0

/-- The blocks that a hint in force covers (R552). -/
def hintBlocks (s : State) (h : Hint) : List Nat :=
  match getSub s h.task.job h.task.sub with
  | none => []
  | some u => mapBlocks (partCfg s h.task.job) (u.maps.getD (dMap (u.descs.getD (h.task.desc + h.lead) [])) [])

/-- The activity of a block: as measured, or the level of a hint in force, whichever is larger (R550, R552). -/
def blockActivity (s : State) (b : Nat) : Rat :=
  let m : Rat := min 1 ((tgetD s.power.activity b 0 : Nat) / 1000)
  (s.power.hints.filter fun h => hintInForce s h && (hintBlocks s h).contains b).foldl (fun (a : Rat) h => max a ((h.level : Rat) / 255)) m

/-- The started blocks of a partition. -/
def startedBlocks (s : State) (p : Nat) : List Nat :=
  (partBlocks (s.config.image.parts.getD p {})).filter fun b => (tget s.power.blockStarted b).isSome

/-- The enabled partitions with what their grants see. -/
def grantInputs (s : State) : List (Nat × List BlockIn) :=
  ((List.range 16).filter (partOn s.config.image)).map fun p =>
    (p, (startedBlocks s p).map fun b => (b, blockCeiling s b, blockActivity s b))

/-! ### Heat (R554, R555) -/

/-- A block's sensor history is shorter than 50 ms. -/
def isYoung (s : State) (b : Nat) : Bool :=
  match tget s.power.blockStarted b with
  | none => false
  | some t => decide (s.timeNs < t + 50000000)

/-- The temperature that the manager takes for a block, in sixteenths of a degree. -/
def takenTemp (s : State) (b : Nat) : Option Int :=
  let r := tget s.power.blockTemp b
  if isYoung s b then some (max (r.getD 1360) 1360) else r

/-- What R554 takes from a block's grant, in MHz: 5 MHz return per ten intervals. -/
def cutOf (s : State) (b : Nat) : Nat := 5 * ceilDiv (tgetD s.power.blockCut b 0) 10

/-- One interval of R554 for a block. -/
def heatBlock (s : State) (b : Nat) : State :=
  let hot : Bool := match takenTemp s b with
    | none => s.power.blockHot.contains b
    | some t =>
      if 16 * (s.power.throttle : Int) < t then true
      else if t < 16 * ((s.power.throttle : Int) - 2) then false
      else s.power.blockHot.contains b
  let cut := tgetD s.power.blockCut b 0
  let rest := s.power.blockHot.filter (· != b)
  { s with power := { s.power with
    blockHot := if hot then rest ++ [b] else rest
    blockCut := tsetD s.power.blockCut b (if hot then min 1280 (cut + 40) else cut - 1) 0 } }

/-- A stack's bandwidth is halved, from above 95 °C until below 90 °C. -/
def stackHot (s : State) (k : Nat) : Bool :=
  match tget s.power.stackTemp k with
  | none => s.power.stackHalved.contains k
  | some t => decide (1520 < t) || (s.power.stackHalved.contains k && decide (1440 ≤ t))

/-- One interval of R554 for the stacks. -/
def heatStacks (s : State) : State :=
  { s with power := { s.power with stackHalved := (List.range 12).filter (stackHot s) } }

/-! ### Budget (R549, R553) -/

/-- The tokens that the cuts of R554 take at the frequencies granted last. -/
def heatTokens (s : State) (ins : List (Nat × List BlockIn)) : Nat :=
  ins.foldl (fun n p => p.2.foldl (fun n x =>
    let f := min (tgetD s.power.freq p.1 200) x.2.1
    n + (demand f x.2.2 - demand (max 200 (f - cutOf s x.1)) x.2.2)) n) 0

/-- The limit of the module in mW. -/
def powerLimit (s : State) : Nat := min (1000 * s.power.cap) (s.power.current * s.power.vinMv)

/-- The core budget in tokens, before any revocation. -/
def fullBudget (s : State) (ins : List (Nat × List BlockIn)) : Nat := (powerLimit s - s.power.noncoreMw) / 5 - heatTokens s ins

/-- The core budget. -/
def budgetOf (s : State) (ins : List (Nat × List BlockIn)) : Nat :=
  let t := fullBudget s ins
  if s.power.revoked then t * 9 / 10 else t

/-! ### Grants (R551) -/

/-- A partition's share of a budget. -/
def shareOf (s : State) (p t : Nat) : Nat := s.config.image.power.shares.getD p 0 * t / 100

/-- The highest step whose demand fits a cap; the lowest where none does. -/
def bestStep (l : List BlockIn) (cap : Nat) : Nat := (freqSteps.find? fun f => decide (sumDemand l f ≤ cap)).getD 200

/-- The demand of every partition under a plan of frequencies. -/
def planDemand (ins : List (Nat × List BlockIn)) (plan : Tab Nat) : Nat :=
  ins.foldl (fun n p => n + sumDemand p.2 (tgetD plan p.1 200)) 0

/-- The partition of the highest frequency, the lowest number first; none where all are at the lowest step. -/
def pickLower (plan : Tab Nat) : Option (Nat × Nat) :=
  plan.foldl (fun (best : Option (Nat × Nat)) x =>
    if x.2 ≤ 200 then best
    else match best with
      | none => some x
      | some y => if y.2 < x.2 then some x else best) none

/-- Lower the highest frequency step by step until the demand fits: fuel. -/
def lowerPlan (ins : List (Nat × List BlockIn)) (t : Nat) : Nat → Tab Nat → Tab Nat
  | 0, plan => plan
  | k + 1, plan =>
    if planDemand ins plan ≤ t then plan
    else match pickLower plan with
      | none => plan
      | some x => lowerPlan ins t k (tset plan x.1 (x.2 - 5))

/-- The frequencies of a budget. -/
def planFor (s : State) (ins : List (Nat × List BlockIn)) (t : Nat) : Tab Nat :=
  lowerPlan ins t (16 * 129) (ins.foldl (fun (plan : Tab Nat) p => tset plan p.1 (bestStep p.2 (shareOf s p.1 t))) [])

/-- Blocks whose array issue is held: taken in rotation from the partition's turn, as few as bring the rest within the cap; a held
block draws as an idle one. -/
def heldBlocks (l : List BlockIn) (turn cap : Nat) : List Nat :=
  let order := (l.drop (turn % max 1 l.length)) ++ l.take (turn % max 1 l.length)
  let need := (List.range (l.length + 1)).find? fun k =>
    decide (sumDemand ((order.take k).map fun x => (x.1, x.2.1, 0)) 200 + sumDemand (order.drop k) 200 ≤ cap)
  (order.take (need.getD l.length)).map (·.1)

/-- Grant frequencies: one that rises does so by no more than a bound. -/
def grantNow (rise : Nat) (s : State) : State :=
  let ins := grantInputs s
  let t := budgetOf s ins
  let plan := planFor s ins t
  let freq := plan.map fun (x : Nat × Nat) => (x.1, min x.2 (tgetD s.power.freq x.1 200 + rise))
  let held := ins.flatMap fun p => heldBlocks p.2 (tgetD s.power.turn p.1 0) (shareOf s p.1 t)
  let turn := ins.map fun p =>
    (p.1, tgetD s.power.turn p.1 0 + (heldBlocks p.2 (tgetD s.power.turn p.1 0) (shareOf s p.1 t)).length)
  { s with power := { s.power with
    budget := t, freq, issueHeld := held, turn
    granted := ins.foldl (fun n p => n + sumDemand (p.2.map fun x => if held.contains x.1 then (x.1, x.2.1, 0) else x) (tgetD freq p.1 200)) 0 } }

/-- A block's frequency in MHz: its partition's grant under its ceiling, less what heat takes; half while its clock is stretched. -/
def blockFreq (s : State) (p b : Nat) : Nat :=
  let f := max 200 (min (tgetD s.power.freq p 200) (blockCeiling s b) - cutOf s b)
  let f := if isYoung s b then min f 700 else f
  if s.power.stretched.contains b then f / 2 else f

/-- A core's clock in MHz. -/
def coreClock (s : State) (p c : Nat) : Nat := min (blockFreq s p (coreBlock c)) (coreCeiling s c)

/-! ### Throttle reasons (R557, R558) -/

/-- The binding reason of a block: 0 droop, 1 temperature, 2 current limit, 3 power cap, 4 per-core ceiling. The plan is that of the
budget without a revocation. -/
def throttleReason (s : State) (full : Tab Nat) (p b : Nat) : Option Nat :=
  let f := tgetD s.power.freq p 200
  let c := blockCeiling s b
  if s.power.stretched.contains b ∨ (s.power.revoked ∧ f < tgetD full p 200 ∧ f < c) then some 0
  else if 0 < cutOf s b ∨ (isYoung s b ∧ 700 < min f c) then some 1
  else if f < c then some (if s.power.current * s.power.vinMv < 1000 * s.power.cap then 2 else 3)
  else if (blockCores b).any fun k => decide (coreCeiling s k < min f c) then some 4
  else none

/-- Charge each interval's reasons to the partitions and to the module. -/
def chargeThrottle (s : State) : State :=
  let ins := grantInputs s
  let full := planFor s ins (fullBudget s ins)
  let rows := ins.flatMap fun p => (p.2.filterMap fun x => throttleReason s full p.1 x.1).flatMap fun r => [8 * p.1 + r, 128 + r]
  rows.eraseDups.foldl (fun (s : State) k =>
    { s with power := { s.power with throttleUs := tset s.power.throttleUs k (tgetD s.power.throttleUs k 0 + 10) } }) s

/-! ### The interval (R549, R634) -/

/-- A supply beyond the absolute maximum (R615). -/
def overMaximum (vinMv : Nat) : Bool := decide (45000 < vinMv)

/-- Alert causes whose conditions hold until the next cold reset, or the next warm or cold reset: their bits cannot be cleared. -/
def stuckAlerts (s : State) : Nat :=
  4 * s.start.bootHold.toNat + 128 * s.errors.keyFault.toNat + 2048 * s.errors.accounting.toNat + 4096 * s.ledger.mirrorFault.toNat

/-- Every alert cause whose condition persists. -/
def persistingAlerts (s : State) : Nat :=
  stuckAlerts s ||| s.power.holds ||| 8 * s.start.selfTestFailed.toNat ||| 64 * (!s.start.stackFailed.isEmpty).toNat |||
  1024 * (s.mgmt.failWarn % 32 != 0).toNat

/-- Causes that the readings show to be over. -/
def endHolds (m : PowerMeas) (h : Nat) : Nat :=
  let gone := fun (i : Nat) => (i = 4 ∧ 30000 ≤ m.vinMv) ∨ (i = 5 ∧ m.vinMv ≤ 40000) ∨ (i = 9 ∧ m.inletTemp ≤ 640)
  ((List.range 14).filter fun i => bit h i && !(decide (gone i))).foldl (fun n i => n + 2 ^ i) 0

/-- Take the readings of an interval. -/
def takeReadings (m : PowerMeas) (s : State) : State :=
  let put := fun (t : Tab Int) (l : List (Nat × Int)) (n : Nat) => (l.filter fun x => decide (x.1 < n)).foldl (fun (t : Tab Int) x => tset t x.1 x.2) t
  { s with power := { s.power with
    vinMv := m.vinMv, iinMa := m.iinMa, pinW := m.pinW, noncoreMw := m.noncoreMw
    activity := (m.activity.filter fun x => decide (x.1 < 1000)).foldl (fun (t : Tab Nat) x => tset t x.1 x.2) []
    blockTemp := put s.power.blockTemp m.blockTemps 1000
    stackTemp := put s.power.stackTemp m.stackTemps 12
    opticTemp := put s.power.opticTemp m.opticTemps 18
    inletTemp := some m.inletTemp
    holds := endHolds m s.power.holds } }

/-- One interval of 10 µs: readings, heat, grants, charges, and the causes that persist. -/
def powerPass (m : PowerMeas) (s : State) : State :=
  let s := takeReadings m s
  let s := if s.power.railsOn then
      chargeThrottle (grantNow 20 (heatStacks ((s.power.blockStarted.map (·.1)).foldl heatBlock s)))
    else s
  let s := evalWarnings (if s.errors.accounting then failWarn 32 s else s)
  alert (persistingAlerts s) s

/-- POWER_INTERVAL. -/
def execPowerInterval (meas : PowerMeas) (s : State) : Host.Outcome State Fault Refusal :=
  if overMaximum meas.vinMv then .fault .beyondAbsoluteMaximum
  else .next (if s.power.mainPower ∧ ¬ s.power.resetHeld ∧ 1 ≤ s.start.step then settle (powerPass meas s) else s)

end Sys2Proof.Machine
end

