-- ==== Sys2Proof/Machine/Supply.lean ====
section
/-! DEFINITION. Supply, droop, heat and clocks: what the board's inputs and the module's sensors do (R543, R544, R553, R556, R561,
R614, R615, R617), tamper (R485, R486), ageing (R94) and the audit (R601, R603). -/

namespace Sys2Proof.Machine

/-- An event of no job to which the manual gives neither a code nor a body: both are free values (log 27). -/
def freeEvent (s : State) : State :=
  let code := freshNat s
  let body := freshBytes 32 code.2
  mgmtEvent (code.1 % 256) body.1 body.2

/-- The management domain runs: main power is there, and step 1 of the start order has ended. -/
def managed (s : State) : Bool := s.power.mainPower && !s.power.resetHeld && decide (1 ≤ s.start.step)

/-- An alert cause whose condition goes on. -/
def alertHold (b : Nat) (s : State) : State := alert (2 ^ b) { s with power := { s.power with holds := s.power.holds ||| 2 ^ b } }

/-! ### Droop (R544, R553) -/

/-- A droop counts toward the checkpoint triggers for 60 s (R599). -/
def noteDroop (s : State) : State :=
  { s with errors := { s.errors with droops := (s.errors.droops.filter fun t => decide (s.timeNs < t + 60000000000)) ++ [s.timeNs] } }

/-- RAIL_DROOP: clocks stretch, tokens are revoked, and clocks fall by the new budget. -/
def execRailDroop (blocks : List Nat) (s : State) : Host.Outcome State Fault Refusal :=
  .next (if s.power.mainPower && s.power.railsOn then
      settle (evalWarnings (grantNow 0 (noteDroop { s with power := { s.power with
        stretched := (s.power.stretched ++ blocks.filter fun b => decide (b < 1000)).eraseDups
        railDroops := s.power.railDroops + 1, revoked := true } })))
    else s)

/-- DROOP_REVOCATION_END: the next interval grants the whole budget again. -/
def execDroopRevocationEnd (s : State) : Host.Outcome State Fault Refusal :=
  .next { s with power := { s.power with revoked := false } }

/-- CLOCK_STRETCH_END: the blocks return to their granted clocks. -/
def execClockStretchEnd (s : State) : Host.Outcome State Fault Refusal :=
  .next { s with power := { s.power with stretched := [] } }

/-- INPUT_DROOP: counted, and the budget falls to what the voltage gives. -/
def execInputDroop (vinMv : Nat) (s : State) : Host.Outcome State Fault Refusal :=
  .next (if managed s && decide (vinMv < 32000) then
      let t := noteDroop { s with power := { s.power with inputDroops := s.power.inputDroops + 1, vinMv } }
      settle (evalWarnings (if t.power.railsOn then grantNow 0 t else t))
    else s)

/-! ### Input voltage out of range (R544, R615) -/

/-- INPUT_UNDERVOLTAGE. -/
def execInputUndervoltage (vinMv : Nat) (s : State) : Host.Outcome State Fault Refusal :=
  .next (if s.power.mainPower && decide (vinMv < 30000) then
      railsOff (alertHold 4 { s with power := { s.power with vinMv } })
    else s)

/-- INPUT_OVERVOLTAGE: counted. -/
def execInputOvervoltage (vinMv : Nat) (s : State) : Host.Outcome State Fault Refusal :=
  if overMaximum vinMv then .fault .beyondAbsoluteMaximum
  else .next (if s.power.mainPower && decide (40000 < vinMv) then
      alertHold 5 { s with power := { s.power with vinMv, overVoltage := s.power.overVoltage + 1 } }
    else s)

/-- INPUT_OVERVOLTAGE_TRIP: the rails turn off, and ALERT_L is asserted as for 30 V. -/
def execInputOvervoltageTrip (vinMv : Nat) (s : State) : Host.Outcome State Fault Refusal :=
  if overMaximum vinMv then .fault .beyondAbsoluteMaximum
  else .next (if s.power.mainPower && decide (42000 < vinMv) then
      railsOff (alertHold 5 { s with power := { s.power with vinMv } })
    else s)

/-! ### Heat (R556, R561) -/

/-- How many junction sensors a class has. -/
def sensorCount (c : Nat) : Nat := if c = 0 then 1000 else if c = 1 then 12 else if c = 2 then 18 else 0

/-- THERMTRIP: the latch keeps the first sensor. -/
def execThermtrip (sensorClass sensor : Nat) (s : State) : Host.Outcome State Fault Refusal :=
  .next (if s.power.mainPower && !s.power.tripped && decide (sensor < sensorCount sensorClass) then
      railsOff { s with power := { s.power with tripped := true, tripClass := sensorClass, tripIndex := sensor } }
    else s)

/-- INLET_OVERTEMP. -/
def execInletOvertemp (reading : Int) (s : State) : Host.Outcome State Fault Refusal :=
  .next (if managed s && decide (640 < reading) then
      freeEvent (alertHold 9 { s with power := { s.power with inletTemp := some reading } })
    else s)

/-! ### Clocks (R614) -/

/-- SYSCLK_LOSS. -/
def execSysclkLoss (s : State) : Host.Outcome State Fault Refusal :=
  .next (if s.power.mainPower then railsOff (alertHold 13 { s with power := { s.power with sysclk := false } }) else s)

/-- A port goes down for a cause that event 0x08 has no number for: the number is a free value. -/
def portDownFree (n : Nat) (s : State) : State :=
  let c := freshNat s
  portDown n (c.1 % 256) c.2

/-- NETCLK_LOSS: every lit Pass port goes down, and every Ethernet link. -/
def execNetclkLoss (s : State) : Host.Outcome State Fault Refusal :=
  .next (if s.power.mainPower then
      let s := { s with power := { s.power with netclk := false } }
      let s := (List.range 32).foldl (fun (s : State) n => if (portAt s n).lit ∧ (portAt s n).st ≠ .down then portDownFree n s else s) s
      let s := (List.range 4).foldl (fun (s : State) n => modEth n (fun p =>
        if p.dark then p else { p with failed := p.failed || !p.link, link := false, paused := [], waiting := [] }) s) s
      settle (checkReady s)
    else s)

/-- NETCLK_RETURN: the lit Pass ports train again. -/
def execNetclkReturn (s : State) : Host.Outcome State Fault Refusal :=
  .next (if s.power.mainPower ∧ ¬ s.power.netclk then
      (List.range 32).foldl (fun (s : State) n =>
        if (portAt s n).lit ∧ (portAt s n).st = .down ∧ portRole s n ≠ 0 then beginFull n s else s)
        { s with power := { s.power with netclk := true } }
    else s)

/-! ### Tamper and the key store (R485, R486, R617) -/

/-- The bit of a source in the tamper-cause register (R635). -/
def tamperBit : TamperSource → Nat
  | .lidMesh => 0
  | .light => 1
  | .voltage => 2
  | .temperature => 3
  | .clock => 4

/-- Zeroisation (R486 steps 2, 3 and 5). -/
def zeroise (bits : Nat) (s : State) : State :=
  let s := zeroKeys (stopGlen s)
  { s with glen := { s.glen with tamperLatched := true, tamper := s.glen.tamper ||| bits } }

/-- TAMPER_TRIP: with main power; the compute-die rails fall after it. -/
def execTamperTrip (source : TamperSource) (s : State) : Host.Outcome State Fault Refusal :=
  .next (if s.power.mainPower then railsOff (zeroise (2 ^ tamperBit source) s) else s)

/-- TAMPER_SAMPLE: on VBAT alone. -/
def execTamperSample (lid temperature : Bool) (s : State) : Host.Outcome State Fault Refusal :=
  .next (if !s.power.mainPower && s.power.vbat && (lid || temperature) then zeroise (lid.toNat + 8 * temperature.toNat) s else s)

/-- VBAT_REMOVAL: without main power the hold-up runs out, and the key store is lost with what else runs from VBAT. -/
def execVbatRemoval (s : State) : Host.Outcome State Fault Refusal :=
  .next (if s.power.mainPower then s
    else { s with
      power := { s.power with vbat := false }
      glen := { s.glen with root := zeros 32, check := zeros 4, rootLost := true, tamper := 0, tamperLatched := false } })

/-! ### Ageing (R94 to R96) -/

/-- CEILING_DERATE. -/
def execCeilingDerate (derates : List (Nat × Nat)) (s : State) : Host.Outcome State Fault Refusal :=
  .next (if managed s then settle (evalWarnings (takeDerates derates s)) else s)

/-! ### ACCOUNTING_AUDIT (R601, R603) -/

/-- DMA tags that an engine's queue pairs hold or have quarantined. -/
def dmaTags (s : State) (port e : Nat) : Nat :=
  (s.eth.qps.filter fun q => q.2.port == port && q.1 % 12 == e).foldl (fun n q => n + q.2.quarantined) 0 + engineHeld s port e

/-- The receive buffer of a port holds more than its allotments and reserves. -/
def creditsBroken (s : State) (p : PassPort) : Bool :=
  p.st == .up && (List.range 8).any fun vc => decide (s.config.image.pass.allot.getD vc 0 + 128 < tgetD p.held vc 0)

/-- The books of a quantity of R601, by its row number, are out of balance. Mesh credits (row 2) have no books in the model. -/
def booksBroken (s : State) (row : Nat) : Bool :=
  match row with
  | 1 => s.pass.ports.any (creditsBroken s)
  | 3 => s.vale.tags.any fun x => decide (256 < x.2.held)
  | 4 => s.cache.miss.any fun x => decide (96 < x.2.length)
  | 5 => (List.range 48).any fun e => decide (256 < dmaTags s (e / 12) (e % 12))
  | 6 => decide (32 < s.config.image.mbSlots.length) || s.jobs.any fun b => decide (b.2.mbSlots.length < b.2.num.occupied.length)
  | 7 => s.jobs.any fun b => decide (basinPages b.2 < b.2.tier.basin.length)
  | 8 => s.jobs.any fun b => decide (poolFrames b.2 < b.2.tier.framesUsed.length)
  | 9 => s.jobs.any fun b => decide (b.2.carve.spillGib * 2 ^ 30 < b.2.capture.coreImages + b.2.capture.spilled.length * 4096)
  | 10 => decide (64 < s.objects.resident.length)
  | 11 => decide (16384 < (s.objects.objs.filter fun o => isFenceOrProxy o.2.data).length)
  | 12 => decide (63 < s.vale.keyIds.length)
  | 13 => decide (256 < s.pass.linkKeys.length)
  | 14 => decide (256 < s.glen.slots.length)
  | 15 => decide (65536 < s.objects.objs.length)
  | 16 => decide (4096 < s.eth.qps.length)
  | 17 => !s.power.revoked && decide (s.power.budget < s.power.granted)
  | _ => false

/-- An invariant is broken: its record, ALERT_L, and no JOB_CREATE until the next warm or cold reset. -/
def auditFails (s : State) (row : Nat) : State :=
  let r := logError { cls := 2, unit := 0x14, action := 6, location := row } s
  let s := orphanRecord r.1 r.2
  failWarn 32 (alert 0x800 { s with errors := { s.errors with accounting := true } })

/-- ACCOUNTING_AUDIT. -/
def execAccountingAudit (s : State) : Host.Outcome State Fault Refusal :=
  .next (if managed s then ((List.range 18).filter (booksBroken s)).foldl auditFails s else s)

end Sys2Proof.Machine
end

