-- ==== Sys2Proof/Machine/Startup.lean ====
section
/-! DEFINITION. The start order (R545 to R548), loss and return of main power (R563), and the reset that the board holds (R610). -/

namespace Sys2Proof.Machine

/-! ### Power-enable, power loss, RESET_L (R545, R563, R610) -/

/-- POWER_ENABLE: a power-up, with both reference clocks. -/
def execPowerEnable (s : State) : Host.Outcome State Fault Refusal :=
  .next (if s.power.mainPower then s
    else
      let t := coldState s
      { t with
        boot := s.boot + 1
        power := { t.power with mainPower := true, sysclk := true, netclk := true }
        start := {} })

/-- POWER_LOSS: a cold reset in the dark. It clears the trip, and the sideband's address goes; VBAT holds the key store. -/
def execPowerLoss (s : State) : Host.Outcome State Fault Refusal :=
  .next (if s.power.mainPower then
      let t := coldState s
      { t with
        power := { t.power with mainPower := false, resetHeld := false, vbat := true, shut := false, tripped := false, tripClass := 0, tripIndex := 0 }
        start := {}
        i3c := {} }
    else s)

/-- BOARD_RESET: a cold reset held at the end of step 1. -/
def execBoardReset (s : State) : Host.Outcome State Fault Refusal :=
  .next (if s.power.mainPower ∧ ¬ s.power.resetHeld then
      let t := coldState s
      { t with
        boot := s.boot + 1
        power := { t.power with resetHeld := true }
        start := { t.start with step := 1 } }
    else s)

/-- RESET_L_RELEASE: the start order goes on from step 2. -/
def execResetLRelease (s : State) : Host.Outcome State Fault Refusal :=
  .next { s with power := { s.power with resetHeld := false } }

/-! ### The steps (R545, R548) -/

/-- Step 4 ends: every stack is ready, or those that failed keep the Proend from becoming ready. -/
def stacksReady (failed : List Nat) (s : State) : State :=
  let failed := failed.filter fun k => decide (k < 12)
  if failed.isEmpty then { s with power := { s.power with railsOn := true }, start := { s.start with step := 4 } }
  else alert 0x40 { s with start := { s.start with stackFailed := failed } }

/-- Step 5 ends: Vale is clear, except after a warm reset. -/
def valeReady (s : State) : State :=
  { s with
    vale := if s.start.warm then s.vale else { rate := s.vale.rate }
    start := { s.start with step := 5 } }

/-- Ethernet training has ended: an enabled port without a link has failed. -/
def ethTrained (s : State) : State :=
  { s with eth := { s.eth with ports := s.eth.ports.zipIdx.map fun x =>
      if (s.config.image.eth.getD x.2 {}).mask ≠ 0 ∧ ¬ x.1.link then { x.1 with failed := true } else x.1 } }

/-- A step of the start order ends. -/
def stepOfStart (env : StartEnv) (s : State) : State :=
  match s.start.step with
  | 0 => { s with start := { s.start with step := 1 } }
  | 1 => if s.power.resetHeld ∨ s.start.selfTestFailed then s else glenStart env.boot s
  | 2 => if s.start.bootHold then s else bootLoad env.boot s
  | 3 => if s.power.shut ∨ s.power.tripped ∨ ¬ s.start.stackFailed.isEmpty then s else stacksReady env.stacksFailed s
  | 4 => if s.start.groups < 100 then s else valeReady s
  | 5 => if s.start.lasers < 16 then s else checkReady { s with start := { s.start with step := 6 } }
  | 6 => checkReady (ethTrained s)
  | _ => s

/-- START_STEP_DONE. -/
def execStartStepDone (env : StartEnv) (s : State) : Host.Outcome State Fault Refusal :=
  .next (if s.power.mainPower then stepOfStart env s else s)

/-! ### Blocks (R547, R548) -/

/-- Blocks raise their rails: those of an enabled partition that have not failed. -/
def startBlocks (l : List Nat) (s : State) : State :=
  let go := l.filter fun b => (blockPart s.config.image b).isSome && !(s.start.blockFailed.contains b)
  { s with power := { s.power with blockStarted := go.foldl (fun (t : Tab Nat) b => tset t b s.timeNs) s.power.blockStarted } }

/-- The next 250 µs slot: a group of the start order, or at most ten blocks that an activation left to start. -/
def blockSlot (s : State) : State :=
  if s.start.step = 4 ∧ s.start.groups < 100 then
    let i := s.start.groups
    startBlocks ((List.range 10).map fun k => 10 * i + k) { s with start := { s.start with groups := i + 1 } }
  else startBlocks (s.start.toStart.take 10) { s with start := { s.start with toStart := s.start.toStart.drop 10 } }

/-- BLOCK_GROUP_START. -/
def execBlockGroupStart (s : State) : Host.Outcome State Fault Refusal :=
  .next (if s.power.mainPower ∧ s.power.railsOn then blockSlot s else s)

/-- A started block whose rail is not in regulation is marked failed, and an event goes out. -/
def blockFails (b : Nat) (s : State) : State :=
  if (tget s.power.blockStarted b).isNone then s
  else freeEvent { s with
    power := { s.power with blockStarted := terase s.power.blockStarted b }
    start := { s.start with blockFailed := (s.start.blockFailed.filter (· != b)) ++ [b] } }

/-- BLOCK_RAIL_TIMEOUT. -/
def execBlockRailTimeout (block : Nat) (s : State) : Host.Outcome State Fault Refusal :=
  .next (if s.power.mainPower ∧ s.power.railsOn then blockFails block s else s)

/-! ### Lasers (R545, R548, R358) -/

/-- The laser of a Pass port: an unused port stays dark; one that fails its bias check is down; after a warm reset a port that had a
peer retrains fast. -/
def lightPass (failed : List Nat) (s : State) (n : Nat) : State :=
  if portRole s n = 0 then s
  else if failed.contains n then
    portDownFree n (modPort n (fun p => { p with lit := false }) { s with start := { s.start with laserFailed := s.start.laserFailed ++ [n] } })
  else
    let p := portAt s n
    let s := modPort n (fun p => { p with lit := true }) s
    if p.st = .training ∧ p.fast ∧ p.step = 0 then beginFast n s else s

/-- The laser of an Ethernet port, numbered from 32 among those that fail. -/
def lightEth (failed : List Nat) (n : Nat) (s : State) : State :=
  if (s.config.image.eth.getD n {}).mask = 0 then s
  else if failed.contains (32 + n) then
    modEth n (fun p => { p with failed := true }) { s with start := { s.start with laserFailed := s.start.laserFailed ++ [32 + n] } }
  else modEth n (fun p => { p with dark := false }) s

/-- The next laser step. -/
def laserNext (failed : List Nat) (s : State) : State :=
  let n := s.start.lasers
  let s := [2 * n, 2 * n + 1].foldl (lightPass failed) { s with start := { s.start with lasers := n + 1 } }
  if n < 4 then lightEth failed n s else s

/-- LASER_STEP. -/
def execLaserStep (failed : List Nat) (s : State) : Host.Outcome State Fault Refusal :=
  .next (if s.power.mainPower ∧ s.power.railsOn ∧ s.start.step = 5 ∧ s.start.lasers < 16 then settle (laserNext failed s) else s)

end Sys2Proof.Machine
end

