-- ==== Sys2Proof/Machine/Registers.lean ====
section
/-! DEFINITION. The registers of the management address space as a read returns them (R628, R631 to R650). -/

namespace Sys2Proof.Machine

/-- A number whose bits are truth values, bit 0 first. -/
def boolBits (l : List Bool) : Nat := l.reverse.foldl (fun n b => 2 * n + b.toNat) 0

/-- Word `i` of a byte string. -/
def wordAt (b : Bytes) (i : Nat) : Nat := rd b (4 * i) 4

/-! ### Counters of 64 bits (R628) -/

/-- Counters of a job index (R642): a live job's, or those kept since its teardown. -/
def countersOf (s : State) (j : Nat) : List Nat :=
  match tget s.jobs j with
  | some b => jobCounters s j b
  | none => tgetD s.mgmt.kept j []

/-- The throttle counter at an offset of its table (R638). -/
def throttleAt (s : State) (o : Nat) : Option Nat :=
  if o % 64 < 40 ∧ o < 0x440 ∧ o % 8 = 0 then some (tgetD s.power.throttleUs (o / 64 * 8 + o % 64 / 8) 0) else none

/-- The counter of a port at an offset within its 256 bytes (R649, R650). -/
def portCounter (l : List Nat) (o : Nat) : Option Nat := if 8 ≤ o ∧ o % 8 = 0 then l[(o - 8) / 8]? else none

/-- The counter whose low word lies at an address. -/
def counterAt (s : State) (a : Nat) : Option Nat :=
  if a = 0x2080 then some s.power.railDroops
  else if a = 0x2088 then some s.power.inputDroops
  else if 0x2100 ≤ a ∧ a < 0x3000 then throttleAt s (a - 0x2100)
  else if 0x110000 ≤ a ∧ a < 0x112000 ∧ a % 8 = 0 ∧ a % 256 ≤ 0x70 then some ((countersOf s ((a - 0x110000) / 256)).getD (a % 256 / 8) 0)
  else if a = 0x121008 then some s.errors.lost
  else if 0x128000 ≤ a ∧ a < 0x12A000 then portCounter (portAt s ((a - 0x128000) / 256)).counters (a % 256)
  else if 0x12A000 ≤ a ∧ a < 0x12A400 then portCounter (s.eth.ports.getD ((a - 0x12A000) / 256) {}).counters (a % 256)
  else none

/-! ### Identification and status (R631 to R635) -/

/-- The set in effect, with its security version, serial and slot. -/
def effectField (s : State) (f : FwEffect → Nat) : Nat := (s.fw.effect.map f).getD 0

/-- A word of the identification block. -/
def identWord (s : State) (o : Nat) : Nat :=
  if o = 0x00 then 0x8012
  else if o = 0x04 then 0xB0
  else if o = 0x08 then lifeCycle s + 256 * s.lc.debugOpen.toNat
  else if o = 0x0C then deviceAddress s
  else if o = 0x10 then effectField s (fun e => mSerial e.manifest) % 2 ^ 32
  else if o = 0x14 then effectField s (fun e => mSerial e.manifest) / 2 ^ 32
  else if o = 0x18 then effectField s (fun e => mSecurity e.manifest) + 2 ^ 8 * s.lc.security + 2 ^ 16 * effectField s (·.slot)
  else if o = 0x1C then s.config.source + 4 * s.config.locked.toNat
  else if 0x20 ≤ o ∧ o < 0x40 then wordAt (sub Config.unitId 0 32) ((o - 0x20) / 4)
  else if 0x40 ≤ o ∧ o < 0x60 then wordAt s.glen.measurement ((o - 0x40) / 4)
  else if o = 0x60 then s.boot % 2 ^ 32
  else 0

/-- DEVICE_STATE (R632). -/
def deviceState (s : State) : Nat :=
  boolBits [s.start.ready, s.glen.rootLost || s.glen.tamperLatched, s.errors.keyFault, s.errors.accounting, !s.start.blockFailed.isEmpty,
    !s.start.stackFailed.isEmpty, s.power.resetHeld, s.lc.debugOpen, s.power.tripped, s.glen.tamperLatched, s.ledger.mirrorFault,
    s.start.bootHold] + 2 ^ 12 * s.start.step

/-- A word of the status block. -/
def statusWord (s : State) (o : Nat) : Nat :=
  if o = 0x00 then deviceState s
  else if o = 0x04 then s.mgmt.alert
  else if o = 0x08 then s.mgmt.alertIbi
  else if o = 0x0C then s.mgmt.failWarn
  else if o = 0x10 then s.mgmt.accessErr
  else if o = 0x14 then s.glen.tamper
  else if o = 0x18 then if s.power.tripped then 2 ^ 31 + 2 ^ 16 * s.power.tripClass + s.power.tripIndex else 0
  else if 0x100 ≤ o ∧ o < 0x180 then
    boolBits ((List.range 32).map fun i => s.start.blockFailed.contains (32 * ((o - 0x100) / 4) + i))
  else 0

/-! ### Power and temperatures (R636, R639, R640) -/

/-- A word of the power block. -/
def powerWord (s : State) (o : Nat) : Nat :=
  if o = 0x00 then s.power.cap
  else if o = 0x04 then s.power.current
  else if o = 0x08 then s.power.throttle
  else if o = 0x10 then s.power.vinMv % 2 ^ 16
  else if o = 0x14 then s.power.iinMa % 2 ^ 18
  else if o = 0x18 then s.power.pinW % 2 ^ 13
  else if o = 0x1C then s.power.budget % 2 ^ 20
  else if 0x20 ≤ o ∧ o < 0x60 then tgetD s.power.freq ((o - 0x20) / 4) 0
  else 0

/-- A temperature register. -/
def tempWord (t : Option Int) : Nat := match t with | none => 0 | some t => 2 ^ 16 + (t % 65536).toNat

/-- A word of the stack, optical and coolant temperatures. -/
def coolWord (s : State) (o : Nat) : Nat :=
  if o < 0x30 then tempWord (tget s.power.stackTemp (o / 4))
  else if 0x40 ≤ o ∧ o < 0x88 then tempWord (tget s.power.opticTemp ((o - 0x40) / 4))
  else if o = 0x100 then tempWord s.power.inletTemp
  else 0

/-- The ceilings of a core. -/
def ceilingWord (s : State) (o : Nat) : Nat :=
  match (blockCores (o / 512))[o % 512 / 4]? with
  | none => 0
  | some c => if o / 512 < 1000 then agedStep s c + 256 * (Config.fusedStep c).val else 0

/-! ### Numeric flags, windows, Ledger (R641, R644 to R646) -/

/-- FLAGS of a job index. -/
def flagsWord (s : State) (j : Nat) : Nat :=
  if (tget s.jobs j).isNone then 0
  else
    flagBits (gatheredFlags s j)

/-- A word of the numeric event log window. -/
def nlogWord (s : State) (o : Nat) : Nat :=
  if o = 0x00 then s.mgmt.nlogJob
  else if o = 0x04 then ((tget s.jobs s.mgmt.nlogJob).map fun b => b.num.logHead % 2 ^ 32).getD 0
  else if o = 0x08 then s.mgmt.nlogSelect
  else if o = 0x0C then s.mgmt.nlogStatus
  else if 0x20 ≤ o ∧ o < 0x40 then wordAt s.mgmt.nlogData ((o - 0x20) / 4)
  else 0

/-- A word of the error log window. -/
def errWord (s : State) (o : Nat) : Nat :=
  if o = 0x00 then s.errors.number
  else if o = 0x10 then s.mgmt.errSelect
  else if o = 0x14 then s.mgmt.errStatus
  else if 0x40 ≤ o ∧ o < 0x80 then wordAt s.mgmt.errData ((o - 0x40) / 4)
  else 0

/-- A word of the Ledger block. -/
def ledgerWord (s : State) (o : Nat) : Nat :=
  if o = 0x00 then (s.ledger.next - 1) % 2 ^ 32
  else if o = 0x04 then s.mgmt.ledgerHigh
  else if 0x20 ≤ o ∧ o < 0x40 then wordAt s.mgmt.ledgerHead ((o - 0x20) / 4)
  else if o = 0x40 then (s.ledger.mirrored - 1) % 2 ^ 32
  else if o = 0x44 then (s.ledger.mirrored - 1) / 2 ^ 32
  else if o = 0x48 then s.mgmt.ledgerSelect % 2 ^ 32
  else if o = 0x4C then s.mgmt.ledgerSelect / 2 ^ 32
  else if o = 0x50 then s.mgmt.ledgerStatus
  else if 0x80 ≤ o ∧ o < 0x100 then wordAt s.mgmt.ledgerData ((o - 0x80) / 4)
  else 0

/-- A word of the state-header window. -/
def headerWord (s : State) (o : Nat) : Nat :=
  if o = 0x00 then s.mgmt.shJob
  else if o = 0x04 then s.mgmt.shTensor
  else if o = 0x08 then s.mgmt.shPage
  else if o = 0x0C then s.mgmt.shStatus
  else if o = 0x10 then s.mgmt.shMoment % 2 ^ 32
  else if o = 0x14 then s.mgmt.shMoment / 2 ^ 32
  else if o = 0x18 then s.mgmt.shWeight % 2 ^ 32
  else if o = 0x1C then s.mgmt.shWeight / 2 ^ 32
  else if o = 0x20 then s.mgmt.shScanStep % 2 ^ 32
  else if o = 0x24 then s.mgmt.shScanStep / 2 ^ 32
  else if o = 0x28 then s.mgmt.shScanKt
  else if o = 0x30 then s.mgmt.shFirst
  else if o = 0x34 then s.mgmt.shRun
  else 0

/-! ### Glen mailbox, Vale, ports (R647 to R650) -/

/-- A word of the Glen mailbox. -/
def glenWord (s : State) (o : Nat) : Nat :=
  if o = 0x00 then s.glen.slotSelect
  else if o = 0x04 then ((tget s.glen.slots s.glen.slotSelect).map (·.attr)).getD 0
  else if o = 0x08 then boolBits [s.glen.busy, s.glen.ready, s.glen.tamperLatched]
  else if 0x20 ≤ o ∧ o < 0x40 then s.glen.challenge.getD ((o - 0x20) / 4) 0
  else if 0x40 ≤ o ∧ o < 0x60 then wordAt s.glen.response ((o - 0x40) / 4)
  else if 0x60 ≤ o ∧ o < 0x70 then wordAt s.glen.status ((o - 0x60) / 4)
  else 0

/-- SWEEP_STATE. -/
def sweepState (s : State) : Nat :=
  match s.vale.sweep with
  | none => 0
  | some w => 2 ^ 31 + 2 ^ 24 * (regionOf s w.region).key + 2 ^ 16 * ((regionOf s w.region).previous.getD 0) + w.region

/-- KEYID_COUNTS: key id 0 is always active (R328). -/
def keyIdCounts (s : State) : Nat :=
  let retiring := (s.vale.keyIds.filter fun k => k.2.retiring).length
  let held := s.vale.keyIds.length
  2 ^ 16 * (63 - held) + 2 ^ 8 * (1 + held - retiring) + retiring

/-- A link key id whose job has announced its retirement (R382). -/
def linkRetiring (s : State) (l : LinkKey) : Bool :=
  match (tget s.jobs l.job).bind (·.teardown) with
  | some (n, _) => decide (5 ≤ n)
  | none => false

/-- LINKID_COUNTS. -/
def linkIdCounts (s : State) : Nat :=
  let retiring := (s.pass.linkKeys.filter fun l => linkRetiring s l.2).length
  let held := s.pass.linkKeys.length
  2 ^ 18 * (256 - held) + 2 ^ 9 * (held - retiring) + retiring

/-- A word of the Vale block. -/
def valeWord (s : State) (o : Nat) : Nat :=
  if o = 0x00 then sweepState s
  else if o = 0x04 then (s.vale.sweep.map (·.cursor)).getD 0
  else if o = 0x08 then s.vale.sweepQueue.length + 2 ^ 31 * s.vale.sweepWaits.toNat
  else if o = 0x0C then s.vale.rate % 2 ^ 5
  else if o = 0x10 then keyIdCounts s
  else if o = 0x14 then linkIdCounts s
  else 0

/-- The code of a Pass port's state. -/
def portCode : PortState → Nat
  | .dark => 0
  | .training => 1
  | .up => 2
  | .down => 3

/-- A word of a Pass port other than its counters. -/
def passWord (s : State) (n o : Nat) : Nat :=
  let p := portAt s n
  if o = 0 then
    2 ^ 24 * (if p.st = .training then p.step else 0) + 2 ^ 20 * portRole s n + 2 ^ 18 * portCode p.st + 2 ^ 16 * p.plp +
    2 ^ 15 * p.half.toNat + 2 ^ 14 * p.reversed.toNat
  else if o = 4 then 2 ^ 31 * p.peerValid.toNat + p.peer
  else 0

/-- ETH_STATE: dark, down or up. -/
def ethWord (s : State) (n o : Nat) : Nat :=
  let p := s.eth.ports.getD n {}
  if o ≠ 0 then 0 else if p.link then 2 else if p.dark ∧ ¬ p.failed then 0 else 1

/-! ### Reads -/

/-- The word at an address: a counter's low word, the latched high word of one, or a register; zero where there is none (R14). -/
def registerWord (s : State) (a : Nat) : Nat :=
  match counterAt s a with
  | some c => c % 2 ^ 32
  | none =>
    if 4 ≤ a ∧ (counterAt s (a - 4)).isSome then tgetD s.mgmt.high (a - 4) 0
    else if a < 0x1000 then identWord s a
    else if a < 0x2000 then statusWord s (a - 0x1000)
    else if a < 0x3000 then powerWord s (a - 0x2000)
    else if a < 0x4000 then coolWord s (a - 0x3000)
    else if 0x10000 ≤ a ∧ a < 0x11000 then (if a < 0x10000 + 4000 then tempWord (tget s.power.blockTemp ((a - 0x10000) / 4)) else 0)
    else if 0x80000 ≤ a ∧ a < 0xFD000 then ceilingWord s (a - 0x80000)
    else if 0x100000 ≤ a ∧ a < 0x101000 then flagsWord s ((a - 0x100000) / 4)
    else if 0x120000 ≤ a ∧ a < 0x121000 then nlogWord s (a - 0x120000)
    else if 0x121000 ≤ a ∧ a < 0x122000 then errWord s (a - 0x121000)
    else if 0x122000 ≤ a ∧ a < 0x123000 then ledgerWord s (a - 0x122000)
    else if 0x123000 ≤ a ∧ a < 0x124000 then headerWord s (a - 0x123000)
    else if 0x124000 ≤ a ∧ a < 0x125000 then glenWord s (a - 0x124000)
    else if 0x125000 ≤ a ∧ a < 0x126000 then valeWord s (a - 0x125000)
    else if 0x128000 ≤ a ∧ a < 0x12A000 then passWord s ((a - 0x128000) / 256) (a % 256)
    else if 0x12A000 ≤ a ∧ a < 0x12A400 then ethWord s ((a - 0x12A000) / 256) (a % 256)
    else 0

/-- What a read of a word latches: a counter's high word, or the Ledger head's high word and digest (R628, R645). -/
def latch (a : Nat) (s : State) : State :=
  if a = 0x122000 then
    { s with mgmt := { s.mgmt with ledgerHigh := (s.ledger.next - 1) / 2 ^ 32, ledgerHead := s.ledger.headDigest } }
  else
    match counterAt s a with
    | some c => { s with mgmt := { s.mgmt with high := tset s.mgmt.high a (c / 2 ^ 32 % 2 ^ 32) } }
    | none => s

/-- Read one word over the sideband (R626, R627). -/
def readAt (a : Nat) (s : State) : State :=
  if ¬ s.power.mainPower then s
  else
    let st := accessStatus s a
    if st ≠ 0 then emit (.sideband (leBytes 1 st)) s
    else emit (.sideband (0 :: leBytes 4 (registerWord s a))) (latch a s)

/-- COUNTER_LOW_READ. -/
def execCounterLowRead (address : Nat) (s : State) : Host.Outcome State Fault Refusal := .next (readAt address s)

/-- LEDGER_SEQ_LO_READ. -/
def execLedgerSeqLoRead (s : State) : Host.Outcome State Fault Refusal := .next (readAt 0x122000 s)

end Sys2Proof.Machine
end

