-- ==== Sys2Proof/Machine/Sideband.lean ====
section
/-! DEFINITION. Writes of the management registers (R12 to R14, R128, R634, R635, R641, R643 to R647), the result of a sideband
message (R626), and the I3C target (R611). -/

namespace Sys2Proof.Machine

/-! ### RW1C registers (R634, R635, R128) -/

/-- The bits of a number below `n` that another does not have, but for those of a third. -/
def clearBits (n v clear keep : Nat) : Nat :=
  ((List.range n).filter fun i => bit v i && (!(bit clear i) || bit keep i)).foldl (fun a i => a + 2 ^ i) 0

/-- Clear alert causes: those whose condition lasts until a reset stay (R634). -/
def alertClear (v : Nat) (s : State) : State :=
  { s with mgmt := { s.mgmt with alert := clearBits 14 s.mgmt.alert v (stuckAlerts s) } }

/-- ALERT_STATUS_WRITE. -/
def execAlertStatusWrite (value : BitVec 32) (s : State) : Host.Outcome State Fault Refusal :=
  .next (writeAt 0x1004 (alertClear value.toNat) s)

/-- Clear failure warnings. -/
def failwarnClear (v : Nat) (s : State) : State := { s with mgmt := { s.mgmt with failWarn := clearBits 6 s.mgmt.failWarn v 0 } }

/-- FAILWARN_WRITE. -/
def execFailwarnWrite (value : BitVec 32) (s : State) : Host.Outcome State Fault Refusal :=
  .next (writeAt 0x100C (failwarnClear value.toNat) s)

/-- Clear access-error flags. -/
def accessErrClear (v : Nat) (s : State) : State := { s with mgmt := { s.mgmt with accessErr := clearBits 3 s.mgmt.accessErr v 0 } }

/-- ACCESS_ERR_WRITE. -/
def execAccessErrWrite (value : BitVec 32) (s : State) : Host.Outcome State Fault Refusal :=
  .next (writeAt 0x1010 (accessErrClear value.toNat) s)

/-- Clear gathered flags of a job that is held. -/
def flagsClear (j v : Nat) (s : State) : State := if (tget s.jobs j).isSome then clearFlags j v s else s

/-- FLAGS_WRITE. -/
def execFlagsWrite (job : Nat) (value : BitVec 32) (s : State) : Host.Outcome State Fault Refusal :=
  .next (if job < 32 then writeAt (0x100000 + 4 * job) (flagsClear job value.toNat) s else s)

/-! ### The log windows (R643, R644) -/

/-- The record with a number, modulo 2^32, of a ring that holds the latest ones before a head. -/
def ringRecord (log : List Bytes) (head n : Nat) : Option Bytes :=
  let back := (head % 2 ^ 32 + 2 ^ 32 - 1 - n % 2 ^ 32) % 2 ^ 32
  if back < log.length then log[log.length - 1 - back]? else none

/-- Select a numeric event record. -/
def nlogPick (v : Nat) (s : State) : State :=
  let r := (tget s.jobs s.mgmt.nlogJob).bind fun b => ringRecord b.num.log b.num.logHead v
  { s with mgmt := { s.mgmt with nlogSelect := v, nlogStatus := r.isSome.toNat, nlogData := r.getD (zeros 32) } }

/-- NLOG_SELECT_WRITE. -/
def execNlogSelectWrite (value : BitVec 32) (s : State) : Host.Outcome State Fault Refusal :=
  .next (writeAt 0x120008 (nlogPick value.toNat) s)

/-- Select an error record. -/
def errPick (v : Nat) (s : State) : State :=
  let r := ringRecord s.errors.log s.errors.number v
  { s with mgmt := { s.mgmt with errSelect := v, errStatus := r.isSome.toNat, errData := r.getD (zeros 64) } }

/-- ERR_SELECT_WRITE. -/
def execErrSelectWrite (value : BitVec 32) (s : State) : Host.Outcome State Fault Refusal :=
  .next (writeAt 0x121010 (errPick value.toNat) s)

/-! ### The Ledger's selection (R645) -/

/-- Write the low word of the selection. -/
def ledgerPickLow (v : Nat) (s : State) : State :=
  { s with mgmt := { s.mgmt with ledgerSelect := s.mgmt.ledgerSelect / 2 ^ 32 * 2 ^ 32 + v } }

/-- Write the high word: the ring serves at once, the mirror later, or nothing is selected. -/
def ledgerPick (v : Nat) (s : State) : State :=
  let n := v * 2 ^ 32 + s.mgmt.ledgerSelect % 2 ^ 32
  let s := { s with mgmt := { s.mgmt with ledgerSelect := n, ledgerFetch := none, ledgerStatus := 0 } }
  match tget s.ledger.ring n with
  | some b => { s with mgmt := { s.mgmt with ledgerStatus := 1, ledgerData := b } }
  | none =>
    if (tget s.ledger.mirror n).isSome then { s with mgmt := { s.mgmt with ledgerFetch := some n } }
    else { s with mgmt := { s.mgmt with ledgerData := zeros 128 } }

/-- LEDGER_SELECT_WRITE: of the high word. -/
def execLedgerSelectWrite (value : BitVec 32) (s : State) : Host.Outcome State Fault Refusal :=
  .next (writeAt 0x12204C (ledgerPick value.toNat) s)

/-- A selection that the mirror serves arrives; the mirror may have gone over it. -/
def ledgerFetched (s : State) : State :=
  match s.mgmt.ledgerFetch with
  | none => s
  | some n =>
    let s := { s with mgmt := { s.mgmt with ledgerFetch := none } }
    match tget s.ledger.mirror n with
    | some b => { s with mgmt := { s.mgmt with ledgerStatus := 3, ledgerData := b } }
    | none => { s with mgmt := { s.mgmt with ledgerData := zeros 128 } }

/-- LEDGER_SELECT_DONE. -/
def execLedgerSelectDone (s : State) : Host.Outcome State Fault Refusal :=
  .next (if s.power.mainPower ∧ ¬ s.power.resetHeld then ledgerFetched s else s)

/-! ### The state-header window (R646) -/

/-- The pages of the selected tensor, where it is an M48 tensor. -/
def headerPages (b : Job) (t : Nat) : Option Nat :=
  (tget b.tensors t).bind fun e => if fmtOf (tFmt e.raw) = some .m48 then some (pageCount (tExts e.raw)) else none

/-- A page's header entry. -/
def headerEntry (b : Job) (t page : Nat) : Nat × Nat :=
  let root := rootOf b.tensors t
  match viewOf b 0 0 none t, viewOf b 0 0 none root with
  | some v, some rv => headerAt b (root, headerPage v rv page)
  | _, _ => headerAt b (root, page)

/-- A scan runs. -/
def scanning (s : State) : Bool := bit s.mgmt.shStatus 1

/-- Write a register of the window: discarded while a scan runs. -/
def windowWrite (f : Mgmt → Mgmt) (s : State) : State := if scanning s then accessErr 4 s else { s with mgmt := f s.mgmt }

/-- The entry of a page of the selected tensor, where there is one. -/
def selectedEntry (s : State) (page : Nat) : Option (Nat × Nat) :=
  (tget s.jobs s.mgmt.shJob).bind fun b =>
    (headerPages b s.mgmt.shTensor).bind fun n => if page < n then some (headerEntry b s.mgmt.shTensor page) else none

/-- Select a page. -/
def pagePick (v : Nat) (s : State) : State :=
  let e := selectedEntry s v
  windowWrite (fun m => { m with shPage := v, shStatus := e.isSome.toNat, shMoment := (e.map (·.1)).getD 0, shWeight := (e.map (·.2)).getD 0 }) s

/-- SH_PAGE_WRITE. -/
def execShPageWrite (value : BitVec 32) (s : State) : Host.Outcome State Fault Refusal :=
  .next (writeAt 0x123008 (pagePick value.toNat) s)

/-- Start a scan from a page. -/
def scanBegin (v : Nat) (s : State) : State := windowWrite (fun m => { m with shStart := v, shStatus := m.shStatus % 2 + 2 }) s

/-- SH_SCAN. -/
def execShScan (value : BitVec 32) (s : State) : Host.Outcome State Fault Refusal :=
  .next (writeAt 0x12302C (scanBegin value.toNat) s)

/-- Pages from `p` on that hold a step in both fields: fuel. A run ends before a page that is a multiple of KT. -/
def runLength (ok : Nat → Bool) (kt : Nat) : Nat → Nat → Bool → Nat
  | 0, _, _ => 0
  | k + 1, p, first => if ok p && (first || kt == 0 || p % kt != 0) then 1 + runLength ok kt k (p + 1) false else 0

/-- What a scan finds: its first page and the run from it. -/
def scanResult (s : State) : Nat × Nat :=
  let n := ((tget s.jobs s.mgmt.shJob).bind fun b => headerPages b s.mgmt.shTensor).getD 0
  let ok := fun (p : Nat) => selectedEntry s p == some (s.mgmt.shScanStep, s.mgmt.shScanStep)
  match ((List.range (n - s.mgmt.shStart)).map fun i => s.mgmt.shStart + i).find? ok with
  | none => (0xFFFFFFFF, 0)
  | some p => (p, runLength ok s.mgmt.shScanKt (n - p) p true)

/-- SH_SCAN_DONE. -/
def execShScanDone (s : State) : Host.Outcome State Fault Refusal :=
  .next (if s.power.mainPower ∧ ¬ s.power.resetHeld ∧ scanning s then
      let r := scanResult s
      { s with mgmt := { s.mgmt with shStatus := s.mgmt.shStatus % 2, shFirst := r.1, shRun := r.2 } }
    else s)

/-! ### REGISTER_WRITE (R12) -/

/-- Write a register of the status block. -/
def statusPut (o v : Nat) (s : State) : State :=
  if o = 0x04 then alertClear v s
  else if o = 0x08 then { s with mgmt := { s.mgmt with alertIbi := v % 2 ^ 14 } }
  else if o = 0x0C then failwarnClear v s
  else if o = 0x10 then accessErrClear v s
  else s

/-- Write a register of the state-header window. -/
def headerPut (o v : Nat) (s : State) : State :=
  if o = 0x00 then windowWrite (fun m => { m with shJob := v % 2 ^ 5 }) s
  else if o = 0x04 then windowWrite (fun m => { m with shTensor := v % 2 ^ 16 }) s
  else if o = 0x08 then pagePick v s
  else if o = 0x20 then windowWrite (fun m => { m with shScanStep := m.shScanStep / 2 ^ 32 * 2 ^ 32 + v }) s
  else if o = 0x24 then windowWrite (fun m => { m with shScanStep := v * 2 ^ 32 + m.shScanStep % 2 ^ 32 }) s
  else if o = 0x28 then windowWrite (fun m => { m with shScanKt := v % 2 ^ 24 }) s
  else if o = 0x2C then scanBegin v s
  else s

/-- Write a register of the Glen mailbox. -/
def glenPut (o v : Nat) (s : State) : State :=
  if o = 0x00 then { s with glen := { s.glen with slotSelect := v % 2 ^ 8 } }
  else if 0x20 ≤ o ∧ o < 0x40 then challengeWrite ((o - 0x20) / 4) v s
  else s

/-- Write the register at an address by its access code; a write to a read-only one, or where none is, is ignored (R12, R14). -/
def registerPut (a v : Nat) (s : State) : State :=
  if 0x1000 ≤ a ∧ a < 0x2000 then statusPut (a - 0x1000) v s
  else if a = 0x2000 ∨ a = 0x2004 ∨ a = 0x2008 then powerWrite (a - 0x2000) v s
  else if 0x100000 ≤ a ∧ a < 0x100080 then flagsClear ((a - 0x100000) / 4) v s
  else if a = 0x120000 then { s with mgmt := { s.mgmt with nlogJob := v % 2 ^ 5 } }
  else if a = 0x120008 then nlogPick v s
  else if a = 0x121010 then errPick v s
  else if a = 0x122048 then ledgerPickLow v s
  else if a = 0x12204C then ledgerPick v s
  else if 0x123000 ≤ a ∧ a < 0x124000 then headerPut (a - 0x123000) v s
  else if 0x124000 ≤ a ∧ a < 0x125000 then glenPut (a - 0x124000) v s
  else if a = 0x12500C then sweepRateSet v s
  else s

/-- REGISTER_WRITE. -/
def execRegisterWrite (address : Nat) (value : BitVec 32) (s : State) : Host.Outcome State Fault Refusal :=
  .next (writeAt address (registerPut address value.toNat) s)

/-! ### SIDEBAND_RESULT (R626, R627) -/

/-- SIDEBAND_RESULT: busy, or the completion of the last message. While RESET_L is held it is not available (R610, R629). -/
def execSidebandResult (s : State) : Host.Outcome State Fault Refusal :=
  .next (if ¬ s.power.mainPower then s
    else if s.power.resetHeld then emit (.sideband [3]) s
    else if s.mgmt.busy then emit (.sideband [1]) s
    else emit (.sideband (0 :: s.mgmt.result)) s)

/-! ### The I3C target (R611) -/

/-- The target answers a command: it is powered and has a dynamic address. -/
def addressed (s : State) : Bool := s.power.mainPower && s.i3c.address.isSome

/-- Give the target a dynamic address, where it has none. -/
def takeAddress (a : Nat) (s : State) : State :=
  if s.power.mainPower ∧ s.i3c.address.isNone ∧ a < 128 then { s with i3c := { s.i3c with address := some a } } else s

/-- ENTDAA: the target answers with its identifier and characteristics, and takes the address. -/
def execEntdaa (address : Nat) (s : State) : Host.Outcome State Fault Refusal :=
  .next (takeAddress address
    (if s.power.mainPower ∧ s.i3c.address.isNone then
      emit (.i3c (leBytes 6 (Config.i3cValue 0) ++ leBytes 1 (Config.i3cValue 1) ++ leBytes 1 (Config.i3cValue 2))) s
    else s))

/-- SETDASA, to the static address 0x5C. -/
def execSetdasa (address : Nat) (s : State) : Host.Outcome State Fault Refusal := .next (takeAddress address s)

/-- RSTDAA. -/
def execRstdaa (s : State) : Host.Outcome State Fault Refusal :=
  .next (if s.power.mainPower then { s with i3c := { s.i3c with address := none } } else s)

/-- ENEC: in-band interrupts are enabled. -/
def execEnec (s : State) : Host.Outcome State Fault Refusal :=
  .next (if addressed s then { s with i3c := { s.i3c with ibiEnabled := true } } else s)

/-- DISEC. -/
def execDisec (s : State) : Host.Outcome State Fault Refusal :=
  .next (if addressed s then { s with i3c := { s.i3c with ibiEnabled := false } } else s)

/-- GETPID. -/
def execGetpid (s : State) : Host.Outcome State Fault Refusal :=
  .next (if addressed s then emit (.i3c (leBytes 6 (Config.i3cValue 0))) s else s)

/-- GETBCR. -/
def execGetbcr (s : State) : Host.Outcome State Fault Refusal :=
  .next (if addressed s then emit (.i3c (leBytes 1 (Config.i3cValue 1))) s else s)

/-- GETDCR. -/
def execGetdcr (s : State) : Host.Outcome State Fault Refusal :=
  .next (if addressed s then emit (.i3c (leBytes 1 (Config.i3cValue 2))) s else s)

/-- GETSTATUS: the manual gives its two bytes no layout; they are a free value. -/
def execGetstatus (s : State) : Host.Outcome State Fault Refusal :=
  .next (if addressed s then
      let x := freshBytes 2 s
      emit (.i3c x.1) x.2
    else s)

end Sys2Proof.Machine
end

