-- ==== Sys2Proof/Machine/Dispatch.lean ====
section
/-! DEFINITION. The dispatch: one arm for each command, a direct call of its meaning. -/

namespace Sys2Proof.Machine

def exec (i : Instr) (s : State) : Host.Outcome State Fault Refusal :=
  match i with
  | .hello ctx => Sys2Proof.Machine.execHello ctx s
  | .qpCreate ctx => Sys2Proof.Machine.execQpCreate ctx s
  | .windowOpen ctx => Sys2Proof.Machine.execWindowOpen ctx s
  | .groupCreate ctx => Sys2Proof.Machine.execGroupCreate ctx s
  | .steppeAttach ctx => Sys2Proof.Machine.execSteppeAttach ctx s
  | .tierMoveFetch ctx => Sys2Proof.Machine.execTierMoveFetch ctx s
  | .tierMoveEvict ctx => Sys2Proof.Machine.execTierMoveEvict ctx s
  | .jobCreate ctx => Sys2Proof.Machine.execJobCreate ctx s
  | .jobDestroy ctx => Sys2Proof.Machine.execJobDestroy ctx s
  | .teardownStepDone job => Sys2Proof.Machine.execTeardownStepDone job s
  | .attest ctx => Sys2Proof.Machine.execAttest ctx s
  | .keyDeliver ctx => Sys2Proof.Machine.execKeyDeliver ctx s
  | .ingress ctx => Sys2Proof.Machine.execIngress ctx s
  | .ingressComplete job tensor => Sys2Proof.Machine.execIngressComplete job tensor s
  | .tensorDefine ctx => Sys2Proof.Machine.execTensorDefine ctx s
  | .tensorRelease ctx => Sys2Proof.Machine.execTensorRelease ctx s
  | .programCreate ctx => Sys2Proof.Machine.execProgramCreate ctx s
  | .programSubmit ctx => Sys2Proof.Machine.execProgramSubmit ctx s
  | .programAbort ctx => Sys2Proof.Machine.execProgramAbort ctx s
  | .fenceCreate ctx => Sys2Proof.Machine.execFenceCreate ctx s
  | .fenceImport ctx => Sys2Proof.Machine.execFenceImport ctx s
  | .fenceSignal ctx => Sys2Proof.Machine.execFenceSignal ctx s
  | .fenceWait ctx => Sys2Proof.Machine.execFenceWait ctx s
  | .fenceQuery ctx => Sys2Proof.Machine.execFenceQuery ctx s
  | .objectDestroy ctx => Sys2Proof.Machine.execObjectDestroy ctx s
  | .objectFree obj => Sys2Proof.Machine.execObjectFree obj s
  | .messageWaitRelease ctx => Sys2Proof.Machine.execMessageWaitRelease ctx s
  | .ckptSetup ctx => Sys2Proof.Machine.execCkptSetup ctx s
  | .ckptTrigger ctx => Sys2Proof.Machine.execCkptTrigger ctx s
  | .ckptStatus ctx => Sys2Proof.Machine.execCkptStatus ctx s
  | .restore ctx manifest chunk => Sys2Proof.Machine.execRestore ctx manifest chunk s
  | .stateImport ctx manifest header index => Sys2Proof.Machine.execStateImport ctx manifest header index s
  | .stateImportComplete job chunks => Sys2Proof.Machine.execStateImportComplete job chunks s
  | .configErase src => Sys2Proof.Machine.execConfigErase src s
  | .configWrite src => Sys2Proof.Machine.execConfigWrite src s
  | .configCommit src => Sys2Proof.Machine.execConfigCommit src s
  | .configSelect src => Sys2Proof.Machine.execConfigSelect src s
  | .configActivate src => Sys2Proof.Machine.execConfigActivate src s
  | .ledgerAnchor ctx => Sys2Proof.Machine.execLedgerAnchor ctx s
  | .ledgerStream ctx => Sys2Proof.Machine.execLedgerStream ctx s
  | .ledgerStop ctx => Sys2Proof.Machine.execLedgerStop ctx s
  | .certRead ctx => Sys2Proof.Machine.execCertRead ctx s
  | .jobKeySeal ctx => Sys2Proof.Machine.execJobKeySeal ctx s
  | .jobKeyUnseal ctx => Sys2Proof.Machine.execJobKeyUnseal ctx s
  | .fwErase src => Sys2Proof.Machine.execFwErase src s
  | .fwWrite src => Sys2Proof.Machine.execFwWrite src s
  | .fwCommit src => Sys2Proof.Machine.execFwCommit src s
  | .fwActivate src => Sys2Proof.Machine.execFwActivate src s
  | .fwRatchet src => Sys2Proof.Machine.execFwRatchet src s
  | .reqWrite src => Sys2Proof.Machine.execReqWrite src s
  | .lcTransition src => Sys2Proof.Machine.execLcTransition src s
  | .lcReset env => Sys2Proof.Machine.execLcReset env s
  | .debugOpen ctx => Sys2Proof.Machine.execDebugOpen ctx s
  | .debugClose ctx => Sys2Proof.Machine.execDebugClose ctx s
  | .functionReset src => Sys2Proof.Machine.execFunctionReset src s
  | .warmReset src => Sys2Proof.Machine.execWarmReset src s
  | .coldReset src env => Sys2Proof.Machine.execColdReset src env s
  | .nop t => Sys2Proof.Machine.execNop t s
  | .spanBegin t => Sys2Proof.Machine.execSpanBegin t s
  | .spanEnd t => Sys2Proof.Machine.execSpanEnd t s
  | .spanCommit job sub span => Sys2Proof.Machine.execSpanCommit job sub span s
  | .spanDiscard job sub span => Sys2Proof.Machine.execSpanDiscard job sub span s
  | .spanRerun job sub span => Sys2Proof.Machine.execSpanRerun job sub span s
  | .fenceWaitDescriptor t => Sys2Proof.Machine.execFenceWaitDescriptor t s
  | .fenceSignalDescriptor t => Sys2Proof.Machine.execFenceSignalDescriptor t s
  | .phaseHint t => Sys2Proof.Machine.execPhaseHint t s
  | .bubbleOpen t => Sys2Proof.Machine.execBubbleOpen t s
  | .blockLend partition block => Sys2Proof.Machine.execBlockLend partition block s
  | .bubbleWindowClose partition window => Sys2Proof.Machine.execBubbleWindowClose partition window s
  | .blockReturn partition block => Sys2Proof.Machine.execBlockReturn partition block s
  | .matmul t ecc => Sys2Proof.Machine.execMatmul t ecc s
  | .matmulDx t => Sys2Proof.Machine.execMatmulDx t s
  | .matmulDw t => Sys2Proof.Machine.execMatmulDw t s
  | .matmulAlt t => Sys2Proof.Machine.execMatmulAlt t s
  | .attentionFwd t => Sys2Proof.Machine.execAttentionFwd t s
  | .attentionBwd t => Sys2Proof.Machine.execAttentionBwd t s
  | .norm t => Sys2Proof.Machine.execNorm t s
  | .normBwd t => Sys2Proof.Machine.execNormBwd t s
  | .softmax t => Sys2Proof.Machine.execSoftmax t s
  | .elementwise t => Sys2Proof.Machine.execElementwise t s
  | .reduce t => Sys2Proof.Machine.execReduce t s
  | .cast t => Sys2Proof.Machine.execCast t s
  | .transposeCopy t => Sys2Proof.Machine.execTransposeCopy t s
  | .copy t => Sys2Proof.Machine.execCopy t s
  | .fill t => Sys2Proof.Machine.execFill t s
  | .scatterReduce t => Sys2Proof.Machine.execScatterReduce t s
  | .saddleGather t => Sys2Proof.Machine.execSaddleGather t s
  | .saddleStagingResume slice set => Sys2Proof.Machine.execSaddleStagingResume slice set s
  | .allGather t => Sys2Proof.Machine.execAllGather t s
  | .reduceScatter t => Sys2Proof.Machine.execReduceScatter t s
  | .allReduce t => Sys2Proof.Machine.execAllReduce t s
  | .send t => Sys2Proof.Machine.execSend t s
  | .receive t => Sys2Proof.Machine.execReceive t s
  | .verdict t => Sys2Proof.Machine.execVerdict t s
  | .verdictComplete job word => Sys2Proof.Machine.execVerdictComplete job word s
  | .stash t => Sys2Proof.Machine.execStash t s
  | .unstash t => Sys2Proof.Machine.execUnstash t s
  | .optimiserStep t => Sys2Proof.Machine.execOptimiserStep t s
  | .momentTask t page => Sys2Proof.Machine.execMomentTask t page s
  | .weightTask t page => Sys2Proof.Machine.execWeightTask t page s
  | .digest t => Sys2Proof.Machine.execDigest t s
  | .statistics t => Sys2Proof.Machine.execStatistics t s
  | .release t => Sys2Proof.Machine.execRelease t s
  | .releaseComplete job release ok => Sys2Proof.Machine.execReleaseComplete job release ok s
  | .ingressWait t => Sys2Proof.Machine.execIngressWait t s
  | .taskBoundary t unit => Sys2Proof.Machine.execTaskBoundary t unit s
  | .fenceWaitTimeout wait => Sys2Proof.Machine.execFenceWaitTimeout wait s
  | .collectiveTimeout t => Sys2Proof.Machine.execCollectiveTimeout t s
  | .transferTimeout t => Sys2Proof.Machine.execTransferTimeout t s
  | .fenceEvictionDone slot => Sys2Proof.Machine.execFenceEvictionDone slot s
  | .plainCacheAccess req ecc => Sys2Proof.Machine.execPlainCacheAccess req ecc s
  | .missQueueDequeue slice => Sys2Proof.Machine.execMissQueueDequeue slice s
  | .lineFill slice line first second ecc => Sys2Proof.Machine.execLineFill slice line first second ecc s
  | .valeRequestAccept pchan => Sys2Proof.Machine.execValeRequestAccept pchan s
  | .valeRead req first second => Sys2Proof.Machine.execValeRead req first second s
  | .valeFullLineWrite req data => Sys2Proof.Machine.execValeFullLineWrite req data s
  | .valePartialWrite req mask data first second => Sys2Proof.Machine.execValePartialWrite req mask data first second s
  | .sweepStart => Sys2Proof.Machine.execSweepStart s
  | .sweepStep first second => Sys2Proof.Machine.execSweepStep first second s
  | .blockedWriteResume => Sys2Proof.Machine.execBlockedWriteResume s
  | .keyIdRetire key => Sys2Proof.Machine.execKeyIdRetire key s
  | .keyIdFree key => Sys2Proof.Machine.execKeyIdFree key s
  | .fetchFrameResume job => Sys2Proof.Machine.execFetchFrameResume job s
  | .steppeChunkArrival job page chunk record => Sys2Proof.Machine.execSteppeChunkArrival job page chunk record s
  | .evictionComplete job page => Sys2Proof.Machine.execEvictionComplete job page s
  | .basinFold job basin => Sys2Proof.Machine.execBasinFold job basin s
  | .plpHello port bytes => Sys2Proof.Machine.execPlpHello port bytes s
  | .creditInit port bytes => Sys2Proof.Machine.execCreditInit port bytes s
  | .creditReturn port bytes => Sys2Proof.Machine.execCreditReturn port bytes s
  | .ack port bytes => Sys2Proof.Machine.execAck port bytes s
  | .nak port bytes => Sys2Proof.Machine.execNak port bytes s
  | .idle port bytes => Sys2Proof.Machine.execIdle port bytes s
  | .ackTimer port => Sys2Proof.Machine.execAckTimer port s
  | .creditReturnTimer port => Sys2Proof.Machine.execCreditReturnTimer port s
  | .idleTimer port => Sys2Proof.Machine.execIdleTimer port s
  | .uncorrectableCodeword port vc units forwarded => Sys2Proof.Machine.execUncorrectableCodeword port vc units forwarded s
  | .abortMarker port vc units => Sys2Proof.Machine.execAbortMarker port vc units s
  | .transitForward port bytes ecc => Sys2Proof.Machine.execTransitForward port bytes ecc s
  | .plp1Forward port bytes => Sys2Proof.Machine.execPlp1Forward port bytes s
  | .data port bytes ecc => Sys2Proof.Machine.execData port bytes ecc s
  | .clearToSend port bytes => Sys2Proof.Machine.execClearToSend port bytes s
  | .placementAck port bytes => Sys2Proof.Machine.execPlacementAck port bytes s
  | .readRequest port bytes => Sys2Proof.Machine.execReadRequest port bytes s
  | .readData port bytes => Sys2Proof.Machine.execReadData port bytes s
  | .fenceSignalPacket port bytes => Sys2Proof.Machine.execFenceSignalPacket port bytes s
  | .keyRetirement port bytes => Sys2Proof.Machine.execKeyRetirement port bytes s
  | .jobFaultNotice port bytes => Sys2Proof.Machine.execJobFaultNotice port bytes s
  | .errorPacket port bytes => Sys2Proof.Machine.execErrorPacket port bytes s
  | .barrierRequest port bytes => Sys2Proof.Machine.execBarrierRequest port bytes s
  | .barrierEnter port bytes => Sys2Proof.Machine.execBarrierEnter port bytes s
  | .memberArrived job arrived => Sys2Proof.Machine.execMemberArrived job arrived s
  | .barrierReport port bytes => Sys2Proof.Machine.execBarrierReport port bytes s
  | .barrierConfirm port bytes => Sys2Proof.Machine.execBarrierConfirm port bytes s
  | .barrierRelease port bytes => Sys2Proof.Machine.execBarrierRelease port bytes s
  | .barrierTimeout job => Sys2Proof.Machine.execBarrierTimeout job s
  | .shardWriteComplete job ok => Sys2Proof.Machine.execShardWriteComplete job ok s
  | .shardDone port bytes => Sys2Proof.Machine.execShardDone port bytes s
  | .manifestWriteComplete job ok => Sys2Proof.Machine.execManifestWriteComplete job ok s
  | .manifestWritten port bytes => Sys2Proof.Machine.execManifestWritten port bytes s
  | .abandon port bytes => Sys2Proof.Machine.execAbandon port bytes s
  | .restoreCheck port bytes => Sys2Proof.Machine.execRestoreCheck port bytes s
  | .restoreGo port bytes => Sys2Proof.Machine.execRestoreGo port bytes s
  | .restoreRefuse port bytes => Sys2Proof.Machine.execRestoreRefuse port bytes s
  | .restoreLoadComplete job shard => Sys2Proof.Machine.execRestoreLoadComplete job shard s
  | .restoreDone port bytes => Sys2Proof.Machine.execRestoreDone port bytes s
  | .keyingReportRequest sender jobId => Sys2Proof.Machine.execKeyingReportRequest sender jobId s
  | .leadReport sender jobId record => Sys2Proof.Machine.execLeadReport sender jobId record s
  | .memberReport sender jobId record => Sys2Proof.Machine.execMemberReport sender jobId record s
  | .jobKeyDelivery sender jobId record => Sys2Proof.Machine.execJobKeyDelivery sender jobId record s
  | .keyingRefusal sender jobId cause => Sys2Proof.Machine.execKeyingRefusal sender jobId cause s
  | .keyingRetryTimer job => Sys2Proof.Machine.execKeyingRetryTimer job s
  | .portTraining port => Sys2Proof.Machine.execPortTraining port s
  | .trainingStepDone port reversed => Sys2Proof.Machine.execTrainingStepDone port reversed s
  | .clockLockTimeout port => Sys2Proof.Machine.execClockLockTimeout port s
  | .fastRetrain port => Sys2Proof.Machine.execFastRetrain port s
  | .lightAbsent port lane => Sys2Proof.Machine.execLightAbsent port lane s
  | .noValidPacket port => Sys2Proof.Machine.execNoValidPacket port s
  | .fullTrainingRetry port => Sys2Proof.Machine.execFullTrainingRetry port s
  | .rdmaWrite qp rkey offset data fetches ecc => Sys2Proof.Machine.execRdmaWrite qp rkey offset data fetches ecc s
  | .rdmaWriteWithImmediate qp rkey offset data imm fetches => Sys2Proof.Machine.execRdmaWriteWithImmediate qp rkey offset data imm fetches s
  | .rdmaRead qp => Sys2Proof.Machine.execRdmaRead qp s
  | .atomic qp => Sys2Proof.Machine.execAtomic qp s
  | .rdmaAck qp segments ecc => Sys2Proof.Machine.execRdmaAck qp segments ecc s
  | .rcNak qp => Sys2Proof.Machine.execRcNak qp s
  | .rcAckTimeout qp => Sys2Proof.Machine.execRcAckTimeout qp s
  | .congestionExperienced qp => Sys2Proof.Machine.execCongestionExperienced qp s
  | .congestionNotification qp => Sys2Proof.Machine.execCongestionNotification qp s
  | .ratePeriod qp => Sys2Proof.Machine.execRatePeriod qp s
  | .pause port priority => Sys2Proof.Machine.execPause port priority s
  | .resume port priority => Sys2Proof.Machine.execResume port priority s
  | .ethLinkLoss port => Sys2Proof.Machine.execEthLinkLoss port s
  | .ethLinkReturn port => Sys2Proof.Machine.execEthLinkReturn port s
  | .powerInterval meas => Sys2Proof.Machine.execPowerInterval meas s
  | .railDroop blocks => Sys2Proof.Machine.execRailDroop blocks s
  | .droopRevocationEnd => Sys2Proof.Machine.execDroopRevocationEnd s
  | .inputDroop vinMv => Sys2Proof.Machine.execInputDroop vinMv s
  | .inputUndervoltage vinMv => Sys2Proof.Machine.execInputUndervoltage vinMv s
  | .inputOvervoltage vinMv => Sys2Proof.Machine.execInputOvervoltage vinMv s
  | .inputOvervoltageTrip vinMv => Sys2Proof.Machine.execInputOvervoltageTrip vinMv s
  | .thermtrip sensorClass sensor => Sys2Proof.Machine.execThermtrip sensorClass sensor s
  | .inletOvertemp reading => Sys2Proof.Machine.execInletOvertemp reading s
  | .powerEnable => Sys2Proof.Machine.execPowerEnable s
  | .startStepDone env => Sys2Proof.Machine.execStartStepDone env s
  | .blockGroupStart => Sys2Proof.Machine.execBlockGroupStart s
  | .blockRailTimeout block => Sys2Proof.Machine.execBlockRailTimeout block s
  | .laserStep failed => Sys2Proof.Machine.execLaserStep failed s
  | .powerLoss => Sys2Proof.Machine.execPowerLoss s
  | .boardReset => Sys2Proof.Machine.execBoardReset s
  | .resetLRelease => Sys2Proof.Machine.execResetLRelease s
  | .sysclkLoss => Sys2Proof.Machine.execSysclkLoss s
  | .netclkLoss => Sys2Proof.Machine.execNetclkLoss s
  | .tamperTrip source => Sys2Proof.Machine.execTamperTrip source s
  | .tamperSample lid temperature => Sys2Proof.Machine.execTamperSample lid temperature s
  | .ceilingDerate derates => Sys2Proof.Machine.execCeilingDerate derates s
  | .checkpointTimer job => Sys2Proof.Machine.execCheckpointTimer job s
  | .accountingAudit => Sys2Proof.Machine.execAccountingAudit s
  | .microcodeReloadDone quarter => Sys2Proof.Machine.execMicrocodeReloadDone quarter s
  | .ledgerMirrorWrite ok => Sys2Proof.Machine.execLedgerMirrorWrite ok s
  | .glenResponseDone => Sys2Proof.Machine.execGlenResponseDone s
  | .ledgerSelectDone => Sys2Proof.Machine.execLedgerSelectDone s
  | .shScanDone => Sys2Proof.Machine.execShScanDone s
  | .alertStatusWrite value => Sys2Proof.Machine.execAlertStatusWrite value s
  | .failwarnWrite value => Sys2Proof.Machine.execFailwarnWrite value s
  | .accessErrWrite value => Sys2Proof.Machine.execAccessErrWrite value s
  | .flagsWrite job value => Sys2Proof.Machine.execFlagsWrite job value s
  | .pwrCapWrite value => Sys2Proof.Machine.execPwrCapWrite value s
  | .currentLimitWrite value => Sys2Proof.Machine.execCurrentLimitWrite value s
  | .throttleTempWrite value => Sys2Proof.Machine.execThrottleTempWrite value s
  | .sweepRateWrite value => Sys2Proof.Machine.execSweepRateWrite value s
  | .nlogSelectWrite value => Sys2Proof.Machine.execNlogSelectWrite value s
  | .errSelectWrite value => Sys2Proof.Machine.execErrSelectWrite value s
  | .ledgerSelectWrite value => Sys2Proof.Machine.execLedgerSelectWrite value s
  | .shPageWrite value => Sys2Proof.Machine.execShPageWrite value s
  | .shScan value => Sys2Proof.Machine.execShScan value s
  | .glenChalWrite value => Sys2Proof.Machine.execGlenChalWrite value s
  | .counterLowRead address => Sys2Proof.Machine.execCounterLowRead address s
  | .ledgerSeqLoRead => Sys2Proof.Machine.execLedgerSeqLoRead s
  | .registerWrite address value => Sys2Proof.Machine.execRegisterWrite address value s
  | .sidebandResult => Sys2Proof.Machine.execSidebandResult s
  | .entdaa address => Sys2Proof.Machine.execEntdaa address s
  | .setdasa address => Sys2Proof.Machine.execSetdasa address s
  | .rstdaa => Sys2Proof.Machine.execRstdaa s
  | .enec => Sys2Proof.Machine.execEnec s
  | .disec => Sys2Proof.Machine.execDisec s
  | .getpid => Sys2Proof.Machine.execGetpid s
  | .getbcr => Sys2Proof.Machine.execGetbcr s
  | .getdcr => Sys2Proof.Machine.execGetdcr s
  | .getstatus => Sys2Proof.Machine.execGetstatus s
  | .rdmaSend qp bytes => Sys2Proof.Machine.execRdmaSend qp bytes s
  | .rnrNak qp => Sys2Proof.Machine.execRnrNak qp s
  | .netclkReturn => Sys2Proof.Machine.execNetclkReturn s
  | .vbatRemoval => Sys2Proof.Machine.execVbatRemoval s
  | .trainingStepTimeout port => Sys2Proof.Machine.execTrainingStepTimeout port s
  | .glenOperationComplete => Sys2Proof.Machine.execGlenOperationComplete s
  | .firmwareActivationDone ok => Sys2Proof.Machine.execFirmwareActivationDone ok s
  | .clockStretchEnd => Sys2Proof.Machine.execClockStretchEnd s

end Sys2Proof.Machine
end

