-- ==== Sys2Proof/Machine/Idle.lean ====
section
/-! DEFINITION. What passes while no command waits: the time of the Ledger and the events counts nanoseconds since
power-on by the 100 MHz management clock (R477, log 3), and with it the time counters of R279. -/

namespace Sys2Proof.Machine

/-- One period of the management clock, while main power and SYSCLK are there. -/
def idle (s : State) : State :=
  if s.power.mainPower ∧ s.power.sysclk then bubbleTick { s with timeNs := s.timeNs + 10 } else s

end Sys2Proof.Machine
end

