-- ==== Sys2Proof/Safety.lean ====
section
/-! DEFINITION. Safe outcomes: a step that neither stops beyond the absolute maximum of R615 nor is refused; and what holds of every
safe state: byte memories in canonical form, a Ledger whose records form one chain (R474, R476), fuses that only ever gain marks; and
when a message may start. -/

namespace Sys2Proof.Machine

/-- The outcome is a next state. -/
def completes (o : Host.Outcome State Fault Refusal) : Bool :=
  match o with
  | .next _ => true
  | .fault _ => false
  | .refused _ => false

/-- The outcome is not a refusal. -/
def notRefused (o : Host.Outcome State Fault Refusal) : Bool :=
  match o with
  | .next _ => true
  | .fault _ => true
  | .refused _ => false

/-- Vale and every tile store are in canonical form. -/
def memoriesWf (s : State) : Prop := s.vale.mem.wf = true ∧ ∀ x ∈ s.cores, x.2.tile.wf = true

/-- The Ledger holds a record under a number, in its ring or in its mirror. -/
def holdsRecord (l : Ledger) (n : Nat) (r : Bytes) : Prop := (n, r) ∈ l.ring ∨ (n, r) ∈ l.mirror

/-- The chain of R474: a number has one record, every record held is numbered below the next, its last 32 bytes are the digest of its predecessor where that
is held too, the head digest is that of the newest record, and the mirror runs no further than the records (R476). -/
structure Chained (l : Ledger) : Prop where
  one : ∀ n r r', holdsRecord l n r → holdsRecord l n r' → r = r'
  below : ∀ n r, holdsRecord l n r → n < l.next
  mirrorBelow : ∀ n r, (n, r) ∈ l.mirror → n < l.mirrored
  mirroredLe : l.mirrored ≤ l.next
  head : ∀ n r, holdsRecord l n r → n + 1 = l.next → l.headDigest = sha256 r
  link : ∀ n r r', holdsRecord l n r → holdsRecord l (n + 1) r' → r'.drop 96 = sha256 r

/-- A fuse mark is set (R581, R582). -/
def marked (l : LifeCycle) (row mark : Nat) : Prop := bit (l.rows.getD row 0) mark = true

/-! ### When a command starts -/

/-- The message that is first in a context's inbox may start (R428, R429, R431 to R435): the Proend is ready, the message is of
the type, its wait fence does not hold it, and the checks that every message meets find nothing. -/
structure Front (s : State) (ctx typ : Nat) (m : Msg) : Prop where
  ready : alive s = true
  context : m.ctx = some ctx
  first : ∃ rest, ((tget s.ctxs ctx).map (·.inbox)).getD [] = m.bytes :: rest
  type : msgType m.bytes = typ
  free : waitState s m.bytes = .go
  checks : startCheck s ctx m.bytes = none

/-- The same for a message of the sideband (R626, R630): main power is there, none is in progress, its lengths and reserved
fields are right, and its type is one that the sideband may send. -/
structure SidebandFront (s : State) (b : Bytes) (typ : Nat) : Prop where
  power : s.power.mainPower = true ∧ s.power.resetHeld = false
  idle : s.mgmt.busy = false
  length : 64 ≤ b.length ∧ b.length ≤ 1024 ∧ b.length - 64 = rd b 6 2
  allowed : sidebandType typ = true
  type : msgType b = typ
  clean : headerClean b = true
  context : rd b 4 2 = 0

/-- A message that either of the two ways brings, and the state in which it runs. -/
inductive Arrives (s : State) (typ : Nat) : MsgRef → Msg → State → Prop where
  | inbox (ctx : Nat) (m : Msg) (h : Front s ctx typ m) : Arrives s typ (.inbox ctx) m (popInbox ctx s)
  | sideband (b : Bytes) (h : SidebandFront s b typ) :
    Arrives s typ (.sideband b) ⟨none, b⟩ { s with mgmt := { s.mgmt with busy := true } }

/-- A descriptor of an opcode starts (R191, R192): it may, and its span's run begins with it; what it is then, and the state in
which it runs. -/
structure Starts (s : State) (t : TaskRef) (op : Nat) (r : Ref) (u : State) : Prop where
  waits : ∃ r0, refOf s t = some r0 ∧ dOp r0.d = op ∧ mayStart s r0 = true ∧ u = enterSpan t r0 s
  now : refOf u t = some r
  op : dOp r.d = op

/-- A packet is this Proend's by its route and is taken by its port in order (R354, R370, R375), and no word of it is lost (R594): what
then stands before the checks of R368. -/
structure Accepted (s : State) (n : Nat) (bytes : Bytes) (ecc : List EccReport) (w : State) : Prop where
  here : isLocal s n (bytes.drop 4) = true
  words : ∃ u, linkTake n bytes (pVc (bytes.drop 4)) (creditUnits (bytes.drop 4)) s = some u ∧
    meetWords { job := (linkOf u (pJob (bytes.drop 4))).map (·.job) } ecc u = (w, true)

/-- A packet passes those checks as well: its type, its job index, the packet in plain, and the state in which it acts. -/
structure Delivered (s : State) (n : Nat) (bytes : Bytes) (ecc : List EccReport) (typ j : Nat) (p : Bytes) (t : State) : Prop where
  type : pType (bytes.drop 4) = typ
  taken : ∃ w, Accepted s n bytes ecc w ∧ checkPacket n (bytes.drop 4) w = (t, some (j, p))

/-! ### What must be there for a command to start -/

/-- The message that a command starts: where it waits and its type, for the messages that begin with the checks of R428 to R435. HELLO,
TIER_MOVE and RESET are told apart by more than their type. -/
def mailbox : Instr → Option (MsgRef × Nat)
  | .qpCreate ctx => some (.inbox ctx, 0x02)
  | .windowOpen ctx => some (.inbox ctx, 0x03)
  | .groupCreate ctx => some (.inbox ctx, 0x04)
  | .steppeAttach ctx => some (.inbox ctx, 0x05)
  | .jobCreate ctx => some (.inbox ctx, 0x10)
  | .jobDestroy ctx => some (.inbox ctx, 0x11)
  | .attest ctx => some (.inbox ctx, 0x12)
  | .keyDeliver ctx => some (.inbox ctx, 0x13)
  | .ingress ctx => some (.inbox ctx, 0x14)
  | .tensorDefine ctx => some (.inbox ctx, 0x20)
  | .tensorRelease ctx => some (.inbox ctx, 0x21)
  | .programCreate ctx => some (.inbox ctx, 0x30)
  | .programSubmit ctx => some (.inbox ctx, 0x31)
  | .programAbort ctx => some (.inbox ctx, 0x32)
  | .fenceCreate ctx => some (.inbox ctx, 0x40)
  | .fenceImport ctx => some (.inbox ctx, 0x41)
  | .fenceSignal ctx => some (.inbox ctx, 0x42)
  | .fenceWait ctx => some (.inbox ctx, 0x43)
  | .fenceQuery ctx => some (.inbox ctx, 0x44)
  | .objectDestroy ctx => some (.inbox ctx, 0x4F)
  | .ckptSetup ctx => some (.inbox ctx, 0x60)
  | .ckptTrigger ctx => some (.inbox ctx, 0x61)
  | .ckptStatus ctx => some (.inbox ctx, 0x62)
  | .restore ctx _ _ => some (.inbox ctx, 0x63)
  | .stateImport ctx _ _ _ => some (.inbox ctx, 0x64)
  | .configErase src => some (src, 0x70)
  | .configWrite src => some (src, 0x71)
  | .configCommit src => some (src, 0x72)
  | .configSelect src => some (src, 0x73)
  | .configActivate src => some (src, 0x74)
  | .ledgerAnchor ctx => some (.inbox ctx, 0x78)
  | .ledgerStream ctx => some (.inbox ctx, 0x79)
  | .ledgerStop ctx => some (.inbox ctx, 0x7A)
  | .certRead ctx => some (.inbox ctx, 0x80)
  | .jobKeySeal ctx => some (.inbox ctx, 0x81)
  | .jobKeyUnseal ctx => some (.inbox ctx, 0x82)
  | .fwErase src => some (src, 0x83)
  | .fwWrite src => some (src, 0x84)
  | .fwCommit src => some (src, 0x85)
  | .fwActivate src => some (src, 0x86)
  | .fwRatchet src => some (src, 0x87)
  | .reqWrite src => some (src, 0x88)
  | .lcTransition src => some (src, 0x89)
  | .debugOpen ctx => some (.inbox ctx, 0x8A)
  | .debugClose ctx => some (.inbox ctx, 0x8B)
  | _ => none

/-- The descriptor that a command starts, and its opcode; the collectives, RECEIVE and VERDICT, which let waiting packets go on as well,
stand apart. -/
def descriptorOf : Instr → Option (TaskRef × Nat)
  | .nop t => some (t, 0)
  | .spanBegin t => some (t, 1)
  | .spanEnd t => some (t, 2)
  | .fenceWaitDescriptor t => some (t, 3)
  | .fenceSignalDescriptor t => some (t, 4)
  | .phaseHint t => some (t, 5)
  | .bubbleOpen t => some (t, 6)
  | .matmul t _ => some (t, 0x10)
  | .matmulDx t => some (t, 0x11)
  | .matmulDw t => some (t, 0x12)
  | .matmulAlt t => some (t, 0x13)
  | .attentionFwd t => some (t, 0x14)
  | .attentionBwd t => some (t, 0x15)
  | .norm t => some (t, 0x16)
  | .normBwd t => some (t, 0x17)
  | .softmax t => some (t, 0x18)
  | .elementwise t => some (t, 0x19)
  | .reduce t => some (t, 0x1A)
  | .cast t => some (t, 0x1B)
  | .transposeCopy t => some (t, 0x1C)
  | .copy t => some (t, 0x1D)
  | .fill t => some (t, 0x1E)
  | .scatterReduce t => some (t, 0x1F)
  | .saddleGather t => some (t, 0x20)
  | .send t => some (t, 0x24)
  | .stash t => some (t, 0x27)
  | .unstash t => some (t, 0x28)
  | .optimiserStep t => some (t, 0x29)
  | .digest t => some (t, 0x2A)
  | .statistics t => some (t, 0x2B)
  | .release t => some (t, 0x2C)
  | .ingressWait t => some (t, 0x2D)
  | _ => none

end Sys2Proof.Machine
end

