-- ==== Sys2Proof/Certificates/Slice0/Obligations.lean ====
section
/-! DEFINITION. The statements about the model, for the provers. -/

open Sys2Proof Sys2Proof.Machine

/-! ### The machine as a whole -/

/-- Tier 1. A step runs the command at the front of the queue on the state with the queue's rest. -/
def Obligations.StepRunsCommand : Prop :=
  ∀ (c : Instr) (rest : List Instr) (s : State), step { s with pending := c :: rest } = exec c { s with pending := rest }

/-- Tier 1. With no command waiting the Proend idles: with main power and SYSCLK one period of the 100 MHz clock passes, which counts
time and the time counters of lent and unused blocks; without them nothing changes. That the idle step is this period is the model's
choice (log 3). -/
def Obligations.IdlePasses : Prop :=
  ∀ s : State, s.pending = [] →
    (¬ (s.power.mainPower = true ∧ s.power.sysclk = true) → step s = .next s) ∧
    (s.power.mainPower = true → s.power.sysclk = true →
      ∃ t, step s = .next t ∧ t.timeNs = s.timeNs + 10 ∧ t = { s with timeNs := s.timeNs + 10, bubbles := t.bubbles })

/-- Tier 1. At power-enable every promise of the later statements holds: memories are in canonical form, the Ledger is chained, and
nothing has been put out or waits. -/
def Obligations.ResetKeepsPromises : Prop :=
  memoriesWf State.reset ∧ Chained State.reset.ledger ∧ State.reset.sent = [] ∧ State.reset.pending = [] ∧
    State.reset.running = [] ∧ State.reset.jobs = []

/-- Tier 3. Every step keeps every byte memory in canonical form: Vale's and every core's tile store. -/
def Obligations.MemoriesStayCanonical : Prop :=
  ∀ s t : State, memoriesWf s → step s = .next t → memoriesWf t

/-- Tier 3. Every step keeps the chain of the Ledger (R474), and no step changes or adds a record among those that the mirror holds
already (R476). -/
def Obligations.LedgerStaysChained : Prop :=
  ∀ s t : State, Chained s.ledger → step s = .next t →
    Chained t.ledger ∧ s.ledger.mirrored ≤ t.ledger.mirrored ∧
      ∀ n r, (n, r) ∈ t.ledger.mirror → n < s.ledger.mirrored → (n, r) ∈ s.ledger.mirror

/-- Tier 3. No step clears a life-cycle fuse mark or lowers the count of the security-version row (R576, R581). -/
def Obligations.FusesOnlyBurn : Prop :=
  ∀ s t : State, step s = .next t →
    (∀ row mark, marked s.lc row mark → marked t.lc row mark) ∧ s.lc.security ≤ t.lc.security

/-- Tier 2. A command leaves the queue alone, retracts nothing that was put out, and never lowers the boot count, the count of
tickets or that of free values. -/
def Obligations.CommandsOnlyAdd : Prop :=
  ∀ (c : Instr) (s t : State), exec c s = .next t →
    t.pending = s.pending ∧ s.sent <+: t.sent ∧ s.boot ≤ t.boot ∧ s.tickets ≤ t.tickets ∧ s.free ≤ t.free

/-- Tier 2. No command is refused, and only the three supply events stop the model: exactly where they report more than 45 V, the
absolute maximum beyond which no operation is defined (R615). -/
def Obligations.OnlyExcessVoltageStops : Prop :=
  (∀ (c : Instr) (s : State) (r : Refusal), exec c s ≠ .refused r) ∧
  (∀ (meas : PowerMeas) (s : State), exec (.powerInterval meas) s = .fault .beyondAbsoluteMaximum ↔ 45000 < meas.vinMv) ∧
  (∀ (v : Nat) (s : State), exec (.inputOvervoltage v) s = .fault .beyondAbsoluteMaximum ↔ 45000 < v) ∧
  (∀ (v : Nat) (s : State), exec (.inputOvervoltageTrip v) s = .fault .beyondAbsoluteMaximum ↔ 45000 < v) ∧
  (∀ (c : Instr) (s : State) (f : Fault), exec c s = .fault f →
    (∃ meas, c = .powerInterval meas) ∨ (∃ v, c = .inputOvervoltage v) ∨ (∃ v, c = .inputOvervoltageTrip v))

/-! ### Messages about contexts and objects -/

/-- Tier 1. HELLO settles the version, the higher of those that both sides support, and answers it with the product and the stepping;
a HELLO whose mask names neither completes with 0x10 and settles none (R432). -/
def Obligations.HelloSettlesVersion : Prop :=
  ∀ (s : State) (ctx : Nat) (m : Msg) (rest : List Bytes), alive s = true → m.ctx = some ctx →
    ((tget s.ctxs ctx).map (·.inbox)).getD [] = m.bytes :: rest → msgType m.bytes = 0x01 → waitState s m.bytes = .go →
    headerClean m.bytes = true →
    (∀ v, (bit (arg m.bytes 0 1) 3 = true ∧ v = 3 ∨ bit (arg m.bytes 0 1) 3 = false ∧ bit (arg m.bytes 0 1) 2 = true ∧ v = 2) →
      ∃ t, t = { popInbox ctx s with ctxs := tmod (popInbox ctx s).ctxs ctx fun c => { c with version := v } } ∧
        (∀ c, tget s.ctxs ctx = some c → tget t.ctxs ctx = some { c with inbox := c.inbox.drop 1, version := v }) ∧
        exec (.hello ctx) s = .next (settle (completeResult m 0x00 (leBytes 2 (v * 256) ++ [0x12, 0x80, 0xB0]) t))) ∧
    (bit (arg m.bytes 0 1) 3 = false → bit (arg m.bytes 0 1) 2 = false →
      exec (.hello ctx) s = .next (settle (complete m 0x10 (popInbox ctx s))))

/-- Tier 1. PROGRAM_CREATE, FENCE_CREATE and FENCE_IMPORT put their object into the entry that R445 gives, with what the message
names, and answer its index and generation; what waits then goes on. -/
def Obligations.ObjectsAreCreated : Prop :=
  ∀ (s : State) (ctx : Nat) (m : Msg) (j i : Nat), liveJob (popInbox ctx s) m = some j → freeEntry s = some i →
    let made := fun (d : ObjData) => settle (completeWith m 0x00 { obj := i, gen := genOf s i }
      (putObject i { job := some j, ctx, data := d } (popInbox ctx s)))
    (Front s ctx 0x30 m → arg m.bytes 5 4 ≠ 0 → rangeOk (popInbox ctx s) j (arg m.bytes 0 5) (arg m.bytes 5 4) = true →
      exec (.programCreate ctx) s = .next (made (.program (arg m.bytes 0 5) (arg m.bytes 5 4)))) ∧
    (Front s ctx 0x40 m → arg m.bytes 8 1 < 4 → arg m.bytes 9 1 < 8 → fenceRoom (popInbox ctx s) j = true →
      exec (.fenceCreate ctx) s = .next (made (.fence {
        value := arg m.bytes 0 8, sharedContexts := bit (arg m.bytes 8 1) 0, sharedDevices := bit (arg m.bytes 8 1) 1
        vc := arg m.bytes 9 1 }))) ∧
    (Front s ctx 0x41 m → arg m.bytes 0 3 < 2 ^ 20 → arg m.bytes 6 1 < 8 → fenceRoom (popInbox ctx s) j = true →
      exec (.fenceImport ctx) s = .next (made (.proxy {
        peer := arg m.bytes 0 3, index := arg m.bytes 3 2, generation := arg m.bytes 5 1, vc := arg m.bytes 6 1 })))

/-- Tier 1. A window, a collective group and a queue pair are created likewise: the window in the carve-out, under a fresh random byte,
on a live queue pair of the job's partition that belongs to no other job; the group with its members read from memory and the rank of this Proend; the queue pair
at the lowest free index, with a context where the message names a new one (R387, R411, R438, R440). -/
def Obligations.WindowsGroupsAndQueuePairsAreCreated : Prop :=
  ∀ (s : State) (ctx : Nat) (m : Msg),
    let t := popInbox ctx s
    (∀ j q qi o, Front s ctx 0x03 m → (if msgJob m.bytes = 0 then some (2 * ctxPart t ctx) else liveJob t m) = some j → arg m.bytes 10 2 = qi →
      genOf t qi = arg m.bytes 12 1 → objAt t qi = some o → o.data = .queuePair q → o.destroying = false →
      (o.job = none ∨ o.job = some j) → (tget t.eth.qps q).map (·.partition) = some (partOf j) → arg m.bytes 5 5 ≠ 0 →
      rangeIn (carveOf t j) (arg m.bytes 0 5) (arg m.bytes 5 5) = true →
      exec (.windowOpen ctx) s = .next (settle (createObject m (if msgJob m.bytes = 0 then none else some j)
        (.window ⟨j, arg m.bytes 0 5, arg m.bytes 5 5, qi, (freshNat t).1 % 256⟩)
        (fun i => leBytes 2 i ++ leBytes 1 (genOf t i) ++ leBytes 1 ((freshNat t).1 % 256)) (freshNat t).2))) ∧
    (∀ j g r b, Front s ctx 0x04 m → liveJob t m = some j → tget t.jobs j = some b → arg m.bytes 5 3 = g →
      rangeOk t j (arg m.bytes 0 5) (4 * g) = true →
      let radices := [arg m.bytes 8 1 + 1, arg m.bytes 9 1 + 1, arg m.bytes 10 1 + 1]
      let members := (List.range g).map fun i => leNat (peekN t j (arg m.bytes 0 5 + 4 * i) 4)
      product radices = g → 1 ≤ g → g ≤ 1048576 → groupRank t g (arg m.bytes 11 4) radices members = some r →
      poolUsed t j + 1 + ceilDiv (4 * g) 64 ≤ poolSize b →
      exec (.groupCreate ctx) s = .next (settle (createObject m (some j)
        (.group { members, rank := r, radices, timeout := arg m.bytes 11 4 }) (fun _ => leBytes 4 r) t))) ∧
    (∀ q i part job, Front s ctx 0x02 m →
      let b := msgBody m.bytes
      ctxPart t ctx = part → b.length = 64 → rd b 0 1 < 4 → rd b 1 1 < 4 → rd b 3 1 < 3 → 10 ≤ rd b 4 1 → rd b 4 1 ≤ 20 →
      rd b 5 1 < 8 → 16 ≤ rd b 6 2 → rd b 6 2 < 4096 → rd b 11 1 = 0 → allZero (b.drop 44) = true →
      bit (t.config.image.eth.getD (rd b 1 1) {}).mask part = true → sourceOwner t (rd b 1 1) (rd b 2 1) = some part →
      jobIndex t (rd b 12 4) = job →
      (rd b 12 4 = 0 ∨ job.map partOf = some part ∧ ((job.bind fun j => tget t.jobs j).map (·.phase)) ≠ some .closing) →
      tget t.ctxs (rd b 6 2) = none → freeQp t = some q → freeEntry t = some i →
      exec (.qpCreate ctx) s = .next (settle (createObject m job (.queuePair q) (fun _ => leBytes 4 (0x1000 + q))
        { t with
          eth := { t.eth with qps := tset t.eth.qps q {
            partition := part, port := rd b 1 1, cls := rd b 0 1, source := rd b 2 1, remoteQpn := rd b 8 3
            remoteAddress := sub b 16 16, nextHop := sub b 38 6, mtu := rd b 3 1, timeout := rd b 4 1, retry := rd b 5 1
            retriesLeft := rd b 5 1, sendPsn := rd b 32 3, recvPsn := rd b 35 3, ctx := rd b 6 2, obj := i } }
          ctxs := tset t.ctxs (rd b 6 2) { jobId := rd b 12 4, partition := part } })))

/-- Tier 1. FENCE_SIGNAL, FENCE_WAIT and FENCE_QUERY on a fence that the header names: the signal is applied at once where the
fence has a slot or a slot is free, and waits for a slot elsewhere; a wait on a live fence is kept with its value, and the fence brought into a
slot; a query of a live fence answers the value and the state (R437, R448, R453). A signal of a live proxy goes to the fence's device
(remoteSignal, R454). -/
def Obligations.FencesAreUsed : Prop :=
  ∀ (s : State) (ctx : Nat) (m : Msg) (o : Obj),
    let t := popInbox ctx s
    let i := msgObj m.bytes
    (∀ f, Front s ctx 0x42 m → headerObject t m isFenceOrProxy = .ok o → o.data = .fence f →
      (i ∈ s.objects.resident ∨ s.objects.resident.length < 64) →
      exec (.fenceSignal ctx) s = .next (settle (complete m 0x00 (applySignal i (arg m.bytes 0 8) t)))) ∧
    (∀ f, Front s ctx 0x42 m → headerObject t m isFenceOrProxy = .ok o → o.data = .fence f → i ∉ s.objects.resident →
      64 ≤ s.objects.resident.length →
      exec (.fenceSignal ctx) s = .next (settle (keepRunning m (.fenceSignal i (arg m.bytes 0 8)) (touchFence i t)))) ∧
    (∀ p, Front s ctx 0x42 m → headerObject t m isFenceOrProxy = .ok o → o.data = .proxy p → o.destroying = false →
      exec (.fenceSignal ctx) s = .next (settle (complete m 0x00 (remoteSignal (o.job.getD 0) i p (arg m.bytes 0 8) t)))) ∧
    (Front s ctx 0x43 m → headerObject t m isFence = .ok o → o.destroying = false →
      exec (.fenceWait ctx) s = .next (settle (keepRunning m (.fenceWait i (arg m.bytes 0 8)) (touchFence i t)))) ∧
    (∀ f, Front s ctx 0x44 m → headerObject t m isFence = .ok o → o.destroying = false → o.data = .fence f →
      exec (.fenceQuery ctx) s = .next (settle (completeResult m 0x00 (leBytes 8 f.value ++ leBytes 1 f.faulted.toNat) t)))

/-- Tier 1. A signal moves a fence by the distance from its value modulo 2^64: not at all and counted as ignored for a distance of 0
or of 2^63 and above, forward for 1 to 2^62, and into the faulted state, with its value kept, above that; a faulted fence ignores
every signal (R450, R451). A value has been reached where the distance to it from the fence's is below 2^63 (R449). -/
def Obligations.SignalMovesFence : Prop :=
  (∀ c v : Nat, c < 2 ^ 64 → v < 2 ^ 64 → (reached c v = true ↔ (c + 2 ^ 64 - v) % 2 ^ 64 < 2 ^ 63)) ∧
  ∀ (f : Fence) (v : Nat), f.value < 2 ^ 64 → v < 2 ^ 64 →
    let d := (v + 2 ^ 64 - f.value) % 2 ^ 64
    (f.faulted = true → signalFence f v = ({ f with ignored := f.ignored + 1 }, false)) ∧
    (f.faulted = false → (d = 0 ∨ 2 ^ 63 ≤ d) → signalFence f v = ({ f with ignored := f.ignored + 1 }, false)) ∧
    (f.faulted = false → 1 ≤ d → d ≤ 2 ^ 62 → signalFence f v = ({ f with value := v }, false)) ∧
    (f.faulted = false → 2 ^ 62 < d → d < 2 ^ 63 → signalFence f v = ({ f with faulted := true }, true))

/-- Tier 1. OBJECT_DESTROY puts a live object into the destroying state and keeps its message; OBJECT_FREE frees an idle destroying
object, and drops a released tensor that nothing names, and completes the destroy. FENCE_EVICTION_DONE frees the slot of a fence that
was leaving, without a load that waits; a wait that times out completes with 0x1D, a host's as well as a program's (R442 to R448,
R452). MESSAGE_WAIT_RELEASE takes the wait off the front message of a context once its fence has reached the value (R431). -/
def Obligations.ObjectsEnd : Prop :=
  (∀ (s : State) (ctx : Nat) (m : Msg) (o : Obj), Front s ctx 0x4F m → headerObject (popInbox ctx s) m (fun _ => true) = .ok o →
    o.destroying = false →
    exec (.objectDestroy ctx) s = .next (settle (keepRunning m (.destroy (msgObj m.bytes))
      (modObj (msgObj m.bytes) (fun o => { o with destroying := true }) (popInbox ctx s))))) ∧
  (∀ (s : State) (i : Nat) (o : Obj), objIdle s i = true → objAt s i = some o → o.destroying = true →
    exec (.objectFree (.object i)) s = .next (settle (finish (.destroy i) 0x00 {} (releaseObject i s)))) ∧
  (∀ (s : State) (j i : Nat), (s.running.any fun r => r.kind == .tensorRelease j i) = true → tensorNamed s j i = false →
    exec (.objectFree (.tensor j i)) s = .next (settle (finish (.tensorRelease j i) 0x00 { tensor := i } (dropTensor j i s)))) ∧
  (∀ (s : State) (i : Nat), i ∈ s.objects.evicting → s.objects.loads = [] →
    exec (.fenceEvictionDone i) s = .next (settle (retryHeld 0 { s with objects := { s.objects with
      evicting := s.objects.evicting.filter (· != i), resident := s.objects.resident.filter (· != i) } }))) ∧
  (∀ (s : State) (ctx cookie : Nat) (r : Running), hostWait s ctx cookie = some r →
    exec (.fenceWaitTimeout (.host ctx cookie)) s = .next (settle (completeWith r.msg 0x1D
      { obj := msgObj r.msg.bytes, gen := msgGen r.msg.bytes } { s with running := s.running.erase r }))) ∧
  (∀ (s : State) (t : TaskRef) (r : Ref), refOf s t = some r → dOp r.d = 3 → begun r.u t.desc = true →
    (descAt r.u t.desc).retired = false → rd r.d 32 4 ≠ 0 →
    exec (.fenceWaitTimeout (.program t)) s = .next (settle (programFault t 0x1D s))) ∧
  (∀ (s : State) (ctx : Nat) (b : Bytes) (rest : List Bytes), alive s = true →
    ((tget s.ctxs ctx).map (·.inbox)).getD [] = b :: rest → bit (msgFlags b) 1 = true → waitState s b = .go →
    exec (.messageWaitRelease ctx) s = .next (settle { s with
      ctxs := tmod s.ctxs ctx fun c => { c with inbox := overlay b 3 (leBytes 1 (msgFlags b - 2)) :: rest } }))

/-! ### Tensors, programs and descriptors -/

/-- Tier 1. TENSOR_DEFINE puts the descriptor of its body into the table of its job where no check of R654 fails, and completes with
the status of the first that fails; the entry then holds the 64 bytes as written, unmasked and readable (R197). TENSOR_RELEASE waits
as long as a program names the entry (R442). -/
def Obligations.TensorsAreDefined : Prop :=
  ∀ (s : State) (ctx : Nat) (m : Msg) (j : Nat) (b : Job),
    let t := popInbox ctx s
    let i := arg m.bytes 0 2
    let raw := msgBody m.bytes
    liveJob t m = some j → tget t.jobs j = some b →
    (Front s ctx 0x20 m → raw.length = 64 → defineCheck t j b i raw = none →
      exec (.tensorDefine ctx) s = .next (settle (complete m 0x00 (defineTensor j i raw t))) ∧
      tensorAt (defineTensor j i raw t) j i = some { raw, units := headerUnits raw }) ∧
    (Front s ctx 0x20 m → raw.length ≠ 64 → exec (.tensorDefine ctx) s = .next (settle (complete m 0x12 t))) ∧
    (∀ c, Front s ctx 0x20 m → raw.length = 64 → defineCheck t j b i raw = some c →
      exec (.tensorDefine ctx) s = .next (settle (complete m c t))) ∧
    (Front s ctx 0x21 m → i ≠ 0xFFFF → (tget b.tensors i).isSome = true →
      (t.running.any fun r => r.kind == .tensorRelease j i) = false →
      exec (.tensorRelease ctx) s = .next (settle (keepRunning m (.tensorRelease j i) t)))

/-- Tier 1. PROGRAM_SUBMIT of a live program takes a copy of what R212 accepts, under the next number of its job, and knows the peers of its
sends and receives; where a check of R212 fails it completes with the status, descriptor and tensor of the first that does, and with 0x18
where the job has a fault or awaits a restore; PROGRAM_ABORT stops every submission of a program with 0x1F (R661). A submission that is
taken and an abort keep their message until what they wait for is over. -/
def Obligations.ProgramsRunAndStop : Prop :=
  ∀ (s : State) (ctx : Nat) (m : Msg) (o : Obj) (j : Nat) (b : Job),
    let t := popInbox ctx s
    headerObject t m isProgram = .ok o → o.job = some j → tget t.jobs j = some b →
    (∀ off len p, Front s ctx 0x31 m → o.destroying = false → o.data = .program off len → b.fault = none → awaitsRestore b = false →
      submitCheck t j off len = .ok p →
      (p.ds.any fun d => (opNames d).any fun i => t.running.any fun r => r.kind == .tensorRelease j i) = false →
      exec (.programSubmit ctx) s = .next (settle (keepRunning m (.submit j b.nextSub) (modJob j (fun b => { b with
        subs := tset b.subs b.nextSub (newSub (msgObj m.bytes) (msgGen m.bytes) p), nextSub := b.nextSub + 1
        peers := (b.peers ++ sendPeers p.ds).eraseDups }) t)))) ∧
    (∀ off len x, Front s ctx 0x31 m → o.destroying = false → o.data = .program off len → b.fault = none → awaitsRestore b = false →
      submitCheck t j off len = .error x →
      exec (.programSubmit ctx) s = .next (settle (completeWith m x.status
        { obj := msgObj m.bytes, gen := msgGen m.bytes, desc := x.desc, tensor := x.tensor } t))) ∧
    (Front s ctx 0x31 m → o.destroying = false → b.fault ≠ none ∨ awaitsRestore b = true →
      exec (.programSubmit ctx) s = .next (settle (complete m 0x18 t))) ∧
    (Front s ctx 0x32 m →
      exec (.programAbort ctx) s = .next (settle (keepRunning m (.abort j (msgObj m.bytes)) (modJob j (fun b => { b with
        subs := b.subs.map fun u => (u.1, if u.2.prog = msgObj m.bytes then stopSub 0x1F 0xFFFF u.2 else u.2) }) t))))

/-- Tier 1. The control descriptors: NOP and SPAN_BEGIN retire; SPAN_END retires once its span has committed; FENCE_WAIT waits, with its
fence brought into a slot; FENCE_SIGNAL and BUBBLE_OPEN take effect at once outside a span and leave it to the commit inside one;
PHASE_HINT is taken or counted, and retires (R167, R205 to R209). -/
def Obligations.ControlDescriptorsRun : Prop :=
  ∀ (s u : State) (t : TaskRef) (r : Ref),
    (Starts s t 0 r u → exec (.nop t) s = .next (settle (retire t u))) ∧
    (Starts s t 1 r u → exec (.spanBegin t) s = .next (settle (retire t u))) ∧
    (∀ k x, Starts s t 2 r u → spanPos r.u t.desc = some k → spanAt r.u k = some x →
      exec (.spanEnd t) s = .next (settle (if x.committed then retire t u else u))) ∧
    (Starts s t 3 r u → exec (.fenceWaitDescriptor t) s = .next (settle (touchFence (rd r.d 16 2) (setRunning r 0 u)))) ∧
    (Starts s t 4 r u → exec (.fenceSignalDescriptor t) s =
      .next (settle (retire t (if (spanPos r.u t.desc).isSome then u else signalDesc t.job r.d u)))) ∧
    (Starts s t 5 r u → exec (.phaseHint t) s = .next (settle (retire t (takeHint t r.d u)))) ∧
    (Starts s t 6 r u → exec (.bubbleOpen t) s =
      .next (settle (retire t (if (spanPos r.u t.desc).isSome then u else openBubble t r.d u))))

/-- Tier 2. A descriptor that retires has retired: its entry says so, its program and descriptor are the same, and every other
descriptor of its submission is as it was. -/
def Obligations.RetireMarksOne : Prop :=
  ∀ (s : State) (t : TaskRef) (r : Ref), refOf s t = some r →
    ∃ r', refOf (retire t s) t = some r' ∧ r'.d = r.d ∧ (descAt r'.u t.desc).retired = true ∧
      ∀ i, i ≠ t.desc → descAt r'.u i = descAt r.u i

/-- Tier 1. SPAN_COMMIT of a span that may commit takes its effects together, faults its job with 0x66 where its slot's commit log is
full, and changes nothing for a span that may not commit; then what waited for the commit is tried again. SPAN_DISCARD of a failed span
without a task on a thread discards it with all younger ones, and enters its promotion. SPAN_RERUN of a discarded, failed span takes the
promotion ladder, once no capture is between its enter and its release and the promotion area has room (R156, R170, R171, R174, R177). -/
def Obligations.SpansCommitOrRerun : Prop :=
  ∀ (s : State) (j k id pos : Nat) (b : Job) (u : Sub) (x : SpanSt), alive s = true → tget s.jobs j = some b →
    tget b.subs k = some u → posOfSpan u id = some pos → spanAt u pos = some x →
    (∀ n, maySpanCommit u pos x = true → commitLog b u x = some n →
      exec (.spanCommit j k id) s = .next (settle (retryHeld j (commitEffect j k pos b u x n s)))) ∧
    (maySpanCommit u pos x = true → commitLog b u x = none →
      exec (.spanCommit j k id) s = .next (settle (retryHeld j (jobFault j 0x66 x.last { prog := u.prog } s)))) ∧
    (maySpanCommit u pos x = false → exec (.spanCommit j k id) s = .next (settle (retryHeld j s))) ∧
    (x.failures ≠ [] → x.committed = false → x.discarded = false → spanIdle s j k u pos = true →
      exec (.spanDiscard j k id) s = .next (settle (enterPromotion j k pos (modSub j k (discardFrom pos) s)))) ∧
    (x.discarded = true → x.failures ≠ [] → b.capture.phase ≠ .entered → u.stop = none →
      (promotionUsed b k pos = 0 ∨ promotionUsed b k pos + promotedBytes b u x (x.rung + 1) ≤ b.cfg.promotionGib * 2 ^ 30) →
      exec (.spanRerun j k id) s = .next (settle (ladder j k pos s)))

/-- Tier 1. A unit of a running descriptor ends at its boundary while it is on its thread: what its steps leave in the tile store and the
accumulators, its predictor and its caches stay on its core, it leaves the thread, and its descriptor retires with the last unit (R62 to
R69, R190). An array instruction with a stream, scale stream or loaded tile past row 511 has an access error, and no accumulator is
written (R133). The last unit of a descriptor that began while blocks of its map
were not lent first brings in the pages and writes the outputs (R211). A block of an open window is lent once no primary task is on its
cores and no write-back waits there, and returns likewise once no window covers it; both switch the block's cores (R21, R77, R275 to
R279). BUBBLE_WINDOW_CLOSE takes the window away. -/
def Obligations.TasksEndAtBoundaries : Prop :=
  (∀ (i : ArrayInstr) (c : CoreSt), i.fits = false → arrayInstr i c = none) ∧
  ∀ (s : State), alive s = true →
    (∀ t unit r, refOf s t = some r → begun r.u t.desc = true → (descAt r.u t.desc).retired = false →
      unit < (descAt r.u t.desc).units → unit ∉ (descAt r.u t.desc).ended → unitRuns s r unit = true →
      let core := unitCore r.part r.map unit
      let thread := unitThread r.part r.map unit
      let last := (descAt r.u t.desc).ended.length + 1 = (descAt r.u t.desc).units
      let leave := fun (c : CoreSt) => modSub t.job t.sub
        (fun u => { u with state := tset u.state t.desc { descAt r.u t.desc with ended := (descAt r.u t.desc).ended ++ [unit] } })
        (modCore core (fun _ => endTask thread (traceCore (s.fw.microcode.getD (blockQuarter (coreBlock core)) [])
          (Config.branchTrace t unit) thread c)) s)
      (¬ ((descAt r.u t.desc).late = true ∧ last) → ∀ c, cellSteps (unitSteps r s unit) (coreAt s core) = some c →
        exec (.taskBoundary t unit) s = .next (settle (if last then retire t (leave c) else leave c))) ∧
      ((descAt r.u t.desc).late = true → last → (ensurePages r s).2 = true →
        ∀ r', refOf (effectOf r (ensurePages r s).1 (modDesc t (fun d => { d with late := false }) (ensurePages r s).1)) t = some r' →
        exec (.taskBoundary t unit) s = .next (settle (endUnit t unit r'
          (effectOf r (ensurePages r s).1 (modDesc t (fun d => { d with late := false }) (ensurePages r s).1)))))) ∧
    (∀ p block w, block ∉ (tgetD s.bubbles p {}).lent → blockBusy s (2 * p) block = false →
      ((tgetD s.bubbles p {}).windows.find? fun w => w.blocks.contains block) = some w →
      exec (.blockLend p block) s = .next (settle (blockSwitch block (2 * p + 1) (modBubbles p (fun x => { x with
        lent := x.lent ++ [block]
        opened := if w.lentAny then x.opened else x.opened + 1
        windows := x.windows.map fun v => if v.number = w.number then { v with lentAny := true } else v }) s)))) ∧
    (∀ p n, exec (.bubbleWindowClose p n) s =
      .next (modBubbles p (fun x => { x with windows := x.windows.filter fun w => w.number != n }) s)) ∧
    (∀ p block, block ∈ (tgetD s.bubbles p {}).lent → ((tgetD s.bubbles p {}).windows.any fun w => w.blocks.contains block) = false →
      blockBusy s (2 * p + 1) block = false →
      exec (.blockReturn p block) s =
        .next (settle (blockSwitch block (2 * p) (modBubbles p (fun x => { x with lent := x.lent.filter (· != block) }) s))))

/-! ### The Steppe tier -/

/-- Tier 1. STEPPE_ATTACH of 1 to 16 well-formed extent records takes them where the job has none yet and each names a live Steppe
queue pair of the partition and holds its share of the images (R340, R439). TIER_MOVE asks for each page of its range, or for each
page's eviction, and waits until they have moved (R347, R348). FETCH_FRAME_RESUME starts the oldest fetch that waits for a frame,
without counting its wait again (R347).
A chunk of 4,112 bytes that verifies under the page's version is written to its place in the frame, and the last of 256 makes the page
resident and clean (R346); a chunk of another length, or one that does not verify, ends the fetch: its operation leaves the queue pair,
the frame is free, the entry rests, and the job faults with 0x61, the page and the chunk (R349). An eviction that ends raises the page's
version by one and frees its frame (restPage); the oldest fetch that waits for a frame starts, and the page is asked for again where
an access waits for it (R345, R348). BASIN_FOLD folds a Basin page as R302 says (foldPage). -/
def Obligations.PagesMoveBetweenTiers : Prop :=
  (∀ (s : State) (ctx : Nat) (m : Msg) (j : Nat) (b : Job),
     let t := popInbox ctx s
     let first := arg m.bytes 0 4
     let count := arg m.bytes 4 4
     (liveJob t m = some j → tget t.jobs j = some b → Front s ctx 0x05 m → (msgBody m.bytes).length % 24 = 0 →
       extentRecords m ≠ [] → (extentRecords m).length ≤ 16 → ((extentRecords m).all fun e => allZero (sub e 3 5)) = true →
       b.tier.extents = [] → (∀ e ∈ extentRecords m, extentStatus t (partOf j) 2 (xQp e) (rd e 2 1) = none) →
       (∀ e ∈ extentRecords m, ceilDiv b.carve.dirCount (extentRecords m).length * 1056768 ≤ xLen e) →
       exec (.steppeAttach ctx) s = .next (settle (complete m 0x00 (modTier j (fun x => { x with extents := extentRecords m }) t)))) ∧
     (liveJob t m = some j → Front s ctx 0x06 m → arg m.bytes 8 1 = 0 → first + count ≤ (carveOf t j).dirCount →
       exec (.tierMoveFetch ctx) s = .next (settle (pagesMoved j (keepRunning m (.tierMove j first count false)
         ((List.range count).foldl (fun t k => requestPage j (first + k) t) t))))) ∧
     (liveJob t m = some j → Front s ctx 0x06 m → arg m.bytes 8 1 = 1 → first + count ≤ (carveOf t j).dirCount →
       exec (.tierMoveEvict ctx) s = .next (settle (pagesMoved j (keepRunning m (.tierMove j first count true)
         ((List.range count).foldl (fun t k => hostEvict j (first + k) t) t))))) ∧
     (∀ p rest, alive s = true → tget s.jobs j = some b → b.tier.frameWaits = p :: rest →
       exec (.fetchFrameResume j) s = .next (pagesMoved j (modTier j (fun x => { x with waitsCounted := b.tier.waitsCounted })
         (startFetch j p s))))) ∧
  (∀ (s : State) (j p : Nat) (b : Job), alive s = true → tget s.jobs j = some b →
     (∀ f c a record data, tget b.tier.fetches p = some f → c < 256 → c ∉ f.chunks → frameAddress b.carve f.frame = some a →
       record.length = 4112 →
       gcmOpen (steppeKey b) (chunkIv p (dirAt s j p).version c) [] (sub record 0 4096) (sub record 4096 16) = some data →
       (f.chunks.length < 255 → exec (.steppeChunkArrival j p c record) s = .next (settle
         (modTier j (fun t => { t with fetches := tset t.fetches p { f with chunks := f.chunks ++ [c] } })
           (valeWrite 17 (a + 4096 * c) data s)))) ∧
       (f.chunks.length = 255 → exec (.steppeChunkArrival j p c record) s = .next (settle (pagesMoved j
         (modDir j p (fun e => { e with st := .resident, dirty := false })
           (modTier j (fun t => { t with fetches := terase t.fetches p })
             (dropFlight (.fetch j p) (valeWrite 17 (a + 4096 * c) data s)))))))) ∧
     (∀ f c record, tget b.tier.fetches p = some f → c < 256 → c ∉ f.chunks →
       (record.length ≠ 4112 ∨ gcmOpen (steppeKey b) (chunkIv p (dirAt s j p).version c) [] (sub record 0 4096) (sub record 4096 16) = none) →
       exec (.steppeChunkArrival j p c record) s = .next (settle
         (jobFault j 0x61 0xFFFF { kind := 2, page := p, chunk := c }
           (modDir j p (fun e => { e with st := .resting, dirty := false, frame := 0 })
             (modTier j (fun x => { x with fetches := terase x.fetches p, framesUsed := x.framesUsed.filter (· != (dirAt s j p).frame) })
               (dropFlight (.fetch j p) s)))))) ∧

     (let u := modTier j (fun t => { t with thenFetch := t.thenFetch.filter (· != p) })
         (restPage j p (fun e => { e with version := e.version + 1 }) (dropFlight (.evict j p) s))
      let w := match b.tier.frameWaits with
        | [] => u
        | x :: _ => startFetch j x u
      (dirAt s j p).st = .evicting →
        exec (.evictionComplete j p) s = .next (settle (pagesMoved j (if b.tier.thenFetch.contains p then requestPage j p w else w)))) ∧
     exec (.basinFold j p) s = .next (pagesMoved j (foldPage j p s)))

/-! ### Jobs and keys -/

/-- Tier 1. JOB_CREATE of a job that nothing bars and whose policy the Proend accepts takes the lowest free memory key id and records
the creation; the change waits for the mirror (R50, R329, R470, R476, R496): on a member, or a lead that is to unseal, without a job key, and
on any other lead with a fresh job key and the slots that it fills. One whose policy does not admit the measurement completes with
0x29, and its refusal is recorded.
JOB_DESTROY begins the teardown of its job and waits for its end; each step of R57 that has ended begins the next: the programs'
stop, the flights' end with a key retirement to the peers where the job had a sequence counter, the announcement's leaving, the retirement
of the job's keys, the clearing of its regions, and the destruction of its slots with the job's end. -/
def Obligations.JobsComeAndGo : Prop :=
  (∀ (s : State) (ctx : Nat) (m : Msg),
     let t := popInbox ctx s
     let off := arg m.bytes 0 5
     let len := arg m.bytes 5 4
     let lead := arg m.bytes 9 3
     let kind := arg m.bytes 12 1
     let await := arg m.bytes 15 1
     let part := ctxPart t ctx
     let j := 2 * part + kind
     let p := peekN t j off len
     Front s ctx 0x10 m → s.glen.current = none → configBusy t = false → kind ≤ 1 → await ≤ 1 → lead < 2 ^ 20 → arg m.bytes 13 2 < 4096 →
     (await = 1 → lead = deviceAddress t) → rootAlive s = true → s.ledger.mirrorFault = false → createBarred t = false →
     partHeld t part = false → (tget s.config.image.carves j).isSome = true → (s.config.image.parts.getD part {}).enabled = true →
     tget s.jobs j = none → jobIndex s (msgJob m.bytes) = none → creating s j (msgJob m.bytes) = false → rangeIn (carveOf t j) off len = true →
     policyOk p (kind == 1) = true → assigned s.config.image.policySlots j ≠ [] → rd p 4 4 = msgJob m.bytes →
     (accepts p s.glen.measurement = false →
       exec (.jobCreate ctx) s = .next (settle (complete m 0x29 (ledgerFor m 0x06 2 part false (rd p 4 4)
         (jobDetail (sha256 (signedPart p)) (rd p 8 8) (deviceAddress t) 2) t)))) ∧
     (∀ k, accepts p s.glen.measurement = true → freeKeyId t = some k → (lead ≠ deviceAddress t ∨ await = 1) →
       let b := newJob t j p lead (arg m.bytes 13 2) k (await == 1)
       exec (.jobCreate ctx) s = .next (settle (deferChange m (.createJob j { b with keys := { b.keys with secret := [] } } [])
         (ledgerFor m 0x06 1 part true b.id (detailOf b 0 0) t)))) ∧
     (∀ k, accepts p s.glen.measurement = true → freeKeyId t = some k → lead = deviceAddress t → await = 0 → 4 ≤ (freeSlots t).length →
       let b := newJob t j p lead (arg m.bytes 13 2) k false
       let r := freshBytes 32 t
       let b := { b with keys := { b.keys with secret := r.1 } }
       let slots := jobSlots t j b (freeLink t) (freeSlots t)
       exec (.jobCreate ctx) s = .next (settle (deferChange m (.createJob j b slots)
         (slotRecords b.id slots (ledgerFor m 0x06 1 part true b.id (detailOf b 0 0) r.2)))))) ∧
  (∀ (s : State) (ctx : Nat) (m : Msg) (j : Nat) (b : Job), Front s ctx 0x11 m → s.glen.current = none →
    liveJob (popInbox ctx s) m = some j → tget s.jobs j = some b →
    exec (.jobDestroy ctx) s = .next (settle (keepRunning m (.jobDestroy j)
      (beginTeardown j (if b.keying.refusedHere then 2 else 1) (popInbox ctx s))))) ∧
  (∀ (s : State) (j c : Nat) (b : Job), alive s = true → tget s.jobs j = some b →
    let enter := fun (n : Nat) (s : State) => modJob j (fun b => { b with teardown := some (n, c) }) s
    let on := fun (s : State) => settle (releaseHeld (afterTeardown s))
    (b.teardown = some (3, c) → b.subs = [] → exec (.teardownStepDone j) s = .next (on (enter 4 s))) ∧
    (b.teardown = some (4, c) → b.narrows.releases = [] → exec (.teardownStepDone j) s = .next (on (enter 5
      (if b.passSeq = 0 then retryHeld j (dropWaiting j (cancelFlights j s))
       else controlAll j [1] (retryHeld j (dropWaiting j (cancelFlights j s))))))) ∧
    (b.teardown = some (5, c) →
      (s.pass.ports.any fun p => p.queues.any fun q => q.2.any fun x => pJob x.1 == b.id && x.2.isNone) = false →
      exec (.teardownStepDone j) s = .next (on (enter 6 s))) ∧
    (b.teardown = some (6, c) → exec (.teardownStepDone j) s = .next (on (enter 7 (retireIds j s)))) ∧
    (b.teardown = some (7, c) → exec (.teardownStepDone j) s = .next (on (enter 8 (clearRegions b.carve.regions s)))) ∧
    (b.teardown = some (8, c) → exec (.teardownStepDone j) s = .next (on (jobGone j c (destroyJobSlots j s)))))

/-- Tier 1. While Glen is not at work (R500 to R504, R509 to R512): ATTEST makes Glen begin a report with the nonce of its message;
KEY_DELIVER of a well-formed record that opens to a key takes the lowest free slot, records it, and waits for the mirror with the key; the
record that does not open completes with 0x12 and its cause; JOB_KEY_SEAL writes the sealed blob; JOB_KEY_UNSEAL waits for the mirror with the
job key of a blob that opens. CERT_READ writes the certificate, whatever Glen does. While Glen is at work (R481), ATTEST, KEY_DELIVER,
JOB_KEY_SEAL and JOB_KEY_UNSEAL wait in its queue. -/
def Obligations.GlenRunsMessages : Prop :=
  ∀ (s : State) (ctx : Nat) (m : Msg),
    let t := popInbox ctx s
    let off := arg m.bytes 0 5
    (∀ j, Front s ctx 0x12 m → s.glen.current = none → carveIndex t m = some j → rootAlive s = true → rangeIn (carveOf t j) off 48864 = true →
      exec (.attest ctx) s = .next (settle (keepRunning m (.ticket s.tickets) { t with
        tickets := s.tickets + 1
        glen := { s.glen with current := some (.attest s.tickets j off
          (reportBytes { t with tickets := s.tickets + 1 } (if msgJob m.bytes = 0 then none else some j) (sub m.bytes 53 11))) } }))) ∧
    (∀ j b, Front s ctx 0x13 m → s.glen.current = none → liveJob t m = some j → tget s.jobs j = some b → rootAlive s = true →
      s.ledger.mirrorFault = false → rangeOk t j off 31536 = true →
      let r := peekN t j off 31536
      rd r 0 2 = 1 → rd r 2 1 = arg m.bytes 5 1 → rd r 3 1 = 0 → rd r 4 4 = b.id → allZero (sub r 0x70 16) = true →
      (∀ k n, openDelivery t b r = .ok k → (freeSlots t).head? = some n →
        exec (.keyDeliver ctx) s = .next (settle (deferChange m (.ownerKey j (rd r 2 1) (rd r 8 8) k n)
          (slotRecord 1 n b.id ⟨k, attrWord 9 0 j (rd r 2 1) 0x21⟩ t)))) ∧
      (∀ c, openDelivery t b r = .error c →
        exec (.keyDeliver ctx) s = .next (settle (completeResult m 0x12 [BitVec.ofNat 8 c] t)))) ∧
    (∀ j b, Front s ctx 0x81 m → s.glen.current = none → liveJob t m = some j → tget s.jobs j = some b → b.keys.secret ≠ [] →
      rangeOk t j off 376 = true →
      exec (.jobKeySeal ctx) s = .next (settle (complete m 0x00 (engineWrite j off (sealedBlob t b) t)))) ∧
    (∀ j b k c, Front s ctx 0x82 m → s.glen.current = none → liveJob t m = some j → tget s.jobs j = some b → b.isLead = true →
      b.awaitUnseal = true → b.phase = .created → b.keys.secret = [] → keyComing t j = false → rangeOk t j off 376 = true →
      openBlob t b (peekN t j off 376) = some k → startKeying j b k t = some c →
      exec (.jobKeyUnseal ctx) s = .next (settle (deferChange m c.1 c.2))) ∧
    (∀ j, Front s ctx 0x80 m → carveIndex t m = some j → rangeIn (carveOf t j) off 29920 = true →
      exec (.certRead ctx) s = .next (settle (complete m 0x00 (engineWrite j off certBytes t)))) ∧
    (∀ g, s.glen.current = some g →
      let wait : Host.Outcome State Fault Refusal := .next (settle (keepRunning m (.ticket s.tickets) { t with
        tickets := s.tickets + 1, glen := { s.glen with queue := s.glen.queue ++ [.message s.tickets m] } }))
      (Front s ctx 0x12 m → exec (.attest ctx) s = wait) ∧ (Front s ctx 0x13 m → exec (.keyDeliver ctx) s = wait) ∧
      (Front s ctx 0x81 m → exec (.jobKeySeal ctx) s = wait) ∧ (Front s ctx 0x82 m → exec (.jobKeyUnseal ctx) s = wait))

/-- Tier 1. Keying records of a held job (R34, R35, R505 to R508): a lead that is not Closing answers a request with its report and
certificate, and knows the sender as a member from then on; one that holds the job key serves a member's record (serveMember). A
member that is Created, not refused, and for which no key has come yet takes the lead's report (takeLeadReport), the delivery
(takeDelivery) or the refusal from its lead, and asks again when its timer ends. While Glen is at work, the records that need it wait in its
queue. -/
def Obligations.KeyingRecordsAct : Prop :=
  ∀ (s : State) (sender jobId j : Nat) (record : Bytes) (b : Job), alive s = true → jobIndex s jobId = some j → tget s.jobs j = some b →
    (b.isLead = true → b.phase ≠ .closing →
      exec (.keyingReportRequest sender jobId) s = .next (sendKeying sender b.id .leadReport (b.keying.report ++ certBytes)
        (modJob j (fun b => { b with keying := { b.keying with members := (b.keying.members.filter (· != sender)) ++ [sender] } }) s))) ∧
    (s.glen.current = none → rootAlive s = true → b.isLead = true → b.phase ≠ .closing → b.keys.secret ≠ [] →
      exec (.memberReport sender jobId record) s = .next (serveMember sender j b record s)) ∧
    (s.glen.current = none → rootAlive s = true → b.isLead = false → sender = b.lead → b.phase = .created →
      b.keying.refusedHere = false → keyComing s j = false →
      exec (.leadReport sender jobId record) s = .next (takeLeadReport j b record s) ∧
      exec (.jobKeyDelivery sender jobId record) s = .next (takeDelivery j b record s)) ∧
    (∀ cause, b.isLead = false → sender = b.lead → b.phase = .created → b.keying.refusedHere = false → keyComing s j = false →
      exec (.keyingRefusal sender jobId cause) s =
        .next (modJob j (fun b => { b with keying := { b.keying with refusedHere := true } }) s)) ∧
    (∀ g, s.glen.current = some g →
      let wait := fun (k : KeyingKind) => (.next { s with glen := { s.glen with
        queue := s.glen.queue ++ [.record sender jobId k record] } } : Host.Outcome State Fault Refusal)
      exec (.memberReport sender jobId record) s = wait .memberReport ∧ exec (.leadReport sender jobId record) s = wait .leadReport ∧
      exec (.jobKeyDelivery sender jobId record) s = wait .jobKeyDelivery) ∧
    (b.isLead = false → b.phase = .created → b.keying.refusedHere = false → keyComing s j = false →
      exec (.keyingRetryTimer j) s = .next (sendKeying b.lead b.id .reportRequest [] s))

/-! ### Ingress and release -/

/-- Tier 1. INGRESS of at least one chunk, from a staging area in one window, for an owner of the policy, makes its destination unreadable
and waits; where the owner has no key it fails with 0x20, and where its sequence number is not above the last it fails with 0x22
(R16, R38, R42). INGRESS_COMPLETE writes the plaintext of every chunk in order, adds the owner's bit to the destination's mask, takes
the sequence number and lifts what made the destination unreadable; where a chunk does not verify it fails with 0x23 and that chunk's
index, and where the plaintext is longer than the destination, with 0x24 (R17, R37 to R41). A failed ingress leaves its destination
unreadable, sends event 0x07 and completes with its status (R17, R42). INGRESS_WAIT retires where its destination is readable, and waits
where it is not (R260). -/
def Obligations.IngressWritesWholeOrNothing : Prop :=
  (∀ (s : State) (ctx : Nat) (m : Msg) (j : Nat) (b : Job),
    let t := popInbox ctx s
    let n := arg m.bytes 5 4
    let dst := arg m.bytes 9 2
    let own := arg m.bytes 11 1
    let seq := arg m.bytes 12 4
    Front s ctx 0x14 m → liveJob t m = some j → tget s.jobs j = some b → n ≠ 0 → (tget b.tensors dst).isSome = true →
    inOneWindow t j (arg m.bytes 0 5) (4128 * n) = true → own < polOwners b.policy →
    (b.phase = .keyed → (tget b.keys.owners own).isSome = true → tgetD b.narrows.ingressSeq own 0 < seq →
      exec (.ingress ctx) s = .next (settle (keepRunning m (.ingress j dst)
        (modTensor j (rootOf b.tensors dst) (fun e => { e with ingress := e.ingress.erase ⟨dst, true⟩ ++ [⟨dst, false⟩] }) t)))) ∧
    (b.phase ≠ .keyed ∨ tget b.keys.owners own = none →
      exec (.ingress ctx) s = .next (settle (ingressFails j dst own seq 0x20 0xFFFFFFFF m t))) ∧
    (b.phase = .keyed → (tget b.keys.owners own).isSome = true → seq ≤ tgetD b.narrows.ingressSeq own 0 →
      exec (.ingress ctx) s = .next (settle (ingressFails j dst own seq 0x22 0xFFFFFFFF m t)))) ∧
  (∀ (s u : State) (j dst : Nat) (b : Job) (m : Msg), alive s = true → tget s.jobs j = some b →
    takeRunning (.ingress j dst) s = (some m, u) →
    let n := arg m.bytes 5 4
    let own := arg m.bytes 11 1
    let seq := arg m.bytes 12 4
    let w := modTensor j (rootOf b.tensors dst) (fun e => { e with ingress := e.ingress.erase ⟨dst, false⟩ }) u
    let slot := fun i => openChunk ((tget b.keys.owners own).getD []) b.id own seq n i (peekN w j (arg m.bytes 0 5 + 4128 * i) 4128)
    tgetD b.narrows.ingressSeq own 0 < seq →
    (∀ p v, openChunks slot n 0 = .ok p → viewOf b 0 0 none dst = some v → p.length ≤ tensorBytes v →
      exec (.ingressComplete j dst) s = .next (settle (complete m 0x00
        (modJob j (fun b => { b with narrows := { b.narrows with ingressSeq := tset b.narrows.ingressSeq own seq } })
          (modTensor j (rootOf b.tensors dst) (fun e => { e with mask := e.mask ||| 2 ^ own })
            ((coalesce (p.zipIdx.map fun x => (byteAddr v x.2, x.1))).foldl (fun t x => engineWrite j x.1 x.2 t) w)))))) ∧
    (∀ p v, openChunks slot n 0 = .ok p → viewOf b 0 0 none dst = some v → tensorBytes v < p.length →
      exec (.ingressComplete j dst) s = .next (settle (ingressFails j dst own seq 0x24 0xFFFFFFFF m w))) ∧
    (∀ i, openChunks slot n 0 = .error i →
      exec (.ingressComplete j dst) s = .next (settle (ingressFails j dst own seq 0x23 i m w)))) ∧
  (∀ (s : State) (j dst own seq status first : Nat) (b : Job) (m : Msg), tget s.jobs j = some b →
    ingressFails j dst own seq status first m s = complete m status (jobEvent j 0x07
      (timed s (leBytes 1 status ++ leBytes 1 own ++ leBytes 2 dst ++ leBytes 4 seq ++ leBytes 4 first))
      (modTensor j (rootOf b.tensors dst) (fun e => { e with ingress := e.ingress.erase ⟨dst, true⟩ ++ [⟨dst, true⟩] }) s))) ∧
  (∀ (s u : State) (t : TaskRef) (r : Ref), Starts s t 0x2D r u →
    exec (.ingressWait t) s = .next (settle (if readsBlocked r then setRunning r 0 u else retire t u)))

/-- Tier 1. RELEASE of a tensor whose pages are there passes the Narrows or is refused (R54, R55, R258, R259): a status other than 0 is
counted, sends event 0x04, and retires the descriptor; status 0 counts the release in the step and sends the payload, in the owner's
chunks under the next sequence number where it goes to an owner, on a queue pair of the data class and the partition that is not in error.
RELEASE_COMPLETE takes the operation off its queue pair and sends event 0x04; it retires the task, or, where the transfer failed, stops its
program with 0x69. -/
def Obligations.NarrowsJudgesReleases : Prop :=
  (∀ (s u w : State) (t : TaskRef) (r : Ref), Starts s t 0x2C r u → ensurePages r u = (w, true) →
    let j := t.job
    let mask := ownerMask w j (dT r.d 1)
    let p := releasePayload w r mask
    let own := rd r.d 29 1
    let tag := tTag (((tget r.b.tensors (dT r.d 1)).map (·.raw)).getD [])
    let st := narrowsStatus r.b tag (rd r.d 28 1) own p.length mask
    let n := r.b.narrows.nextRelease
    let q := rd r.d 30 2
    let counted := modNarrows j (fun n => { n with allowed := n.allowed + 1, perStep := tset n.perStep tag (tgetD n.perStep tag 0 + 1) }) w
    let sent := fun (data : Bytes) (s : State) => addFlight q (.release j n) (ceilDiv data.length 4096)
      (putOut q (.rdmaWrite (0x1000 + q) (rd r.d 32 8) (rd r.d 40 4) data (some tag)) (setRunning r 0
        (modNarrows j (fun x => { x with nextRelease := n + 1, releases := x.releases ++ [⟨n, t, q, p.length, mask⟩] }) s)))
    (st ≠ 0 → exec (.release t) s = .next (settle (retire t (releaseEvent r st mask p.length
      (modNarrows j (fun n => { n with refused := tset n.refused st (tgetD n.refused st 0 + 1) }) w))))) ∧
    (∀ y, st = 0 → tget counted.eth.qps q = some y → y.cls = 1 → y.error = false → y.partition = partOf j →
      (rd r.d 28 1 = 0 → exec (.release t) s = .next (settle (sent p counted))) ∧
      (rd r.d 28 1 ≠ 0 → exec (.release t) s = .next (settle (sent
        (ownerChunks ((tget r.b.keys.owners own).getD []) r.b.id own r.b.narrows.releaseSeq p)
        (modNarrows j (fun n => { n with releaseSeq := n.releaseSeq + 1 }) counted)))))) ∧
  (∀ (s : State) (j n : Nat) (b : Job) (x : ReleaseSt), alive s = true → tget s.jobs j = some b →
    (b.narrows.releases.find? fun x => x.number == n) = some x →
    let u := dropFlight (.release j n) (modNarrows j (fun y => { y with releases := y.releases.filter fun z => z.number != n }) s)
    ∀ r, refOf u x.task = some r →
      exec (.releaseComplete j n true) s = .next (settle (retire x.task (releaseEvent r 0x00 x.mask x.bytes u))) ∧
      exec (.releaseComplete j n false) s = .next (settle (programFault x.task 0x69 (releaseEvent r 0x69 x.mask x.bytes u))))

/-! ### Checkpoints -/

/-- Tier 1. The checkpoint messages act on the live job that their context is bound to: CKPT_SETUP keeps a valid record, and the lead's
sealed blobs; CKPT_TRIGGER of a Keyed job fires a trigger and waits; CKPT_STATUS answers (R517 to R520). The timer of a Keyed lead starts
a capture, or counts while one is in progress or before the setup; the barrier's second abandons a capture with cause 1
(R28, R520, R525). A member that has become quiet arrives, with its lines written back, and one that is quiet no longer stops being
arrived; each reports (R524). While a released member's queue pair carries operations, a shard that has been written and fits its extent is
sent (shardSent), and one that does not fit fails the capture on this member; so does a failed write. A
manifest that has been written ends the capture on every member, and a failed one abandons it with cause 4 (R527, R529, R535). -/
def Obligations.CapturesRun : Prop :=
  (∀ (s : State) (ctx : Nat) (m : Msg) (j : Nat) (b : Job),
    let t := popInbox ctx s
    let r := msgBody m.bytes
    boundJob t m = .ok j → tget s.jobs j = some b →
    (Front s ctx 0x60 m → b.capture.phase = .none → setupFieldsOk b r = true → extentStatus t (partOf j) 3 (rd r 0 2) (rd r 2 1) = none →
      (b.isLead = true → rangeOk t j (rd r 96 5) (376 * rd r 101 1) = true ∧ (setupBlobs t j r).all (blobOk b) = true) →
      exec (.ckptSetup ctx) s = .next (settle (complete m 0x00
        (modCapture j (fun c => { c with setup := r, blobs := if b.isLead then setupBlobs t j r else [] }) t)))) ∧
    (Front s ctx 0x61 m → b.phase = .keyed →
      exec (.ckptTrigger ctx) s = .next (settle (fireTrigger j 0x03 (modCapture j (fun c => { c with trigger := c.trigger ++ [m] }) t)))) ∧
    (Front s ctx 0x62 m → exec (.ckptStatus ctx) s = .next (settle (completeResult m 0x00 (statusResult b.capture) t)))) ∧
  (∀ (s : State) (j : Nat) (b : Job), alive s = true → tget s.jobs j = some b → b.isLead = true →
    (b.phase = .keyed → b.capture.phase = .none → b.capture.setup ≠ [] → (trigCfg s j).timer ≠ 0 →
      exec (.checkpointTimer j) s = .next (settle (startCapture j 0x01 s))) ∧
    (b.phase = .keyed → (b.capture.phase ≠ .none ∨ b.capture.setup = []) → (trigCfg s j).timer ≠ 0 →
      exec (.checkpointTimer j) s = .next (settle (modCapture j (fun c => { c with counted := c.counted + 1 }) s))) ∧
    (b.capture.phase = .entered → exec (.barrierTimeout j) s = .next (settle (endCapture j 1
      (toMembers j (barrierPayload 7 0 b.capture.serial 1) s))))) ∧
  (∀ (s : State) (j : Nat) (b : Job) (a : Bool), alive s = true → tget s.jobs j = some b → b.capture.phase = .entered →
    b.capture.arrived = !a → (tasksQuiet s j b && commQuiet b) = a →
    exec (.memberArrived j a) s = .next (settle (sendReport j (modCapture j (fun c => { c with arrived := a })
      (if a then writeDirty j s else s))))) ∧
  (∀ (s : State) (j : Nat) (b : Job), alive s = true → tget s.jobs j = some b →
    (b.capture.phase = .released →
      let w := dropFlight (.shard j) s
      let r := shardBytes b w
      (((qpOfObj w (rd b.capture.setup 0 2)).map (carries w)).getD false = true →
      (r.1.length ≤ rd b.capture.setup (shardSet b.capture.serial + 16) 8 →
        exec (.shardWriteComplete j true) s = .next (settle (shardSent j b r.1 r.2))) ∧
      (rd b.capture.setup (shardSet b.capture.serial + 16) 8 < r.1.length →
        exec (.shardWriteComplete j true) s = .next (settle (captureFails j r.2)))) ∧
      exec (.shardWriteComplete j false) s = .next (settle (captureFails j (dropFlight (.shard j) s)))) ∧
    (b.capture.lead.manifestWriting = true →
      exec (.manifestWriteComplete j true) s = .next (settle (endCapture j 0
        (toMembers j (barrierPayload 8 0 b.capture.serial 0) (dropFlight (.manifest j) s)))) ∧
      exec (.manifestWriteComplete j false) s = .next (settle (abandonCapture j 4 (dropFlight (.manifest j) s)))))

/-- Tier 1. RESTORE of a Keyed job in which no capture or restore is in progress makes its checks and tells the lead the first cause that
fails, or none (R536, R537). A shard that has come while the queue pair carries operations is checked whole and loaded (loadShard), and the lead
hears that the member is done; one that is not whole tells it cause 7, and one that did not come cause 9 (R538, R539). STATE_IMPORT of a shard
that fits asks for the target's pages and waits; its end, with those pages resident, places the source's bytes (placeImport), or ends with
cause 7 where one does not verify and cause 9 where they did not come (R541, R542). -/
def Obligations.RestoresLoadWhole : Prop :=
  (∀ (s : State) (ctx : Nat) (m : Msg) (j : Nat) (b : Job) (manifest chunk : ReadResult),
    let t := popInbox ctx s
    let r := msgBody m.bytes
    let c := restoreCause t j b r manifest chunk
    let x : RestoreSt := { msg := m, record := r, manifest := c.2.2.1, header := c.2.2.2, cause := c.1, step := c.2.1 }
    let w := keepRunning m (.restore j) (modJob j (fun b => { b with restore := some x }) t)
    Front s ctx 0x63 m → boundJob t m = .ok j → tget s.jobs j = some b → r.length = 64 → allZero (sub r 45 19) = true →
    b.phase = .keyed → b.restore = none → b.capture.phase = .none → extentStatus t (partOf j) 3 (rd r 0 2) (rd r 2 1) = none →
    rangeOk t j (rd r 40 5) (4 * rd c.2.2.1 0x18 4) = true → (b.isLead = true → rangeOk t j (rd r 3 5) (16 * rd c.2.2.1 0x18 4) = true) →
    exec (.restore ctx manifest chunk) s = .next (settle (if b.isLead then checkArrives j (deviceAddress w) c.1 c.2.1 w
      else toLead j (barrierPayload 9 c.1 (rd c.2.2.1 8 4) c.2.1) w))) ∧
  (∀ (s : State) (j : Nat) (b : Job) (x : RestoreSt), alive s = true → tget s.jobs j = some b → b.restore = some x → x.imported = false →
    x.going = true → x.loaded = false →
    let u := dropFlight (.restoreRead j) s
    let tell := fun (cause : Nat) (s : State) =>
      let w := modJob j (fun b => { b with restore := b.restore.map fun y => { y with cause, loaded := cause == 0 } }) s
      if b.isLead then doneArrives j (deviceAddress w) cause w else toLead j (barrierPayload 0xC cause (rd x.manifest 8 4) 0) w
    let member := rd x.record 36 4
    let e := manifestEntry x.manifest member
    exec (.restoreLoadComplete j .failed) s = .next (settle (tell 9 u)) ∧
    (((qpOfObj s (rd x.record 0 2)).map (carries s)).getD false = true → ∀ d, let chunk := shardChunk (ckptKey b) (rd x.manifest 8 8) member d
      (d.length = rd e 8 8 → sha256 d = sub e 16 32 → (∀ c, c < d.length / 4112 → (chunk c).isSome = true) →
        exec (.restoreLoadComplete j (.bytes d)) s = .next (settle (tell 0 (loadShard j x chunk u)))) ∧
      (d.length ≠ rd e 8 8 ∨ sha256 d ≠ sub e 16 32 ∨ (∃ c, c < d.length / 4112 ∧ chunk c = none) →
        exec (.restoreLoadComplete j (.bytes d)) s = .next (settle (tell 7 u))))) ∧
  (∀ (s : State) (ctx : Nat) (m : Msg) (j : Nat) (b : Job) (man h0 ix h d sc : Bytes) (e : TensorE) (dv sv : TV),
    let t := popInbox ctx s
    let r := msgBody m.bytes
    Front s ctx 0x64 m → boundJob t m = .ok j → tget s.jobs j = some b → r.length = 64 → allZero (sub r 3 5) = true →
    rd r 36 4 < 2 ^ 20 → rd r 40 1 < 2 → rd r 41 1 = 0 → allZero (sub r 44 20) = true → b.phase = .keyed → b.restore = none →
    extentStatus t (partOf j) 3 (rd r 0 2) (rd r 2 1) = none → tget b.tensors (rd r 42 2) = some e → manifestCause b man = 0 →
    bit (rd man 2 1) 0 = true → rd r 36 4 < rd man 0x18 4 → shardChunk (ckptKey b) (rd man 8 8) (rd r 36 4) h0 0 = some h →
    sourceTensor (tLogical e.raw) (indexEntries ix) = some (d, sc) → viewOf b 0 0 none (rd r 42 2) = some dv →
    sourceView d sc b.cfg.block = some sv → importOk d e.raw sv dv = true →
    exec (.stateImport ctx (.bytes man) (.bytes h0) (.bytes ix)) s = .next (settle
      (((byteRange b.tensors 0 0 (rd r 42 2)).flatMap pagesOf).foldl (fun t p => requestPage j p t)
        (keepRunning m (.restore j) (modJob j (fun b => { b with
          restore := some { msg := m, record := r, manifest := man, header := h, imported := true, index := ix } }) t))))) ∧
  (∀ (s : State) (j : Nat) (b : Job) (x : RestoreSt) (e : TensorE) (d src sc : Bytes) (dv sv : TV), alive s = true →
    tget s.jobs j = some b → b.restore = some x → x.imported = true → tget b.tensors (rd x.record 42 2) = some e →
    viewOf b 0 0 none (rd x.record 42 2) = some dv → sourceTensor (tLogical e.raw) (indexEntries x.index) = some (src, sc) →
    sourceView src sc b.cfg.block = some sv →
    (∀ p ∈ (byteRange b.tensors 0 0 (rd x.record 42 2)).flatMap pagesOf, (dirAt s j p).st = .resident) →
    ((∀ c ∈ importBytes b x d e src dv sv, c.2.isSome = true) →
      exec (.stateImportComplete j (.bytes d)) s = .next (settle (finish (.restore j) 0x00 {}
        (modJob j (fun b => { b with restore := none }) (placeImport j b x d e src dv sv s))))) ∧
    ((∃ c ∈ importBytes b x d e src dv sv, c.2 = none) →
      exec (.stateImportComplete j (.bytes d)) s = .next (settle (endRestore j 7 s))) ∧
    exec (.stateImportComplete j .failed) s = .next (settle (endRestore j 9 s)))

/-! ### Flash, the Ledger's commands, firmware -/

/-- Tier 1. The configuration slots (R464 to R466, R469): CONFIG_ERASE records and empties a slot and makes its sender the writer;
CONFIG_WRITE takes the writer's bytes where writeStatus finds nothing; CONFIG_COMMIT ends the writer's hold and gives the validity mark, with a
record and the digest, or completes with the entry that fails; CONFIG_SELECT and CONFIG_ACTIVATE wait for their records. All five come from a
management context or the sideband, and name a slot of two. -/
def Obligations.ConfigSlotsAreManaged : Prop :=
  ∀ (s t : State) (src : MsgRef) (m : Msg), isManagement m = true →
    let a := arg m.bytes 0 1
    let f := slotOf t.config.slots a
    (Arrives s 0x70 src m t → a ≤ 1 →
      exec (.configErase src) s = .next (settle (complete m 0x00 (modConfig a (fun _ => erasedSlot (senderId m))
        (ledgerFor m 0x02 1 0xFF false 0 (slotDetail02 t a) t))))) ∧
    (Arrives s 0x71 src m t → arg m.bytes 4 1 ≤ 1 →
      exec (.configWrite src) s = .next (settle (if (writeStatus m (slotOf t.config.slots (arg m.bytes 4 1)) (2 ^ 20)).isSome
        then complete m ((writeStatus m (slotOf t.config.slots (arg m.bytes 4 1)) (2 ^ 20)).getD 0) t
        else complete m 0x00 (modConfig (arg m.bytes 4 1) (writtenSlot (arg m.bytes 0 4) (msgBody m.bytes)) t)))) ∧
    (Arrives s 0x72 src m t → a ≤ 1 → f.writer = some (senderId m) → imageFault (slotImage f) = none →
      let u := modConfig a (fun f => { f with writer := none, valid := true }) t
      exec (.configCommit src) s = .next (settle (completeResult m 0x00 (flashRead f 0x20 32)
        (ledgerFor m 0x02 2 0xFF false 0 (slotDetail02 u a) u)))) ∧
    (∀ x, Arrives s 0x72 src m t → a ≤ 1 → f.writer = some (senderId m) → imageFault (slotImage f) = some x →
      exec (.configCommit src) s = .next (settle (completeResult m 0x12 (leBytes 1 x.1 ++ [0] ++ leBytes 2 x.2.1 ++ leBytes 4 x.2.2)
        (modConfig a (fun f => { f with writer := none }) t)))) ∧
    (Arrives s 0x73 src m t → a ≤ 1 → f.valid = true → t.ledger.mirrorFault = false →
      exec (.configSelect src) s = .next (settle (deferChange m (.configSelect a) (ledgerFor m 0x02 3 0xFF true 0 (slotDetail02 t a) t)))) ∧
    (Arrives s 0x74 src m t → a ≤ 1 → configBusy t = false → f.valid = true → activationBarred t (readImage (slotImage f)) = false →
      t.ledger.mirrorFault = false →
      let img := readImage (slotImage f)
      let d := slotDetail02 t a
      let u := ledgerFor m 0x02 4 0xFF true 0 d t
      exec (.configActivate src) s = .next (settle (deferChange m (.configActivate a img)
        (if img.lock = true ∧ u.config.locked = false then ledgerFor m 0x02 6 0xFF true 0 d u else u))))

/-- Tier 1. LEDGER_ANCHOR sets the offset to the time of its message and records it; LEDGER_STREAM, where fewer than four other contexts
have streams, sends the records from its number on, or from the oldest held, with status 0x01, where that is gone; LEDGER_STOP ends the stream (R478, R479). REQ_WRITE puts its body into Glen's
request buffer, which offset 0 empties first (R577). -/
def Obligations.LedgerMessagesAct : Prop :=
  (∀ (s : State) (ctx : Nat) (m : Msg), isManagement m = true →
    let t := popInbox ctx s
    let n := arg m.bytes 0 8
    (Front s ctx 0x78 m → exec (.ledgerAnchor ctx) s = .next (settle (complete m 0x00 (ledgerFor m 0x0C 1 0xFF false 0 (leBytes 8 n)
      { t with ledger := { t.ledger with offset := (n : Int) - s.timeNs, anchored := true } })))) ∧
    (Front s ctx 0x79 m → (terase s.ledger.streams ctx).length < 4 →
      let u := complete m 0x00 (ledgerNote 2 n t)
      (oldestRecord u ≤ n → exec (.ledgerStream ctx) s = .next (settle (pumpStreams
        { u with ledger := { u.ledger with streams := tset u.ledger.streams ctx n } }))) ∧
      (∀ r, n < oldestRecord u → recordAt u (oldestRecord u) = some r →
        let w := sendRecord ctx (oldestRecord u) 1 r u
        exec (.ledgerStream ctx) s = .next (settle (pumpStreams
          { w with ledger := { w.ledger with streams := tset w.ledger.streams ctx (oldestRecord u + 1) } })))) ∧
    (Front s ctx 0x7A m → exec (.ledgerStop ctx) s = .next (settle (complete m 0x00
      { t with ledger := { t.ledger with streams := terase t.ledger.streams ctx } })))) ∧
  (∀ (s t : State) (src : MsgRef) (m : Msg), Arrives s 0x88 src m t → isManagement m = true → msgBody m.bytes ≠ [] →
    (msgBody m.bytes).length ≤ 960 → arg m.bytes 0 4 + (msgBody m.bytes).length ≤ 65536 →
    exec (.reqWrite src) s = .next (settle (complete m 0x00 { t with glen := { t.glen with
      requestBuffer := (if arg m.bytes 0 4 = 0 then [] else t.glen.requestBuffer) ++ [(arg m.bytes 0 4, msgBody m.bytes)] } })))

/-- Tier 1. The firmware slots (R576 to R578): FW_ERASE empties a slot that is not in effect; FW_WRITE takes the writer's bytes; FW_COMMIT
judges the set, and its mark waits for its record, or it completes with 0x12 and the cause; FW_ACTIVATE of a valid slot completes with 0x18
and a record where a job's policy does not list the new measurement; elsewhere it waits where an activation, a capture or a restore is in
progress, and else its effect waits for its record where the set passes; FW_RATCHET's effect waits for its record where no older set is
valid. The end of an activation puts the set into effect, or records why not and completes with 0x12. -/
def Obligations.FirmwareSlotsAreManaged : Prop :=
  (∀ (s t : State) (src : MsgRef) (m : Msg), isManagement m = true →
    let a := arg m.bytes 0 1
    (Arrives s 0x83 src m t → a ≤ 1 → t.fw.effect.map (·.slot) ≠ some a →
      exec (.fwErase src) s = .next (settle (complete m 0x00 (modFw a (fun _ => erasedSlot (senderId m)) t)))) ∧
    (Arrives s 0x84 src m t → arg m.bytes 4 1 ≤ 1 → writeStatus m (slotOf t.fw.slots (arg m.bytes 4 1)) fwSlotSize = none →
      exec (.fwWrite src) s = .next (settle (complete m 0x00 (modFw (arg m.bytes 4 1) (writtenSlot (arg m.bytes 0 4) (msgBody m.bytes)) t)))) ∧
    (Arrives s 0x85 src m t → a ≤ 1 → (slotOf t.fw.slots a).writer = some (senderId m) → slotFault t a = none → t.ledger.mirrorFault = false →
      let u := modFw a (fun f => { f with writer := none }) t
      exec (.fwCommit src) s = .next (settle (deferChange m (.fwCommit a) (ledgerFor m 0x07 1 0xFF true 0 (fwDetail (slotManifest u a) a 0) u)))) ∧
    (∀ x, Arrives s 0x85 src m t → a ≤ 1 → (slotOf t.fw.slots a).writer = some (senderId m) → slotFault t a = some x →
      exec (.fwCommit src) s = .next (settle (completeResult m 0x12 (fwResult x) (modFw a (fun f => { f with writer := none }) t)))) ∧
    (Arrives s 0x86 src m t → a ≤ 1 → (slotOf t.fw.slots a).valid = true → fwUnlisted t (slotManifest t a) = true → t.ledger.mirrorFault = false →
      exec (.fwActivate src) s = .next (settle (complete m 0x18 (ledgerFor m 0x07 5 0xFF false 0 (fwDetail (slotManifest t a) a 0) t)))) ∧
    (Arrives s 0x86 src m t → a ≤ 1 → (slotOf t.fw.slots a).valid = true → fwWaits t = true → fwUnlisted t (slotManifest t a) = false →
      exec (.fwActivate src) s = .next (settle (keepRunning m (.fwWait a) t))) ∧
    (Arrives s 0x86 src m t → a ≤ 1 → (slotOf t.fw.slots a).valid = true → fwWaits t = false → t.ledger.mirrorFault = false →
      (∀ b ∈ t.jobs, accepts b.2.policy (measureWith (slotManifest t a) (lifeCycle t)) = true) → slotFault t a = none →
      exec (.fwActivate src) s = .next (settle (deferChange m (.fwActivate ⟨a, slotManifest t a⟩)
        (ledgerFor m 0x07 2 0xFF true 0 (fwDetail (slotManifest t a) a 0) t)))) ∧
    (∀ e, Arrives s 0x87 src m t → t.fw.effect = some e → olderSet t e = false → t.ledger.mirrorFault = false →
      exec (.fwRatchet src) s = .next (settle (deferChange m (.fwRatchet (mSecurity e.manifest))
        (ledgerFor m 0x07 6 0xFF true 0 (fwDetail e.manifest e.slot 0) t))))) ∧
  (∀ (s : State) (n : Nat) (e : FwEffect), s.fw.activating = some (n, e) →
    let u := clearCaches { s with fw := { s.fw with activating := none } }
    let failed := ledgerBy ((u.running.find? fun r => r.kind == .ticket n).map (·.msg)) 0x07 5 0xFF false (fwDetail e.manifest e.slot 4) u
    exec (.firmwareActivationDone true) s = .next (settle (releaseHeld (finish (.ticket n) 0x00 {} (takeSet e u)))) ∧
    exec (.firmwareActivationDone false) s = .next (settle (releaseHeld (finish (.ticket n) 0x12
      { result := [4, 0] ++ (freshBytes 6 failed).1 } (freshBytes 6 failed).2))))

/-! ### Life cycle and resets -/

/-- Tier 1. LC_TRANSITION of a request that no check of R581 and R582 refuses is stored, and its intent recorded; one that is refused
completes with its first cause. DEBUG_OPEN waits for the record of a token that is right for this unit and boot; DEBUG_CLOSE waits for its
record; LC_RESET is a cold reset where one is due (R581 to R587). -/
def Obligations.LifeCycleMoves : Prop :=
  (∀ (s t : State) (src : MsgRef) (m : Msg), isManagement m = true → Arrives s 0x89 src m t → t.glen.current = none → t.lc.ticket = none →
    t.lc.resetDue = false →
    let r := bufferRead t 0 requestLength
    let u := { t with lc := { t.lc with request := r } }
    let w := ledgerFor m 0x08 1 0xFF true 0 (lcDetail u 0) u
    (lcCause t r = none → t.ledger.mirrorFault = false →
      exec (.lcTransition src) s = .next (settle (deferChange m (.lifeCycle 0) { w with lc := { w.lc with ticket := some w.tickets } }))) ∧
    (∀ c, lcCause t r = some c → exec (.lcTransition src) s = .next (settle (completeResult m 0x12 [BitVec.ofNat 8 c] t)))) ∧
  (∀ (s : State) (env : BootEnv), s.lc.resetDue = true → exec (.lcReset env) s = .next (coldReset env s)) ∧
  (∀ (s : State) (ctx : Nat) (m : Msg), isManagement m = true → s.ledger.mirrorFault = false →
    let t := popInbox ctx s
    let k := bufferRead t 0 (0x40 + 29792)
    (Front s ctx 0x8A m → s.glen.current = none → Config.slh256Verify (sub (Config.romKey 3) 0 64) (sub k 0 0x40) (sub k 0x40 29792) = true →
      sub k 8 32 = sub Config.unitId 0 32 → rd k 4 4 = s.boot →
      exec (.debugOpen ctx) s = .next (settle (deferChange m (.debugOpen (rd k 2 1 % 8) k)
        (ledgerFor m 0x09 1 0xFF true 0 (debugDetail (rd k 2 1 % 8) k) t)))) ∧
    (Front s ctx 0x8B m → exec (.debugClose ctx) s = .next (settle (deferChange m .debugClose
      (ledgerFor m 0x09 2 0xFF true 0 (debugDetail s.lc.scope s.lc.token) t)))))

/-- Tier 1. The three resets that RESET asks for by its first byte: a function reset of the partitions it names, where nothing holds it
back; a warm reset, which tears every job down first; a cold reset, which waits for nothing and counts a boot (R562 to R566). -/
def Obligations.ResetsRun : Prop :=
  ∀ (s t : State) (src : MsgRef) (m : Msg), isManagement m = true → Arrives s 0x8C src m t →
    (arg m.bytes 0 1 = 1 → (arg m.bytes 1 1 < 16 ∨ arg m.bytes 1 1 = 0xFF) → resetWaits t = false →
      ((resetParts (arg m.bytes 1 1)).any (partCloses t)) = false →
      exec (.functionReset src) s = .next (settle (complete m 0x00 ((resetParts (arg m.bytes 1 1)).foldl (fun s p => resetPart p s) t)))) ∧
    (arg m.bytes 0 1 = 2 → resetWaits t = false → t.jobs = [] → exec (.warmReset src) s = .next (settle (warmNow (some m) t))) ∧
    (arg m.bytes 0 1 = 2 → resetWaits t = false → t.jobs ≠ [] → exec (.warmReset src) s = .next (settle
      (tearAll 4 { t with afterJobs := t.afterJobs ++ [.warmReset (some m)] }))) ∧
    (arg m.bytes 0 1 = 2 → resetWaits t = true → exec (.warmReset src) s = .next (settle { t with held := t.held ++ [.message m] })) ∧
    (∀ env, arg m.bytes 0 1 = 3 → exec (.coldReset src env) s = .next (coldReset env t))

/-- Tier 1. What a cold reset leaves (R476, R477, R562): the slots and pointers of flash, the fuses, the root and the tamper state, the mirror
and the losses to record; jobs, contexts, objects, slots and the other records are gone, debug is closed, and numbering goes on from the
mirror. The Ledger of such a state is chained where it was. -/
def Obligations.ColdResetKeepsWhatLasts : Prop :=
  ∀ s : State,
    let t := coldState s
    t.config.slots = s.config.slots ∧ t.config.pointers = s.config.pointers ∧ t.fw.slots = s.fw.slots ∧ t.fw.pointers = s.fw.pointers ∧
    t.lc.rows = s.lc.rows ∧ t.lc.security = s.lc.security ∧ t.glen.root = s.glen.root ∧ t.glen.tamper = s.glen.tamper ∧
    t.ledger.mirror = s.ledger.mirror ∧ t.ledger.next = s.ledger.mirrored ∧ t.ledger.ring = [] ∧ t.ledger.lost = s.ledger.lost ∧
    t.jobs = [] ∧ t.ctxs = [] ∧ t.objects.objs = [] ∧ t.running = [] ∧ t.glen.slots = [] ∧ t.lc.debugOpen = false ∧
    t.start.ready = false ∧ t.timeNs = 0 ∧ t.ledger.offset = 0 ∧ t.boot = s.boot ∧ (Chained s.ledger → Chained t.ledger)

/-! ### The start order -/

/-- Tier 1. Loss and return of main power, the board's reset and the steps of the start order (R545 to R548, R563, R610): the four commands of
the board, each step's end in turn, a group of ten blocks every slot of step 4, a laser step for two Pass ports at a time, and a block
whose rail does not rise. -/
def Obligations.StartOrderRuns : Prop :=
  ∀ s : State,
    (s.power.mainPower = false → exec .powerEnable s = .next { coldState s with
      boot := s.boot + 1, power := { (coldState s).power with mainPower := true, sysclk := true, netclk := true }, start := {} }) ∧
    (s.power.mainPower = true → exec .powerLoss s = .next { coldState s with
      power := { (coldState s).power with mainPower := false, resetHeld := false, vbat := true, shut := false, tripped := false
                                          tripClass := 0, tripIndex := 0 }
      start := {}, i3c := {} }) ∧
    (s.power.mainPower = true → s.power.resetHeld = false → exec .boardReset s = .next { coldState s with
      boot := s.boot + 1, power := { (coldState s).power with resetHeld := true }, start := { (coldState s).start with step := 1 } }) ∧
    exec .resetLRelease s = .next { s with power := { s.power with resetHeld := false } } ∧
    (∀ env, s.power.mainPower = true →
      (s.start.step = 0 → exec (.startStepDone env) s = .next { s with start := { s.start with step := 1 } }) ∧
      (s.start.step = 1 → s.power.resetHeld = false → s.start.selfTestFailed = false →
        exec (.startStepDone env) s = .next (glenStart env.boot s)) ∧
      (s.start.step = 2 → s.start.bootHold = false → exec (.startStepDone env) s = .next (bootLoad env.boot s)) ∧
      (s.start.step = 3 → s.power.shut = false → s.power.tripped = false → s.start.stackFailed = [] →
        (env.stacksFailed.filter fun k => decide (k < 12)) = [] →
        exec (.startStepDone env) s = .next { s with power := { s.power with railsOn := true }, start := { s.start with step := 4 } }) ∧
      (s.start.step = 4 → s.start.groups = 100 → exec (.startStepDone env) s = .next { s with
        vale := if s.start.warm then s.vale else { rate := s.vale.rate }, start := { s.start with step := 5 } }) ∧
      (s.start.step = 5 → s.start.lasers = 16 → exec (.startStepDone env) s = .next (checkReady { s with start := { s.start with step := 6 } })) ∧
      (s.start.step = 6 → exec (.startStepDone env) s = .next (checkReady (ethTrained s)))) ∧
    (s.power.mainPower = true → s.power.railsOn = true →
      (s.start.step = 4 → s.start.groups < 100 → exec .blockGroupStart s = .next (startBlocks
        ((List.range 10).map fun k => 10 * s.start.groups + k) { s with start := { s.start with groups := s.start.groups + 1 } })) ∧
      (s.start.step ≠ 4 → exec .blockGroupStart s = .next (startBlocks (s.start.toStart.take 10)
        { s with start := { s.start with toStart := s.start.toStart.drop 10 } })) ∧
      (∀ b at', tget s.power.blockStarted b = some at' → exec (.blockRailTimeout b) s = .next (freeEvent { s with
        power := { s.power with blockStarted := terase s.power.blockStarted b }
        start := { s.start with blockFailed := (s.start.blockFailed.filter (· != b)) ++ [b] } })) ∧
      (∀ failed, s.start.step = 5 → s.start.lasers < 16 → exec (.laserStep failed) s = .next (settle (laserNext failed s))))

/-! ### Operations of programs -/

/-- Tier 1. A matrix or attention operation whose pages are there, and which reads no line that fails, starts the units of its tile map
(R202, R223 to R230, R263). Where every block of the map runs the job's tasks it computes from what its tensors hold and has its effect; a gap
descriptor on blocks that are not all lent is to have it later (R211). MATMUL meets the words that ECC reports on its way first (R591), and
its operands take the promoted values, and its outputs their owner bits, where its span is promoted (R43, R176). One whose pages are
still to come asks for them, and one that reads a line which fails ends in that line's failure (R323). -/
def Obligations.MatrixOperationsRun : Prop :=
  (∀ (s u w : State) (t : TaskRef) (r : Ref), ensurePages r u = (w, true) → badRead r w = none →
    let runs := fun (units : Nat) (o : OpOut) => Host.Outcome.next (settle (if wholeRuns w r = true then finishOp r o (setRunning r units w)
      else modDesc t (fun d => { d with late := true }) (setRunning r units w)))
    (∀ v ecc, Starts s t 0x10 r v → meetWords { task := some t } ecc v = (u, true) → r.promoted = none →
      exec (.matmul t ecc) s = runs (mUnits r.map)
        (matmulOut (logical (srcOf u t.job) (r.slotView 1)) (logical (srcOf u t.job) (r.slotView 2)) r w)) ∧
    (∀ v x y z ecc f g, Starts s t 0x10 r v → meetWords { task := some t } ecc v = (x, true) → r.promoted ≠ none →
      promotedValues r (r.slotView 1) x = (y, some f) → promotedValues r (r.slotView 2) y = (z, some g) →
      u = orMasks t.job (weightMask z r (r.slotView 1) ||| weightMask z r (r.slotView 2)) (opWrites r.d) z →
      exec (.matmul t ecc) s = runs (mUnits r.map) (matmulOut f g r w)) ∧
    (Starts s t 0x11 r u → exec (.matmulDx t) s = runs (mUnits r.map) (dxOut r w (r.optView 5))) ∧
    (Starts s t 0x12 r u → exec (.matmulDw t) s = runs (mUnits r.map) (dwOut r w 0 2 (r.optView 5))) ∧
    (Starts s t 0x13 r u → exec (.matmulAlt t) s = runs (max (mUnits r.map) (dwUnits r)) (matmulAlt r w)) ∧
    (Starts s t 0x14 r u → exec (.attentionFwd t) s = runs (mUnits r.map) (attentionFwdOut r w)) ∧
    (Starts s t 0x15 r u → exec (.attentionBwd t) s = runs (mUnits r.map) (attentionBwdOut r w))) ∧
  (∀ (s u w : State) (t : TaskRef) (r : Ref) (x : Host.Outcome State Fault Refusal),
    (ensurePages r u = (w, false) ∧ x = .next (settle w) ∨
      ∃ l, ensurePages r u = (w, true) ∧ badRead r w = some l ∧ x = .next (settle (lineFails l 0 (some t) w))) →
    (Starts s t 0x11 r u → exec (.matmulDx t) s = x) ∧ (Starts s t 0x12 r u → exec (.matmulDw t) s = x) ∧
    (Starts s t 0x13 r u → exec (.matmulAlt t) s = x) ∧ (Starts s t 0x14 r u → exec (.attentionFwd t) s = x) ∧
    (Starts s t 0x15 r u → exec (.attentionBwd t) s = x))

/-- Tier 1. The row and element operations, and the copy operations, whose pages are there and which read no line that fails, start the
units of their tile map, and have their effect where every block of it runs the job's tasks, or are to have it later: NORM, NORM_BWD,
SOFTMAX in its two modes, ELEMENTWISE, REDUCE and CAST (R231 to R239); TRANSPOSE_COPY, COPY, FILL and SCATTER_REDUCE; STASH and UNSTASH,
which copy values, and the stored bits too where both tensors are of one kind (R240, R241, R252). DIGEST writes the SHA-256 of the stored
bytes, without a statistics destination, and notes a difference from its reference with its span or by the event; STATISTICS puts a record
over the values of its tensor (R256, R257). -/
def Obligations.RowAndCopyOperationsRun : Prop :=
  ∀ (s u w : State) (t : TaskRef) (r : Ref), ensurePages r u = (w, true) → badRead r w = none →
    let on := setRunning r (mUnits r.map) w
    let runs := fun (x : State) => Host.Outcome.next (settle (if wholeRuns w r = true then x
      else modDesc t (fun d => { d with late := true }) on))
    let fin := fun (o : OpOut) => runs (finishOp r o on)
    let m := srcOf w t.job
    let mode := rd r.d 28 1
    (Starts s t 0x16 r u → exec (.norm t) s = fin
      (normOp m (mode == 1) (r.f32 32).rat (r.slotView 0) (r.slotView 1) (r.slotView 2) (r.optView 3) (r.optView 4))) ∧
    (Starts s t 0x17 r u → exec (.normBwd t) s = fin
      (normBwdOp m (mode == 1) (r.slotView 0) (r.slotView 1) (r.slotView 2) (r.slotView 3) (r.slotView 4) (r.slotView 5))) ∧
    (Starts s t 0x18 r u → mode = 0 → exec (.softmax t) s = fin
      (softmaxOp m (r.f32 32).rat 1 (r.slotView 0) (r.slotView 1) none none)) ∧
    (Starts s t 0x18 r u → mode ≠ 0 → exec (.softmax t) s = fin
      (softmaxOp m (r.f32 32).rat (lossFactor r) (r.slotView 0) (r.slotView 1) (some (r.slotView 2)) (r.optView 3))) ∧
    (Starts s t 0x19 r u → exec (.elementwise t) s = fin
      (elementwiseOp m mode (r.f32 32) (r.f32 36) (rd r.d 40 4) (r.slotView 0) (r.slotView 1) (r.optView 2) (r.optView 3))) ∧
    (Starts s t 0x1A r u → exec (.reduce t) s = fin (reduceOp m mode (rd r.d 29 1) (r.slotView 0) (r.slotView 1))) ∧
    (Starts s t 0x1B r u → exec (.cast t) s = fin (castOp m mode (r.slotView 0) (r.slotView 1))) ∧
    (Starts s t 0x1C r u → exec (.transposeCopy t) s = fin (transposeOp m (r.slotView 0) (r.slotView 1))) ∧
    (Starts s t 0x1D r u → exec (.copy t) s = fin (copyOp m (r.slotView 0) (r.slotView 1) (r.optView 2))) ∧
    (Starts s t 0x1E r u → exec (.fill t) s = fin (fillOp (r.slotView 0) (r.f32 32))) ∧
    (Starts s t 0x1F r u → exec (.scatterReduce t) s = fin (scatterOp m (r.slotView 0) (r.slotView 1) (r.slotView 2))) ∧
    (let copied := finishOp r (copyOp m (r.slotView 0) (r.slotView 1) none) on
     let stashed := if sameKind r.b (r.slotView 0) (r.slotView 1) then applyStores t.job (bitCopy m (r.slotView 0) (r.slotView 1)) copied else copied
     (Starts s t 0x27 r u → exec (.stash t) s = runs stashed) ∧ (Starts s t 0x28 r u → exec (.unstash t) s = runs stashed)) ∧
    (Starts s t 0x2A r u → dStats r.d = 0xFFFF →
      let h := sha256 (storedBytes m (r.slotView 1) ++ (if bit (rd r.d 28 1) 0 then scaleBytes m (r.slotView 1) else []))
      let x := applyStores t.job (wordStores (r.slotView 0) h) on
      let y := orMasks t.job (masksOf x t.job (opReads r.d)) (opWrites r.d) x
      ((∀ v, r.optView 2 = some v → storedBytes m v = h) → exec (.digest t) s = runs y) ∧
      (∀ v, r.optView 2 = some v → storedBytes m v ≠ h →
        (∀ k, spanPos r.u t.desc = some k → exec (.digest t) s = runs (modSpan t.job t.sub k
          (fun z => { z with mismatches := z.mismatches ++ [dT r.d 1] }) y)) ∧
        (spanPos r.u t.desc = none → exec (.digest t) s = runs (mismatchEvent t.job r.u.prog (dT r.d 1) y)))) ∧
    (Starts s t 0x2B r u → dStats r.d = 0xFFFF →
      let o := statisticsOf m (r.slotView 1)
      exec (.statistics t) s = runs (putRecord r (dT r.d 0) (dT r.d 1) (recordOf r o.1 (dT r.d 1)) (raiseEvents r [r.slotView 1] o.2
        (orMasks t.job (masksOf w t.job (opReads r.d)) (opWrites r.d) on))))

/-- Tier 1. A Saddle gather of a live group, whose pages are there and whose shard has no line that fails, takes this Proend's shard and
asks every other member of its group for theirs (beginGather), unless 64 are in flight; what staging ways held back goes on once one
is free (R91, R243, R404). The collectives of a live group whose input is there start with it taken and their first transfers sent
(startGathering, startReducing; R389 to R394). A gather or collective that names no group of its generation stops its program with 0x67
(R220). -/
def Obligations.GathersAndCollectivesStart : Prop :=
  ∀ (s u : State) (t : TaskRef) (r : Ref) (grp : Group),
    (∀ w, Starts s t 0x20 r u → groupOf u r.d = some grp → ensurePages r u = (w, true) → gathersInFlight u < 64 → badRead r w = none →
      let own := tensorSlice (srcOf w t.job) (r.slotView 1) 0 (tensorBytes (r.slotView 1))
      let logical := tLogical (((tget r.b.tensors (dT r.d 1)).map (·.raw)).getD [])
      exec (.saddleGather t) s = .next (settle (gatherDone r (placeShard r grp.rank 0 own
        (beginGather t false grp logical (tensorBytes (r.slotView 1)) (setRunning r 0 w)))))) ∧
    (Starts s t 0x20 r u → groupOf u r.d = none → exec (.saddleGather t) s = .next (settle (programFault t 0x67 u))) ∧
    (∀ slice set, alive s = true → stagedWays s slice set < 8 →
      exec (.saddleStagingResume slice set) s = .next (settle ((tgetD s.cache.holds (slice * 64 + set) []).foldl (fun s t => resumeGather t s)
        { s with cache := { s.cache with holds := terase s.cache.holds (slice * 64 + set) } }))) ∧
    (∀ w, groupOf u r.d = some grp → bringPages t.job (r.pages (opReads r.d)) u = (w, true) → badRead r w = none →
      (Starts s t 0x21 r u → exec (.allGather t) s = .next (settle (retryHeld t.job (startGathering r grp w)))) ∧
      (Starts s t 0x22 r u → exec (.reduceScatter t) s = .next (settle (retryHeld t.job (startReducing r grp w)))) ∧
      (Starts s t 0x23 r u → exec (.allReduce t) s = .next (settle (retryHeld t.job (startReducing r grp w))))) ∧
    (groupOf u r.d = none →
      let stops : Host.Outcome State Fault Refusal := .next (settle (retryHeld t.job (programFault t 0x67 u)))
      (Starts s t 0x21 r u → exec (.allGather t) s = stops) ∧ (Starts s t 0x22 r u → exec (.reduceScatter t) s = stops) ∧
      (Starts s t 0x23 r u → exec (.allReduce t) s = stops))

/-- Tier 1. A send whose pages are there transmits where its clear-to-send has come (transmit), and waits for it otherwise; a receive sends
one; the timeouts of collectives and gathers, and those of transfers where they have one, stop what still runs with 0x64 (R220, R248, R249,
R389). A verdict whose step is the job's count, with no other in progress, sends its word to every member of a group that holds every known
Proend of the job; one of another step, or beside one in progress, faults, and so does one whose group omits a Proend, with 0x66 (R250,
R251). It completes with the OR of all words, which is stored and applied. -/
def Obligations.TransfersAndVerdictsRun : Prop :=
  (∀ (s u w : State) (t : TaskRef) (r : Ref), ensurePages r u = (w, true) →
    let x := fun (isSend : Bool) => ({ task := t, peer := xferPeer r.d, tag := rd r.d 34 2, vc := rd r.d 32 1, isSend } : Xfer)
    let added := fun (isSend : Bool) => modJob t.job (fun b => { b with xfers := b.xfers ++ [x isSend] }) (setRunning r 0 w)
    (Starts s t 0x24 r u → (r.b.clears.find? fun c => c.1 == xferPeer r.d && c.2.1 == rd r.d 34 2) = none →
      exec (.send t) s = .next (settle (added true))) ∧
    (∀ c, Starts s t 0x24 r u → (r.b.clears.find? fun c => c.1 == xferPeer r.d && c.2.1 == rd r.d 34 2) = some c →
      exec (.send t) s = .next (settle (transmit r c.2.2 (modJob t.job (fun b => { b with clears := b.clears.erase c }) (added true))))) ∧
    (Starts s t 0x25 r u → exec (.receive t) s = .next (settle (retryHeld t.job (sendOrFault t.job
      { typ := 2, vc := rd r.d 32 1, dst := xferPeer r.d, tag := rd r.d 34 2, payload := leBytes 8 (tensorBytes (r.slotView 0)) }
      (added false)))))) ∧
  (∀ (s : State) (t : TaskRef) (r : Ref), alive s = true → refOf s t = some r →
    ((collAt s t).isSome = true ∨ (gatherAt s t false).isSome = true ∨ (gatherAt s t true).isSome = true → exec (.collectiveTimeout t) s = .next (settle (taskFault t 0x64 s))) ∧
    ((r.b.xfers.any fun x => x.task == t) = true → rd r.d 36 4 ≠ 0 →
      exec (.transferTimeout t) s = .next (settle (taskFault t 0x64 s)))) ∧
  (∀ (s u : State) (t : TaskRef) (r : Ref) (grp : Group), Starts s t 0x26 r u → groupOf u r.d = some grp →
    let tag := takeTag (rd r.d 28 2) u
    let own := leBytes 8 r.b.num.word ++ leBytes 8 (rd r.d 32 8)
    let c : Coll := { task := t, kind := 0x26, vc := 0, tag := tag.1, members := grp.members, rank := grp.rank, radices := grp.radices, own }
    let alone := (r.b.colls.any fun c => c.kind == 0x26) = false
    (rd r.d 32 8 = r.b.num.verdicts → alone → ((knownMembers u t.job).all grp.members.contains) = true →
      exec (.verdict t) s = .next (settle (retryHeld t.job ((otherRanks c).foldl
        (fun s q => sendAll t.job (cutTransfer 1 0 (grp.members.getD q 0) 0 c.tag own) s)
        (modJob t.job (fun b => { b with colls := b.colls ++ [c] }) (setRunning r 0 tag.2)))))) ∧
    (rd r.d 32 8 = r.b.num.verdicts → alone → ((knownMembers u t.job).all grp.members.contains) = false →
      exec (.verdict t) s = .next (settle (retryHeld t.job (taskFault t 0x66 u)))) ∧
    (rd r.d 32 8 ≠ r.b.num.verdicts ∨ ¬ alone → exec (.verdict t) s = .next (settle (retryHeld t.job (verdictFault t u))))) ∧
  (∀ (s w : State) (j : Nat) (word : BitVec 64) (b : Job) (c : Coll) (r : Ref), alive s = true → tget s.jobs j = some b →
    (b.colls.find? fun c => c.kind == 0x26) = some c → refOf s c.task = some r → r.b.fault = none → verdictWhole c = true →
    verdictWord c = word.toNat → ensureOutputs r s = (w, true) →
    exec (.verdictComplete j word) s = .next (settle (retryHeld j (endColl c.task (applyVerdict j word.toNat (storeWord r word.toNat w))))))

/-- Tier 1. An optimiser_step begins with the verdict count one above its step, skips where that verdict did, faults with 0x66 where it is
later, and waits where it is not yet there (R253, R660). The moment task of a page that is resident, with no line of its reads that fails,
updates the moments and its header in normal mode where the header stands at (n, n), keeps the new moments in the tile store, and faults
with 0x68 elsewhere; the weight task writes weights, copies and header where it stands at (n+1, n), and faults with 0x68 elsewhere in normal
mode; in complete mode it counts a page at (n+1, n+1) as unchanged and one at (n, n) as not started, and faults with 0x68 elsewhere (R254,
R255, R287, R290, R291, R293, R294, R299). -/
def Obligations.OptimiserPagesAdvance : Prop :=
  (∀ (s u : State) (t : TaskRef) (r : Ref), Starts s t 0x29 r u →
    (optStep r.d + 1 = r.b.num.verdicts → (r.b.num.last.map (·.skipped)).getD false = false → r.optPages ≠ 0 →
      exec (.optimiserStep t) s = .next (settle (setRunning r 0 u))) ∧
    (optStep r.d + 1 = r.b.num.verdicts → (r.b.num.last.map (·.skipped)).getD false = true →
      exec (.optimiserStep t) s = .next (settle (skipOptim r u))) ∧
    (optStep r.d + 1 < r.b.num.verdicts → exec (.optimiserStep t) s = .next (settle (taskFault t 0x66 u))) ∧
    (r.b.num.verdicts ≤ optStep r.d → exec (.optimiserStep t) s = .next (settle u))) ∧
  (∀ (s w : State) (t : TaskRef) (page : Nat) (r : Ref), refOf s t = some r → dOp r.d = 0x29 → mayTask s r page = true →
    page < r.optPages → page ∉ (descAt r.u t.desc).ended → residentPage r page s = (w, true) →
    let n := optStep r.d
    let h := headerOf r page
    let o := momentStores (srcOf w t.job) r.optP (r.optP.mult / (2 : Rat) ^ heldExponent r.b n) (r.slotView 1) (r.optView 2) (r.slotView 3) page
    let place := pagePlace r page
    let fails : Host.Outcome State Fault Refusal := .next (settle (taskFault t 0x68 w))
    (badPage (momentReads r) r page w = none → optComplete r.d = false → page ∉ (descAt r.u t.desc).moments →
      (headerAt r.b h = (n, n) →
        exec (.momentTask t page) s = .next (settle (modDesc t (fun d => { d with moments := d.moments ++ [page] })
          (setHeader t.job h (n + 1, n) (modCore place.1 (fun c => { c with kept := tset c.kept place.2 ⟨t, page, o.1⟩ })
            (pageEffects r page o.2 (applyStores t.job o.1 w))))))) ∧
      (headerAt r.b h ≠ (n, n) → exec (.momentTask t page) s = fails)) ∧
    (badPage (weightReads r page w) r page w = none →
      ((optComplete r.d = true ∨ page ∈ (descAt r.u t.desc).moments) → headerAt r.b h = (n + 1, n) →
        exec (.weightTask t page) s = .next (settle (endPage r page 1 0 (writeWeights page r h w)))) ∧
      (optComplete r.d = true → headerAt r.b h = (n + 1, n + 1) →
        exec (.weightTask t page) s = .next (settle (endPage r page 0 1 (unpinParameter t.job (parameterPage r page) w)))) ∧
      (optComplete r.d = true → headerAt r.b h = (n, n) → exec (.weightTask t page) s = .next (settle (endPage r page 0 0 w))) ∧
      (optComplete r.d = true → headerAt r.b h ≠ (n + 1, n) → headerAt r.b h ≠ (n + 1, n + 1) → headerAt r.b h ≠ (n, n) →
        exec (.weightTask t page) s = fails) ∧
      (optComplete r.d = false → page ∈ (descAt r.u t.desc).moments → headerAt r.b h ≠ (n + 1, n) → exec (.weightTask t page) s = fails)))

/-! ### The Plain cache and Vale -/

/-- Tier 1. A request of a core: one of a reserved opcode faults its task with 0x62 (R82); one outside its carve-out, or a line read for
an address past the tile store, is answered with status 3 and stops its program with 0x60 (R74, R87); a read of a unit while all 8 miss
registers of its L1 are busy stays in the core (R71). Any other goes to its home slice, behind those that wait at the same input (R80): a
hit is performed (R88); a miss joins the register of its line, or takes one where nothing waits before it, else a place in the miss queue
of 32, else it waits at the input (R92, R93). The oldest of a queue goes on as a hit or with a register, and what the mesh holds
goes on behind it. -/
def Obligations.CacheTakesRequests : Prop :=
  (∀ (s e : State) (r : CoreReq) (ecc : List EccReport) (b : Job), alive s = true →
    meetWords { task := r.task, job := some r.job } ecc (dropDamaged r ecc s) = (e, true) → tget e.jobs r.job = some b →
    (∀ t k, r.kind = .reserved k → r.task = some t → exec (.plainCacheAccess r ecc) s = .next (settle (taskFault t 0x62 e))) ∧
    ((∀ k, r.kind ≠ .reserved k) →
      let outside : Bool := (r.kind == .read256 && decide (0x5FFF < r.tile + 255)) || !(reqAllowed b r)
      let slice := sliceOf e r.job (reqLine r * 256)
      let w := threadWaits r (cacheDir slice r e)
      let n := inputOf slice r.core
      let q := tgetD w.cache.queue slice []
      (∀ t, outside = true → r.task = some t →
        exec (.plainCacheAccess r ecc) s = .next (settle (programFault t 0x60 (answerCore r 3 none e)))) ∧
      (outside = false → registersBusy e r = true →
        exec (.plainCacheAccess r ecc) s = .next (settle (modCore r.core (waitRegister r) e))) ∧
      (outside = false → registersBusy e r = false → inputAt w n ≠ [] →
        exec (.plainCacheAccess r ecc) s = .next (settle (setInput n (inputAt w n ++ [r]) w))) ∧
      (outside = false → registersBusy e r = false → inputAt w n = [] →
        (∀ h, tryHit slice r w = (h, true) → exec (.plainCacheAccess r ecc) s = .next (settle h)) ∧
        (∀ h m, tryHit slice r w = (h, false) → takeMiss slice (q).isEmpty r h = (m, true) →
          exec (.plainCacheAccess r ecc) s = .next (settle m)) ∧
        (∀ h m, tryHit slice r w = (h, false) → takeMiss slice (q).isEmpty r h = (m, false) →
          (q.length < 32 → exec (.plainCacheAccess r ecc) s = .next (settle
            { m with cache := { m.cache with queue := tset m.cache.queue slice (q ++ [r]) } })) ∧
          (32 ≤ q.length → exec (.plainCacheAccess r ecc) s = .next (settle (setInput n [r] m))))))) ∧
  (∀ (s : State) (slice : Nat) (r : CoreReq) (rest : List CoreReq), alive s = true → tgetD s.cache.queue slice [] = r :: rest →
    let pop := fun (t : State) => drainInputs slice { t with cache := { t.cache with queue := tsetD t.cache.queue slice rest [] } }
    (∀ h, tryHit slice r s = (h, true) → exec (.missQueueDequeue slice) s = .next (settle (pop h))) ∧
    (∀ h m, tryHit slice r s = (h, false) → takeMiss slice true r h = (m, true) → exec (.missQueueDequeue slice) s = .next (settle (pop m))) ∧
    (∀ h m, tryHit slice r s = (h, false) → takeMiss slice true r h = (m, false) → exec (.missQueueDequeue slice) s = .next (settle s)))

/-- Tier 1. The response to a slice's read of a line, with no write to the line held before it, frees the read's tag; it fills the slice and
its register's requests are performed in order; where the line's read failed twice they are answered with status 1 and the line fails, where
a word of it was uncorrectable with status 2, and where another job owns the region with status 3 (R88, R312, R316, R323, R339). A queued
read takes a freed tag. An agent's read, full-line write or partial write is answered with status 3 where its key id is not that of the job
that owns the region (R316); else it waits behind another of its line or for a tag (R312, R339); else it is answered: a read with its bytes,
or with status 1 where the line fails, and a partial write of a line that fails is abandoned with status 1 (R323 to R325). -/
def Obligations.LinesMoveFromVale : Prop :=
  (∀ (s : State) (slice line p v : Nat) (first second : Fetch) (ecc : List EccReport) (m : MissReg), alive s = true →
    ((missRegs s slice).find? fun m => m.line == line && m.pchan.isSome) = some m → m.pchan = some p →
    (slice, line) ∉ (pchanAt s p).waiting → heldBefore s m.job line = false →
    let u := freeTagOf p s
    let answered := fun (status : Nat) (t : State) =>
      m.reqs.foldl (fun t r => answerCore r status none t) (modMiss slice m.job line (fun _ => none) t)
    translate u m.job (line * 256) = some v →
    (anchorOk u m.job (v / 256) = true →
      (∀ f e, readLine (v / 256) first second u = (f, true) →
        meetWords { task := (m.reqs.head?).bind (·.task), job := some m.job } ecc f = (e, true) →
        exec (.lineFill slice line first second ecc) s = .next (settle (m.reqs.foldl (fun t r => performReq r t)
          (mergeFill slice m.job line v (modMiss slice m.job line (fun _ => none) e))))) ∧
      (∀ f e, readLine (v / 256) first second u = (f, true) →
        meetWords { task := (m.reqs.head?).bind (·.task), job := some m.job } ecc f = (e, false) →
        exec (.lineFill slice line first second ecc) s = .next (settle (answered 2 e))) ∧
      (∀ f, readLine (v / 256) first second u = (f, false) →
        exec (.lineFill slice line first second ecc) s = .next (settle (answered 1
          (lineFails (v / 256) 0 ((m.reqs.head?).bind (·.task)) f))))) ∧
    (anchorOk u m.job (v / 256) = false → exec (.lineFill slice line first second ecc) s = .next (settle (answered 3 u)))) ∧
  (∀ (s : State) (p : Nat), alive s = true → (pchanAt s p).held < 256 → (pchanAt s p).waiting ≠ [] →
    exec (.valeRequestAccept p) s = .next (modPchan p (fun x => { held := x.held + 1, waiting := x.waiting.drop 1 }) s)) ∧
  (∀ (s : State) (r : ValeReq) (first second : Fetch) (data : Bytes) (mask : BitVec 256), alive s = true →
    let l := r.address / 256
    let read : Blocked := { writeOf l 0 [] with isRead := true, req := some r, fetches := (first, second) }
    let full : Blocked := { writeOf l fullMask (sub data 0 256) with req := some r }
    let part : Blocked := { writeOf l mask.toNat (sub data 0 256) with req := some r, fetches := (first, second) }
    (ownedReq s r = false → exec (.valeRead r first second) s = .next (settle (answerVale (some r) 3 [] s)) ∧
      exec (.valeFullLineWrite r data) s = .next (settle (answerVale (some r) 3 [] s)) ∧
      exec (.valePartialWrite r mask data first second) s = .next (settle (answerVale (some r) 3 [] s))) ∧
    (ownedReq s r = true → mustWait l s = true → exec (.valeRead r first second) s = .next (settle (holdRequest read s)) ∧
      exec (.valeFullLineWrite r data) s = .next (settle (holdRequest full s)) ∧
      exec (.valePartialWrite r mask data first second) s = .next (settle (holdRequest part s))) ∧
    (ownedReq s r = true → mustWait l s = false →
      (∀ f, readLine l first second s = (f, true) →
        exec (.valeRead r first second) s = .next (settle (answerVale (some r) 0 (readData r f) f))) ∧
      (∀ f, readLine l first second s = (f, false) →
        exec (.valeRead r first second) s = .next (settle (lineFails l (accessOf r.agent) r.task (answerVale (some r) 1 [] f)))) ∧
      exec (.valeFullLineWrite r data) s = .next (settle (performWrite full s)) ∧
      (mask.toNat = fullMask → exec (.valePartialWrite r mask data first second) s = .next (settle (performWrite part s))) ∧
      (∀ f, mask.toNat ≠ fullMask → readLine l first second s = (f, true) →
        exec (.valePartialWrite r mask data first second) s = .next (settle (performWrite part f))) ∧
      (∀ f, mask.toNat ≠ fullMask → readLine l first second s = (f, false) →
        exec (.valePartialWrite r mask data first second) s = .next (settle (lineFails l 1 none (answerVale (some r) 1 [] f))))))

/-- Tier 2. A write to a line that need not wait, and that fails no read where it is written in part, stores exactly the bytes of its mask: every byte of Vale reads after it as the mask says,
from the data inside and as before everywhere else, and the line's counter and key id step as R321 says. -/
def Obligations.LineWritesStoreTheirMask : Prop :=
  ∀ (s u : State) (l mask : Nat) (data : Bytes), s.vale.mem.wf = true → data.length = 256 →
    mustWait l s = false → (mask = fullMask ∨ lineBad s l = false) →
    (regionOf s (lineRegion l)).key ≠ 0 → ¬ ((metaOf s l).2 = (regionOf s (lineRegion l)).key ∧ (metaOf s l).1 = 0xFFFFFFFF) → spillUnit l s = (u, true) →
    let t := valeLineWrite l mask data s
    (∀ a, t.vale.mem.read a =
      if l * 256 ≤ a ∧ a < l * 256 + 256 ∧ bit mask (a - l * 256) = true then data.getD (a - l * 256) 0 else s.vale.mem.read a) ∧
    metaOf t l = (if (metaOf s l).2 = (regionOf s (lineRegion l)).key then ((metaOf s l).1 + 1, (regionOf s (lineRegion l)).key)
      else (0, (regionOf s (lineRegion l)).key)) ∧ (∀ k, k ≠ l → metaOf t k = metaOf s k)

/-- Tier 1. Sweeps and key ids (R328 to R336): the region at the head of the queue, of a job that is not in teardown, begins its sweep where
a key id newer than its own is there, or a new one is allocated. A sweep whose next line has a tag and verifies moves it under its target
with counter 0, passes one that is under it already, and ends with the last line; a line that fails is left as it is. The oldest
held request that may go on is served (performHeld), and its tag is free. An unused key id becomes retiring, and a retiring one is freed with
its slot and a record. -/
def Obligations.SweepsMoveLines : Prop :=
  ∀ s : State, alive s = true →
    (∀ r rest j b, s.fw.activating = none → s.vale.sweepQueue = r :: rest → s.vale.sweep = none → (regionOf s r).owner = some j →
      tget s.jobs j = some b → b.teardown = none →
      (b.keys.newest ≠ (regionOf s r).key → exec .sweepStart s = .next (beginSweep r b.keys.newest s)) ∧
      (∀ k, b.keys.newest = (regionOf s r).key → sweepKeyComing s j = false → s.ledger.mirrorFault = false → freeKeyId s = some k →
        exec .sweepStart s = .next (allocSweepKey j k b s))) ∧
    (∀ w u first second, s.fw.activating = none → s.vale.sweep = some w →
      let l := w.region * 2 ^ 22 + w.next
      let target := (regionOf s w.region).key
      tagFree s l = true →
      ((metaOf s l).2 = target ∧ u = s ∨
        (metaOf s l).2 ≠ target ∧ (∃ f, readLine l first second s = (f, true) ∧
          u = { f with vale := { f.vale with lineMeta := tsetD f.vale.lineMeta l (0, target) (0, 0) } }) ∨
        (metaOf s l).2 ≠ target ∧ (∃ f, readLine l first second s = (f, false) ∧ u = lineFails l 2 none f)) →
      (w.next + 1 ≠ 2 ^ 22 → exec (.sweepStep first second) s = .next (settle { u with vale := { u.vale with
        sweep := some { w with next := w.next + 1, cursor := if (w.next + 1) % 4096 = 0 then w.next + 1 else w.cursor } } })) ∧
      (w.next + 1 = 2 ^ 22 → exec (.sweepStep first second) s = .next (settle
        (modRegion w.region (fun x => { x with previous := none }) { u with vale := { u.vale with sweep := none } })))) ∧
    (∀ x, (s.vale.blocked.find? fun x => mayResume s x) = some x →
      let t := { s with vale := { s.vale with blocked := s.vale.blocked.erase x } }
      exec .blockedWriteResume s = .next (settle (endStall x.region (performHeld { x with tag := false }
        (if x.tag then freeTagOf (pchanOf (x.address / 256)) t else t))))) ∧
    (∀ k x, tget s.vale.keyIds k = some x → x.retiring = false → keyUnused s k = true →
      exec (.keyIdRetire k) s = .next { s with vale := { s.vale with keyIds := tset s.vale.keyIds k { x with retiring := true } } }) ∧
    (∀ k x, tget s.vale.keyIds k = some x → x.retiring = true →
      let u := destroySlot 3 (15 + k) s
      let w : State := { u with vale := { u.vale with keyIds := terase u.vale.keyIds k } }
      exec (.keyIdFree k) s = .next (ledgerSelf 0x05 1 (partOf x.job) false (((tget w.jobs x.job).map (·.id)).getD 0) (leBytes 1 k) w))

/-! ### Words under ECC -/

/-- Tier 2. What a reader makes of a word (R590, R591): by its syndrome, so that a stored word reads back, every single flipped
bit of the 72 is corrected, and every two flipped bits are found uncorrectable. -/
def Obligations.WordsCorrectOneFlip : Prop :=
  (∀ w k : Nat,
    let s := k ^^^ checkByte w
    (s = 0 → readWord w k = some (w, 0)) ∧
    (popcount 8 s = 1 → readWord w k = some (w, s)) ∧
    (∀ d, d < 64 → columns.getD d 0 = s → readWord w k = some (w ^^^ 2 ^ d, s)) ∧
    (s ≠ 0 → popcount 8 s ≠ 1 → (∀ d, d < 64 → columns.getD d 0 ≠ s) → readWord w k = none)) ∧
  (∀ w : Nat,
    let k := checkByte w
    (∀ i, i < 8 → readWord w (k ^^^ 2 ^ i) = some (w, 2 ^ i)) ∧
    (∀ d, d < 64 → readWord (w ^^^ 2 ^ d) k = some (w, columns.getD d 0)) ∧
    (∀ d e, d < 64 → e < 64 → d ≠ e → readWord (w ^^^ 2 ^ d ^^^ 2 ^ e) k = none) ∧
    (∀ d i, d < 64 → i < 8 → readWord (w ^^^ 2 ^ d) (k ^^^ 2 ^ i) = none) ∧
    (∀ i j, i < 8 → j < 8 → i ≠ j → readWord w (k ^^^ 2 ^ i ^^^ 2 ^ j) = none))

/-! ### Pass ports and packets -/

/-- Tier 1. Link-control packets of a port act as R353, R354, R358 to R360 and R370 say: a HELLO settles the highest version that both
ends mark, or leaves the port down for want of one (cause 5), for PLP 2 on a half-rate link (6) or for this Proend's own address (7);
counts start at a CREDIT_INIT and grow by a CREDIT_RETURN; an ACK frees the replay buffer, a NAK sends the rest again; IDLE does
nothing.
What a port that is up sends and counts by itself: the acknowledgement of the highest sequence accepted, the credits to
return, an idle packet where nothing else is queued; an uncorrectable codeword is counted, answered with a NAK that names that sequence,
and aborts the copy that had begun to leave; an abort marker takes its sequence and gives its units back (R354, R355, R358, R370). -/
def Obligations.LinksKeepTheirPackets : Prop :=
  (∀ (s : State) (n : Nat) (b : Bytes), s.power.mainPower = true → s.power.railsOn = true → n < 32 → b.length = 32 → rd b 0 1 = 0 →
    let p := portAt s n
    let peer := rd b 4 3 % 2 ^ 20
    let two := bit (rd b 2 1) 2 = true
    let one := bit (rd b 2 1) 1 = true ∧ portRole s n = 2
    let seen := modPort n (fun p => { p with peer, peerValid := true }) s
    (rd b 1 1 = 1 → p.st = .training → p.step = 5 → p.helloSeen = false →
      let fails := fun (c : Nat) => exec (.plpHello n b) s = .next (settle (checkReady (portDown n c
        (modPort n (fun p => { p with helloFails := p.helloFails + 1 }) seen))))
      (two → p.half = false → peer ≠ deviceAddress s → exec (.plpHello n b) s = .next (settle (checkReady
        (modPort n (fun p => { p with plp := 2, helloSeen := true }) seen)))) ∧
      (¬ two → one → peer ≠ deviceAddress s → exec (.plpHello n b) s = .next (settle (checkReady
        (modPort n (fun p => { p with plp := 1, helloSeen := true }) seen)))) ∧
      (¬ two → ¬ one → fails 5) ∧ (two → p.half = true → fails 6) ∧
      ((two ∧ p.half = false ∨ ¬ two ∧ one) → peer = deviceAddress s → fails 7)) ∧
    (rd b 1 1 = 2 → p.st = .training → p.step = 6 → p.initSeen = false → exec (.creditInit n b) s = .next
      (modPort n (fun p => { p with credits := countTab (readCounts b), initSeen := true }) (ackUpTo n (rd b 2 2) s))) ∧
    (p.st = .up →
      (rd b 1 1 = 3 → exec (.creditReturn n b) s = .next (settle (drainPort n (modPort n (fun p => { p with
        credits := (readCounts b).zipIdx.foldl (fun t x => tsetD t x.2 (tgetD t x.2 0 + x.1) 0) p.credits }) s)))) ∧
      (rd b 1 1 = 4 → exec (.ack n b) s = .next (settle (drainPort n (ackUpTo n (rd b 2 2) s)))) ∧
      (rd b 1 1 = 5 → exec (.nak n b) s = .next (settle (drainPort n (resend n (ackUpTo n (rd b 2 2) s))))) ∧
      (rd b 1 1 = 6 → exec (.idle n b) s = .next s))) ∧
  (∀ (s : State) (n : Nat), s.power.railsOn = true → n < 32 → (portAt s n).st = .up →
    let p := portAt s n
    exec (.ackTimer n) s = .next (sendControl n 4 (leBytes 2 p.inSeq) s) ∧
    (p.toReturn = [] → exec (.creditReturnTimer n) s = .next s) ∧
    (p.toReturn ≠ [] →
      let give := (List.range 8).map fun vc => min 65535 (tgetD p.toReturn vc 0)
      exec (.creditReturnTimer n) s = .next (sendControl n 3 (zeros 14 ++ give.flatMap (leBytes 2)) (modPort n (fun p => { p with
        toReturn := give.zipIdx.foldl (fun t x => tsetD t x.2 (tgetD t x.2 0 - x.1) 0) p.toReturn }) s))) ∧
    ((p.queues.all fun q => q.2.isEmpty) = true → exec (.idleTimer n) s = .next (sendControl n 6 [] s)) ∧
    ((p.queues.all fun q => q.2.isEmpty) = false → exec (.idleTimer n) s = .next s) ∧
    (∀ vc units, vc < 8 → exec (.abortMarker n vc units) s = .next (modPort n (fun p => { p with
      inSeq := (p.inSeq + 1) % 65536, toReturn := tsetD p.toReturn vc (tgetD p.toReturn vc 0 + units) 0 }) s)) ∧
    (∀ vc units, s.power.mainPower = true →
      let now := s.timeNs / 1000000000
      let noted := sendControl n 5 (leBytes 2 p.inSeq) (modPort n (fun p => { p with
        second := now, codewords := (if p.second = now then p.codewords else 0) + 1, nakSent := true }) (bumpPort n 0 s))
      exec (.uncorrectableCodeword n vc units none) s = .next (settle (evalWarnings noted)) ∧
      (∀ k, k < 32 → (portAt noted k).st = .up →
        exec (.uncorrectableCodeword n vc units (some k)) s = .next (settle (evalWarnings (abortCopy k vc units noted)))) ∧
      (∀ k, (portAt noted k).st ≠ .up →
        exec (.uncorrectableCodeword n vc units (some k)) s = .next (settle (evalWarnings noted)))))

/-- Tier 1. Training goes through its six steps in order, a fast retrain without steps 1 and 3, and ends with a port that is up
(R356, R358). A failed attempt is tried again in full, for the third time in succession leaves the port down with cause 3; a third
failed fast retrain within 1 s becomes full training; loss of light (cause 1) and silence (cause 2) take a port down (R357, R384 to R386). -/
def Obligations.PortsTrain : Prop :=
  ∀ (s : State) (n : Nat), s.power.railsOn = true → n < 32 →
    let p := portAt s n
    let full := bumpPort n 3 (modPort n (fun p => { p with
      st := .training, step := 1, fast := false, half := false, plp := 0, helloSeen := false, initSeen := false }) s)
    let go := fun (k : Nat) (t : State) => modPort n (fun p => { p with step := k }) t
    (p.lit = true → portRole s n ≠ 0 → (p.st = .dark → exec (.portTraining n) s = .next full) ∧
      (p.st = .down → exec (.fullTrainingRetry n) s = .next full)) ∧
    (p.st = .up → exec (.fastRetrain n) s = .next (bumpPort n 2 (modPort n (fun p => { p with
      st := .training, step := 2, fast := true, helloSeen := false, initSeen := false }) s))) ∧
    (p.st = .training → ∀ rev,
      (p.step = 1 → exec (.trainingStepDone n rev) s = .next (settle (go 2 s))) ∧
      (p.step = 2 → exec (.trainingStepDone n rev) s = .next (settle (go (if p.fast then 4 else 3) s))) ∧
      (p.step = 3 → exec (.trainingStepDone n rev) s = .next (settle (go 4 s))) ∧
      (p.step = 4 → exec (.trainingStepDone n rev) s = .next (settle (sendControl n 1 (helloFields s n)
        (go 5 (modPort n (fun p => { p with reversed := rev }) s))))) ∧
      (p.step = 5 → p.helloSeen = true → exec (.trainingStepDone n rev) s = .next (settle
        (sendControl n 2 (countFields p.inSeq (freeUnits s p)) (go 6 s)))) ∧
      (p.step = 6 → p.initSeen = true → p.lost = false → exec (.trainingStepDone n rev) s = .next (settle (checkReady (drainPort n (resend n
        (modPort n (fun p => { p with st := .up, step := 0, fast := false, fullFails := 0, lost := false, toReturn := [], nakSent := false }) s)))))) ∧
      (p.step = 6 → p.initSeen = true → p.lost = true → exec (.trainingStepDone n rev) s = .next (settle (checkReady (drainPort n (resend n (portEvent n 4
        (modPort n (fun p => { p with st := .up, step := 0, fast := false, fullFails := 0, lost := false, toReturn := [], nakSent := false }) s)))))))) ∧
    (p.st = .training → p.step = 2 → portRole s n = 2 → p.half = false → p.fast = false →
      exec (.clockLockTimeout n) s = .next (modPort n (fun p => { p with half := true }) s)) ∧
    (p.st = .training → p.step ≠ 2 → p.fast = false →
      (p.lost = false → p.fullFails < 2 → exec (.trainingStepTimeout n) s = .next (settle (checkReady
        (beginFull n (modPort n (fun p => { p with fullFails := p.fullFails + 1 }) s))))) ∧
      (p.lost = false → 2 ≤ p.fullFails → exec (.trainingStepTimeout n) s = .next (settle (checkReady (portDown n 3 s)))) ∧
      (p.lost = true → exec (.trainingStepTimeout n) s = .next (settle (checkReady
        (modPort n (fun p => { p with st := .down, step := 0 }) s))))) ∧
    (p.st = .training → p.fast = true →
      let recent := (p.fastFails.filter fun t => decide (s.timeNs < t + 1000000000)) ++ [s.timeNs]
      (recent.length < 3 → exec (.trainingStepTimeout n) s = .next (settle (checkReady
        (beginFast n (modPort n (fun p => { p with fastFails := recent }) s))))) ∧
      (3 ≤ recent.length → exec (.trainingStepTimeout n) s = .next (settle (checkReady (beginFull n
        (modPort n (fun p => { p with fastFails := [] }) (modPort n (fun p => { p with fastFails := recent }) s))))))) ∧
    ((p.st = .up ∨ p.st = .training ∧ p.fast = true) →
      (∀ lane, lane < 4 → exec (.lightAbsent n lane) s = .next (settle (portDown n 1 s))) ∧
      exec (.noValidPacket n) s = .next (settle (portDown n 2 s)))

/-- Tier 1. A packet that its port takes and that fails a check of R368 is dropped and its units go back: counted as malformed, as of an
unknown job, or as late; and where its job is known its job faults with 0x63, for a retired link key id, a sequence that is not new, or a
tag that does not verify. -/
def Obligations.PacketsAreChecked : Prop :=
  ∀ (s w : State) (n : Nat) (bytes : Bytes) (ecc : List EccReport), Accepted s n bytes ecc w →
    let b := bytes.drop 4
    let drops := fun (t : State) => exec (.data n bytes ecc) s = .next (settle (freeBuffer n (pVc b) (creditUnits b) t))
    (pType b = 0 ∨ 9 < pType b → drops (bumpPort n 4 w)) ∧
    (pType b = 1 → (pVersion b ≠ 2 ∨ headerWhole b = false) → drops (bumpPort n 4 w)) ∧
    (pType b = 1 → pVersion b = 2 → headerWhole b = true →
      ((∀ l ∈ w.pass.linkKeys, l.2.jobId = pJob b → l.2.cleared = true) → drops (bumpPort n 5 w)) ∧
      (∀ l job, linkOf w (pJob b) = some l → tget w.jobs l.job = some job →
        let last := tget job.replay (4 * pSrc b + pVc b / 2)
        (n ∈ l.retired → drops (mechFault l.job 0x63 (bumpPort n 9 w))) ∧
        (∀ q, n ∉ l.retired → last = some q → pSeq b ≤ q → drops (mechFault l.job 0x63 (bumpJob l.job 0 w))) ∧
        (n ∉ l.retired → last = none → 65536 ≤ job.replay.length → drops (mechFault l.job 0x63 w)) ∧
        (n ∉ l.retired → ((∃ q, last = some q ∧ q < pSeq b) ∨ last = none ∧ job.replay.length < 65536) →
          gcmOpen (linkKey job) (pIv b) (aadOf b) (pPayload b) (b.drop (32 + pLength b)) = none →
          drops (mechFault l.job 0x63 (bumpJob l.job 1 w)))))

/-- Tier 1. A data packet, a read request and a fence signal packet that pass the checks wait behind any of their channel that waits;
else their operation takes them, and their units go back, or they wait (R371, R373). -/
def Obligations.RequestPacketsAct : Prop :=
  ∀ (s t u : State) (n j k : Nat) (bytes p : Bytes) (ecc : List EccReport), Delivered s n bytes ecc k j p t →
    let acts := fun (v : State) =>
      (k = 1 → exec (.data n bytes ecc) s = .next (settle v)) ∧
      (k = 4 → ecc = [] → exec (.readRequest n bytes) s = .next (settle v)) ∧
      (k = 6 → ecc = [] → exec (.fenceSignalPacket n bytes) s = .next (settle v))
    let waits := fun (v : State) => markWanted j (addWaiting n (some j, p) v)
    (stalled t n (pVc p) = true → acts (waits t)) ∧
    (stalled t n (pVc p) = false → takeRequest j p t = (u, .used) → acts (freeBuffer n (pVc p) (unitsBy p) u)) ∧
    (stalled t n (pVc p) = false → takeRequest j p t = (u, .held) → acts (waits u))

/-- Tier 1. A response-class packet that passes the checks gives its units back and acts at once (R371): clear-to-send, placement
acknowledgement, read data, error, key retirement (R382) and job-fault notice; and the barrier packets of R522, which but for those that
open or end a capture or a restore act only under the serial of the capture in progress. -/
def Obligations.ResponsePacketsAct : Prop :=
  ∀ (s t : State) (n j k : Nat) (bytes p : Bytes), Delivered s n bytes [] k j p t →
    let u := freeBuffer n (pVc p) (unitsBy p) t
    let x := pPayload p
    let acts := fun (c : Instr) (v : State) => exec c s = .next (settle v)
    (k = 2 → acts (.clearToSend n bytes) (clearArrives j (pSrc p) (pTag p) (rd x 0 8) u)) ∧
    (k = 3 → acts (.placementAck n bytes) (placementArrives j (pSrc p) (pTag p) (rd x 0 8) u)) ∧
    (k = 5 → acts (.readData n bytes) (readDataArrives j (pSrc p) (pTag p) (64 * pOffset p) (pMask p) (pLast p) x
      (modJob j (fun b => { b with capture := { b.capture with placed := b.capture.placed + 1 } }) u))) ∧
    (k = 8 → rd x 0 1 = 0x67 → acts (.errorPacket n bytes) (signalRefused j (rd x 2 2) u)) ∧
    (k = 8 → rd x 0 1 = 0x61 ∨ rd x 0 1 = 0x66 → ∀ task, tagTask u j (pSrc p) (rd x 2 2) = some task →
      acts (.errorPacket n bytes) (taskFault task (rd x 0 1) u)) ∧
    (k = 8 → rd x 0 1 ≠ 0x61 → rd x 0 1 ≠ 0x66 → rd x 0 1 ≠ 0x67 → acts (.errorPacket n bytes) (mechFault j (rd x 0 1) u)) ∧
    (k = 7 → rd p 32 1 = 1 → acts (.keyRetirement n bytes) (mechFault j 0x63 { u with pass := { u.pass with
      linkKeys := u.pass.linkKeys.map fun (l : Nat × LinkKey) =>
        if l.2.job = j then (l.1, { l.2 with retired := l.2.retired ++ [n] }) else l } })) ∧
    (k = 7 → rd p 32 1 = 2 → acts (.jobFaultNotice n bytes) (jobFault j (rd x 1 1) 0xFFFF { kind := 1, peer := pSrc p } u)) ∧
    (k = 7 → rd p 32 1 = 3 →
      let phase := rd p 33 1
      let part := rd x 2 2
      let value := rd x 8 8
      (phase = 1 → acts (.barrierRequest n bytes) (leadTrigger j value u)) ∧
      (phase = 2 → acts (.barrierEnter n bytes) (enterArrives j (rd x 4 4) value u)) ∧
      (phase = 7 → acts (.abandon n bytes) (abandonArrives j value u)) ∧
      (phase = 9 → acts (.restoreCheck n bytes) (checkArrives j (pSrc p) part value u)) ∧
      (phase = 0xA → acts (.restoreGo n bytes) (goArrives j u)) ∧
      (phase = 0xB → acts (.restoreRefuse n bytes) (refuseArrives j u)) ∧
      (phase = 0xC → acts (.restoreDone n bytes) (doneArrives j (pSrc p) part u)) ∧
      (∀ b, tget u.jobs j = some b → rd x 4 4 = b.capture.serial % 2 ^ 32 →
        (phase = 3 → acts (.barrierReport n bytes) (reportArrives j (pSrc p) part value u)) ∧
        (phase = 4 → acts (.barrierConfirm n bytes) (confirmArrives j part u)) ∧
        (phase = 5 → acts (.barrierRelease n bytes) (releaseArrives j u)) ∧
        (phase = 6 → acts (.shardDone n bytes) (shardDoneArrives j (pSrc p) part value u)) ∧
        (phase = 8 → acts (.manifestWritten n bytes) (manifestArrives j u))))

/-- Tier 1. A packet for another device goes on to the port that R375 chooses, with one hop more and in that port's channel, behind any
request of its channel that waits; without a live port, or after 63 hops, it is dropped and counted (R375, R376). A PLP 1 packet
goes on only from one PLP 1 port to another, the rest is dropped and counted (R361). -/
def Obligations.TransitPacketsGoOn : Prop :=
  ∀ (s u : State) (n : Nat) (bytes : Bytes),
    let b := bytes.drop 4
    let given := fun (i : Nat) (v : State) => freeBuffer n (pVc b) (creditUnits b) (bumpPort n i v)
    (∀ w ecc, isLocal s n b = false → linkTake n bytes (pVc b) (creditUnits b) s = some u → meetWords {} ecc u = (w, true) →
      let goes := fun (v : State) => exec (.transitForward n bytes ecc) s = .next (settle v)
      (stalled w n (pVc b) = true → isResponse (pType b) = false → goes (addWaiting n (none, b) w)) ∧
      (stalled w n (pVc b) = false ∨ isResponse (pType b) = true →
        (∀ k vc, route w (pDst b) (pSrc b) (pVc b) (pHops b) (some n) = .out k vc →
          goes (egress k vc (some (n, pVc b)) (setHops (pHops b + 1) (setVc vc b)) w)) ∧
        (route w (pDst b) (pSrc b) (pVc b) (pHops b) (some n) = .noRoute → goes (given 6 w)) ∧
        (route w (pDst b) (pSrc b) (pVc b) (pHops b) (some n) = .hopLimit → goes (given 7 w)))) ∧
    (∀ e, (portAt s n).plp = 1 → rd b 0 1 / 16 = 1 → n < 32 →
      let vc := Config.plp1Channel b % 4
      linkTake n bytes vc (creditUnits b) s = some u → lookup u.config.image.pass.routes (rd b 4 2) = some e →
      let live := ((List.range (rCount e)).map (· + rBase e)).filter fun k => (portAt u k).st == .up
      let out := live.getD (Config.plp1Choice b % live.length) 0
      let drops := fun (i : Nat) => exec (.plp1Forward n bytes) s = .next (settle (freeBuffer n vc (creditUnits b) (bumpPort n i u)))
      (rDrop e = true → drops 6) ∧ (rDrop e = false → rLocal e = true → drops 8) ∧
      (rDrop e = false → rLocal e = false →
        (63 ≤ rd b 8 1 → drops 7) ∧ (rd b 8 1 < 63 → live = [] → drops 6) ∧
        (rd b 8 1 < 63 → live ≠ [] → (portAt u out).plp ≠ 1 → drops 8) ∧
        (rd b 8 1 < 63 → live ≠ [] → (portAt u out).plp = 1 → exec (.plp1Forward n bytes) s = .next (settle
          (egress out vc (some (n, vc)) (overlay b 8 (leBytes 1 (rd b 8 1 + 1))) u)))))

/-! ### Ethernet -/

/-- Tier 1. What a live queue pair takes: a SEND, a WRITE and a WRITE with immediate arrive behind whatever waits on it (R412 to R414),
and a WRITE is not placed whose words in the receive buffer are lost (R594); a READ and an atomic are refused with NAKs (R412).
Acknowledgements free segments and start the retries again (R424), a NAK other than RNR and the last timeout put it into the error state,
every other timeout and every RNR NAK sends again (R417, R418).
Congestion: a mark is answered by a notification, at most one in 50 µs (R419); a notification cuts the rate of the limiter,
never below 0.1 Gbit/s, and a quiet period lets it rise toward its target, by R420. A pause and a resume act on a priority whose
flow control is on (R421). A link that is lost or returns leaves its queue pairs alone (R426). -/
def Obligations.EthernetActs : Prop :=
  (∀ (s w : State) (q : Nat) (p : Qp), alive s = true → tget s.eth.qps q = some p → p.error = false →
    (∀ b, exec (.rdmaSend q b) s = .next (settle (arriveOp q p { data := b } s))) ∧
    (∀ rkey off data imm fetches, exec (.rdmaWriteWithImmediate q rkey off data imm fetches) s = .next (settle
      (arriveOp q p { target := some (rkey, off), data, fetches, imm := some (sub imm 0 4) } s))) ∧
    (∀ rkey off data fetches ecc, (meetWords {} ecc s).1 = w →
      (segmentLost ecc = false → exec (.rdmaWrite q rkey off data fetches ecc) s = .next (settle
        (arriveOp q p { target := some (rkey, off), data, fetches } w))) ∧
      (segmentLost ecc = true → exec (.rdmaWrite q rkey off data fetches ecc) s = .next (settle w))) ∧
    exec (.rdmaRead q) s = .next (putOut q (.nak q .remoteAccess) s) ∧
    exec (.atomic q) s = .next (putOut q (.nak q .invalidRequest) s) ∧
    (∀ n ecc, (meetWords {} ecc s).1 = w → exec (.rdmaAck q n ecc) s = .next (settle
      (modQp q (fun y => { y with flights := ackFlights n y.flights, retriesLeft := p.retry }) w))) ∧
    exec (.rcNak q) s = .next (settle (qpFails q p s)) ∧
    (p.flights ≠ [] → p.retriesLeft = 0 → exec (.rcAckTimeout q) s = .next (settle (qpFails q p s))) ∧
    (p.flights ≠ [] → p.retriesLeft ≠ 0 → exec (.rcAckTimeout q) s = .next (settle
      (putOut q (.retransmit q) (modQp q (fun y => { y with retriesLeft := p.retriesLeft - 1 }) s)))) ∧
    (p.flights ≠ [] → exec (.rnrNak q) s = .next (putOut q (.retransmit q) s)) ∧
    (p.flights = [] → exec (.rnrNak q) s = .next s ∧ exec (.rcAckTimeout q) s = .next (settle s))) ∧
  (∀ (s : State) (q : Nat) (p : Qp), alive s = true → tget s.eth.qps q = some p → p.error = false →
    ((p.lastNote = none ∨ ∃ t, p.lastNote = some t ∧ t + 50000 ≤ s.timeNs) → exec (.congestionExperienced q) s = .next
      (bumpEth p.port 2 1 (putOut q (.congestionNote q) (modQp q (fun y => { y with lastNote := some s.timeNs }) s)))) ∧
    (∀ t, p.lastNote = some t → s.timeNs < t + 50000 → exec (.congestionExperienced q) s = .next s) ∧
    exec (.congestionNotification q) s = .next (bumpEth p.port 3 1 (modQp q (fun y => { y with
      target := y.rate, rate := max (y.rate * (1 - y.alpha / 2)) (1 / 10), alpha := (1 - 1 / 256) * y.alpha + 1 / 256, quiet := 0 }) s)) ∧
    (∃ t y, exec (.ratePeriod q) s = .next t ∧ t = modQp q (fun _ => y) s ∧
      y = { p with alpha := y.alpha, quiet := y.quiet, target := y.target, rate := y.rate } ∧
      y.alpha = (1 - 1 / 256) * p.alpha ∧ y.quiet = p.quiet + 1 ∧
      y.target = (if 5 < p.quiet + 1 then min (p.target + 4 / 10) 400 else p.target) ∧ y.rate = (p.rate + y.target) / 2)) ∧
  (∀ (s : State) (n k : Nat), alive s = true → n < 4 → k < 8 → bit (s.config.image.eth.getD n {}).pfc k = true →
    exec (.pause n k) s = .next (bumpEth n 5 1 (modEth n (fun p => { p with
      paused := if p.paused.contains k then p.paused else p.paused ++ [k] }) s)) ∧
    exec (.resume n k) s = .next (((s.eth.ports.getD n {}).waiting.filter fun x => x.1 == k).foldl (fun t x => emit x.2.2 t)
      (modEth n (fun p => { p with paused := p.paused.filter (· != k), waiting := p.waiting.filter fun x => x.1 != k }) s))) ∧
  (∀ (s : State) (n : Nat), s.power.railsOn = true → n < 4 → (s.eth.ports.getD n {}).dark = false →
    exec (.ethLinkLoss n) s = .next (settle (checkReady (modEth n (fun p => { p with
      failed := p.failed || !p.link, link := false, paused := [], waiting := [] }) s))) ∧
    exec (.ethLinkReturn n) s = .next (settle (checkReady (modEth n (fun p => { p with link := true, failed := false }) s))))

/-! ### Power, heat and supply -/

/-- Tier 2. What a grant gives (R551): after the lowering of the highest frequencies the demand of all partitions fits the budget, or
every partition is at the lowest step; no partition runs above that plan or rises by more than the bound, and a revocation takes a tenth of
the budget (R553). -/
def Obligations.GrantsFitTheBudget : Prop :=
  ∀ (s : State) (rise : Nat),
    let ins := grantInputs s
    let u := grantNow rise s
    let plan := planFor s ins u.power.budget
    (planDemand ins plan ≤ u.power.budget ∨ ∀ x ∈ ins, tgetD plan x.1 200 = 200) ∧
    (∀ x ∈ ins, 200 ≤ tgetD plan x.1 200 ∧ tgetD plan x.1 200 ≤ 840 ∧
      tgetD u.power.freq x.1 200 = min (tgetD plan x.1 200) (tgetD s.power.freq x.1 200 + rise)) ∧
    u.power.budget = (if s.power.revoked then fullBudget s ins * 9 / 10 else fullBudget s ins)

/-- Tier 1. The power manager's interval takes the readings, cuts what is hot, grants, charges each block's reason and keeps the alert causes
that persist (R549 to R558, R634); droops, input voltages out of range, a thermal trip, a hot inlet and the losses of the clocks act
as R544, R553, R556, R561 and R614 give. Where the manual gives an event or its cause byte no number, that number is a free value
(log 27). -/
def Obligations.PowerEventsAct : Prop :=
  ∀ s : State,
    let on := s.power.mainPower = true ∧ s.power.resetHeld = false ∧ 1 ≤ s.start.step
    let hold := fun (b : Nat) (f : Power → Power) => alertHold b { s with power := f s.power }
    (∀ m, m.vinMv ≤ 45000 → on →
      let t := takeReadings m s
      let hot := heatStacks ((t.power.blockStarted.map (·.1)).foldl (fun v b => heatBlock v b) t)
      let u := if s.power.railsOn then chargeThrottle (grantNow 20 hot) else t
      let w := evalWarnings (if s.errors.accounting then failWarn 32 u else u)
      u.errors.accounting = s.errors.accounting ∧ exec (.powerInterval m) s = .next (settle (alert (persistingAlerts w) w))) ∧
    (∀ blocks, s.power.mainPower = true → s.power.railsOn = true →
      exec (.railDroop blocks) s = .next (settle (evalWarnings (grantNow 0 (noteDroop { s with power := { s.power with
        stretched := (s.power.stretched ++ blocks.filter fun b => decide (b < 1000)).eraseDups
        railDroops := s.power.railDroops + 1, revoked := true } }))))) ∧
    exec .droopRevocationEnd s = .next { s with power := { s.power with revoked := false } } ∧
    exec .clockStretchEnd s = .next { s with power := { s.power with stretched := [] } } ∧
    (∀ v, on → v < 32000 →
      let t := noteDroop { s with power := { s.power with inputDroops := s.power.inputDroops + 1, vinMv := v } }
      exec (.inputDroop v) s = .next (settle (evalWarnings (if s.power.railsOn then grantNow 0 t else t)))) ∧
    (s.power.mainPower = true →
      (∀ v, v < 30000 → exec (.inputUndervoltage v) s = .next (railsOff (hold 4 fun p => { p with vinMv := v }))) ∧
      (∀ v, 40000 < v → v ≤ 45000 → exec (.inputOvervoltage v) s = .next
        (hold 5 fun p => { p with vinMv := v, overVoltage := p.overVoltage + 1 })) ∧
      (∀ v, 42000 < v → v ≤ 45000 → exec (.inputOvervoltageTrip v) s = .next (railsOff (hold 5 fun p => { p with vinMv := v }))) ∧
      (∀ c k, s.power.tripped = false → (c = 0 ∧ k < 1000 ∨ c = 1 ∧ k < 12 ∨ c = 2 ∧ k < 18) → exec (.thermtrip c k) s = .next
        (railsOff { s with power := { s.power with tripped := true, tripClass := c, tripIndex := k } })) ∧
      exec .sysclkLoss s = .next (railsOff (hold 13 fun p => { p with sysclk := false })) ∧
      (let lost : State := { s with power := { s.power with netclk := false } }
        let dark := (List.range 32).foldl (fun (v : State) n => if (portAt v n).lit ∧ (portAt v n).st ≠ .down then portDownFree n v else v) lost
        exec .netclkLoss s = .next (settle (checkReady ((List.range 4).foldl (fun (v : State) n => modEth n (fun p =>
          if p.dark then p else { p with failed := p.failed || !p.link, link := false, paused := [], waiting := [] }) v) dark)))) ∧
      (s.power.netclk = false → exec .netclkReturn s = .next ((List.range 32).foldl (fun (v : State) n =>
        if (portAt v n).lit ∧ (portAt v n).st = .down ∧ portRole v n ≠ 0 then beginFull n v else v)
        { s with power := { s.power with netclk := true } }))) ∧
    (∀ r, on → 640 < r → exec (.inletOvertemp r) s = .next (freeEvent (hold 9 fun p => { p with inletTemp := some r })))

/-- Tier 1. Tamper, on main power or on VBAT, zeroises the root and every key and is latched with its source (R485, R486); losing VBAT
with main power gone loses the key store (R617). A core's ceiling only falls (R94); the audit records each broken book, asserts
ALERT_L and stops creation (R603); a microcode store that has reloaded serves again (R594). -/
def Obligations.TamperAgeingAndAuditAct : Prop :=
  ∀ s : State,
    (∀ c, s.power.mainPower = true → ∃ t, exec (.tamperTrip c) s = .next (railsOff t) ∧ t = zeroise (2 ^ tamperBit c) s ∧
      t.glen.root = zeros 32 ∧ t.glen.slots = [] ∧ t.glen.tamperLatched = true ∧
      t.glen.tamper = (zeroKeys (stopGlen s)).glen.tamper ||| 2 ^ tamperBit c) ∧
    (∀ lid temp, s.power.mainPower = false → s.power.vbat = true → lid = true ∨ temp = true →
      exec (.tamperSample lid temp) s = .next (zeroise (lid.toNat + 8 * temp.toNat) s)) ∧
    (s.power.mainPower = false → exec .vbatRemoval s = .next { s with
      power := { s.power with vbat := false }
      glen := { s.glen with root := zeros 32, check := zeros 4, rootLost := true, tamper := 0, tamperLatched := false } }) ∧
    (s.power.mainPower = true → s.power.resetHeld = false → 1 ≤ s.start.step →
      (∀ l, exec (.ceilingDerate l) s = .next (settle (evalWarnings (takeDerates l s))) ∧
        ∀ c, (coreAt s c).derate ≤ (coreAt (takeDerates l s) c).derate) ∧
      exec .accountingAudit s = .next (((List.range 18).filter fun row => booksBroken s row).foldl (fun t row =>
        let r := logError { cls := 2, unit := 0x14, action := 6, location := row } t
        let v := orphanRecord r.1 r.2
        failWarn 32 (alert 0x800 { v with errors := { v.errors with accounting := true } })) s)) ∧
    (∀ q, ∃ t, exec (.microcodeReloadDone q) s = .next (settle t) ∧ t = { s with errors := { s.errors with reloads := t.errors.reloads } } ∧
      ∀ k, k ∈ t.errors.reloads ↔ k ∈ s.errors.reloads ∧ k ≠ q)

/-! ### The mirror, Glen's queue and the management registers -/

/-- Tier 1. The oldest record that is not in the mirror goes into it, and the changes whose records are there then take effect, in their order;
a third failed write in succession is a mirror fault, which refuses every change that waits with 0x1A (R476, R480). The end of an
attestation answers it and lets what waits for Glen run (R481). Glen answers a sideband challenge with an HMAC under K2 over the
challenge and the status, at most once in 1 ms, or with zeros where its root is lost (R514, R647). -/
def Obligations.MirrorAndGlenGoOn : Prop :=
  ∀ s : State, s.power.mainPower = true → s.power.resetHeld = false →
    (∀ n r, (s.ledger.ring.find? fun r => decide (s.ledger.mirrored ≤ r.1)) = some (n, r) → s.ledger.mirrorFault = false →
      let done := fun (t : State) (ok : Bool) => exec (.ledgerMirrorWrite ok) s = .next (settle (pumpStreams (afterTeardown t)))
      let failed : State := { s with ledger := { s.ledger with failures := s.ledger.failures + 1 } }
      done (applyMirrored { s with ledger := { s.ledger with
        mirror := mirrorPut n r s.ledger.mirror, mirrored := n + 1, failures := 0 } }) true ∧
      (s.ledger.failures + 1 < 3 → done failed false) ∧
      (2 ≤ s.ledger.failures →
        let f : State := { failed with ledger := { failed.ledger with mirrorFault := true, deferred := [] }, lc := { failed.lc with ticket := none } }
        done (releaseHeld (s.ledger.deferred.foldl (fun t d => finish (.ticket d.ticket) 0x1A {} t) (alert 0x1000 (ledgerNote 1 n f)))) false)) ∧
    (∀ t j off r, alive s = true → s.glen.current = some (.attest t j off r) →
      let u := attestDone t j off r { s with glen := { s.glen with current := none } }
      exec .glenOperationComplete s = .next (settle (glenDrain u.glen.queue.length u))) ∧
    (s.glen.busy = true → .challenge ∉ s.glen.queue → (∀ t, s.glen.lastResponse = some t → t + 1000000 ≤ s.timeNs) →
      let answer := fun (b : Bytes) => exec .glenResponseDone s = .next { s with glen := { s.glen with
        response := b, status := challengeStatus s, busy := false, ready := true, lastResponse := some s.timeNs } }
      (rootAlive s = true → ∀ k, tget s.glen.slots 2 = some k → answer (hmac (slotMaterial s 2) (ascii "mutrum sideband" ++ [0] ++
        sub Config.unitId 0 32 ++ s.glen.challenge.flatMap (leBytes 4) ++ challengeStatus s))) ∧
      (rootAlive s = false → answer (zeros 32)))

/-- Tier 1. A write of one word over the sideband to a register that is there: it clears RW1C bits but those whose cause lasts, sets the power
limits and the sweep rate within range, selects a log record or a Ledger record, a page or a scan of a header, or starts Glen's
response (R128, R634 to R637, R644 to R648); one that cannot reach its register sets write_discarded (R627), one to a locked or out of range
field sets its flag (R13). -/
def Obligations.RegistersAreWritten : Prop :=
  ∀ (s : State) (v : BitVec 32), s.power.mainPower = true →
    let n := v.toNat
    let flag := fun (k : Nat) => ({ s with mgmt := { s.mgmt with accessErr := s.mgmt.accessErr ||| k } } : State)
    let ok := fun (a : Nat) => accessStatus s a = 0
    (∀ a, accessStatus s a ≠ 0 → exec (.registerWrite a v) s = .next (flag 4)) ∧
    (∀ a, ok a → exec (.registerWrite a v) s = .next (registerPut a n s)) ∧
    (ok 0x1004 → exec (.alertStatusWrite v) s = .next { s with mgmt := { s.mgmt with
      alert := clearBits 14 s.mgmt.alert n (stuckAlerts s) } }) ∧
    (ok 0x100C → exec (.failwarnWrite v) s = .next { s with mgmt := { s.mgmt with failWarn := clearBits 6 s.mgmt.failWarn n 0 } }) ∧
    (ok 0x1010 → exec (.accessErrWrite v) s = .next { s with mgmt := { s.mgmt with accessErr := clearBits 3 s.mgmt.accessErr n 0 } }) ∧
    (∀ j b, j < 32 → ok (0x100000 + 4 * j) → tget s.jobs j = some b → exec (.flagsWrite j v) s = .next (clearFlags j n s)) ∧
    (ok 0x2000 → s.config.locked = true → exec (.pwrCapWrite v) s = .next (if configBusy s then { s with held := s.held ++ [.power 0 n] } else flag 1)) ∧
    (ok 0x2000 → s.config.locked = false → configBusy s = false →
      let cap := n % 2 ^ 13
      let t : State := { s with power := { s.power with cap } }
      (cap < 800 ∨ 4400 < cap → exec (.pwrCapWrite v) s = .next (flag 2)) ∧
      (800 ≤ cap → cap ≤ 4400 → exec (.pwrCapWrite v) s = .next (powerRecord (some {}) (powerNow s) (powerNow t) t))) ∧
    (ok 0x2004 → s.config.locked = false → configBusy s = false →
      let current := n % 2 ^ 8
      let t : State := { s with power := { s.power with current } }
      (current < 40 ∨ 140 < current → exec (.currentLimitWrite v) s = .next (flag 2)) ∧
      (40 ≤ current → current ≤ 140 → exec (.currentLimitWrite v) s = .next (powerRecord (some {}) (powerNow s) (powerNow t) t))) ∧
    (ok 0x2008 → s.config.locked = false → configBusy s = false →
      let throttle := n % 2 ^ 7
      let t : State := { s with power := { s.power with throttle } }
      (throttle < 85 ∨ 105 < throttle → exec (.throttleTempWrite v) s = .next (flag 2)) ∧
      (85 ≤ throttle → throttle ≤ 105 → exec (.throttleTempWrite v) s = .next (powerRecord (some {}) (powerNow s) (powerNow t) t))) ∧
    (ok 0x12500C → s.config.locked = false →
      (n % 2 ^ 5 = 0 → exec (.sweepRateWrite v) s = .next (flag 2)) ∧
      (n % 2 ^ 5 ≠ 0 → exec (.sweepRateWrite v) s = .next { s with vale := { s.vale with rate := n % 2 ^ 5 } })) ∧
    (ok 0x120008 → let r := (tget s.jobs s.mgmt.nlogJob).bind fun b => ringRecord b.num.log b.num.logHead n
      exec (.nlogSelectWrite v) s = .next { s with mgmt := { s.mgmt with
        nlogSelect := n, nlogStatus := r.isSome.toNat, nlogData := r.getD (zeros 32) } }) ∧
    (ok 0x121010 → let r := ringRecord s.errors.log s.errors.number n
      exec (.errSelectWrite v) s = .next { s with mgmt := { s.mgmt with
        errSelect := n, errStatus := r.isSome.toNat, errData := r.getD (zeros 64) } }) ∧
    (ok 0x12204C →
      let k := n * 2 ^ 32 + s.mgmt.ledgerSelect % 2 ^ 32
      let picked := fun (f : Mgmt → Mgmt) => exec (.ledgerSelectWrite v) s = .next
        { s with mgmt := f { s.mgmt with ledgerSelect := k, ledgerFetch := none, ledgerStatus := 0 } }
      (∀ b, tget s.ledger.ring k = some b → picked fun m => { m with ledgerStatus := 1, ledgerData := b }) ∧
      (∀ b, tget s.ledger.ring k = none → tget s.ledger.mirror k = some b → picked fun m => { m with ledgerFetch := some k }) ∧
      (tget s.ledger.ring k = none → tget s.ledger.mirror k = none → picked fun m => { m with ledgerData := zeros 128 })) ∧
    (ok 0x123008 → bit s.mgmt.shStatus 1 = true → exec (.shPageWrite v) s = .next (flag 4)) ∧
    (ok 0x123008 → bit s.mgmt.shStatus 1 = false → let e := selectedEntry s n
      exec (.shPageWrite v) s = .next { s with mgmt := { s.mgmt with
        shPage := n, shStatus := e.isSome.toNat, shMoment := (e.map (·.1)).getD 0, shWeight := (e.map (·.2)).getD 0 } }) ∧
    (ok 0x12302C → bit s.mgmt.shStatus 1 = false →
      exec (.shScan v) s = .next { s with mgmt := { s.mgmt with shStart := n, shStatus := s.mgmt.shStatus % 2 + 2 } }) ∧
    (ok 0x12403C → s.glen.busy = true → exec (.glenChalWrite v) s = .next (flag 4)) ∧
    (ok 0x12403C → s.glen.busy = false → exec (.glenChalWrite v) s = .next { s with glen := { s.glen with
      challenge := setAt s.glen.challenge 7 n, busy := true, ready := false
      queue := if s.glen.current.isSome then s.glen.queue ++ [.challenge] else s.glen.queue } })

/-- Tier 1. A read of a word over the sideband answers its status and value; the low word of a counter latches its high word (R628), and
LEDGER_SEQ_LO the high word and the digest (R645). The selected Ledger record arrives from the mirror; a scan ends with the run that it
found (R646). The result of a message is busy, not available while RESET_L is held, or its completion (R626, R610).
The I3C target (R611): without an address it takes one by ENTDAA, which it answers with its identity, or by SETDASA; RSTDAA takes
the address away; with one it answers GETPID, GETBCR, GETDCR and GETSTATUS, whose bytes are free values (log 20), and ENEC and DISEC
switch its interrupts. -/
def Obligations.SidebandAnswers : Prop :=
  (∀ s : State, s.power.mainPower = true →
    (∀ a, accessStatus s a ≠ 0 → exec (.counterLowRead a) s = .next (emit (.sideband (leBytes 1 (accessStatus s a))) s)) ∧
    (∀ a c, accessStatus s a = 0 → a ≠ 0x122000 → counterAt s a = some c → exec (.counterLowRead a) s = .next
      (emit (.sideband (0 :: leBytes 4 (c % 2 ^ 32)))
        { s with mgmt := { s.mgmt with high := tset s.mgmt.high a (c / 2 ^ 32 % 2 ^ 32) } })) ∧
    (∀ a, accessStatus s a = 0 → a ≠ 0x122000 → counterAt s a = none → exec (.counterLowRead a) s = .next
      (emit (.sideband (0 :: leBytes 4 (registerWord s a))) s)) ∧
    (s.power.resetHeld = false → exec .ledgerSeqLoRead s = .next
      (emit (.sideband (0 :: leBytes 4 ((s.ledger.next - 1) % 2 ^ 32))) { s with mgmt := { s.mgmt with
        ledgerHigh := (s.ledger.next - 1) / 2 ^ 32, ledgerHead := s.ledger.headDigest } })) ∧
    (s.power.resetHeld = false → ∀ n, s.mgmt.ledgerFetch = some n →
      let m : Mgmt := { s.mgmt with ledgerFetch := none }
      (∀ b, tget s.ledger.mirror n = some b → exec .ledgerSelectDone s = .next { s with mgmt := { m with ledgerStatus := 3, ledgerData := b } }) ∧
      (tget s.ledger.mirror n = none → exec .ledgerSelectDone s = .next { s with mgmt := { m with ledgerData := zeros 128 } })) ∧
    (s.power.resetHeld = false → bit s.mgmt.shStatus 1 = true → exec .shScanDone s = .next { s with mgmt := { s.mgmt with
      shStatus := s.mgmt.shStatus % 2, shFirst := (scanResult s).1, shRun := (scanResult s).2 } }) ∧
    (s.power.resetHeld = true → exec .sidebandResult s = .next (emit (.sideband [3]) s)) ∧
    (s.power.resetHeld = false → s.mgmt.busy = true → exec .sidebandResult s = .next (emit (.sideband [1]) s)) ∧
    (s.power.resetHeld = false → s.mgmt.busy = false → exec .sidebandResult s = .next (emit (.sideband (0 :: s.mgmt.result)) s))) ∧
  (∀ s : State, s.power.mainPower = true →
    let at' := fun (a : Option Nat) (t : State) => ({ t with i3c := { t.i3c with address := a } } : State)
    let ibi := fun (e : Bool) => ({ s with i3c := { s.i3c with ibiEnabled := e } } : State)
    let id := leBytes 6 (Config.i3cValue 0)
    let bcr := leBytes 1 (Config.i3cValue 1)
    let dcr := leBytes 1 (Config.i3cValue 2)
    (∀ a, s.i3c.address = none → a < 128 →
      exec (.entdaa a) s = .next (at' (some a) (emit (.i3c (id ++ bcr ++ dcr)) s)) ∧ exec (.setdasa a) s = .next (at' (some a) s)) ∧
    exec .rstdaa s = .next (at' none s) ∧
    (∀ a, s.i3c.address = some a →
      (∀ b, exec (.entdaa b) s = .next s ∧ exec (.setdasa b) s = .next s) ∧
      exec .enec s = .next (ibi true) ∧ exec .disec s = .next (ibi false) ∧
      exec .getpid s = .next (emit (.i3c id) s) ∧ exec .getbcr s = .next (emit (.i3c bcr) s) ∧ exec .getdcr s = .next (emit (.i3c dcr) s) ∧
      ∃ x y, exec .getstatus s = .next (emit (.i3c [x, y]) { s with free := s.free + 1 })))

/-- Tier 2. A read of the low word of a 64-bit counter answers that word and latches the high word; a read of the word after it answers
what the last read of its low word latched, and no read of another counter changes that (R628). -/
def Obligations.CountersReadAsPairs : Prop :=
  ∀ (s : State) (a c : Nat), s.power.mainPower = true → counterAt s a = some c →
    (accessStatus s a = 0 → ∃ t, exec (.counterLowRead a) s = .next t ∧ t.sent = s.sent ++ [.sideband (0 :: leBytes 4 (c % 2 ^ 32))] ∧
      tget t.mgmt.high a = some (c / 2 ^ 32 % 2 ^ 32) ∧ ∀ k, k ≠ a → tget t.mgmt.high k = tget s.mgmt.high k) ∧
    (accessStatus s (a + 4) = 0 →
      exec (.counterLowRead (a + 4)) s = .next (emit (.sideband (0 :: leBytes 4 (tgetD s.mgmt.high a 0))) s))
/-! ### What does not start -/

/-- Tier 2. A message with flags bit 1 set stays queued until its wait fence has reached wait_value, and completes with 0x1E where that fence
faults or is freed first (R431). One that is not the front one of its inbox, or is of another type, stays where it is, and so
does every message while the Proend is not ready (R428, R546); one that the checks of every message find wrong completes with their
status (R429, R432, R435). On the sideband a message of a
wrong length sets write_discarded, one behind another is discarded, one of a type that the sideband may not send completes with 0x13
(R626, R627, R630). A descriptor that is of another opcode or may not start yet stays as well (R191, R192). What follows by itself after a
command is only that ready tasks take free threads, where no failed read is unreported and no wait, message or operation held can go
on. -/
def Obligations.CommandsWaitTheirTurn : Prop :=
  (∀ (c : Instr) (s : State) (ctx typ : Nat), mailbox c = some (.inbox ctx, typ) →
    let inbox := ((tget s.ctxs ctx).map (·.inbox)).getD []
    (alive s = false → exec c s = .next (settle s)) ∧
    (inbox = [] → exec c s = .next (settle s)) ∧
    (∀ b rest, inbox = b :: rest → msgType b ≠ typ ∨ waitState s b = .hold → exec c s = .next (settle s)) ∧
    (∀ b rest, alive s = true → inbox = b :: rest → msgType b = typ →
      (waitState s b = .dead → exec c s = .next (settle (complete ⟨some ctx, b⟩ 0x1E (popInbox ctx s)))) ∧
      (∀ st, waitState s b = .go → startCheck s ctx b = some st →
        exec c s = .next (settle (complete ⟨some ctx, b⟩ st (popInbox ctx s)))))) ∧
  (∀ (s : State) (b : Bytes),
    let i := rd b 24 2
    (bit (msgFlags b) 1 = false → waitState s b = .go) ∧
    (bit (msgFlags b) 1 = true → (objAt s i = none ∨ genOf s i ≠ rd b 26 1 → waitState s b = .dead) ∧
      ∀ o f, objAt s i = some o → o.data = .fence f → genOf s i = rd b 26 1 →
        (f.faulted = true → waitState s b = .dead) ∧
        (f.faulted = false → waitState s b = if reached f.value (rd b 28 8) then .go else .hold))) ∧
  (∀ (c : Instr) (s : State) (b : Bytes) (typ : Nat), mailbox c = some (.sideband b, typ) →
    let t : State := { s with mgmt := { s.mgmt with busy := true } }
    (s.power.mainPower = false ∨ s.power.resetHeld = true → exec c s = .next (settle s)) ∧
    (s.power.mainPower = true → s.power.resetHeld = false →
      (b.length < 64 ∨ 1024 < b.length →
        exec c s = .next (settle { s with mgmt := { s.mgmt with accessErr := s.mgmt.accessErr ||| 4 } })) ∧
      (64 ≤ b.length → b.length ≤ 1024 → s.mgmt.busy = true → exec c s = .next (settle s)) ∧
      (64 ≤ b.length → b.length ≤ 1024 → s.mgmt.busy = false → sidebandType (msgType b) = false →
        exec c s = .next (settle (complete ⟨none, b⟩ 0x13 t))))) ∧
  (∀ (c : Instr) (s : State) (t : TaskRef) (op : Nat), descriptorOf c = some (t, op) →
    (refOf s t = none → exec c s = .next (settle s)) ∧
    (∀ r, refOf s t = some r → dOp r.d ≠ op ∨ mayStart s r = false → exec c s = .next (settle s))) ∧
  (∀ s : State, s.vale.failing = [] → (∀ t ∈ openTasks s, settleWait s t = none) → (∀ r ∈ s.running, settleRunning s r = none) →
    (∀ q ∈ s.eth.qps, q.2.held = [] ∨ inboundReady s q.2 true (q.2.held.headD {}) = false) → settle s = placeTasks s)
end

