-- ==== Sys2Proof/Laws/Tables.lean ====
section
/-! SUPPORT. What the sparse tables and byte memories answer after a change, and that every memory operation keeps the canonical
form. -/

namespace Sys2Proof.Laws

open Sys2Proof.Machine

variable {α : Type}

/-! ### Reading after writing -/

theorem tget_tset_same (t : Tab α) (k : Nat) (v : α) : tget (tset t k v) k = some v := by
  induction t with
  | nil => simp [tset, tget]
  | cons x t ih =>
    obtain ⟨i, w⟩ := x
    simp only [tset]
    split
    · simp [tget]
    · split
      · simp [tget]
      · rename_i h; simp [tget, ih, Ne.symm h]

theorem tget_tset_other (t : Tab α) (k n : Nat) (v : α) (h : n ≠ k) : tget (tset t k v) n = tget t n := by
  induction t with
  | nil => simp [tset, tget, Ne.symm h]
  | cons x t ih =>
    obtain ⟨i, w⟩ := x
    simp only [tset]
    split
    · simp [tget, Ne.symm h]
    · split
      · rename_i e; subst e; simp [tget, Ne.symm h]
      · simp only [tget, ih]

theorem tget_terase_other (t : Tab α) (k n : Nat) (h : n ≠ k) : tget (terase t k) n = tget t n := by
  induction t with
  | nil => simp [terase]
  | cons x t ih =>
    obtain ⟨i, w⟩ := x
    simp only [terase]
    split
    · rename_i e; subst e; simp [tget, Ne.symm h]
    · simp only [tget, ih]

theorem tget_tmod (t : Tab α) (k n : Nat) (f : α → α) :
    tget (tmod t k f) n = if n = k then (tget t k).map f else tget t n := by
  induction t with
  | nil => simp [tmod, tget]
  | cons x t ih =>
    obtain ⟨i, w⟩ := x
    simp only [tmod]
    by_cases e : i = k
    · subst e
      by_cases hn : n = i
      · subst hn; simp [tget]
      · simp [tget, hn, Ne.symm hn]
    · by_cases hn : i = n
      · subst hn; simp [tget, e]
      · simp only [tget, ih, e, hn, if_false]

/-! ### Keys in order -/

theorem tsorted_mono {lo lo' : Option Nat} {t : Tab α} (h : tsorted lo t = true)
    (hl : ∀ a, lo' = some a → ∃ b, lo = some b ∧ a ≤ b) : tsorted lo' t = true := by
  cases t with
  | nil => rfl
  | cons x t =>
    obtain ⟨i, w⟩ := x
    simp only [tsorted, Bool.and_eq_true] at h ⊢
    refine ⟨?_, h.2⟩
    cases lo' with
    | none => rfl
    | some a =>
      obtain ⟨b, rfl, hb⟩ := hl a rfl
      simp only [decide_eq_true_eq] at h ⊢
      omega

theorem tsorted_tail {lo : Option Nat} {i : Nat} {w : α} {t : Tab α} (h : tsorted lo ((i, w) :: t) = true) :
    tsorted lo t = true := by
  simp only [tsorted, Bool.and_eq_true] at h
  refine tsorted_mono h.2 ?_
  intro a e
  subst e
  exact ⟨i, rfl, by simpa using Nat.le_of_lt (by simpa using h.1)⟩

theorem tset_sorted {lo : Option Nat} {t : Tab α} {k : Nat} {v : α} (h : tsorted lo t = true)
    (hk : ∀ a, lo = some a → a < k) : tsorted lo (tset t k v) = true := by
  induction t generalizing lo with
  | nil =>
    simp only [tset, tsorted, Bool.and_true]
    cases lo with
    | none => rfl
    | some a => simpa using hk a rfl
  | cons x t ih =>
    obtain ⟨i, w⟩ := x
    simp only [tsorted, Bool.and_eq_true] at h
    simp only [tset]
    split
    · rename_i hlt
      simp only [tsorted, Bool.and_eq_true]
      refine ⟨?_, by simpa using hlt, h.2⟩
      cases lo with
      | none => rfl
      | some a => simpa using hk a rfl
    · split
      · rename_i e
        subst e
        simp only [tsorted, Bool.and_eq_true]
        exact ⟨h.1, h.2⟩
      · rename_i h1 h2
        simp only [tsorted, Bool.and_eq_true]
        refine ⟨h.1, ih h.2 ?_⟩
        intro a e
        cases e
        omega

theorem terase_sorted {lo : Option Nat} {t : Tab α} {k : Nat} (h : tsorted lo t = true) : tsorted lo (terase t k) = true := by
  induction t generalizing lo with
  | nil => exact h
  | cons x t ih =>
    obtain ⟨i, w⟩ := x
    simp only [terase]
    split
    · exact tsorted_tail h
    · simp only [tsorted, Bool.and_eq_true] at h ⊢
      exact ⟨h.1, ih h.2⟩

theorem filter_sorted {lo : Option Nat} {t : Tab α} (p : Nat × α → Bool) (h : tsorted lo t = true) :
    tsorted lo (t.filter p) = true := by
  induction t generalizing lo with
  | nil => exact h
  | cons x t ih =>
    obtain ⟨i, w⟩ := x
    simp only [List.filter]
    split
    · simp only [tsorted, Bool.and_eq_true] at h ⊢
      exact ⟨h.1, ih h.2⟩
    · exact ih (tsorted_tail h)

/-! ### Membership -/

theorem mem_tset {t : Tab α} {k : Nat} {v : α} {x : Nat × α} (h : x ∈ tset t k v) : x = (k, v) ∨ x ∈ t := by
  induction t with
  | nil => simpa [tset] using h
  | cons y t ih =>
    obtain ⟨i, w⟩ := y
    simp only [tset] at h
    split at h
    · rcases List.mem_cons.1 h with h | h
      · exact .inl h
      · exact .inr h
    · split at h
      · rcases List.mem_cons.1 h with h | h
        · exact .inl h
        · exact .inr (List.mem_cons_of_mem _ h)
      · rcases List.mem_cons.1 h with h | h
        · exact .inr (h ▸ List.mem_cons_self)
        · exact (ih h).imp id (List.mem_cons_of_mem _)

theorem mem_terase {t : Tab α} {k : Nat} {x : Nat × α} (h : x ∈ terase t k) : x ∈ t := by
  induction t with
  | nil => exact h
  | cons y t ih =>
    obtain ⟨i, w⟩ := y
    simp only [terase] at h
    split at h
    · exact List.mem_cons_of_mem _ h
    · rcases List.mem_cons.1 h with h | h
      · exact h ▸ List.mem_cons_self
      · exact List.mem_cons_of_mem _ (ih h)

theorem mem_tsetD [DecidableEq α] {t : Tab α} {k : Nat} {v d : α} {x : Nat × α} (h : x ∈ tsetD t k v d) : x = (k, v) ∨ x ∈ t := by
  unfold tsetD at h
  split at h
  · exact .inr (mem_terase h)
  · exact mem_tset h

theorem mem_of_tget {t : Tab α} {k : Nat} {v : α} (h : tget t k = some v) : (k, v) ∈ t := by
  induction t with
  | nil => simp [tget] at h
  | cons y t ih =>
    obtain ⟨i, w⟩ := y
    simp only [tget] at h
    split at h
    · rename_i e; cases h; subst e; exact List.mem_cons_self
    · exact List.mem_cons_of_mem _ (ih h)

theorem tget_of_mem {t : Tab α} {k : Nat} {v : α} (h : (k, v) ∈ t) : ∃ w, tget t k = some w := by
  induction t with
  | nil => cases h
  | cons y t ih =>
    obtain ⟨i, w⟩ := y
    simp only [tget]
    by_cases e : i = k
    · exact ⟨w, by rw [if_pos e]⟩
    · rw [if_neg e]
      rcases List.mem_cons.1 h with h | h
      · cases h; exact absurd rfl e
      · exact ih h

/-! ### Byte memory -/

theorem Memory_write_wf {m : Memory} (a : Nat) (b : Byte) (h : m.wf = true) : (m.write a b).wf = true := by
  simp only [Memory.wf, Bool.and_eq_true] at h ⊢
  unfold Memory.write tsetD
  split
  · refine ⟨terase_sorted h.1, ?_⟩
    simp only [List.all_eq_true] at h ⊢
    exact fun x hx => h.2 x (mem_terase hx)
  · rename_i hb
    refine ⟨tset_sorted h.1 (fun a e => by cases e), ?_⟩
    simp only [List.all_eq_true] at h ⊢
    intro x hx
    rcases mem_tset hx with e | hx
    · subst e; simpa using hb
    · exact h.2 x hx

theorem Memory_writeN_wf {m : Memory} (a : Nat) (b : Bytes) (h : m.wf = true) : (m.writeN a b).wf = true := by
  induction b generalizing m a with
  | nil => exact h
  | cons x b ih => exact ih _ (Memory_write_wf _ _ h)

theorem Memory_filter_wf {m : Memory} (p : Host.Cell → Bool) (h : m.wf = true) : (Memory.wf (m.filter p)) = true := by
  simp only [Memory.wf, Bool.and_eq_true] at h ⊢
  refine ⟨filter_sorted p h.1, ?_⟩
  simp only [List.all_eq_true] at h ⊢
  exact fun x hx => h.2 x (List.mem_filter.1 hx).1

theorem maskedWrite_wf {m : Memory} (base mask i : Nat) (b : Bytes) (h : m.wf = true) : (maskedWrite m base mask i b).wf = true := by
  induction b generalizing m i with
  | nil => exact h
  | cons x b ih =>
    simp only [maskedWrite]
    refine ih _ ?_
    split
    · exact Memory_write_wf _ _ h
    · exact h

/-- A byte written is read back. -/
theorem Memory_read_write_same (m : Memory) (a : Nat) (b : Byte) (h : m.wf = true) : (m.write a b).read a = b := by
  unfold Memory.write Memory.read tsetD tgetD
  split
  · rename_i e
    subst e
    simp only [Memory.wf, Bool.and_eq_true] at h
    have key : ∀ (lo : Option Nat) (t : Memory), tsorted lo t = true → tget (terase t a) a = none := by
      intro lo t
      induction t generalizing lo with
      | nil => intro _; rfl
      | cons x t ih =>
        obtain ⟨i, w⟩ := x
        intro ht
        simp only [terase]
        split
        · rename_i e
          subst e
          have h2 : tsorted (some i) t = true := by
            simp only [tsorted, Bool.and_eq_true] at ht; exact ht.2
          clear ht ih
          have aux : ∀ (b : Nat) (t : Memory), i ≤ b → tsorted (some b) t = true → tget t i = none := by
            intro b t
            induction t generalizing b with
            | nil => intros; rfl
            | cons y t ih =>
              obtain ⟨k, w'⟩ := y
              intro hb hs
              simp only [tsorted, Bool.and_eq_true, decide_eq_true_eq] at hs
              simp only [tget]
              rw [if_neg (by omega)]
              exact ih k (by omega) hs.2
          exact aux i t (Nat.le_refl _) h2
        · rename_i e
          simp only [tget, e, if_false]
          exact ih _ (tsorted_tail ht)
    rw [key none m h.1]
    rfl
  · rw [tget_tset_same]; rfl

/-- A write leaves every other byte as it was. -/
theorem Memory_read_write_other (m : Memory) (a c : Nat) (b : Byte) (h : c ≠ a) : (m.write a b).read c = m.read c := by
  unfold Memory.write Memory.read tsetD tgetD
  split
  · rw [tget_terase_other _ _ _ h]
  · rw [tget_tset_other _ _ _ _ h]

end Sys2Proof.Laws
end

