-- ==== Sys2Proof/Laws/Follows.lean ====
section
/-! SUPPORT. What every operation of the Proend keeps, said once: the relation between a state and one that follows it, and how
each way of building a state keeps it. -/

namespace Sys2Proof.Laws

open Sys2Proof.Machine

/-- What a later Ledger keeps of an earlier one. -/
def LedgerAfter (l m : Ledger) : Prop :=
  Chained l → Chained m ∧ l.mirrored ≤ m.mirrored ∧ ∀ n r, (n, r) ∈ m.mirror → n < l.mirrored → (n, r) ∈ l.mirror

/-- What later fuses keep of earlier ones. -/
def FusesAfter (l m : LifeCycle) : Prop := (∀ r k, marked l r k → marked m r k) ∧ l.security ≤ m.security

/-- Every tile store is in canonical form. -/
def coresWf (c : Tab CoreSt) : Prop := ∀ x ∈ c, x.2.tile.wf = true

/-- What a following state keeps: the queue as it is, the outputs so far, the counters that only rise, memories in canonical form,
the chain of the Ledger, and the fuses. -/
structure Follows (s t : State) : Prop where
  pending : t.pending = s.pending
  free : s.free ≤ t.free
  sent : s.sent <+: t.sent
  boot : s.boot ≤ t.boot
  tickets : s.tickets ≤ t.tickets
  mem : s.vale.mem.wf = true → t.vale.mem.wf = true
  cores : coresWf s.cores → coresWf t.cores
  ledger : LedgerAfter s.ledger t.ledger
  fuses : FusesAfter s.lc t.lc

theorem LedgerAfter.refl (l : Ledger) : LedgerAfter l l := fun h => ⟨h, Nat.le_refl _, fun _ _ h _ => h⟩

theorem LedgerAfter.trans {a b c : Ledger} (h : LedgerAfter a b) (k : LedgerAfter b c) : LedgerAfter a c := fun ha =>
  let hb := h ha
  let hc := k hb.1
  ⟨hc.1, Nat.le_trans hb.2.1 hc.2.1, fun n r hn hl => hb.2.2 n r (hc.2.2 n r hn (Nat.lt_of_lt_of_le hl hb.2.1)) hl⟩

/-- A Ledger with the same records follows. -/
theorem LedgerAfter.same {l m : Ledger}
    (e : (m.ring, m.next, m.headDigest, m.mirror, m.mirrored) = (l.ring, l.next, l.headDigest, l.mirror, l.mirrored)) :
    LedgerAfter l m := by
  obtain ⟨r, n, d, mi, me⟩ := l
  obtain ⟨r', n', d', mi', me'⟩ := m
  simp only [Prod.mk.injEq] at e
  obtain ⟨rfl, rfl, rfl, rfl, rfl⟩ := e
  exact fun h => ⟨⟨h.one, h.below, h.mirrorBelow, h.mirroredLe, h.head, h.link⟩, Nat.le_refl _, fun _ _ h _ => h⟩

theorem FusesAfter.refl (l : LifeCycle) : FusesAfter l l := ⟨fun _ _ h => h, Nat.le_refl _⟩

theorem FusesAfter.trans {a b c : LifeCycle} (h : FusesAfter a b) (k : FusesAfter b c) : FusesAfter a c :=
  ⟨fun r m x => k.1 r m (h.1 r m x), Nat.le_trans h.2 k.2⟩

/-- Fuses with the same rows follow. -/
theorem FusesAfter.same {l m : LifeCycle} (e : (m.rows, m.security) = (l.rows, l.security)) : FusesAfter l m := by
  simp only [Prod.mk.injEq] at e
  exact ⟨fun r k h => by unfold marked at *; rw [e.1]; exact h, Nat.le_of_eq e.2.symm⟩

theorem Follows.refl (s : State) : Follows s s where
  pending := rfl
  free := Nat.le_refl _
  sent := List.prefix_refl _
  boot := Nat.le_refl _
  tickets := Nat.le_refl _
  mem := id
  cores := id
  ledger := .refl _
  fuses := .refl _

theorem Follows.trans {a b c : State} (h : Follows a b) (k : Follows b c) : Follows a c where
  pending := k.pending.trans h.pending
  free := Nat.le_trans h.free k.free
  sent := h.sent.trans k.sent
  boot := Nat.le_trans h.boot k.boot
  tickets := Nat.le_trans h.tickets k.tickets
  mem := k.mem ∘ h.mem
  cores := k.cores ∘ h.cores
  ledger := h.ledger.trans k.ledger
  fuses := h.fuses.trans k.fuses

/-! ### Changes of parts of the state -/

/-- A state that differs from another in any fields but its queue. -/
def change (s : State) (free : Nat) (sent : List Out) (timeNs boot : Nat) (start : Start) (power : Power) (cores : Tab CoreSt)
    (cache : Cache) (vale : Vale) (dir : Tab DirE) (jobs : Tab Job) (bubbles : Tab Bubbles) (ctxs : Tab Ctx) (objects : Objects)
    (running : List Running) (held : List Held) (afterJobs : List AfterJobs) (tickets : Nat) (eth : Eth) (pass : Pass)
    (config : ConfigSt) (glen : Glen) (fw : Firmware) (lc : LifeCycle) (ledger : Ledger) (errors : Errors) (mgmt : Mgmt)
    (i3c : I3c) : State :=
  State.mk s.pending free sent timeNs boot start power cores cache vale dir jobs bubbles ctxs objects running held afterJobs
    tickets eth pass config glen fw lc ledger errors mgmt i3c

/-- Every record update of a state is such a change. -/
theorem mk_change (s : State) (free sent timeNs boot start power cores cache vale dir jobs bubbles ctxs objects running held
    afterJobs tickets eth pass config glen fw lc ledger errors mgmt i3c) :
    State.mk s.pending free sent timeNs boot start power cores cache vale dir jobs bubbles ctxs objects running held afterJobs
      tickets eth pass config glen fw lc ledger errors mgmt i3c =
    change s free sent timeNs boot start power cores cache vale dir jobs bubbles ctxs objects running held afterJobs tickets eth
      pass config glen fw lc ledger errors mgmt i3c := rfl

section

variable {a s : State}

/-- A change of any fields. -/
theorem Follows.make (h : Follows a s) {free sent timeNs boot start power cores cache vale dir jobs bubbles ctxs objects running
    held afterJobs tickets eth pass config glen fw lc ledger errors mgmt i3c}
    (hfree : s.free ≤ free) (hsent : s.sent <+: sent) (hboot : s.boot ≤ boot) (htickets : s.tickets ≤ tickets)
    (hmem : s.vale.mem.wf = true → vale.mem.wf = true) (hcores : coresWf s.cores → coresWf cores)
    (hledger : LedgerAfter s.ledger ledger) (hfuses : FusesAfter s.lc lc) :
    Follows a (change s free sent timeNs boot start power cores cache vale dir jobs bubbles ctxs objects running held afterJobs
      tickets eth pass config glen fw lc ledger errors mgmt i3c) :=
  h.trans { pending := rfl, free := hfree, sent := hsent, boot := hboot, tickets := htickets, mem := hmem, cores := hcores,
            ledger := hledger, fuses := hfuses }

/-- A change of fields of which nothing is promised. -/
theorem Follows.keep (h : Follows a s) {timeNs start power cache vale dir jobs bubbles ctxs objects running held afterJobs eth
    pass config glen fw lc ledger errors mgmt i3c} (hv : vale.mem = s.vale.mem) (hf : (lc.rows, lc.security) = (s.lc.rows, s.lc.security))
    (hl : (ledger.ring, ledger.next, ledger.headDigest, ledger.mirror, ledger.mirrored) =
      (s.ledger.ring, s.ledger.next, s.ledger.headDigest, s.ledger.mirror, s.ledger.mirrored)) :
    Follows a (change s s.free s.sent timeNs s.boot start power s.cores cache vale dir jobs bubbles ctxs objects running held
      afterJobs s.tickets eth pass config glen fw lc ledger errors mgmt i3c) :=
  h.make (Nat.le_refl _) (List.prefix_refl _) (Nat.le_refl _) (Nat.le_refl _) (fun k => by rw [hv]; exact k) id (.same hl) (.same hf)

/-- The same with the next ticket taken. -/
theorem Follows.keepT (h : Follows a s) {timeNs start power cache vale dir jobs bubbles ctxs objects running held afterJobs eth
    pass config glen fw lc ledger errors mgmt i3c} (hv : vale.mem = s.vale.mem) (hf : (lc.rows, lc.security) = (s.lc.rows, s.lc.security))
    (hl : (ledger.ring, ledger.next, ledger.headDigest, ledger.mirror, ledger.mirrored) =
      (s.ledger.ring, s.ledger.next, s.ledger.headDigest, s.ledger.mirror, s.ledger.mirrored)) :
    Follows a (change s s.free s.sent timeNs s.boot start power s.cores cache vale dir jobs bubbles ctxs objects running held
      afterJobs (s.tickets + 1) eth pass config glen fw lc ledger errors mgmt i3c) :=
  h.make (Nat.le_refl _) (List.prefix_refl _) (Nat.le_refl _) (Nat.le_succ _) (fun k => by rw [hv]; exact k) id (.same hl) (.same hf)

theorem Follows.ite {c : Prop} [Decidable c] {x y : State} (hx : Follows a x) (hy : Follows a y) :
    Follows a (if c then x else y) := by
  split
  · exact hx
  · exact hy

theorem Follows.ite_fst {β : Type} {c : Prop} [Decidable c] {x y : State × β} (hx : Follows a x.1) (hy : Follows a y.1) :
    Follows a (if c then x else y).1 := by
  split
  · exact hx
  · exact hy

theorem Follows.ite_snd {β : Type} {c : Prop} [Decidable c] {x y : β × State} (hx : Follows a x.2) (hy : Follows a y.2) :
    Follows a (if c then x else y).2 := by
  split
  · exact hx
  · exact hy

/-- What runs over a list keeps the relation if each of its steps does. -/
theorem Follows.foldl {α : Type} {f : State → α → State} (l : List α) (h : Follows a s)
    (hf : ∀ t x, Follows a t → Follows a (f t x)) : Follows a (l.foldl f s) := by
  induction l generalizing s with
  | nil => exact h
  | cons x l ih => exact ih (hf _ _ h)

/-- The same for what carries a second value before the state. -/
theorem Follows.foldl_snd {α β : Type} {f : β × State → α → β × State} (l : List α) {x : β × State} (h : Follows a x.2)
    (hf : ∀ t y, Follows a t.2 → Follows a (f t y).2) : Follows a (l.foldl f x).2 := by
  induction l generalizing x with
  | nil => exact h
  | cons y l ih => exact ih (hf _ _ h)

/-- The same for what carries a second value after the state. -/
theorem Follows.foldl_fst {α β : Type} {f : State × β → α → State × β} (l : List α) {x : State × β} (h : Follows a x.1)
    (hf : ∀ t y, Follows a t.1 → Follows a (f t y).1) : Follows a (l.foldl f x).1 := by
  induction l generalizing x with
  | nil => exact h
  | cons y l ih => exact ih (hf _ _ h)

theorem Follows.of_snd {β : Type} {x : β × State} {b : β} {t : State} (e : x = (b, t)) (h : Follows a x.2) : Follows a t := by
  subst e; exact h

theorem Follows.of_fst {β : Type} {x : State × β} {b : β} {t : State} (e : x = (t, b)) (h : Follows a x.1) : Follows a t := by
  subst e; exact h

/-- A value that is computed on the way. -/
theorem Follows.cut {P : State → Prop} {x : State} (h : Follows a x) (k : ∀ y, Follows a y → P y) : P x := k x h

end

/-! ### Memories -/

theorem coresWf_map {c : Tab CoreSt} {f : Nat × CoreSt → Nat × CoreSt} (h : coresWf c)
    (hf : ∀ x, x.2.tile.wf = true → (f x).2.tile.wf = true) : coresWf (c.map f) := by
  intro y hy
  obtain ⟨x, hx, rfl⟩ := List.mem_map.1 hy
  exact hf x (h x hx)

theorem coresWf_filter {c : Tab CoreSt} {p : Nat × CoreSt → Bool} (h : coresWf c) : coresWf (c.filter p) :=
  fun y hy => h y (List.mem_filter.1 hy).1

/-! ### The Ledger grows -/

theorem leBytes_length (n v : Nat) : (leBytes n v).length = n := by
  induction n generalizing v with
  | zero => rfl
  | succ n ih => simp [leBytes, ih]

theorem sub_length (b : Bytes) (i n : Nat) : (sub b i n).length = n := by
  simp only [sub, zeros, List.length_append, List.length_take, List.length_drop, List.length_replicate]
  omega

theorem recordBody_length (s : State) (kind action principal port ctx part flags jobId : Nat) (detail : Bytes) :
    (recordBody s kind action principal port ctx part flags jobId detail).length = 96 := by
  simp only [recordBody, List.length_append, leBytes_length, sub_length]

/-- A record appended chains from the head. -/
theorem appendRecord_after (body : Bytes) (l : Ledger) (hb : body.length = 96) : LedgerAfter l (appendRecord body l) := by
  intro h
  have hring : ∀ x, x ∈ (appendRecord body l).ring → x = (l.next, body ++ l.headDigest) ∨ x ∈ l.ring := by
    intro x hx
    simp only [appendRecord] at hx
    rcases mem_tset hx with e | hx
    · exact .inl e
    · split at hx
      · exact .inr hx
      · exact .inr (mem_terase hx)
  have hold : ∀ n r, holdsRecord (appendRecord body l) n r → (n = l.next ∧ r = body ++ l.headDigest) ∨ holdsRecord l n r := by
    intro n r hx
    rcases hx with hx | hx
    · rcases hring _ hx with e | hx
      · cases e; exact .inl ⟨rfl, rfl⟩
      · exact .inr (.inl hx)
    · exact .inr (.inr hx)
  refine ⟨⟨?_, ?_, h.mirrorBelow, ?_, ?_, ?_⟩, Nat.le_refl _, fun _ _ h _ => h⟩
  · intro n r r' hx hx'
    rcases hold n r hx with ⟨e, e'⟩ | hx
    · rcases hold n r' hx' with ⟨-, e''⟩ | hx'
      · rw [e', e'']
      · have := h.below n r' hx'; omega
    · rcases hold n r' hx' with ⟨e, -⟩ | hx'
      · have := h.below n r hx; omega
      · exact h.one n r r' hx hx'
  · intro n r hx
    show n < l.next + 1
    rcases hold n r hx with ⟨e, -⟩ | hx
    · omega
    · have := h.below n r hx; omega
  · show l.mirrored ≤ l.next + 1
    have := h.mirroredLe; omega
  · intro n r hx hn
    show sha256 (body ++ l.headDigest) = _
    have hn : n + 1 = l.next + 1 := hn
    rcases hold n r hx with ⟨-, e⟩ | hx
    · rw [e]
    · have := h.below n r hx; omega
  · intro n r r' hx hx'
    rcases hold _ _ hx' with ⟨e, e'⟩ | hx'
    · rcases hold n r hx with ⟨e2, -⟩ | hx
      · omega
      · rw [e', List.drop_append_of_le_length (by omega), ← hb, List.drop_length, List.nil_append]
        exact h.head n r hx (by omega)
    · have := h.below _ _ hx'
      rcases hold n r hx with ⟨e2, -⟩ | hx
      · omega
      · exact h.link n r r' hx hx'

/-- A Ledger whose records are all held by another, with the same numbering and head, is chained as that one is. -/
theorem LedgerAfter.fewer {l m : Ledger} (hr : ∀ n r, holdsRecord m n r → holdsRecord l n r)
    (hm : ∀ n r, (n, r) ∈ m.mirror → n < m.mirrored) (hk : ∀ n r, (n, r) ∈ m.mirror → n < l.mirrored → (n, r) ∈ l.mirror)
    (hn : m.next = l.next) (hd : m.headDigest = l.headDigest) (h1 : l.mirrored ≤ m.mirrored) (h2 : Chained l → m.mirrored ≤ m.next) :
    LedgerAfter l m := fun h =>
  ⟨⟨fun n r r' x y => h.one n r r' (hr n r x) (hr n r' y), fun n r x => hn ▸ h.below n r (hr n r x), hm, h2 h, fun n r x e => hd ▸ h.head n r (hr n r x) (hn ▸ e),
    fun n r r' x y => h.link n r r' (hr n r x) (hr _ _ y)⟩, h1, hk⟩

/-! ### Fuses -/

theorem bit_testBit (v k : Nat) : bit v k = v.testBit k := by
  simp only [bit, Nat.testBit_eq_decide_div_mod_eq]
  rfl

theorem getD_setAt {β : Type} (l : List β) (i j : Nat) (v d : β) :
    (setAt l i v).getD j d = if i = j ∧ j < l.length then v else l.getD j d := by
  induction l generalizing i j with
  | nil => simp [setAt]
  | cons x l ih =>
    cases i with
    | zero => cases j <;> simp [setAt]
    | succ i =>
      cases j with
      | zero => simp [setAt]
      | succ j => simpa [setAt] using ih i j

/-- Adding a power of two whose bit is clear changes no other bit. -/
theorem testBit_add_two_pow {v m k : Nat} (hb : v.testBit m = false) (h : k ≠ m) : (v + 2 ^ m).testBit k = v.testBit k := by
  by_cases e : k < m
  · rw [Nat.add_comm]; exact Nat.testBit_two_pow_add_gt e v
  · obtain ⟨d, rfl⟩ : ∃ d, k = m + 1 + d := ⟨k - m - 1, by omega⟩
    have hq : v / 2 ^ m % 2 = 0 := by
      rw [Nat.testBit_eq_decide_div_mod_eq] at hb
      have := of_decide_eq_false hb
      omega
    have key : ∀ x : Nat, x / 2 ^ (m + 1 + d) = x / 2 ^ m / 2 / 2 ^ d := by
      intro x
      rw [Nat.div_div_eq_div_mul, Nat.div_div_eq_div_mul, Nat.pow_add, Nat.pow_add, Nat.pow_one, Nat.mul_assoc]
    rw [Nat.testBit_eq_decide_div_mod_eq, Nat.testBit_eq_decide_div_mod_eq, key, key, Nat.add_div_right _ (Nat.two_pow_pos m),
      show (v / 2 ^ m + 1) / 2 = v / 2 ^ m / 2 by omega]

/-- A mark burnt leaves every other mark set. -/
theorem burn_marked (l : LifeCycle) (r mark : Nat) (row k : Nat) (h : marked l row k) :
    marked { l with rows := setAt l.rows r (if bit (l.rows.getD r 0) mark then l.rows.getD r 0 else l.rows.getD r 0 + 2 ^ mark) } row k := by
  unfold marked at *
  simp only [getD_setAt]
  split
  · rename_i e
    obtain ⟨rfl, -⟩ := e
    split
    · exact h
    · rename_i hb
      rw [bit_testBit] at h ⊢
      rw [bit_testBit] at hb
      have hb' : (l.rows.getD r 0).testBit mark = false := by simpa using hb
      by_cases e : k = mark
      · subst e; rw [hb'] at h; cases h
      · rw [testBit_add_two_pow hb' e]
        exact h
  · exact h

end Sys2Proof.Laws
end

