-- ==== Sys2Proof/Laws/FollowsMemory.lean ====
section
/-! SUPPORT. What follows a state keeps its promises: one lemma per operation, for the shared operations, memory, packets, faults, tensors, tiers, flags, spans, operations that arrive, and programs. -/

set_option linter.tactic.unusedName false

namespace Sys2Proof.Laws

open Sys2Proof.Machine

theorem emit_follows {z : State} (o : Out) {s : State} (hs : Follows z s) : Follows z (emit o s) := by
  unfold emit
  rw [mk_change]
  exact hs.make (Nat.le_refl _) (List.prefix_append _ _) (Nat.le_refl _) (Nat.le_refl _) id id (.refl _) (.refl _)

theorem freshBytes_follows {z : State} (n : Nat) {s : State} (hs : Follows z s) : Follows z (freshBytes n s).2 := by
  unfold freshBytes
  rw [mk_change]
  exact hs.make (Nat.le_succ _) (List.prefix_refl _) (Nat.le_refl _) (Nat.le_refl _) id id (.refl _) (.refl _)

theorem freshNat_follows {z : State} {s : State} (hs : Follows z s) : Follows z (freshNat s).2 := by
  unfold freshNat
  rw [mk_change]
  exact hs.make (Nat.le_succ _) (List.prefix_refl _) (Nat.le_refl _) (Nat.le_refl _) id id (.refl _) (.refl _)

theorem modJob_follows {z : State} (j : Nat) (f : Job → Job) {s : State} (hs : Follows z s) :
    Follows z (modJob j f s) := by
  unfold modJob
  repeat' (first
    | with_reducible assumption
    | rw [mk_change]
    | (with_reducible refine Follows.keep ?_ ?_ ?_ ?_; rotate_left; with_reducible rfl; with_reducible rfl; with_reducible rfl))

theorem modNum_follows {z : State} (j : Nat) (f : NumState → NumState) {s : State} (hs : Follows z s) :
    Follows z (modNum j f s) := by
  unfold modNum
  repeat' (first
    | with_reducible assumption
    | with_reducible apply modJob_follows)

theorem modSub_follows {z : State} (j : Nat) (k : Nat) (f : Sub → Sub) {s : State} (hs : Follows z s) :
    Follows z (modSub j k f s) := by
  unfold modSub
  repeat' (first
    | with_reducible assumption
    | with_reducible apply modJob_follows)

theorem ledger_follows {z : State} (kind action principal port ctx part : Nat) (before : Bool) (jobId : Nat) (detail : Bytes)
    {s : State} (hs : Follows z s) :
    Follows z (Sys2Proof.Machine.ledger kind action principal port ctx part before jobId detail s) := by
  unfold Sys2Proof.Machine.ledger
  rw [mk_change]
  exact hs.make (Nat.le_refl _) (List.prefix_refl _) (Nat.le_refl _) (Nat.le_refl _) id id
    (appendRecord_after _ _ (recordBody_length _ _ _ _ _ _ _ _ _ _)) (.refl _)

theorem ledgerSelf_follows {z : State} (kind : Nat) (action : Nat) (part : Nat) (before : Bool) (jobId : Nat) (detail : Bytes) {s : State} (hs : Follows z s) :
    Follows z (ledgerSelf kind action part before jobId detail s) := by
  unfold ledgerSelf
  repeat' (first
    | with_reducible assumption
    | with_reducible apply ledger_follows)

theorem alert_follows {z : State} (mask : Nat) {s : State} (hs : Follows z s) :
    Follows z (alert mask s) := by
  unfold alert
  repeat' (first
    | with_reducible assumption
    | rw [mk_change]
    | with_reducible apply Follows.foldl
    | with_reducible apply emit_follows
    | (with_reducible refine Follows.keep ?_ ?_ ?_ ?_; rotate_left; with_reducible rfl; with_reducible rfl; with_reducible rfl)
    | (intro _)
    | (extract_lets +onlyGivenNames x; have hx : Follows z x := ?_; clear_value x; rotate_left; unfold x)
    | (extract_lets +onlyGivenNames x; clear_value x)
    | with_reducible apply Follows.ite)

theorem modEth_follows {z : State} (n : Nat) (f : EthPort → EthPort) {s : State} (hs : Follows z s) :
    Follows z (modEth n f s) := by
  unfold modEth
  repeat' (first
    | with_reducible assumption
    | rw [mk_change]
    | (with_reducible refine Follows.keep ?_ ?_ ?_ ?_; rotate_left; with_reducible rfl; with_reducible rfl; with_reducible rfl))

theorem putOut_follows {z : State} (q : Nat) (o : Out) {s : State} (hs : Follows z s) :
    Follows z (putOut q o s) := by
  unfold putOut
  repeat' (first
    | with_reducible assumption
    | with_reducible apply emit_follows
    | with_reducible apply modEth_follows
    | (extract_lets +onlyGivenNames x; clear_value x)
    | with_reducible apply Follows.ite
    | split)

theorem sendCtx_follows {z : State} (ctx : Nat) (b : Bytes) {s : State} (hs : Follows z s) :
    Follows z (sendCtx ctx b s) := by
  unfold sendCtx
  repeat' (first
    | with_reducible assumption
    | rw [mk_change]
    | with_reducible apply putOut_follows
    | (with_reducible refine Follows.keep ?_ ?_ ?_ ?_; rotate_left; with_reducible rfl; with_reducible rfl; with_reducible rfl)
    | (extract_lets +onlyGivenNames x; clear_value x)
    | split)

theorem eventOn_follows {z : State} (ctx : Nat) (code : Nat) (jobId : Nat) (obj : Nat) (gen : Nat) (desc : Nat) (body : Bytes) {s : State} (hs : Follows z s) :
    Follows z (eventOn ctx code jobId obj gen desc body s) := by
  unfold eventOn
  repeat' (first
    | with_reducible assumption
    | with_reducible apply sendCtx_follows)

theorem eventAt_follows {z : State} (ctx : Nat) (code : Nat) (jobId : Nat) (desc : Nat) (body : Bytes) {s : State} (hs : Follows z s) :
    Follows z (eventAt ctx code jobId desc body s) := by
  unfold eventAt
  repeat' (first
    | with_reducible assumption
    | with_reducible apply eventOn_follows)

theorem event_follows {z : State} (ctx : Nat) (code : Nat) (jobId : Nat) (body : Bytes) {s : State} (hs : Follows z s) :
    Follows z (event ctx code jobId body s) := by
  unfold event
  repeat' (first
    | with_reducible assumption
    | with_reducible apply eventAt_follows)

theorem jobEvent_follows {z : State} (j : Nat) (code : Nat) (body : Bytes) {s : State} (hs : Follows z s) :
    Follows z (jobEvent j code body s) := by
  unfold jobEvent
  repeat' (first
    | with_reducible assumption
    | with_reducible apply event_follows
    | split)

theorem mgmtEvent_follows {z : State} (code : Nat) (body : Bytes) {s : State} (hs : Follows z s) :
    Follows z (mgmtEvent code body s) := by
  unfold mgmtEvent
  repeat' (first
    | with_reducible assumption
    | with_reducible apply Follows.foldl
    | with_reducible apply event_follows
    | (intro _))

theorem modObj_follows {z : State} (i : Nat) (f : Obj → Obj) {s : State} (hs : Follows z s) :
    Follows z (modObj i f s) := by
  unfold modObj
  repeat' (first
    | with_reducible assumption
    | rw [mk_change]
    | (with_reducible refine Follows.keep ?_ ?_ ?_ ?_; rotate_left; with_reducible rfl; with_reducible rfl; with_reducible rfl))

theorem fenceEvent_follows {z : State} (j : Nat) (code : Nat) (i : Nat) (body : Bytes) {s : State} (hs : Follows z s) :
    Follows z (fenceEvent j code i body s) := by
  unfold fenceEvent
  repeat' (first
    | with_reducible assumption
    | with_reducible apply eventOn_follows
    | split)

theorem putObject_follows {z : State} (i : Nat) (o : Obj) {s : State} (hs : Follows z s) :
    Follows z (putObject i o s) := by
  unfold putObject
  repeat' (first
    | with_reducible assumption
    | rw [mk_change]
    | (with_reducible refine Follows.keep ?_ ?_ ?_ ?_; rotate_left; with_reducible rfl; with_reducible rfl; with_reducible rfl))

theorem freeObject_follows {z : State} (i : Nat) {s : State} (hs : Follows z s) :
    Follows z (freeObject i s) := by
  unfold freeObject
  repeat' (first
    | with_reducible assumption
    | rw [mk_change]
    | (with_reducible refine Follows.keep ?_ ?_ ?_ ?_; rotate_left; with_reducible rfl; with_reducible rfl; with_reducible rfl))

theorem touchFence_follows {z : State} (i : Nat) {s : State} (hs : Follows z s) :
    Follows z (touchFence i s) := by
  unfold touchFence
  repeat' (first
    | with_reducible assumption
    | rw [mk_change]
    | (with_reducible refine Follows.keep ?_ ?_ ?_ ?_; rotate_left; with_reducible rfl; with_reducible rfl; with_reducible rfl))

theorem applySignal_follows {z : State} (i : Nat) (v : Nat) {s : State} (hs : Follows z s) :
    Follows z (applySignal i v s) := by
  unfold applySignal
  repeat' (first
    | with_reducible assumption
    | with_reducible apply touchFence_follows
    | with_reducible apply modObj_follows
    | with_reducible apply fenceEvent_follows
    | (extract_lets +onlyGivenNames x; have hx : Follows z x := ?_; clear_value x; rotate_left; unfold x)
    | (extract_lets +onlyGivenNames x; clear_value x)
    | with_reducible apply Follows.ite
    | split)

theorem signalOf_follows {z : State} (m : Msg) {s : State} (hs : Follows z s) :
    Follows z (signalOf m s) := by
  unfold signalOf
  repeat' (first
    | with_reducible assumption
    | with_reducible apply applySignal_follows
    | (extract_lets +onlyGivenNames x; clear_value x)
    | (extract_lets +onlyGivenNames x)
    | with_reducible apply Follows.ite
    | split)

theorem deliver_follows {z : State} (m : Msg) (status : Nat) (a : Answer) {s : State} (hs : Follows z s) :
    Follows z (deliver m status a s) := by
  unfold deliver
  repeat' (first
    | with_reducible assumption
    | rw [mk_change]
    | with_reducible apply sendCtx_follows
    | (with_reducible refine Follows.keep ?_ ?_ ?_ ?_; rotate_left; with_reducible rfl; with_reducible rfl; with_reducible rfl)
    | (extract_lets +onlyGivenNames x; clear_value x)
    | (extract_lets +onlyGivenNames x)
    | with_reducible apply Follows.ite
    | split)

theorem completeWith_follows {z : State} (m : Msg) (status : Nat) (a : Answer) {s : State} (hs : Follows z s) :
    Follows z (completeWith m status a s) := by
  unfold completeWith
  repeat' (first
    | with_reducible assumption
    | with_reducible apply signalOf_follows
    | with_reducible apply deliver_follows)

theorem complete_follows {z : State} (m : Msg) (status : Nat) {s : State} (hs : Follows z s) :
    Follows z (complete m status s) := by
  unfold complete
  repeat' (first
    | with_reducible assumption
    | with_reducible apply completeWith_follows)

theorem completeResult_follows {z : State} (m : Msg) (status : Nat) (result : Bytes) {s : State} (hs : Follows z s) :
    Follows z (completeResult m status result s) := by
  unfold completeResult
  repeat' (first
    | with_reducible assumption
    | with_reducible apply completeWith_follows)

theorem keepRunning_follows {z : State} (m : Msg) (k : RunKind) {s : State} (hs : Follows z s) :
    Follows z (keepRunning m k s) := by
  unfold keepRunning
  repeat' (first
    | with_reducible assumption
    | rw [mk_change]
    | (with_reducible refine Follows.keep ?_ ?_ ?_ ?_; rotate_left; with_reducible rfl; with_reducible rfl; with_reducible rfl))

theorem takeRunning_follows {z : State} (k : RunKind) {s : State} (hs : Follows z s) :
    Follows z (takeRunning k s).2 := by
  unfold takeRunning
  repeat' (first
    | with_reducible assumption
    | rw [mk_change]
    | (with_reducible refine Follows.keep ?_ ?_ ?_ ?_; rotate_left; with_reducible rfl; with_reducible rfl; with_reducible rfl)
    | split)

theorem finish_follows {z : State} (k : RunKind) (status : Nat) (a : Answer) {s : State} (hs : Follows z s) :
    Follows z (finish k status a s) := by
  unfold finish
  repeat' (first
    | with_reducible assumption
    | with_reducible apply takeRunning_follows
    | with_reducible apply completeWith_follows
    | (extract_lets +onlyGivenNames x)
    | split
    | (refine Follows.of_snd (by with_reducible assumption) ?_))

theorem newTicket_follows {z : State} {s : State} (hs : Follows z s) : Follows z (newTicket s).2 := by
  unfold newTicket
  rw [mk_change]
  exact hs.make (Nat.le_refl _) (List.prefix_refl _) (Nat.le_refl _) (Nat.le_succ _) id id (.refl _) (.refl _)

theorem popInbox_follows {z : State} (ctx : Nat) {s : State} (hs : Follows z s) :
    Follows z (popInbox ctx s) := by
  unfold popInbox
  repeat' (first
    | with_reducible assumption
    | rw [mk_change]
    | (with_reducible refine Follows.keep ?_ ?_ ?_ ?_; rotate_left; with_reducible rfl; with_reducible rfl; with_reducible rfl))

theorem withMessage_follows {z : State} (ctx : Nat) (typ : Nat) (body : Msg → State → State) {s : State} (hbody : ∀ y0 y1, Follows z y1 → Follows z (body y0 y1)) (hs : Follows z s) :
    Follows z (withMessage ctx typ body s) := by
  unfold withMessage
  repeat' (first
    | with_reducible assumption
    | with_reducible apply hbody
    | with_reducible apply complete_follows
    | with_reducible apply popInbox_follows
    | (extract_lets +onlyGivenNames x; clear_value x)
    | (extract_lets +onlyGivenNames x)
    | with_reducible apply Follows.ite
    | split)

theorem fromSideband_follows {z : State} (b : Bytes) (typ : Nat) (body : Msg → State → State) {s : State} (hbody : ∀ y0 y1, Follows z y1 → Follows z (body y0 y1)) (hs : Follows z s) :
    Follows z (fromSideband b typ body s) := by
  unfold fromSideband
  repeat' (first
    | with_reducible assumption
    | rw [mk_change]
    | with_reducible apply hbody
    | with_reducible apply complete_follows
    | (with_reducible refine Follows.keep ?_ ?_ ?_ ?_; rotate_left; with_reducible rfl; with_reducible rfl; with_reducible rfl)
    | (extract_lets +onlyGivenNames x; have hx : Follows z x := ?_; clear_value x; rotate_left; unfold x)
    | (extract_lets +onlyGivenNames x; clear_value x)
    | (extract_lets +onlyGivenNames x)
    | with_reducible apply Follows.ite)

theorem withMsgRef_follows {z : State} (src : MsgRef) (typ : Nat) (body : Msg → State → State) {s : State} (hbody : ∀ y0 y1, Follows z y1 → Follows z (body y0 y1)) (hs : Follows z s) :
    Follows z (withMsgRef src typ body s) := by
  unfold withMsgRef
  repeat' (first
    | with_reducible assumption
    | with_reducible apply withMessage_follows
    | with_reducible apply fromSideband_follows
    | split)

theorem ledgerFor_follows {z : State} (m : Msg) (kind : Nat) (action : Nat) (part : Nat) (before : Bool) (jobId : Nat) (detail : Bytes) {s : State} (hs : Follows z s) :
    Follows z (ledgerFor m kind action part before jobId detail s) := by
  unfold ledgerFor
  repeat' (first
    | with_reducible assumption
    | with_reducible apply ledger_follows)

theorem deferChange_follows {z : State} (m : Msg) (c : Change) {s : State} (hs : Follows z s) :
    Follows z (deferChange m c s) := by
  unfold deferChange
  repeat' (first
    | with_reducible assumption
    | rw [mk_change]
    | with_reducible apply newTicket_follows
    | with_reducible apply keepRunning_follows
    | (with_reducible refine Follows.keep ?_ ?_ ?_ ?_; rotate_left; with_reducible rfl; with_reducible rfl; with_reducible rfl))

theorem modDir_follows {z : State} (j : Nat) (page : Nat) (f : DirE → DirE) {s : State} (hs : Follows z s) :
    Follows z (modDir j page f s) := by
  unfold modDir
  repeat' (first
    | with_reducible assumption
    | rw [mk_change]
    | (with_reducible refine Follows.keep ?_ ?_ ?_ ?_; rotate_left; with_reducible rfl; with_reducible rfl; with_reducible rfl))

theorem modPchan_follows {z : State} (p : Nat) (f : Pchan → Pchan) {s : State} (hs : Follows z s) :
    Follows z (modPchan p f s) := by
  unfold modPchan
  repeat' (first
    | with_reducible assumption
    | rw [mk_change]
    | (with_reducible refine Follows.keep ?_ ?_ ?_ ?_; rotate_left; with_reducible rfl; with_reducible rfl; with_reducible rfl))

theorem freeTagOf_follows {z : State} (p : Nat) {s : State} (hs : Follows z s) :
    Follows z (freeTagOf p s) := by
  unfold freeTagOf
  repeat' (first
    | with_reducible assumption
    | with_reducible apply modPchan_follows)

theorem spillUnit_follows {z : State} (l : Nat) {s : State} (hs : Follows z s) :
    Follows z (spillUnit l s).1 := by
  unfold spillUnit
  repeat' (first
    | with_reducible assumption
    | with_reducible apply modJob_follows
    | (extract_lets +onlyGivenNames x)
    | with_reducible apply Follows.ite_fst
    | split)

theorem holdRequest_follows {z : State} (x : Blocked) {s : State} (hs : Follows z s) :
    Follows z (holdRequest x s) := by
  unfold holdRequest
  repeat' (first
    | with_reducible assumption
    | rw [mk_change]
    | with_reducible apply modPchan_follows
    | (with_reducible refine Follows.keep ?_ ?_ ?_ ?_; rotate_left; with_reducible rfl; with_reducible rfl; with_reducible rfl)
    | (extract_lets +onlyGivenNames x)
    | with_reducible apply Follows.ite)

theorem answerVale_follows {z : State} (req : Option ValeReq) (status : Nat) (data : Bytes) {s : State} (hs : Follows z s) :
    Follows z (answerVale req status data s) := by
  unfold answerVale
  repeat' (first
    | with_reducible assumption
    | rw [mk_change]
    | (with_reducible refine Follows.keep ?_ ?_ ?_ ?_; rotate_left; with_reducible rfl; with_reducible rfl; with_reducible rfl)
    | (extract_lets +onlyGivenNames x; have _ : Vale := x)
    | split)

theorem startStall_follows {z : State} (r : Nat) {s : State} (hs : Follows z s) :
    Follows z (startStall r s) := by
  unfold startStall
  repeat' (first
    | with_reducible assumption
    | with_reducible apply modJob_follows
    | split)

theorem headQueue_mem (r : Nat) (v : Vale) : (headQueue r v).mem = v.mem := by
  rfl

theorem joinQueue_mem (r : Nat) (v : Vale) : (joinQueue r v).mem = v.mem := by
  unfold joinQueue
  split <;> rfl

theorem performWrite_follows {z : State} (x : Blocked) {s : State} (hs : Follows z s) : Follows z (performWrite x s) := by
  unfold performWrite
  dsimp only
  split
  · refine answerVale_follows _ _ _ ?_
    rw [mk_change]
    exact hs.keep rfl rfl rfl
  · split
    · rw [mk_change]
      exact (holdRequest_follows _ hs).keep (headQueue_mem _ _) rfl rfl
    · split
      · exact holdRequest_follows _ (startStall_follows _ hs)
      · rename_i t e
        have ht : Follows z t := Follows.of_fst e (spillUnit_follows _ hs)
        refine answerVale_follows _ _ _ ?_
        rw [mk_change]
        refine ht.make (Nat.le_refl _) (List.prefix_refl _) (Nat.le_refl _) (Nat.le_refl _) (fun hw => ?_) id (.refl _) (.refl _)
        split
        · rw [joinQueue_mem]; exact maskedWrite_wf _ _ _ _ hw
        · exact maskedWrite_wf _ _ _ _ hw

theorem valeLineWrite_follows {z : State} (l : Nat) (mask : Nat) (data : Bytes) {s : State} (hs : Follows z s) :
    Follows z (valeLineWrite l mask data s) := by
  unfold valeLineWrite
  repeat' (first
    | with_reducible assumption
    | with_reducible apply holdRequest_follows
    | with_reducible apply performWrite_follows
    | with_reducible apply Follows.ite)

theorem valeWrite_follows {z : State} (x0 : Nat) (x1 : Nat) (x2 : Bytes) {x3 : State} (hx3 : Follows z x3) :
    Follows z (valeWrite x0 x1 x2 x3) := by
  induction x0 generalizing x1 x2 x3 with
  | zero =>
    unfold valeWrite
    repeat' (first
      | with_reducible assumption)
  | succ k ih =>
    unfold valeWrite
    try split
    all_goals (try injections)
    all_goals (try subst_vars)
    repeat' (first
      | with_reducible assumption
      | with_reducible apply ih
      | with_reducible apply valeLineWrite_follows)

theorem writeBack_follows {z : State} (x : CLine) {s : State} (hs : Follows z s) :
    Follows z (writeBack x s) := by
  unfold writeBack
  repeat' (first
    | with_reducible assumption
    | with_reducible apply valeLineWrite_follows
    | (extract_lets +onlyGivenNames x)
    | with_reducible apply Follows.ite
    | split)

theorem setWay_follows {z : State} (key : Nat) (x : Option CLine) {s : State} (hs : Follows z s) :
    Follows z (setWay key x s) := by
  unfold setWay
  repeat' (first
    | with_reducible assumption
    | rw [mk_change]
    | (with_reducible refine Follows.keep ?_ ?_ ?_ ?_; rotate_left; with_reducible rfl; with_reducible rfl; with_reducible rfl))

theorem touchWay_follows {z : State} (slice : Nat) (set : Nat) (way : Nat) {s : State} (hs : Follows z s) :
    Follows z (touchWay slice set way s) := by
  unfold touchWay
  repeat' (first
    | with_reducible assumption
    | rw [mk_change]
    | (with_reducible refine Follows.keep ?_ ?_ ?_ ?_; rotate_left; with_reducible rfl; with_reducible rfl; with_reducible rfl))

theorem allocWay_follows {z : State} (slice : Nat) (set : Nat) {s : State} (hs : Follows z s) :
    Follows z (allocWay slice set s).2 := by
  unfold allocWay
  repeat' (first
    | with_reducible assumption
    | with_reducible apply setWay_follows
    | with_reducible apply writeBack_follows
    | (extract_lets +onlyGivenNames x; clear_value x)
    | split)

theorem cacheLineWrite_follows {z : State} (j : Nat) (line : Nat) (mask : Nat) (data : Bytes) {s : State} (hs : Follows z s) :
    Follows z (cacheLineWrite j line mask data s) := by
  unfold cacheLineWrite
  repeat' (first
    | with_reducible assumption
    | with_reducible apply touchWay_follows
    | with_reducible apply setWay_follows
    | with_reducible apply allocWay_follows
    | (extract_lets +onlyGivenNames x; have hx : Follows z x.2 := ?_; clear_value x; rotate_left; unfold x)
    | (extract_lets +onlyGivenNames x; clear_value x)
    | split)

theorem markDirty_follows {z : State} (j : Nat) (off : Nat) {s : State} (hs : Follows z s) :
    Follows z (markDirty j off s) := by
  unfold markDirty
  repeat' (first
    | with_reducible assumption
    | with_reducible apply modDir_follows
    | with_reducible apply Follows.ite
    | split)

theorem pokeLines_follows {z : State} (x0 : Nat) (x1 : Nat) (x2 : Nat) (x3 : Bytes) {x4 : State} (hx4 : Follows z x4) :
    Follows z (pokeLines x0 x1 x2 x3 x4) := by
  induction x0 generalizing x1 x2 x3 x4 with
  | zero =>
    unfold pokeLines
    repeat' (first
      | with_reducible assumption)
  | succ k ih =>
    unfold pokeLines
    try split
    all_goals (try injections)
    all_goals (try subst_vars)
    repeat' (first
      | with_reducible assumption
      | with_reducible apply ih
      | with_reducible apply markDirty_follows
      | with_reducible apply cacheLineWrite_follows)

theorem poke_follows {z : State} (j : Nat) (off : Nat) (b : Bytes) {s : State} (hs : Follows z s) :
    Follows z (poke j off b s) := by
  unfold poke
  repeat' (first
    | with_reducible assumption
    | with_reducible apply pokeLines_follows)

theorem refreshLine_follows {z : State} (j : Nat) (line : Nat) (mask : Nat) (data : Bytes) {s : State} (hs : Follows z s) :
    Follows z (refreshLine j line mask data s) := by
  unfold refreshLine
  repeat' (first
    | with_reducible assumption
    | with_reducible apply setWay_follows
    | (extract_lets +onlyGivenNames x; clear_value x)
    | split)

theorem engineLines_follows {z : State} (x0 : Nat) (x1 : Nat) (x2 : Nat) (x3 : Bytes) {x4 : State} (hx4 : Follows z x4) :
    Follows z (engineLines x0 x1 x2 x3 x4) := by
  induction x0 generalizing x1 x2 x3 x4 with
  | zero =>
    unfold engineLines
    repeat' (first
      | with_reducible assumption)
  | succ k ih =>
    unfold engineLines
    try split
    all_goals (try injections)
    all_goals (try subst_vars)
    repeat' (first
      | with_reducible assumption
      | with_reducible apply ih
      | with_reducible apply refreshLine_follows
      | with_reducible apply valeLineWrite_follows
      | with_reducible apply markDirty_follows
      | (extract_lets +onlyGivenNames x)
      | split)

theorem engineWrite_follows {z : State} (j : Nat) (off : Nat) (b : Bytes) {s : State} (hs : Follows z s) :
    Follows z (engineWrite j off b s) := by
  unfold engineWrite
  repeat' (first
    | with_reducible assumption
    | with_reducible apply engineLines_follows)

theorem flushLines_follows {z : State} (keep : Bool) (p : CLine → Bool) {s : State} (hs : Follows z s) :
    Follows z (flushLines keep p s) := by
  unfold flushLines
  repeat' (first
    | with_reducible assumption
    | with_reducible apply Follows.foldl
    | with_reducible apply writeBack_follows
    | with_reducible apply setWay_follows
    | (intro _)
    | (extract_lets +onlyGivenNames x; have hx : Follows z x := ?_; clear_value x; rotate_left; unfold x)
    | (extract_lets +onlyGivenNames x; clear_value x)
    | with_reducible apply Follows.ite)

theorem modPort_follows {z : State} (n : Nat) (f : PassPort → PassPort) {s : State} (hs : Follows z s) :
    Follows z (modPort n f s) := by
  unfold modPort
  repeat' (first
    | with_reducible assumption
    | rw [mk_change]
    | (with_reducible refine Follows.keep ?_ ?_ ?_ ?_; rotate_left; with_reducible rfl; with_reducible rfl; with_reducible rfl))

theorem bumpPort_follows {z : State} (n : Nat) (i : Nat) {s : State} (hs : Follows z s) :
    Follows z (bumpPort n i s) := by
  unfold bumpPort
  repeat' (first
    | with_reducible assumption
    | with_reducible apply modPort_follows)

theorem wire_follows {z : State} (n : Nat) (vc : Nat) (b : Bytes) {s : State} (hs : Follows z s) :
    Follows z (wire n vc b s) := by
  unfold wire
  repeat' (first
    | with_reducible assumption
    | with_reducible apply emit_follows
    | with_reducible apply modPort_follows)

theorem freeBuffer_follows {z : State} (port : Nat) (vc : Nat) (units : Nat) {s : State} (hs : Follows z s) :
    Follows z (freeBuffer port vc units s) := by
  unfold freeBuffer
  repeat' (first
    | with_reducible assumption
    | with_reducible apply modPort_follows)

theorem leaveBuffer_follows {z : State} (origin : Option (Nat × Nat)) (b : Bytes) {s : State} (hs : Follows z s) :
    Follows z (leaveBuffer origin b s) := by
  unfold leaveBuffer
  repeat' (first
    | with_reducible assumption
    | with_reducible apply freeBuffer_follows
    | split)

theorem serve_follows {z : State} (x0 : Nat) (x1 : Nat) {x2 : State} (hx2 : Follows z x2) :
    Follows z (serve x0 x1 x2) := by
  induction x0 generalizing x1 x2 with
  | zero =>
    unfold serve
    repeat' (first
      | with_reducible assumption)
  | succ k ih =>
    unfold serve
    try split
    all_goals (try injections)
    all_goals (try subst_vars)
    repeat' (first
      | with_reducible assumption
      | with_reducible apply ih
      | with_reducible apply leaveBuffer_follows
      | with_reducible apply wire_follows
      | with_reducible apply modPort_follows
      | split)

theorem drainPort_follows {z : State} (n : Nat) {s : State} (hs : Follows z s) :
    Follows z (drainPort n s) := by
  unfold drainPort
  repeat' (first
    | with_reducible assumption
    | with_reducible apply serve_follows)

theorem egress_follows {z : State} (n : Nat) (vc : Nat) (origin : Option (Nat × Nat)) (b : Bytes) {s : State} (hs : Follows z s) :
    Follows z (egress n vc origin b s) := by
  unfold egress
  repeat' (first
    | with_reducible assumption
    | with_reducible apply drainPort_follows
    | with_reducible apply modPort_follows)

theorem originate_follows {z : State} (j : Nat) (p : Packet) {s : State} (hs : Follows z s) :
    Follows z (originate j p s).1 := by
  unfold originate
  repeat' (first
    | with_reducible assumption
    | with_reducible apply modJob_follows
    | with_reducible apply egress_follows
    | with_reducible apply emit_follows
    | (extract_lets +onlyGivenNames x; have hx : Follows z x := ?_; clear_value x; rotate_left; unfold x)
    | (extract_lets +onlyGivenNames x; clear_value x)
    | (extract_lets +onlyGivenNames x)
    | with_reducible apply Follows.ite_fst
    | split)

theorem controlAll_follows {z : State} (j : Nat) (payload : Bytes) {s : State} (hs : Follows z s) :
    Follows z (controlAll j payload s) := by
  unfold controlAll
  repeat' (first
    | with_reducible assumption
    | with_reducible apply Follows.foldl
    | with_reducible apply originate_follows
    | (intro _))

theorem toLead_follows {z : State} (j : Nat) (payload : Bytes) {s : State} (hs : Follows z s) :
    Follows z (toLead j payload s) := by
  unfold toLead
  repeat' (first
    | with_reducible assumption
    | with_reducible apply originate_follows
    | with_reducible apply Follows.ite
    | split)

theorem toMembers_follows {z : State} (j : Nat) (payload : Bytes) {s : State} (hs : Follows z s) :
    Follows z (toMembers j payload s) := by
  unfold toMembers
  repeat' (first
    | with_reducible assumption
    | with_reducible apply Follows.foldl
    | with_reducible apply originate_follows
    | (intro _)
    | split)

theorem endCapture_follows {z : State} (j : Nat) (cause : Nat) {s : State} (hs : Follows z s) :
    Follows z (endCapture j cause s) := by
  unfold endCapture
  repeat' (first
    | with_reducible assumption
    | with_reducible apply Follows.foldl
    | with_reducible apply modJob_follows
    | with_reducible apply completeResult_follows
    | (intro _)
    | (extract_lets +onlyGivenNames x; have hx : Follows z x := ?_; clear_value x; rotate_left; unfold x)
    | split)

theorem abandonCapture_follows {z : State} (j : Nat) (cause : Nat) {s : State} (hs : Follows z s) :
    Follows z (abandonCapture j cause s) := by
  unfold abandonCapture
  repeat' (first
    | with_reducible assumption
    | with_reducible apply endCapture_follows
    | with_reducible apply toMembers_follows
    | (extract_lets +onlyGivenNames x)
    | with_reducible apply Follows.ite
    | split)

theorem jobFault_follows {z : State} (j : Nat) (code : Nat) (desc : Nat) (o : Origin) {s : State} (hs : Follows z s) :
    Follows z (jobFault j code desc o s) := by
  unfold jobFault
  repeat' (first
    | with_reducible assumption
    | with_reducible apply modJob_follows
    | with_reducible apply eventAt_follows
    | with_reducible apply controlAll_follows
    | with_reducible apply abandonCapture_follows
    | (extract_lets +onlyGivenNames x; have hx : Follows z x := ?_; clear_value x; rotate_left; unfold x)
    | with_reducible apply Follows.ite
    | split)

theorem taskFault_follows {z : State} (t : TaskRef) (code : Nat) {s : State} (hs : Follows z s) :
    Follows z (taskFault t code s) := by
  unfold taskFault
  repeat' (first
    | with_reducible assumption
    | with_reducible apply jobFault_follows
    | split)

theorem verdictFault_follows {z : State} (t : TaskRef) {s : State} (hs : Follows z s) :
    Follows z (verdictFault t s) := by
  unfold verdictFault
  repeat' (first
    | with_reducible assumption
    | with_reducible apply jobFault_follows
    | split)

theorem mechFault_follows {z : State} (j : Nat) (code : Nat) {s : State} (hs : Follows z s) :
    Follows z (mechFault j code s) := by
  unfold mechFault
  repeat' (first
    | with_reducible assumption
    | with_reducible apply jobFault_follows)

theorem sendOrFault_follows {z : State} (j : Nat) (p : Packet) {s : State} (hs : Follows z s) :
    Follows z (sendOrFault j p s) := by
  unfold sendOrFault
  repeat' (first
    | with_reducible assumption
    | with_reducible apply originate_follows
    | with_reducible apply mechFault_follows
    | (extract_lets +onlyGivenNames x; have hx : Follows z x.1 := ?_; clear_value x; rotate_left; unfold x)
    | with_reducible apply Follows.ite)

theorem sendAll_follows {z : State} (j : Nat) (ps : List Packet) {s : State} (hs : Follows z s) :
    Follows z (sendAll j ps s) := by
  unfold sendAll
  repeat' (first
    | with_reducible assumption
    | with_reducible apply Follows.foldl
    | with_reducible apply sendOrFault_follows
    | (intro _))

theorem programFault_follows {z : State} (t : TaskRef) (code : Nat) {s : State} (hs : Follows z s) :
    Follows z (programFault t code s) := by
  unfold programFault
  repeat' (first
    | with_reducible assumption
    | with_reducible apply modSub_follows)

theorem countError_follows {z : State} (cls : Nat) (unit : Nat) {s : State} (hs : Follows z s) :
    Follows z (countError cls unit s) := by
  unfold countError
  repeat' (first
    | with_reducible assumption
    | rw [mk_change]
    | (with_reducible refine Follows.keep ?_ ?_ ?_ ?_; rotate_left; with_reducible rfl; with_reducible rfl; with_reducible rfl))

theorem logError_follows {z : State} (e : ErrRec) {s : State} (hs : Follows z s) :
    Follows z (logError e s).2 := by
  unfold logError
  repeat' (first
    | with_reducible assumption
    | rw [mk_change]
    | with_reducible apply countError_follows
    | (with_reducible refine Follows.keep ?_ ?_ ?_ ?_; rotate_left; with_reducible rfl; with_reducible rfl; with_reducible rfl)
    | (extract_lets +onlyGivenNames x; have hx : Follows z x := ?_; clear_value x; rotate_left; unfold x)
    | (extract_lets +onlyGivenNames x; clear_value x)
    | with_reducible apply Follows.ite_snd)

theorem integrityError_follows {z : State} (j : Nat) (line : Nat) (key : Nat) (counter : Nat) (access : Nat) (desc : Nat) (prog : Nat) {s : State} (hs : Follows z s) :
    Follows z (integrityError j line key counter access desc prog s) := by
  unfold integrityError
  repeat' (first
    | with_reducible assumption
    | with_reducible apply logError_follows
    | with_reducible apply event_follows
    | with_reducible apply jobFault_follows
    | split)

theorem lineFails_follows {z : State} (l : Nat) (access : Nat) (task : Option TaskRef) {s : State} (hs : Follows z s) :
    Follows z (lineFails l access task s) := by
  unfold lineFails
  repeat' (first
    | with_reducible assumption
    | with_reducible apply integrityError_follows
    | (extract_lets +onlyGivenNames x; clear_value x)
    | split)

theorem reportLines_follows {z : State} {s : State} (hs : Follows z s) :
    Follows z (reportLines s) := by
  unfold reportLines
  repeat' (first
    | with_reducible assumption
    | rw [mk_change]
    | with_reducible apply Follows.foldl
    | with_reducible apply lineFails_follows
    | (with_reducible refine Follows.keep ?_ ?_ ?_ ?_; rotate_left; with_reducible rfl; with_reducible rfl; with_reducible rfl)
    | (intro _))

theorem noteBad_follows {z : State} (access : Nat) (l : Option Nat) {s : State} (hs : Follows z s) :
    Follows z (noteBad access l s) := by
  unfold noteBad
  repeat' (first
    | with_reducible assumption
    | rw [mk_change]
    | (with_reducible refine Follows.keep ?_ ?_ ?_ ?_; rotate_left; with_reducible rfl; with_reducible rfl; with_reducible rfl)
    | (extract_lets +onlyGivenNames x; have _ : Vale := x)
    | split)

theorem modTensor_follows {z : State} (j : Nat) (i : Nat) (f : TensorE → TensorE) {s : State} (hs : Follows z s) :
    Follows z (modTensor j i f s) := by
  unfold modTensor
  repeat' (first
    | with_reducible assumption
    | with_reducible apply modJob_follows)

theorem orMask_follows {z : State} (j : Nat) (i : Nat) (mask : Nat) {s : State} (hs : Follows z s) :
    Follows z (orMask j i mask s) := by
  unfold orMask
  repeat' (first
    | with_reducible assumption
    | with_reducible apply modTensor_follows
    | split)

theorem applyStores_follows {z : State} (j : Nat) (st : Stores) {s : State} (hs : Follows z s) :
    Follows z (applyStores j st s) := by
  unfold applyStores
  repeat' (first
    | with_reducible assumption
    | with_reducible apply Follows.foldl
    | with_reducible apply poke_follows
    | (intro _))

theorem modTier_follows {z : State} (j : Nat) (f : Tier → Tier) {s : State} (hs : Follows z s) :
    Follows z (modTier j f s) := by
  unfold modTier
  repeat' (first
    | with_reducible assumption
    | with_reducible apply modJob_follows)

theorem modQp_follows {z : State} (q : Nat) (f : Qp → Qp) {s : State} (hs : Follows z s) :
    Follows z (modQp q f s) := by
  unfold modQp
  repeat' (first
    | with_reducible assumption
    | rw [mk_change]
    | (with_reducible refine Follows.keep ?_ ?_ ?_ ?_; rotate_left; with_reducible rfl; with_reducible rfl; with_reducible rfl))

theorem addFlight_follows {z : State} (q : Nat) (k : FlightKind) (segments : Nat) {s : State} (hs : Follows z s) :
    Follows z (addFlight q k segments s) := by
  unfold addFlight
  repeat' (first
    | with_reducible assumption
    | with_reducible apply modQp_follows)

theorem startRead_follows {z : State} (q : Nat) (k : FlightKind) (segments : Nat) (o : Out) {s : State} (hs : Follows z s) :
    Follows z (startRead q k segments o s) := by
  unfold startRead
  repeat' (first
    | with_reducible assumption
    | with_reducible apply addFlight_follows
    | with_reducible apply putOut_follows
    | with_reducible apply modQp_follows
    | with_reducible apply Follows.ite
    | split)

theorem nextReads_follows {z : State} {s : State} (q : Nat) (hs : Follows z s) :
    Follows z (nextReads s q) := by
  unfold nextReads
  repeat' (first
    | with_reducible assumption
    | with_reducible apply Follows.foldl
    | with_reducible apply addFlight_follows
    | with_reducible apply putOut_follows
    | with_reducible apply modQp_follows
    | (intro _)
    | split)

theorem dropFlight_follows {z : State} (k : FlightKind) {s : State} (hs : Follows z s) :
    Follows z (dropFlight k s) := by
  unfold dropFlight
  repeat' (first
    | with_reducible assumption
    | rw [mk_change]
    | with_reducible apply Follows.foldl
    | with_reducible apply nextReads_follows
    | (with_reducible refine Follows.keep ?_ ?_ ?_ ?_; rotate_left; with_reducible rfl; with_reducible rfl; with_reducible rfl)
    | (intro _))

theorem restPage_follows {z : State} (j : Nat) (p : Nat) (f : DirE → DirE) {s : State} (hs : Follows z s) :
    Follows z (restPage j p f s) := by
  unfold restPage
  repeat' (first
    | with_reducible assumption
    | with_reducible apply modTier_follows
    | with_reducible apply modDir_follows)

theorem evictLost_follows {z : State} (j : Nat) (p : Nat) {s : State} (hs : Follows z s) :
    Follows z (evictLost j p s) := by
  unfold evictLost
  repeat' (first
    | with_reducible assumption
    | with_reducible apply modDir_follows
    | with_reducible apply modTier_follows
    | with_reducible apply freshNat_follows
    | with_reducible apply freshBytes_follows
    | with_reducible apply jobEvent_follows
    | (extract_lets +onlyGivenNames x; have hx : Follows z x := ?_; clear_value x; rotate_left; unfold x)
    | split)

theorem fetchLost_follows {z : State} (j : Nat) (p : Nat) (f : Nat) (c : Nat) {s : State} (hs : Follows z s) :
    Follows z (fetchLost j p f c s) := by
  unfold fetchLost
  repeat' (first
    | with_reducible assumption
    | with_reducible apply modTier_follows
    | with_reducible apply jobFault_follows
    | with_reducible apply modDir_follows)

theorem startEvict_follows {z : State} (j : Nat) (p : Nat) {s : State} (hs : Follows z s) :
    Follows z (startEvict j p s) := by
  unfold startEvict
  repeat' (first
    | with_reducible assumption
    | rw [mk_change]
    | with_reducible apply flushLines_follows
    | with_reducible apply modTier_follows
    | with_reducible apply restPage_follows
    | with_reducible apply noteBad_follows
    | with_reducible apply modDir_follows
    | with_reducible apply evictLost_follows
    | with_reducible apply addFlight_follows
    | with_reducible apply putOut_follows
    | (with_reducible refine Follows.keep ?_ ?_ ?_ ?_; rotate_left; with_reducible rfl; with_reducible rfl; with_reducible rfl)
    | (extract_lets +onlyGivenNames x; have hx : Follows z x := ?_; clear_value x; rotate_left; unfold x)
    | (extract_lets +onlyGivenNames x; clear_value x)
    | (extract_lets +onlyGivenNames x)
    | with_reducible apply Follows.ite
    | split)

theorem claimFrame_follows {z : State} (j : Nat) (p : Nat) (f : Nat) {s : State} (hs : Follows z s) :
    Follows z (claimFrame j p f s) := by
  unfold claimFrame
  repeat' (first
    | with_reducible assumption
    | with_reducible apply Follows.foldl
    | with_reducible apply modTier_follows
    | with_reducible apply valeLineWrite_follows
    | with_reducible apply modDir_follows
    | with_reducible apply fetchLost_follows
    | with_reducible apply startRead_follows
    | (intro _)
    | (extract_lets +onlyGivenNames x; have hx : Follows z x := ?_; clear_value x; rotate_left; unfold x)
    | (extract_lets +onlyGivenNames x; clear_value x)
    | (extract_lets +onlyGivenNames x)
    | with_reducible apply Follows.ite
    | split)

theorem startFetch_follows {z : State} (j : Nat) (p : Nat) {s : State} (hs : Follows z s) :
    Follows z (startFetch j p s) := by
  unfold startFetch
  repeat' (first
    | with_reducible assumption
    | with_reducible apply claimFrame_follows
    | with_reducible apply modTier_follows
    | with_reducible apply startEvict_follows
    | (extract_lets +onlyGivenNames x; have hx : Follows z x := ?_; clear_value x; rotate_left; unfold x)
    | with_reducible apply Follows.ite
    | split)

theorem requestPage_follows {z : State} (j : Nat) (p : Nat) {s : State} (hs : Follows z s) :
    Follows z (requestPage j p s) := by
  unfold requestPage
  repeat' (first
    | with_reducible assumption
    | with_reducible apply modTier_follows
    | with_reducible apply startFetch_follows
    | with_reducible apply Follows.ite
    | split)

theorem bringPages_follows {z : State} (j : Nat) (ps : List Nat) {s : State} (hs : Follows z s) :
    Follows z (bringPages j ps s).1 := by
  unfold bringPages
  repeat' (first
    | with_reducible assumption
    | with_reducible apply Follows.foldl
    | with_reducible apply requestPage_follows
    | (intro _)
    | (extract_lets +onlyGivenNames x)
    | with_reducible apply Follows.ite)

theorem foldPage_follows {z : State} (j : Nat) (bp : Nat) {s : State} (hs : Follows z s) :
    Follows z (foldPage j bp s) := by
  unfold foldPage
  repeat' (first
    | with_reducible assumption
    | with_reducible apply flushLines_follows
    | with_reducible apply noteBad_follows
    | with_reducible apply modDir_follows
    | with_reducible apply valeWrite_follows
    | with_reducible apply modTier_follows
    | (extract_lets +onlyGivenNames x; have hx : Follows z x := ?_; clear_value x; rotate_left; unfold x)
    | (extract_lets +onlyGivenNames x; clear_value x)
    | (extract_lets +onlyGivenNames x)
    | with_reducible apply Follows.ite
    | split)

theorem freeBasin_follows {z : State} (j : Nat) (p : Nat) {s : State} (hs : Follows z s) :
    Follows z (freeBasin j p s) := by
  unfold freeBasin
  repeat' (first
    | with_reducible assumption
    | rw [mk_change]
    | with_reducible apply modTier_follows
    | with_reducible apply modDir_follows
    | unfold freeBasin.flushDrop
    | (with_reducible refine Follows.keep ?_ ?_ ?_ ?_; rotate_left; with_reducible rfl; with_reducible rfl; with_reducible rfl))

theorem allocBasin_follows {z : State} (j : Nat) (p : Nat) {s : State} (hs : Follows z s) :
    Follows z (allocBasin j p s).1 := by
  unfold allocBasin
  repeat' (first
    | with_reducible assumption
    | with_reducible apply Follows.foldl
    | with_reducible apply foldPage_follows
    | with_reducible apply modTier_follows
    | with_reducible apply valeLineWrite_follows
    | with_reducible apply modDir_follows
    | with_reducible apply requestPage_follows
    | (intro _)
    | (extract_lets +onlyGivenNames x; have hx : Follows z x := ?_; clear_value x; rotate_left; unfold x)
    | (extract_lets +onlyGivenNames x; clear_value x)
    | (extract_lets +onlyGivenNames x)
    | with_reducible apply Follows.ite
    | split)

theorem setPins_follows {z : State} (j : Nat) (ps : List Nat) {s : State} (hs : Follows z s) :
    Follows z (setPins j ps s) := by
  unfold setPins
  repeat' (first
    | with_reducible assumption
    | with_reducible apply Follows.foldl
    | with_reducible apply modDir_follows
    | (intro _)
    | split)

theorem unpinParameter_follows {z : State} (j : Nat) (x : Nat × Nat) {s : State} (hs : Follows z s) :
    Follows z (unpinParameter j x s) := by
  unfold unpinParameter
  repeat' (first
    | with_reducible assumption
    | with_reducible apply setPins_follows
    | with_reducible apply modTier_follows)

theorem gradientWrite_follows {z : State} (j : Nat) (p : Nat) {s : State} (hs : Follows z s) :
    Follows z (gradientWrite j p s).1 := by
  unfold gradientWrite
  repeat' (first
    | with_reducible assumption
    | with_reducible apply Follows.foldl
    | with_reducible apply requestPage_follows
    | with_reducible apply allocBasin_follows
    | with_reducible apply modTier_follows
    | with_reducible apply modDir_follows
    | (intro _)
    | (extract_lets +onlyGivenNames x; have hx : Follows z x := ?_; clear_value x; rotate_left; unfold x)
    | (extract_lets +onlyGivenNames x; have hx : Follows z x.1 := ?_; clear_value x; rotate_left; unfold x)
    | (extract_lets +onlyGivenNames x; clear_value x)
    | (extract_lets +onlyGivenNames x)
    | with_reducible apply Follows.ite_fst
    | split)

theorem bringForWrite_follows {z : State} (j : Nat) (ps : List Nat) {s : State} (hs : Follows z s) :
    Follows z (bringForWrite j ps s).1 := by
  unfold bringForWrite
  repeat' (first
    | with_reducible assumption
    | with_reducible apply Follows.foldl_fst
    | with_reducible apply gradientWrite_follows
    | with_reducible apply requestPage_follows
    | (intro _)
    | (extract_lets +onlyGivenNames x; have hx : Follows z x.1 := ?_; clear_value x; rotate_left; unfold x)
    | (extract_lets +onlyGivenNames x)
    | with_reducible apply Follows.ite
    | with_reducible apply Follows.ite_fst)

theorem unpinAll_follows {z : State} (j : Nat) {s : State} (hs : Follows z s) :
    Follows z (unpinAll j s) := by
  unfold unpinAll
  repeat' (first
    | with_reducible assumption
    | with_reducible apply Follows.foldl
    | with_reducible apply modDir_follows
    | with_reducible apply modTier_follows
    | (intro _))

theorem coreAt_wf {s : State} (h : coresWf s.cores) (c : Nat) : (coreAt s c).tile.wf = true := by
  unfold coreAt tgetD
  cases e : tget s.cores c with
  | none => rfl
  | some k => exact h _ (mem_of_tget e)

theorem modCore_at_follows {z : State} (c : Nat) (f : CoreSt → CoreSt) {s : State} (hs : Follows z s)
    (hf : coresWf s.cores → (f (coreAt s c)).tile.wf = true) : Follows z (modCore c f s) := by
  unfold modCore
  rw [mk_change]
  refine hs.make (Nat.le_refl _) (List.prefix_refl _) (Nat.le_refl _) (Nat.le_refl _) id (fun h x hx => ?_) (.refl _) (.refl _)
  rcases mem_tsetD hx with e | hx
  · subst e
    exact hf h
  · exact h x hx

theorem modCore_follows {z : State} (c : Nat) (f : CoreSt → CoreSt) {s : State} (hs : Follows z s)
    (hf : ∀ k, k.tile.wf = true → (f k).tile.wf = true) : Follows z (modCore c f s) :=
  modCore_at_follows c f hs fun h => hf _ (coreAt_wf h c)

theorem raiseFlags_follows {z : State} (gap : Bool) (c : Nat) (f : NumFlags) {s : State} (hs : Follows z s) :
    Follows z (raiseFlags gap c f s) := by
  unfold raiseFlags
  repeat' (first
    | with_reducible assumption
    | with_reducible apply modCore_follows
    | (intro _)
    | (extract_lets +onlyGivenNames x)
    | with_reducible apply Follows.ite
    | split)

theorem clearFlags_follows {z : State} (j v : Nat) {s : State} (hs : Follows z s) : Follows z (clearFlags j v s) := by
  unfold clearFlags
  rw [mk_change]
  refine hs.make (Nat.le_refl _) (List.prefix_refl _) (Nat.le_refl _) (Nat.le_refl _) id (fun h => ?_) (.refl _) (.refl _)
  refine coresWf_map h (fun x hx => ?_)
  split
  · dsimp only
    split <;> exact hx
  · exact hx

theorem clearPartitionFlags_follows {z : State} (p : PartCfg) {s : State} (hs : Follows z s) : Follows z (clearPartitionFlags p s) := by
  unfold clearPartitionFlags
  rw [mk_change]
  refine hs.make (Nat.le_refl _) (List.prefix_refl _) (Nat.le_refl _) (Nat.le_refl _) id (fun h => ?_) (.refl _) (.refl _)
  refine coresWf_map h (fun x hx => ?_)
  split <;> exact hx

theorem setOverflow_follows {z : State} (j : Nat) (bitsSet : Nat) {s : State} (hs : Follows z s) :
    Follows z (setOverflow j bitsSet s) := by
  unfold setOverflow
  repeat' (first
    | with_reducible assumption
    | with_reducible apply modNum_follows)

theorem numericEvent_follows {z : State} (j : Nat) (r : Bytes) {s : State} (hs : Follows z s) :
    Follows z (numericEvent j r s) := by
  unfold numericEvent
  repeat' (first
    | with_reducible assumption
    | with_reducible apply modNum_follows
    | with_reducible apply jobEvent_follows)

theorem jobNumeric_follows {z : State} (j : Nat) (typ : Nat) {s : State} (hs : Follows z s) :
    Follows z (jobNumeric j typ s) := by
  unfold jobNumeric
  repeat' (first
    | with_reducible assumption
    | with_reducible apply numericEvent_follows)

theorem numericFault_follows {z : State} (j : Nat) (r : Bytes) {s : State} (hs : Follows z s) :
    Follows z (numericFault j r s) := by
  unfold numericFault
  repeat' (first
    | with_reducible assumption
    | with_reducible apply modJob_follows
    | with_reducible apply numericEvent_follows)

theorem modSpan_follows {z : State} (j : Nat) (k : Nat) (pos : Nat) (f : SpanSt → SpanSt) {s : State} (hs : Follows z s) :
    Follows z (modSpan j k pos f s) := by
  unfold modSpan
  repeat' (first
    | with_reducible assumption
    | with_reducible apply modSub_follows)

theorem beginSpan_follows {z : State} (j : Nat) (k : Nat) (pos : Nat) {s : State} (hs : Follows z s) :
    Follows z (beginSpan j k pos s) := by
  unfold beginSpan
  repeat' (first
    | with_reducible assumption
    | with_reducible apply modSpan_follows
    | (extract_lets +onlyGivenNames x; clear_value x)
    | with_reducible apply Follows.ite
    | split)

theorem raiseScale_follows {z : State} (j : Nat) (tensor : Nat) (a : Rat) {s : State} (hs : Follows z s) :
    Follows z (raiseScale j tensor a s).1 := by
  unfold raiseScale
  repeat' (first
    | with_reducible assumption
    | with_reducible apply modJob_follows
    | (extract_lets +onlyGivenNames x; clear_value x)
    | (extract_lets +onlyGivenNames x)
    | with_reducible apply Follows.ite_fst
    | split)

theorem ladder_follows {z : State} (j : Nat) (k : Nat) (pos : Nat) {s : State} (hs : Follows z s) :
    Follows z (ladder j k pos s) := by
  unfold ladder
  repeat' (first
    | with_reducible assumption
    | with_reducible apply Follows.foldl_fst
    | with_reducible apply numericFault_follows
    | with_reducible apply raiseScale_follows
    | with_reducible apply numericEvent_follows
    | with_reducible apply modSub_follows
    | with_reducible apply modNum_follows
    | (intro _)
    | (extract_lets +onlyGivenNames x; have hx : Follows z x := ?_; clear_value x; rotate_left; unfold x)
    | (extract_lets +onlyGivenNames x; have hx : Follows z x.1 := ?_; clear_value x; rotate_left; unfold x)
    | (extract_lets +onlyGivenNames x; clear_value x)
    | (extract_lets +onlyGivenNames x)
    | with_reducible apply Follows.ite
    | split)

theorem enterPromotion_follows {z : State} (j : Nat) (k : Nat) (pos : Nat) {s : State} (hs : Follows z s) :
    Follows z (enterPromotion j k pos s) := by
  unfold enterPromotion
  repeat' (first
    | with_reducible assumption
    | with_reducible apply modNum_follows
    | with_reducible apply numericEvent_follows
    | (extract_lets +onlyGivenNames x; have hx : Follows z x := ?_; clear_value x; rotate_left; unfold x)
    | (extract_lets +onlyGivenNames x; clear_value x)
    | (extract_lets +onlyGivenNames x)
    | with_reducible apply Follows.ite
    | split)

theorem occupySlot_follows {z : State} (j : Nat) (slot : Nat) (stride : Nat) {s : State} (hs : Follows z s) :
    Follows z (occupySlot j slot stride s) := by
  unfold occupySlot
  repeat' (first
    | with_reducible assumption
    | with_reducible apply modNum_follows)

theorem freeSlot_follows {z : State} (j : Nat) (slot : Nat) {s : State} (hs : Follows z s) :
    Follows z (freeSlot j slot s) := by
  unfold freeSlot
  repeat' (first
    | with_reducible assumption
    | with_reducible apply modNum_follows)

theorem fwActivateRun_follows {z : State} (m : Msg) (slot : Nat) {s : State} (hs : Follows z s) :
    Follows z (fwActivateRun m slot s) := by
  unfold fwActivateRun
  repeat' (first
    | with_reducible assumption
    | with_reducible apply hf
    | with_reducible apply ledgerFor_follows
    | with_reducible apply complete_follows
    | with_reducible apply completeResult_follows
    | with_reducible apply deferChange_follows
    | (intro _)
    | (extract_lets +onlyGivenNames x; have hf : ∀ c t, Follows z t → Follows z (x c t) := ?_; clear_value x; rotate_left; unfold x)
    | (extract_lets +onlyGivenNames x; clear_value x)
    | (extract_lets +onlyGivenNames x)
    | with_reducible apply Follows.ite
    | split)

theorem fwActivateBody_follows {z : State} (m : Msg) {s : State} (hs : Follows z s) :
    Follows z (fwActivateBody m s) := by
  unfold fwActivateBody
  repeat' (first
    | with_reducible assumption
    | with_reducible apply complete_follows
    | with_reducible apply keepRunning_follows
    | with_reducible apply fwActivateRun_follows
    | (extract_lets +onlyGivenNames x; clear_value x)
    | (extract_lets +onlyGivenNames x)
    | with_reducible apply Follows.ite)

theorem correctableAt_follows {z : State} (unit : Nat) (l : Nat) {s : State} (hs : Follows z s) :
    Follows z (correctableAt unit l s) := by
  unfold correctableAt
  repeat' (first
    | with_reducible assumption
    | with_reducible apply logError_follows)

theorem noteFetch_follows {z : State} (f : Fetch) (l : Nat) {s : State} (hs : Follows z s) :
    Follows z (noteFetch f l s) := by
  unfold noteFetch
  repeat' (first
    | with_reducible assumption
    | with_reducible apply correctableAt_follows
    | split)

theorem damageLine_follows {z : State} (l : Nat) {s : State} (hs : Follows z s) :
    Follows z (damageLine l s) := by
  unfold damageLine
  repeat' (first
    | with_reducible assumption
    | rw [mk_change]
    | (with_reducible refine Follows.keep ?_ ?_ ?_ ?_; rotate_left; with_reducible rfl; with_reducible rfl; with_reducible rfl)
    | (extract_lets +onlyGivenNames x; have _ : Vale := x)
    | with_reducible apply Follows.ite)

theorem readLine_follows {z : State} (l : Nat) (first : Fetch) (second : Fetch) {s : State} (hs : Follows z s) :
    Follows z (readLine l first second s).1 := by
  unfold readLine
  repeat' (first
    | with_reducible assumption
    | with_reducible apply noteFetch_follows
    | with_reducible apply correctableAt_follows
    | with_reducible apply damageLine_follows
    | (extract_lets +onlyGivenNames x; have hx : Follows z x := ?_; clear_value x; rotate_left; unfold x)
    | (extract_lets +onlyGivenNames x)
    | with_reducible apply Follows.ite_fst)

theorem onQp_follows {z : State} (q : Nat) (f : Qp → State → State) {s : State} (hf : ∀ y0 y1, Follows z y1 → Follows z (f y0 y1)) (hs : Follows z s) :
    Follows z (onQp q f s) := by
  unfold onQp
  repeat' (first
    | with_reducible assumption
    | with_reducible apply hf
    | split)

theorem bumpEth_follows {z : State} (n : Nat) (i : Nat) (k : Nat) {s : State} (hs : Follows z s) :
    Follows z (bumpEth n i k s) := by
  unfold bumpEth
  repeat' (first
    | with_reducible assumption
    | with_reducible apply modEth_follows)

theorem toInbox_follows {z : State} (q : Nat) (p : Qp) (b : Bytes) {s : State} (hs : Follows z s) :
    Follows z (toInbox q p b s) := by
  unfold toInbox
  repeat' (first
    | with_reducible assumption
    | rw [mk_change]
    | with_reducible apply bumpEth_follows
    | with_reducible apply putOut_follows
    | with_reducible apply completeWith_follows
    | with_reducible apply complete_follows
    | (with_reducible refine Follows.keep ?_ ?_ ?_ ?_; rotate_left; with_reducible rfl; with_reducible rfl; with_reducible rfl)
    | (extract_lets +onlyGivenNames x; have hx : Follows z x := ?_; clear_value x; rotate_left; unfold x)
    | (extract_lets +onlyGivenNames x)
    | with_reducible apply Follows.ite
    | split)

theorem placeLines_follows {z : State} (j : Nat) (x0 : Nat) (x1 : Nat) (x2 : Bytes) (x3 : List Fetch) (x4 : State × Bool) (hx4 : Follows z x4.1) :
    Follows z (placeLines j x0 x1 x2 x3 x4).1 := by
  induction x0 generalizing x1 x2 x3 x4 with
  | zero =>
    unfold placeLines
    repeat' (first
      | with_reducible assumption)
  | succ k ih =>
    unfold placeLines
    try split
    all_goals (try injections)
    all_goals (try subst_vars)
    repeat' (first
      | with_reducible assumption
      | with_reducible apply hf
      | with_reducible apply ih
      | with_reducible apply markDirty_follows
      | with_reducible apply engineWrite_follows
      | with_reducible apply readLine_follows
      | with_reducible apply lineFails_follows
      | (intro _)
      | (extract_lets +onlyGivenNames x; have hx : Follows z x.1 := ?_; clear_value x; rotate_left; unfold x)
      | (extract_lets +onlyGivenNames x; have hf : ∀ t, Follows z t → Follows z (x t) := ?_; clear_value x; rotate_left; unfold x)
      | (extract_lets +onlyGivenNames x; clear_value x)
      | (extract_lets +onlyGivenNames x)
      | with_reducible apply Follows.ite_fst
      | split)

theorem performInbound_follows {z : State} (q : Nat) (p : Qp) (waits : Bool) (x : Inbound) {s : State} (hs : Follows z s) :
    Follows z (performInbound q p waits x s) := by
  unfold performInbound
  repeat' (first
    | with_reducible assumption
    | with_reducible apply toInbox_follows
    | with_reducible apply putOut_follows
    | with_reducible apply placeLines_follows
    | (extract_lets +onlyGivenNames x; have hx : Follows z x := ?_; clear_value x; rotate_left; unfold x)
    | (extract_lets +onlyGivenNames x; have hx : Follows z x.1 := ?_; clear_value x; rotate_left; unfold x)
    | (extract_lets +onlyGivenNames x)
    | with_reducible apply Follows.ite
    | split)

theorem askInbound_follows {z : State} (p : Qp) (waits : Bool) (x : Inbound) {s : State} (hs : Follows z s) :
    Follows z (askInbound p waits x s) := by
  unfold askInbound
  repeat' (first
    | with_reducible assumption
    | with_reducible apply bringForWrite_follows
    | split)

theorem flowControl_follows {z : State} (n : Nat) (k : Nat) {s : State} (hs : Follows z s) :
    Follows z (flowControl n k s) := by
  unfold flowControl
  repeat' (first
    | with_reducible assumption
    | with_reducible apply emit_follows
    | with_reducible apply bumpEth_follows
    | with_reducible apply modEth_follows
    | (extract_lets +onlyGivenNames x; clear_value x)
    | (extract_lets +onlyGivenNames x)
    | with_reducible apply Follows.ite)

theorem flowOf_follows {z : State} (p : Qp) {s : State} (hs : Follows z s) :
    Follows z (flowOf p s) := by
  unfold flowOf
  repeat' (first
    | with_reducible assumption
    | with_reducible apply flowControl_follows)

theorem arriveOp_follows {z : State} (q : Nat) (p : Qp) (x : Inbound) {s : State} (hs : Follows z s) :
    Follows z (arriveOp q p x s) := by
  unfold arriveOp
  repeat' (first
    | with_reducible assumption
    | with_reducible apply askInbound_follows
    | with_reducible apply performInbound_follows
    | with_reducible apply flowOf_follows
    | with_reducible apply modQp_follows
    | (extract_lets +onlyGivenNames x; have hx : Follows z x := ?_; clear_value x; rotate_left; unfold x)
    | (extract_lets +onlyGivenNames x)
    | with_reducible apply Follows.ite)

theorem settleHeld_follows {z : State} {s : State} (e : Nat × Qp) (hs : Follows z s) :
    ∀ out, settleHeld s e = some out → Follows z out := by
  intro out e
  unfold settleHeld at e
  repeat' split at e
  all_goals cases e
  repeat' (first
    | with_reducible assumption
    | with_reducible apply performInbound_follows
    | with_reducible apply modQp_follows
    | with_reducible apply flowOf_follows
    | with_reducible apply askInbound_follows)

theorem readyThread_tile (t : Nat) (c : CoreSt) : (readyThread t c).tile = c.tile := by
  unfold readyThread
  split <;> rfl

theorem placeTask_tile (t : TaskRef) (unit thread : Nat) (array : Bool) (c : CoreSt) : (placeTask t unit thread array c).tile = c.tile := by
  unfold placeTask
  dsimp only
  split
  · rfl
  · rw [readyThread_tile]

theorem placeDesc_follows {z : State} (r : Ref) {s : State} (hs : Follows z s) : Follows z (placeDesc r s) := by
  unfold placeDesc
  refine Follows.ite hs (Follows.foldl _ hs fun t n h => Follows.ite (modCore_follows _ _ h fun k hk => ?_) h)
  rw [placeTask_tile]
  exact hk

theorem placeTasks_follows {z : State} {s : State} (hs : Follows z s) :
    Follows z (placeTasks s) := by
  unfold placeTasks
  repeat' (first
    | with_reducible assumption
    | with_reducible apply Follows.foldl
    | with_reducible apply placeDesc_follows
    | (intro _)
    | (extract_lets +onlyGivenNames x)
    | split)

theorem ensurePages_follows {z : State} (r : Ref) {s : State} (hs : Follows z s) :
    Follows z (ensurePages r s).1 := by
  unfold ensurePages
  repeat' (first
    | with_reducible assumption
    | with_reducible apply bringPages_follows
    | with_reducible apply bringForWrite_follows)

theorem orMasks_follows {z : State} (j : Nat) (mask : Nat) (l : List Nat) {s : State} (hs : Follows z s) :
    Follows z (orMasks j mask l s) := by
  unfold orMasks
  repeat' (first
    | with_reducible assumption
    | with_reducible apply Follows.foldl
    | with_reducible apply orMask_follows
    | (intro _))

theorem storeOuts_follows {z : State} {s0 : State} (j : Nat) (outs : List (TV × Array (Option RealV))) {s : State} (hs : Follows z s) :
    Follows z (storeOuts s0 j outs s).1 := by
  unfold storeOuts
  repeat' (first
    | with_reducible assumption
    | with_reducible apply Follows.foldl_fst
    | with_reducible apply applyStores_follows
    | (intro _))

theorem raiseEvents_follows {z : State} (r : Ref) (outs : List TV) (l : List Event) {s : State} (hs : Follows z s) :
    Follows z (raiseEvents r outs l s) := by
  unfold raiseEvents
  repeat' (first
    | with_reducible assumption
    | with_reducible apply Follows.foldl
    | with_reducible apply raiseFlags_follows
    | (intro _))

theorem putRecord_follows {z : State} (r : Ref) (dest : Nat) (tensor : Nat) (rec' : Bytes) {s : State} (hs : Follows z s) :
    Follows z (putRecord r dest tensor rec' s) := by
  unfold putRecord
  repeat' (first
    | with_reducible assumption
    | with_reducible apply orMask_follows
    | with_reducible apply modSpan_follows
    | with_reducible apply applyStores_follows
    | (extract_lets +onlyGivenNames x; have hx : Follows z x := ?_; clear_value x; rotate_left; unfold x)
    | split)

theorem noteWrite_follows {z : State} (r : Ref) (v : TV) (w : WriteSum) {s : State} (hs : Follows z s) :
    Follows z (noteWrite r v w s) := by
  unfold noteWrite
  repeat' (first
    | with_reducible assumption
    | with_reducible apply modSpan_follows
    | with_reducible apply modNum_follows
    | with_reducible apply putRecord_follows
    | (extract_lets +onlyGivenNames x; have hx : Follows z x := ?_; clear_value x; rotate_left; unfold x)
    | (extract_lets +onlyGivenNames x; clear_value x)
    | with_reducible apply Follows.ite
    | split)

theorem setRunning_follows {z : State} (r : Ref) (units : Nat) {s : State} (hs : Follows z s) :
    Follows z (setRunning r units s) := by
  unfold setRunning
  repeat' (first
    | with_reducible assumption
    | with_reducible apply modSub_follows)

theorem modDesc_follows {z : State} (t : TaskRef) (f : DescSt → DescSt) {s : State} (hs : Follows z s) :
    Follows z (modDesc t f s) := by
  unfold modDesc
  repeat' (first
    | with_reducible assumption
    | with_reducible apply modSub_follows)

theorem finishOp_follows {z : State} (r : Ref) (o : OpOut) {s : State} (hs : Follows z s) :
    Follows z (finishOp r o s) := by
  unfold finishOp
  repeat' (first
    | with_reducible assumption
    | with_reducible apply storeOuts_follows
    | with_reducible apply orMasks_follows
    | with_reducible apply raiseEvents_follows
    | with_reducible apply putRecord_follows
    | with_reducible apply modSpan_follows
    | with_reducible apply modNum_follows
    | with_reducible apply setOverflow_follows
    | (extract_lets +onlyGivenNames x; have hx : Follows z x := ?_; clear_value x; rotate_left; unfold x)
    | (extract_lets +onlyGivenNames x; have hx : Follows z x.1 := ?_; clear_value x; rotate_left; unfold x)
    | (extract_lets +onlyGivenNames x; clear_value x)
    | with_reducible apply Follows.ite
    | split)

theorem dropStaged_follows {z : State} (t : TaskRef) {s : State} (hs : Follows z s) :
    Follows z (dropStaged t s) := by
  unfold dropStaged
  repeat' (first
    | with_reducible assumption
    | rw [mk_change]
    | (with_reducible refine Follows.keep ?_ ?_ ?_ ?_; rotate_left; with_reducible rfl; with_reducible rfl; with_reducible rfl)
    | (extract_lets +onlyGivenNames x; clear_value x)
    | split)

theorem retire_follows {z : State} (t : TaskRef) {s : State} (hs : Follows z s) :
    Follows z (retire t s) := by
  unfold retire
  repeat' (first
    | with_reducible assumption
    | with_reducible apply modSub_follows
    | with_reducible apply occupySlot_follows
    | with_reducible apply freeSlot_follows
    | with_reducible apply dropStaged_follows
    | (extract_lets +onlyGivenNames x)
    | with_reducible apply Follows.ite
    | split)

theorem remoteSignal_follows {z : State} (j : Nat) (proxyIdx : Nat) (p : Proxy) (value : Nat) {s : State} (hs : Follows z s) :
    Follows z (remoteSignal j proxyIdx p value s) := by
  unfold remoteSignal
  repeat' (first
    | with_reducible assumption
    | with_reducible apply modObj_follows
    | with_reducible apply sendOrFault_follows)

theorem signalDesc_follows {z : State} (j : Nat) (d : Bytes) {s : State} (hs : Follows z s) :
    Follows z (signalDesc j d s) := by
  unfold signalDesc
  repeat' (first
    | with_reducible assumption
    | with_reducible apply applySignal_follows
    | with_reducible apply remoteSignal_follows
    | (extract_lets +onlyGivenNames x; clear_value x)
    | with_reducible apply Follows.ite
    | split)

theorem closeWindows_follows {z : State} (j : Nat) (k : Nat) {s : State} (hs : Follows z s) :
    Follows z (closeWindows j k s) := by
  unfold closeWindows
  repeat' (first
    | with_reducible assumption
    | rw [mk_change]
    | (with_reducible refine Follows.keep ?_ ?_ ?_ ?_; rotate_left; with_reducible rfl; with_reducible rfl; with_reducible rfl))

theorem completeSub_follows {z : State} (j : Nat) (k : Nat) (status : Nat) (desc : Nat) {s : State} (hs : Follows z s) :
    Follows z (completeSub j k status desc s) := by
  unfold completeSub
  repeat' (first
    | with_reducible assumption
    | rw [mk_change]
    | with_reducible apply modJob_follows
    | with_reducible apply closeWindows_follows
    | with_reducible apply modNum_follows
    | with_reducible apply freeSlot_follows
    | with_reducible apply finish_follows
    | (with_reducible refine Follows.keep ?_ ?_ ?_ ?_; rotate_left; with_reducible rfl; with_reducible rfl; with_reducible rfl)
    | (extract_lets +onlyGivenNames x; have hx : Follows z x := ?_; clear_value x; rotate_left; unfold x)
    | (extract_lets +onlyGivenNames x; clear_value x)
    | (extract_lets +onlyGivenNames x)
    | with_reducible apply Follows.ite
    | split)

theorem releaseObject_follows {z : State} (i : Nat) {s : State} (hs : Follows z s) :
    Follows z (releaseObject i s) := by
  unfold releaseObject
  repeat' (first
    | with_reducible assumption
    | rw [mk_change]
    | with_reducible apply freeObject_follows
    | (with_reducible refine Follows.keep ?_ ?_ ?_ ?_; rotate_left; with_reducible rfl; with_reducible rfl; with_reducible rfl)
    | (extract_lets +onlyGivenNames x; clear_value x)
    | (extract_lets +onlyGivenNames x)
    | with_reducible apply Follows.ite
    | split)

theorem dropTensor_follows {z : State} (j : Nat) (i : Nat) {s : State} (hs : Follows z s) :
    Follows z (dropTensor j i s) := by
  unfold dropTensor
  repeat' (first
    | with_reducible assumption
    | with_reducible apply Follows.foldl
    | with_reducible apply modDir_follows
    | with_reducible apply modJob_follows
    | (intro _)
    | (extract_lets +onlyGivenNames x)
    | with_reducible apply Follows.ite
    | split)

theorem settleRunning_follows {z : State} {s : State} (r : Running) (hs : Follows z s) :
    ∀ out, settleRunning s r = some out → Follows z out := by
  intro out e
  unfold settleRunning at e
  repeat' split at e
  all_goals cases e
  repeat' (first
    | with_reducible assumption
    | with_reducible apply finish_follows
    | with_reducible apply completeSub_follows
    | with_reducible apply releaseObject_follows
    | with_reducible apply takeRunning_follows
    | with_reducible apply fwActivateRun_follows
    | with_reducible apply dropTensor_follows
    | (extract_lets +onlyGivenNames x)
    | (refine Follows.of_snd (by with_reducible assumption) ?_))

theorem settleWait_follows {z : State} {s : State} (t : TaskRef) (hs : Follows z s) :
    ∀ out, settleWait s t = some out → Follows z out := by
  intro out e
  unfold settleWait at e
  repeat' split at e
  all_goals cases e
  repeat' (first
    | with_reducible assumption
    | with_reducible apply programFault_follows
    | with_reducible apply retire_follows)

theorem nextSettle_follows {z : State} {s : State} (hs : Follows z s) : ∀ out, nextSettle s = some out → Follows z out := by
  intro out e
  unfold nextSettle at e
  split at e
  · cases e
    exact reportLines_follows hs
  · rcases Option.or_eq_some_iff.1 e with e | ⟨-, e⟩
    · rcases Option.or_eq_some_iff.1 e with e | ⟨-, e⟩
      · obtain ⟨x, -, e⟩ := List.exists_of_findSome?_eq_some e
        exact settleWait_follows _ hs _ e
      · obtain ⟨x, -, e⟩ := List.exists_of_findSome?_eq_some e
        exact settleRunning_follows _ hs _ e
    · obtain ⟨x, -, e⟩ := List.exists_of_findSome?_eq_some e
      exact settleHeld_follows _ hs _ e

theorem settleLoop_follows {z : State} (x0 : Nat) {x1 : State} (hx1 : Follows z x1) :
    Follows z (settleLoop x0 x1) := by
  induction x0 generalizing x1 with
  | zero =>
    unfold settleLoop
    repeat' (first
      | with_reducible assumption)
  | succ k ih =>
    unfold settleLoop
    try split
    all_goals (try injections)
    all_goals (try subst_vars)
    repeat' (first
      | with_reducible assumption
      | with_reducible apply ih
      | (extract_lets +onlyGivenNames x)
      | (with_reducible apply nextSettle_follows; rotate_left; with_reducible assumption))

theorem settle_follows {z : State} {s : State} (hs : Follows z s) :
    Follows z (settle s) := by
  unfold settle
  repeat' (first
    | with_reducible assumption
    | with_reducible apply placeTasks_follows
    | with_reducible apply settleLoop_follows)

end Sys2Proof.Laws
end

