-- ==== Sys2Proof/Laws/FollowsObjects.lean ====
section
/-! SUPPORT. What follows a state keeps its promises: one lemma per operation, for objects, control descriptors, gathers, error checking, the boundary of a task, optimisers and collectives. -/

set_option linter.tactic.unusedName false

namespace Sys2Proof.Laws

open Sys2Proof.Machine

theorem createObject_follows {z : State} (m : Msg) (job : Option Nat) (d : ObjData) (result : Nat → Bytes) {s : State} (hs : Follows z s) :
    Follows z (createObject m job d result s) := by
  unfold createObject
  repeat' (first
    | with_reducible assumption
    | with_reducible apply complete_follows
    | with_reducible apply putObject_follows
    | with_reducible apply completeWith_follows
    | split)

theorem helloBody_follows {z : State} (ctx : Nat) (m : Msg) {s : State} (hs : Follows z s) :
    Follows z (helloBody ctx m s) := by
  unfold helloBody
  repeat' (first
    | with_reducible assumption
    | rw [mk_change]
    | with_reducible apply complete_follows
    | with_reducible apply completeResult_follows
    | (with_reducible refine Follows.keep ?_ ?_ ?_ ?_; rotate_left; with_reducible rfl; with_reducible rfl; with_reducible rfl)
    | (extract_lets +onlyGivenNames x)
    | with_reducible apply Follows.ite
    | split)

theorem qpCreateBody_follows {z : State} (m : Msg) {s : State} (hs : Follows z s) :
    Follows z (qpCreateBody m s) := by
  unfold qpCreateBody
  repeat' (first
    | with_reducible assumption
    | rw [mk_change]
    | with_reducible apply complete_follows
    | with_reducible apply createObject_follows
    | unfold qpCreateBody.make
    | (with_reducible refine Follows.keep ?_ ?_ ?_ ?_; rotate_left; with_reducible rfl; with_reducible rfl; with_reducible rfl)
    | (extract_lets +onlyGivenNames x; clear_value x)
    | (extract_lets +onlyGivenNames x)
    | with_reducible apply Follows.ite
    | split)

theorem windowOpenBody_follows {z : State} (m : Msg) {s : State} (hs : Follows z s) :
    Follows z (windowOpenBody m s) := by
  unfold windowOpenBody
  repeat' (first
    | with_reducible assumption
    | with_reducible apply complete_follows
    | with_reducible apply freshNat_follows
    | with_reducible apply createObject_follows
    | (extract_lets +onlyGivenNames x; have hx : Follows z x.2 := ?_; clear_value x; rotate_left; unfold x)
    | (extract_lets +onlyGivenNames x; clear_value x)
    | (extract_lets +onlyGivenNames x)
    | with_reducible apply Follows.ite
    | split)

theorem groupCreateBody_follows {z : State} (m : Msg) {s : State} (hs : Follows z s) :
    Follows z (groupCreateBody m s) := by
  unfold groupCreateBody
  repeat' (first
    | with_reducible assumption
    | with_reducible apply complete_follows
    | with_reducible apply createObject_follows
    | (extract_lets +onlyGivenNames x; clear_value x)
    | (extract_lets +onlyGivenNames x)
    | with_reducible apply Follows.ite
    | split)

theorem programCreateBody_follows {z : State} (m : Msg) {s : State} (hs : Follows z s) :
    Follows z (programCreateBody m s) := by
  unfold programCreateBody
  repeat' (first
    | with_reducible assumption
    | with_reducible apply complete_follows
    | with_reducible apply createObject_follows
    | (extract_lets +onlyGivenNames x; clear_value x)
    | (extract_lets +onlyGivenNames x)
    | with_reducible apply Follows.ite
    | split)

theorem fenceCreateBody_follows {z : State} (m : Msg) {s : State} (hs : Follows z s) :
    Follows z (fenceCreateBody m s) := by
  unfold fenceCreateBody
  repeat' (first
    | with_reducible assumption
    | with_reducible apply complete_follows
    | with_reducible apply createObject_follows
    | (extract_lets +onlyGivenNames x)
    | with_reducible apply Follows.ite
    | split)

theorem fenceImportBody_follows {z : State} (m : Msg) {s : State} (hs : Follows z s) :
    Follows z (fenceImportBody m s) := by
  unfold fenceImportBody
  repeat' (first
    | with_reducible assumption
    | with_reducible apply complete_follows
    | with_reducible apply createObject_follows
    | (extract_lets +onlyGivenNames x)
    | with_reducible apply Follows.ite
    | split)

theorem fenceSignalBody_follows {z : State} (m : Msg) {s : State} (hs : Follows z s) :
    Follows z (fenceSignalBody m s) := by
  unfold fenceSignalBody
  repeat' (first
    | with_reducible assumption
    | with_reducible apply complete_follows
    | with_reducible apply remoteSignal_follows
    | with_reducible apply applySignal_follows
    | with_reducible apply keepRunning_follows
    | with_reducible apply touchFence_follows
    | (extract_lets +onlyGivenNames x; clear_value x)
    | with_reducible apply Follows.ite
    | split)

theorem fenceWaitBody_follows {z : State} (m : Msg) {s : State} (hs : Follows z s) :
    Follows z (fenceWaitBody m s) := by
  unfold fenceWaitBody
  repeat' (first
    | with_reducible assumption
    | with_reducible apply complete_follows
    | with_reducible apply keepRunning_follows
    | with_reducible apply touchFence_follows
    | with_reducible apply Follows.ite
    | split)

theorem fenceQueryBody_follows {z : State} (m : Msg) {s : State} (hs : Follows z s) :
    Follows z (fenceQueryBody m s) := by
  unfold fenceQueryBody
  repeat' (first
    | with_reducible assumption
    | with_reducible apply complete_follows
    | with_reducible apply completeResult_follows
    | (extract_lets +onlyGivenNames x)
    | with_reducible apply Follows.ite
    | split)

theorem evictionDone_follows {z : State} (i : Nat) {s : State} (hs : Follows z s) :
    Follows z (evictionDone i s) := by
  unfold evictionDone
  repeat' (first
    | with_reducible assumption
    | rw [mk_change]
    | with_reducible apply finish_follows
    | with_reducible apply applySignal_follows
    | (with_reducible refine Follows.keep ?_ ?_ ?_ ?_; rotate_left; with_reducible rfl; with_reducible rfl; with_reducible rfl)
    | (extract_lets +onlyGivenNames x; have hx : Follows z x := ?_; clear_value x; rotate_left; unfold x)
    | (extract_lets +onlyGivenNames x; clear_value x)
    | (extract_lets +onlyGivenNames x)
    | with_reducible apply Follows.ite
    | split)

theorem waitTimeout_follows {z : State} (w : WaitRef) {s : State} (hs : Follows z s) :
    Follows z (waitTimeout w s) := by
  unfold waitTimeout
  repeat' (first
    | with_reducible assumption
    | rw [mk_change]
    | with_reducible apply completeWith_follows
    | with_reducible apply programFault_follows
    | (with_reducible refine Follows.keep ?_ ?_ ?_ ?_; rotate_left; with_reducible rfl; with_reducible rfl; with_reducible rfl)
    | with_reducible apply Follows.ite
    | split)

theorem objectDestroyBody_follows {z : State} (m : Msg) {s : State} (hs : Follows z s) :
    Follows z (objectDestroyBody m s) := by
  unfold objectDestroyBody
  repeat' (first
    | with_reducible assumption
    | with_reducible apply complete_follows
    | with_reducible apply keepRunning_follows
    | with_reducible apply modObj_follows
    | (extract_lets +onlyGivenNames x; clear_value x)
    | with_reducible apply Follows.ite
    | split)

theorem objectFree_follows {z : State} (o : ObjRef) {s : State} (hs : Follows z s) :
    Follows z (objectFree o s) := by
  unfold objectFree
  repeat' (first
    | with_reducible assumption
    | with_reducible apply finish_follows
    | with_reducible apply releaseObject_follows
    | with_reducible apply dropTensor_follows
    | with_reducible apply Follows.ite
    | split)

theorem waitRelease_follows {z : State} (ctx : Nat) {s : State} (hs : Follows z s) :
    Follows z (waitRelease ctx s) := by
  unfold waitRelease
  repeat' (first
    | with_reducible assumption
    | rw [mk_change]
    | with_reducible apply complete_follows
    | with_reducible apply popInbox_follows
    | (with_reducible refine Follows.keep ?_ ?_ ?_ ?_; rotate_left; with_reducible rfl; with_reducible rfl; with_reducible rfl)
    | (extract_lets +onlyGivenNames x)
    | with_reducible apply Follows.ite
    | split)

theorem defineTensor_follows {z : State} (j : Nat) (i : Nat) (raw : Bytes) {s : State} (hs : Follows z s) :
    Follows z (defineTensor j i raw s) := by
  unfold defineTensor
  repeat' (first
    | with_reducible assumption
    | with_reducible apply Follows.foldl
    | with_reducible apply dropTensor_follows
    | with_reducible apply modJob_follows
    | with_reducible apply modDir_follows
    | (intro _)
    | (extract_lets +onlyGivenNames x; have hx : Follows z x := ?_; clear_value x; rotate_left; unfold x)
    | (extract_lets +onlyGivenNames x)
    | with_reducible apply Follows.ite
    | split)

theorem tensorDefineBody_follows {z : State} (m : Msg) {s : State} (hs : Follows z s) :
    Follows z (tensorDefineBody m s) := by
  unfold tensorDefineBody
  repeat' (first
    | with_reducible assumption
    | with_reducible apply complete_follows
    | with_reducible apply defineTensor_follows
    | (extract_lets +onlyGivenNames x; clear_value x)
    | (extract_lets +onlyGivenNames x)
    | with_reducible apply Follows.ite
    | split)

theorem tensorReleaseBody_follows {z : State} (m : Msg) {s : State} (hs : Follows z s) :
    Follows z (tensorReleaseBody m s) := by
  unfold tensorReleaseBody
  repeat' (first
    | with_reducible assumption
    | with_reducible apply complete_follows
    | with_reducible apply keepRunning_follows
    | (extract_lets +onlyGivenNames x; clear_value x)
    | (extract_lets +onlyGivenNames x)
    | with_reducible apply Follows.ite
    | split)

theorem submitBody_follows {z : State} (m : Msg) {s : State} (hs : Follows z s) :
    Follows z (submitBody m s) := by
  unfold submitBody
  repeat' (first
    | with_reducible assumption
    | with_reducible apply complete_follows
    | with_reducible apply completeWith_follows
    | with_reducible apply keepRunning_follows
    | with_reducible apply modJob_follows
    | (extract_lets +onlyGivenNames x)
    | with_reducible apply Follows.ite
    | split)

theorem abortBody_follows {z : State} (m : Msg) {s : State} (hs : Follows z s) :
    Follows z (abortBody m s) := by
  unfold abortBody
  repeat' (first
    | with_reducible assumption
    | with_reducible apply complete_follows
    | with_reducible apply keepRunning_follows
    | with_reducible apply modJob_follows
    | (extract_lets +onlyGivenNames x; clear_value x)
    | split)

theorem enterSpan_follows {z : State} (t : TaskRef) (r : Ref) {s : State} (hs : Follows z s) :
    Follows z (enterSpan t r s) := by
  unfold enterSpan
  repeat' (first
    | with_reducible assumption
    | with_reducible apply beginSpan_follows
    | split)

theorem withDesc_follows {z : State} (t : TaskRef) (op : Nat) (body : Ref → State → State) {s : State} (hbody : ∀ y0 y1, Follows z y1 → Follows z (body y0 y1)) (hs : Follows z s) :
    Follows z (withDesc t op body s) := by
  unfold withDesc
  repeat' (first
    | with_reducible assumption
    | with_reducible apply hbody
    | with_reducible apply enterSpan_follows
    | (extract_lets +onlyGivenNames x; have hx : Follows z x := ?_; clear_value x; rotate_left; unfold x)
    | (extract_lets +onlyGivenNames x)
    | with_reducible apply Follows.ite
    | split)

theorem fenceWaitDesc_follows {z : State} (r : Ref) {s : State} (hs : Follows z s) :
    Follows z (fenceWaitDesc r s) := by
  unfold fenceWaitDesc
  repeat' (first
    | with_reducible assumption
    | with_reducible apply touchFence_follows
    | with_reducible apply setRunning_follows)

theorem fenceSignalDesc_follows {z : State} (t : TaskRef) (r : Ref) {s : State} (hs : Follows z s) :
    Follows z (fenceSignalDesc t r s) := by
  unfold fenceSignalDesc
  repeat' (first
    | with_reducible assumption
    | with_reducible apply retire_follows
    | with_reducible apply signalDesc_follows
    | split)

theorem takeHint_follows {z : State} (t : TaskRef) (d : Bytes) {s : State} (hs : Follows z s) :
    Follows z (takeHint t d s) := by
  unfold takeHint
  repeat' (first
    | with_reducible assumption
    | rw [mk_change]
    | (with_reducible refine Follows.keep ?_ ?_ ?_ ?_; rotate_left; with_reducible rfl; with_reducible rfl; with_reducible rfl)
    | (extract_lets +onlyGivenNames x; clear_value x)
    | with_reducible apply Follows.ite)

theorem modBubbles_follows {z : State} (p : Nat) (f : Bubbles → Bubbles) {s : State} (hs : Follows z s) :
    Follows z (modBubbles p f s) := by
  unfold modBubbles
  repeat' (first
    | with_reducible assumption
    | rw [mk_change]
    | (with_reducible refine Follows.keep ?_ ?_ ?_ ?_; rotate_left; with_reducible rfl; with_reducible rfl; with_reducible rfl))

theorem openBubble_follows {z : State} (t : TaskRef) (d : Bytes) {s : State} (hs : Follows z s) :
    Follows z (openBubble t d s) := by
  unfold openBubble
  repeat' (first
    | with_reducible assumption
    | with_reducible apply modBubbles_follows)

theorem bubbleOpen_follows {z : State} (t : TaskRef) (r : Ref) {s : State} (hs : Follows z s) :
    Follows z (bubbleOpen t r s) := by
  unfold bubbleOpen
  repeat' (first
    | with_reducible assumption
    | with_reducible apply retire_follows
    | with_reducible apply openBubble_follows
    | split)

theorem blockSwitch_follows {z : State} (block j : Nat) {s : State} (hs : Follows z s) : Follows z (blockSwitch block j s) := by
  unfold blockSwitch
  exact Follows.foldl _ hs fun t c h => modCore_follows _ _ h fun _ _ => rfl

theorem blockLend_follows {z : State} (p : Nat) (block : Nat) {s : State} (hs : Follows z s) :
    Follows z (blockLend p block s) := by
  unfold blockLend
  repeat' (first
    | with_reducible assumption
    | with_reducible apply blockSwitch_follows
    | with_reducible apply modBubbles_follows
    | (extract_lets +onlyGivenNames x; clear_value x)
    | (extract_lets +onlyGivenNames x)
    | with_reducible apply Follows.ite
    | split)

theorem windowClose_follows {z : State} (p : Nat) (n : Nat) {s : State} (hs : Follows z s) :
    Follows z (windowClose p n s) := by
  unfold windowClose
  repeat' (first
    | with_reducible assumption
    | with_reducible apply modBubbles_follows)

theorem blockReturn_follows {z : State} (p : Nat) (block : Nat) {s : State} (hs : Follows z s) :
    Follows z (blockReturn p block s) := by
  unfold blockReturn
  repeat' (first
    | with_reducible assumption
    | with_reducible apply blockSwitch_follows
    | with_reducible apply modBubbles_follows
    | (extract_lets +onlyGivenNames x; clear_value x)
    | with_reducible apply Follows.ite)

theorem bubbleTick_follows {z : State} {s : State} (hs : Follows z s) :
    Follows z (bubbleTick s) := by
  unfold bubbleTick
  repeat' (first
    | with_reducible assumption
    | rw [mk_change]
    | (with_reducible refine Follows.keep ?_ ?_ ?_ ?_; rotate_left; with_reducible rfl; with_reducible rfl; with_reducible rfl))

theorem mismatchEvent_follows {z : State} (j : Nat) (prog : Nat) (t1 : Nat) {s : State} (hs : Follows z s) :
    Follows z (mismatchEvent j prog t1 s) := by
  unfold mismatchEvent
  repeat' (first
    | with_reducible assumption
    | with_reducible apply jobEvent_follows)

theorem commitEffect_follows {z : State} (j : Nat) (k : Nat) (pos : Nat) (b : Job) (u : Sub) (x : SpanSt) (n : NumState) {s : State} (hs : Follows z s) :
    Follows z (commitEffect j k pos b u x n s) := by
  unfold commitEffect
  repeat' (first
    | with_reducible assumption
    | with_reducible apply Follows.foldl
    | with_reducible apply modNum_follows
    | with_reducible apply modSpan_follows
    | with_reducible apply modJob_follows
    | with_reducible apply applyStores_follows
    | with_reducible apply signalDesc_follows
    | with_reducible apply openBubble_follows
    | with_reducible apply mismatchEvent_follows
    | with_reducible apply dropStaged_follows
    | with_reducible apply retire_follows
    | (intro _)
    | (extract_lets +onlyGivenNames x; have hx : Follows z x := ?_; clear_value x; rotate_left; unfold x)
    | (extract_lets +onlyGivenNames x; clear_value x)
    | (extract_lets +onlyGivenNames x)
    | with_reducible apply Follows.ite
    | split)

theorem commitSpan_follows {z : State} (j : Nat) (k : Nat) (pos : Nat) {s : State} (hs : Follows z s) :
    Follows z (commitSpan j k pos s) := by
  unfold commitSpan
  repeat' (first
    | with_reducible assumption
    | with_reducible apply jobFault_follows
    | with_reducible apply commitEffect_follows
    | (extract_lets +onlyGivenNames x)
    | with_reducible apply Follows.ite
    | split)

theorem withSpan_follows {z : State} (j : Nat) (k : Nat) (id : Nat) (f : Nat → State → State) {s : State} (hf : ∀ y0 y1, Follows z y1 → Follows z (f y0 y1)) (hs : Follows z s) :
    Follows z (withSpan j k id f s) := by
  unfold withSpan
  repeat' (first
    | with_reducible assumption
    | with_reducible apply hf
    | (extract_lets +onlyGivenNames x)
    | with_reducible apply Follows.ite
    | split)

theorem discardSpan_follows {z : State} (j : Nat) (k : Nat) (pos : Nat) {s : State} (hs : Follows z s) :
    Follows z (discardSpan j k pos s) := by
  unfold discardSpan
  repeat' (first
    | with_reducible assumption
    | with_reducible apply enterPromotion_follows
    | with_reducible apply modSub_follows
    | with_reducible apply Follows.ite
    | split)

theorem rerunSpan_follows {z : State} (j : Nat) (k : Nat) (pos : Nat) {s : State} (hs : Follows z s) :
    Follows z (rerunSpan j k pos s) := by
  unfold rerunSpan
  repeat' (first
    | with_reducible assumption
    | with_reducible apply ladder_follows
    | (extract_lets +onlyGivenNames x; clear_value x)
    | (extract_lets +onlyGivenNames x)
    | with_reducible apply Follows.ite
    | split)

theorem stageLine_follows {z : State} (t : TaskRef) (j : Nat) (line : Nat) (mask : Nat) (data : Bytes) {s : State} (hs : Follows z s) :
    Follows z (stageLine t j line mask data s).1 := by
  unfold stageLine
  repeat' (first
    | with_reducible assumption
    | with_reducible apply hf
    | with_reducible apply touchWay_follows
    | with_reducible apply setWay_follows
    | with_reducible apply writeBack_follows
    | with_reducible apply allocWay_follows
    | (intro _)
    | (extract_lets +onlyGivenNames x; have hx : Follows z x.2 := ?_; clear_value x; rotate_left; unfold x)
    | (extract_lets +onlyGivenNames x; have hf : ∀ c d e t, Follows z t → Follows z (x c d e t).1 := ?_; clear_value x; rotate_left; unfold x)
    | (extract_lets +onlyGivenNames x; clear_value x)
    | (extract_lets +onlyGivenNames x)
    | with_reducible apply Follows.ite_fst
    | split)

theorem stageBytes_follows {z : State} (t : TaskRef) (j : Nat) (x0 : Nat) (x1 : Nat) (x2 : Bytes) {x3 : State} (hx3 : Follows z x3) :
    Follows z (stageBytes t j x0 x1 x2 x3).1 := by
  induction x0 generalizing x1 x2 x3 with
  | zero =>
    unfold stageBytes
    repeat' (first
      | with_reducible assumption)
  | succ k ih =>
    unfold stageBytes
    try split
    all_goals (try injections)
    all_goals (try subst_vars)
    repeat' (first
      | with_reducible assumption
      | rw [mk_change]
      | with_reducible apply ih
      | with_reducible apply stageLine_follows
      | (with_reducible refine Follows.keep ?_ ?_ ?_ ?_; rotate_left; with_reducible rfl; with_reducible rfl; with_reducible rfl)
      | (extract_lets +onlyGivenNames x; have hx : Follows z x.1 := ?_; clear_value x; rotate_left; unfold x)
      | (extract_lets +onlyGivenNames x; clear_value x)
      | with_reducible apply Follows.ite_fst)

theorem modGather_follows {z : State} (t : TaskRef) (master : Bool) (f : Gather → Gather) {s : State} (hs : Follows z s) :
    Follows z (modGather t master f s) := by
  unfold modGather
  repeat' (first
    | with_reducible assumption
    | with_reducible apply modJob_follows)

theorem askPeer_follows {z : State} (t : TaskRef) (master : Bool) (rank : Nat) (x0 : Nat) {x1 : State} (hx1 : Follows z x1) :
    Follows z (askPeer t master rank x0 x1) := by
  induction x0 generalizing x1 with
  | zero =>
    unfold askPeer
    repeat' (first
      | with_reducible assumption)
  | succ k ih =>
    unfold askPeer
    try split
    all_goals (try injections)
    all_goals (try subst_vars)
    repeat' (first
      | with_reducible assumption
      | with_reducible apply ih
      | with_reducible apply modGather_follows
      | with_reducible apply sendOrFault_follows
      | (extract_lets +onlyGivenNames x; have hx : Follows z x := ?_; clear_value x; rotate_left; unfold x)
      | (extract_lets +onlyGivenNames x; clear_value x)
      | with_reducible apply Follows.ite)

theorem beginGather_follows {z : State} (t : TaskRef) (master : Bool) (grp : Group) (logical : Nat) (size : Nat) {s : State} (hs : Follows z s) :
    Follows z (beginGather t master grp logical size s) := by
  unfold beginGather
  repeat' (first
    | with_reducible assumption
    | with_reducible apply Follows.foldl
    | with_reducible apply modJob_follows
    | with_reducible apply askPeer_follows
    | (intro _)
    | (extract_lets +onlyGivenNames x; clear_value x)
    | split)

theorem placeShard_follows {z : State} (r : Ref) (rank : Nat) (o : Nat) (data : Bytes) {s : State} (hs : Follows z s) :
    Follows z (placeShard r rank o data s) := by
  unfold placeShard
  repeat' (first
    | with_reducible assumption
    | with_reducible apply Follows.foldl
    | with_reducible apply engineWrite_follows
    | with_reducible apply stageBytes_follows
    | with_reducible apply modGather_follows
    | (intro _)
    | (extract_lets +onlyGivenNames x)
    | with_reducible apply Follows.ite
    | split
    | (refine Follows.of_fst (by with_reducible assumption) ?_))

theorem gatherDone_follows {z : State} (r : Ref) {s : State} (hs : Follows z s) :
    Follows z (gatherDone r s) := by
  unfold gatherDone
  repeat' (first
    | with_reducible assumption
    | with_reducible apply orMask_follows
    | with_reducible apply noteWrite_follows
    | with_reducible apply modJob_follows
    | with_reducible apply retire_follows
    | (extract_lets +onlyGivenNames x; have hx : Follows z x := ?_; clear_value x; rotate_left; unfold x)
    | with_reducible apply Follows.ite
    | split)

theorem saddleGather_follows {z : State} (r : Ref) {s : State} (hs : Follows z s) :
    Follows z (saddleGather r s) := by
  unfold saddleGather
  repeat' (first
    | with_reducible assumption
    | with_reducible apply programFault_follows
    | with_reducible apply ensurePages_follows
    | with_reducible apply lineFails_follows
    | with_reducible apply beginGather_follows
    | with_reducible apply setRunning_follows
    | with_reducible apply gatherDone_follows
    | with_reducible apply placeShard_follows
    | (extract_lets +onlyGivenNames x; have hx : Follows z x := ?_; clear_value x; rotate_left; unfold x)
    | (extract_lets +onlyGivenNames x; have hx : Follows z x.1 := ?_; clear_value x; rotate_left; unfold x)
    | (extract_lets +onlyGivenNames x; clear_value x)
    | (extract_lets +onlyGivenNames x)
    | with_reducible apply Follows.ite
    | split)

theorem resumeGather_follows {z : State} (t : TaskRef) {s : State} (hs : Follows z s) :
    Follows z (resumeGather t s) := by
  unfold resumeGather
  repeat' (first
    | with_reducible assumption
    | with_reducible apply Follows.foldl
    | with_reducible apply modGather_follows
    | with_reducible apply stageBytes_follows
    | with_reducible apply gatherDone_follows
    | (intro _)
    | (extract_lets +onlyGivenNames x; have hx : Follows z x := ?_; clear_value x; rotate_left; unfold x)
    | (extract_lets +onlyGivenNames x)
    | split
    | (refine Follows.of_fst (by with_reducible assumption) ?_))

theorem stagingResume_follows {z : State} (slice : Nat) (set : Nat) {s : State} (hs : Follows z s) :
    Follows z (stagingResume slice set s) := by
  unfold stagingResume
  repeat' (first
    | with_reducible assumption
    | rw [mk_change]
    | with_reducible apply Follows.foldl
    | with_reducible apply resumeGather_follows
    | (with_reducible refine Follows.keep ?_ ?_ ?_ ?_; rotate_left; with_reducible rfl; with_reducible rfl; with_reducible rfl)
    | (intro _)
    | (extract_lets +onlyGivenNames x; clear_value x)
    | with_reducible apply Follows.ite)

theorem readDataArrives_follows {z : State} (j : Nat) (src : Nat) (tag : Nat) (off : Nat) (mask : Nat) (last : Bool) (data : Bytes) {s : State} (hs : Follows z s) :
    Follows z (readDataArrives j src tag off mask last data s) := by
  unfold readDataArrives
  repeat' (first
    | with_reducible assumption
    | with_reducible apply modGather_follows
    | with_reducible apply placeShard_follows
    | with_reducible apply askPeer_follows
    | with_reducible apply gatherDone_follows
    | (extract_lets +onlyGivenNames x; have hx : Follows z x := ?_; clear_value x; rotate_left; unfold x)
    | (extract_lets +onlyGivenNames x; clear_value x)
    | with_reducible apply Follows.ite
    | split)

theorem promotedValues_follows {z : State} (r : Ref) (v : TV) {s : State} (hs : Follows z s) :
    Follows z (promotedValues r v s).1 := by
  unfold promotedValues
  repeat' (first
    | with_reducible assumption
    | with_reducible apply beginGather_follows
    | (extract_lets +onlyGivenNames x)
    | with_reducible apply Follows.ite_fst
    | split)

theorem eccFault_follows {z : State} (rec' : Bytes) (j : Nat) (desc : Nat) (prog : Nat) {s : State} (hs : Follows z s) :
    Follows z (eccFault rec' j desc prog s) := by
  unfold eccFault
  repeat' (first
    | with_reducible assumption
    | with_reducible apply jobFault_follows)

theorem eccTask_follows {z : State} (rec' : Bytes) (t : TaskRef) {s : State} (hs : Follows z s) :
    Follows z (eccTask rec' t s) := by
  unfold eccTask
  repeat' (first
    | with_reducible assumption
    | with_reducible apply eccFault_follows
    | split)

theorem eccJobs_follows {z : State} (rec' : Bytes) (p : Nat → Bool) {s : State} (hs : Follows z s) :
    Follows z (eccJobs rec' p s) := by
  unfold eccJobs
  repeat' (first
    | with_reducible assumption
    | with_reducible apply Follows.foldl
    | with_reducible apply eccFault_follows
    | (intro _)
    | (extract_lets +onlyGivenNames x)
    | with_reducible apply Follows.ite)

theorem errorTo_follows {z : State} (j : Nat) (dst : Nat) (vc : Nat) (code : Nat) (tag : Nat) {s : State} (hs : Follows z s) :
    Follows z (errorTo j dst vc code tag s) := by
  unfold errorTo
  repeat' (first
    | with_reducible assumption
    | with_reducible apply originate_follows)

theorem orphanRecord_follows {z : State} (b : Bytes) {s : State} (hs : Follows z s) :
    Follows z (orphanRecord b s) := by
  unfold orphanRecord
  repeat' (first
    | with_reducible assumption
    | with_reducible apply mgmtEvent_follows)

theorem clearKey_follows {z : State} (r : EccReport) {s : State} (hs : Follows z s) :
    Follows z (clearKey r s) := by
  unfold clearKey
  repeat' (first
    | with_reducible assumption
    | rw [mk_change]
    | (with_reducible refine Follows.keep ?_ ?_ ?_ ?_; rotate_left; with_reducible rfl; with_reducible rfl; with_reducible rfl)
    | (extract_lets +onlyGivenNames x; have _ : Vale := x)
    | (extract_lets +onlyGivenNames x; clear_value x)
    | with_reducible apply Follows.ite)

theorem uncorrectable_follows {z : State} (c : EccCtx) (r : EccReport) {s : State} (hs : Follows z s) :
    Follows z (uncorrectable c r s).1 := by
  unfold uncorrectable
  extract_lets +onlyGivenNames put task again x keyed
  have hput : ∀ c a, Follows z (put c a).2 := fun c a => logError_follows _ hs
  have htask : ∀ a, Follows z (task a).1 := by
    intro a
    unfold task
    dsimp only
    split
    · exact eccTask_follows _ _ (hput _ _)
    · split
      · exact eccFault_follows _ _ _ _ (hput _ _)
      · exact orphanRecord_follows _ (hput _ _)
  have hagain : Follows z again.1 := hput _ _
  have hkeyed : Follows z keyed.1 := by
    unfold keyed
    split
    · exact eccFault_follows _ _ _ _ (hput _ _)
    · exact orphanRecord_follows _ (hput _ _)
  clear_value again keyed task
  split
  all_goals try dsimp only
  all_goals first
    | exact htask _
    | exact hagain
    | exact hkeyed
    | exact hput _ _
    | exact Follows.ite_fst (htask _) hagain
    | exact Follows.ite_fst hkeyed hagain
    | exact Follows.ite_fst (htask _) hkeyed
    | exact eccJobs_follows _ _ (hput _ _)
    | (rw [mk_change]; exact (eccJobs_follows _ _ (hput _ _)).keep rfl rfl rfl)
    | skip
  iterate 2
    refine Follows.ite_fst ?_ (hput _ _)
    split
    · exact eccFault_follows _ _ _ _ (errorTo_follows _ _ _ _ _ (errorTo_follows _ _ _ _ _ (hput _ _)))
    · exact hput _ _
  · refine Follows.ite_fst (alert_follows _ ?_) ?_
    · rw [mk_change]
      exact (hput _ _).keep rfl rfl rfl
    · dsimp only
      split
      · rw [mk_change]
        exact (hput 2 3).keep rfl rfl rfl
      · refine eccFault_follows _ _ _ _ ?_
        rw [mk_change]
        exact (hput 2 3).keep rfl rfl rfl
  · refine clearKey_follows _ ?_
    split
    · exact eccFault_follows _ _ _ _ (hput _ _)
    · exact orphanRecord_follows _ (hput _ _)
  · refine alert_follows _ (Follows.foldl _ ?_ fun t x h => complete_follows _ _ h)
    rw [mk_change]
    exact (hput _ _).keep rfl rfl rfl
  · rw [mk_change]
    refine (hput _ _).make (Nat.le_refl _) (List.prefix_refl _) (Nat.le_refl _) (Nat.le_refl _) id id (fun h => ?_) (.refl _)
    refine LedgerAfter.fewer ?_ h.mirrorBelow (fun _ _ h _ => h) rfl rfl (Nat.le_refl _) (fun h => h.mirroredLe) h
    rintro n r (hr | hr)
    · dsimp only at hr
      split at hr
      · exact .inl (mem_terase hr)
      · split at hr
        · rename_i b e
          rcases mem_tset hr with e' | hr
          · obtain ⟨rfl, rfl⟩ := Prod.mk.inj e'
            exact .inr (mem_of_tget e)
          · exact .inl hr
        · exact .inl hr
    · exact .inr hr

theorem meetWord_follows {z : State} (c : EccCtx) (r : EccReport) {s : State} (hs : Follows z s) :
    Follows z (meetWord c r s).1 := by
  unfold meetWord
  repeat' (first
    | with_reducible assumption
    | with_reducible apply logError_follows
    | with_reducible apply uncorrectable_follows
    | split)

theorem meetWords_follows {z : State} (c : EccCtx) (l : List EccReport) {s : State} (hs : Follows z s) :
    Follows z (meetWords c l s).1 := by
  unfold meetWords
  repeat' (first
    | with_reducible assumption
    | with_reducible apply Follows.foldl_fst
    | with_reducible apply meetWord_follows
    | (intro _))

theorem microcodeReload_follows {z : State} (q : Nat) {s : State} (hs : Follows z s) :
    Follows z (microcodeReload q s) := by
  unfold microcodeReload
  repeat' (first
    | with_reducible assumption
    | rw [mk_change]
    | (with_reducible refine Follows.keep ?_ ?_ ?_ ?_; rotate_left; with_reducible rfl; with_reducible rfl; with_reducible rfl))

theorem launch_follows {z : State} (units : Nat) (effect : State → State → State) (r : Ref) {s : State} (heffect : ∀ y0 y1, Follows z y0 → Follows z y1 → Follows z (effect y0 y1)) (hs : Follows z s) :
    Follows z (launch units effect r s) := by
  unfold launch
  repeat' (first
    | with_reducible assumption
    | with_reducible apply heffect
    | with_reducible apply ensurePages_follows
    | with_reducible apply lineFails_follows
    | with_reducible apply setRunning_follows
    | with_reducible apply modDesc_follows
    | (extract_lets +onlyGivenNames x; have hx : Follows z x.1 := ?_; clear_value x; rotate_left; unfold x)
    | (extract_lets +onlyGivenNames x)
    | with_reducible apply Follows.ite
    | split)

theorem outputs_follows {z : State} (op : Ref → State → OpOut) (r : Ref) {e : State} {u : State} (hu : Follows z u) :
    Follows z (outputs op r e u) := by
  unfold outputs
  repeat' (first
    | with_reducible assumption
    | with_reducible apply finishOp_follows)

theorem runUnits_follows {z : State} (units : Ref → Nat) (op : Ref → State → OpOut) (r : Ref) {s : State} (hs : Follows z s) :
    Follows z (runUnits units op r s) := by
  unfold runUnits
  repeat' (first
    | with_reducible assumption
    | with_reducible apply launch_follows
    | with_reducible apply outputs_follows
    | (intro _))

theorem runOp_follows {z : State} (op : Ref → State → OpOut) (r : Ref) {s : State} (hs : Follows z s) :
    Follows z (runOp op r s) := by
  unfold runOp
  repeat' (first
    | with_reducible assumption
    | with_reducible apply runUnits_follows)

theorem matmul_follows {z : State} (ecc : List EccReport) (r : Ref) {s : State} (hs : Follows z s) :
    Follows z (matmul ecc r s) := by
  unfold matmul
  repeat' (first
    | with_reducible assumption
    | with_reducible apply meetWords_follows
    | with_reducible apply runOp_follows
    | with_reducible apply promotedValues_follows
    | with_reducible apply orMasks_follows
    | (extract_lets +onlyGivenNames x; have hx : Follows z x.1 := ?_; clear_value x; rotate_left; unfold x)
    | (extract_lets +onlyGivenNames x; clear_value x)
    | (extract_lets +onlyGivenNames x)
    | with_reducible apply Follows.ite
    | split
    | (refine Follows.of_fst (by with_reducible assumption) ?_))

theorem stashOut_follows {z : State} (r : Ref) {e : State} {u : State} (hu : Follows z u) :
    Follows z (stashOut r e u) := by
  unfold stashOut
  repeat' (first
    | with_reducible assumption
    | with_reducible apply finishOp_follows
    | with_reducible apply applyStores_follows
    | (extract_lets +onlyGivenNames x; have hx : Follows z x := ?_; clear_value x; rotate_left; unfold x)
    | (extract_lets +onlyGivenNames x; clear_value x)
    | with_reducible apply Follows.ite)

theorem stashRun_follows {z : State} (r : Ref) {s : State} (hs : Follows z s) :
    Follows z (stashRun r s) := by
  unfold stashRun
  repeat' (first
    | with_reducible assumption
    | with_reducible apply launch_follows
    | with_reducible apply stashOut_follows
    | (intro _))

theorem digestOut_follows {z : State} (r : Ref) {e : State} {u : State} (hu : Follows z u) :
    Follows z (digestOut r e u) := by
  unfold digestOut
  repeat' (first
    | with_reducible assumption
    | with_reducible apply applyStores_follows
    | with_reducible apply orMasks_follows
    | with_reducible apply putRecord_follows
    | with_reducible apply modSpan_follows
    | with_reducible apply mismatchEvent_follows
    | (extract_lets +onlyGivenNames x; have hx : Follows z x := ?_; clear_value x; rotate_left; unfold x)
    | (extract_lets +onlyGivenNames x; clear_value x)
    | (extract_lets +onlyGivenNames x)
    | with_reducible apply Follows.ite
    | split)

theorem digestRun_follows {z : State} (r : Ref) {s : State} (hs : Follows z s) :
    Follows z (digestRun r s) := by
  unfold digestRun
  repeat' (first
    | with_reducible assumption
    | with_reducible apply launch_follows
    | with_reducible apply digestOut_follows
    | (intro _))

theorem statisticsOut_follows {z : State} (r : Ref) {e : State} {u : State} (hu : Follows z u) :
    Follows z (statisticsOut r e u) := by
  unfold statisticsOut
  repeat' (first
    | with_reducible assumption
    | with_reducible apply orMasks_follows
    | with_reducible apply raiseEvents_follows
    | with_reducible apply putRecord_follows
    | (extract_lets +onlyGivenNames x; have hx : Follows z x := ?_; clear_value x; rotate_left; unfold x)
    | (extract_lets +onlyGivenNames x; clear_value x)
    | with_reducible apply Follows.ite)

theorem statisticsRun_follows {z : State} (r : Ref) {s : State} (hs : Follows z s) :
    Follows z (statisticsRun r s) := by
  unfold statisticsRun
  repeat' (first
    | with_reducible assumption
    | with_reducible apply launch_follows
    | with_reducible apply statisticsOut_follows
    | (intro _))

theorem ingressWaitRun_follows {z : State} (r : Ref) {s : State} (hs : Follows z s) :
    Follows z (ingressWaitRun r s) := by
  unfold ingressWaitRun
  repeat' (first
    | with_reducible assumption
    | with_reducible apply setRunning_follows
    | with_reducible apply retire_follows
    | with_reducible apply Follows.ite)

theorem stopThread_tile (t : Nat) (c : CoreSt) : (stopThread t c).tile = c.tile := by
  unfold stopThread
  split
  · split <;> rfl
  · rfl

theorem traceBranch_tile (store : Bytes) (thread : Nat) (c : CoreSt) (x : Nat × Nat × Bool × Nat) :
    (traceBranch store thread c x).tile = c.tile := by
  unfold traceBranch
  dsimp only
  split
  · rfl
  · rw [readyThread_tile, stopThread_tile]

theorem traceCore_tile (store : Bytes) (l : List (Nat × Nat × Bool × Nat)) (thread : Nat) (c : CoreSt) :
    (traceCore store l thread c).tile = c.tile := by
  unfold traceCore
  induction l generalizing c with
  | nil => rfl
  | cons x l ih => exact (ih _).trans (traceBranch_tile _ _ _ _)

theorem drainFlit_wf {c : CoreSt} (h : c.tile.wf = true) : (drainFlit c).tile.wf = true := by
  unfold drainFlit
  split
  · exact h
  · exact Memory_writeN_wf _ _ h

theorem foldl_wf {α : Type} {f : CoreSt → α → CoreSt} (l : List α) {c : CoreSt} (h : c.tile.wf = true)
    (hf : ∀ c x, c.tile.wf = true → (f c x).tile.wf = true) : (l.foldl f c).tile.wf = true := by
  induction l generalizing c with
  | nil => exact h
  | cons x l ih => exact ih (hf _ _ h)

theorem drainFill_wf {c : CoreSt} (h : c.tile.wf = true) : (drainFill c).tile.wf = true :=
  foldl_wf _ h fun _ _ h => drainFlit_wf h

theorem endTask_wf {c : CoreSt} (thread : Nat) (h : c.tile.wf = true) : (endTask thread c).tile.wf = true := by
  unfold endTask
  extract_lets d e
  have hd : d.tile.wf = true := drainFill_wf h
  clear_value d
  rw [stopThread_tile]
  unfold e
  split
  · exact hd
  · split
    · rw [readyThread_tile]
      exact hd
    · exact hd

theorem writes_wf {α : Type} {f : Memory → α → Memory} (l : List α) {m : Memory} (h : m.wf = true)
    (hf : ∀ m x, m.wf = true → (f m x).wf = true) : (l.foldl f m).wf = true := by
  induction l generalizing m with
  | nil => exact h
  | cons x l ih => exact ih (hf _ _ h)

/-- A step keeps the tile store in canonical form. -/
theorem cellStep_wf {x : CellStep} {c d : CoreSt} (h : c.tile.wf = true) (e : cellStep x c = some d) : d.tile.wf = true := by
  unfold cellStep at e
  split at e
  · split at e
    · cases e
    · cases e
      exact Memory_writeN_wf _ _ h
  · unfold arrayInstr at e
    dsimp only at e
    split at e
    · cases e
    · cases e
      exact h
  · split at e
    · cases e
    · cases e
      exact writes_wf _ h fun _ _ h => Memory_writeN_wf _ _ h
  · split at e
    · cases e
    · cases e
      exact h
  · cases e
    exact h

/-- Steps keep the tile store in canonical form. -/
theorem cellSteps_wf (l : List CellStep) {c d : CoreSt} (h : c.tile.wf = true) (e : cellSteps l c = some d) : d.tile.wf = true := by
  unfold cellSteps at e
  have key : ∀ (l : List CellStep) (o : Option CoreSt), (∀ c, o = some c → c.tile.wf = true) →
      ∀ d, l.foldl (fun c x => c.bind (cellStep x)) o = some d → d.tile.wf = true := by
    intro l
    induction l with
    | nil => intro o ho d e; exact ho d e
    | cons x l ih =>
      intro o ho d e
      refine ih _ (fun c hc => ?_) d e
      obtain ⟨b, hb, hc⟩ := Option.bind_eq_some_iff.1 hc
      exact cellStep_wf (ho b hb) hc
  exact key l _ (fun c hc => by cases hc; exact h) d e

theorem endUnit_follows {z : State} (t : TaskRef) (unit : Nat) (r : Ref) {s : State} (hs : Follows z s) :
    Follows z (endUnit t unit r s) := by
  unfold endUnit
  extract_lets st thread core store
  split
  · exact programFault_follows _ _ hs
  · rename_i c e
    have h1 := modCore_at_follows core (fun _ => endTask thread (traceCore store (Config.branchTrace t unit) thread c)) hs
      (fun h => endTask_wf _ (by rw [traceCore_tile]; exact cellSteps_wf _ (coreAt_wf h _) e))
    have h2 := modSub_follows t.job t.sub (fun u => { u with state := tset u.state t.desc { st with ended := st.ended ++ [unit] } }) h1
    exact Follows.ite (retire_follows _ h2) h2

theorem effectOf_follows {z : State} (r : Ref) {e u : State} (hu : Follows z u) : Follows z (effectOf r e u) := by
  unfold effectOf
  have ho : ∀ op, Follows z (outputs op r e u) := fun op => finishOp_follows _ _ hu
  split <;> first
    | exact ho _
    | exact hu
    | exact stashOut_follows _ hu
    | exact digestOut_follows _ hu
    | exact statisticsOut_follows _ hu

theorem endLate_follows {z : State} (t : TaskRef) (unit : Nat) (r : Ref) {s : State} (hs : Follows z s) :
    Follows z (endLate t unit r s) := by
  unfold endLate
  repeat' (first
    | with_reducible assumption
    | with_reducible apply ensurePages_follows
    | with_reducible apply effectOf_follows
    | with_reducible apply modDesc_follows
    | with_reducible apply endUnit_follows
    | (extract_lets +onlyGivenNames x; have hx : Follows z x := ?_; clear_value x; rotate_left; unfold x)
    | (extract_lets +onlyGivenNames x; have hx : Follows z x.1 := ?_; clear_value x; rotate_left; unfold x)
    | (extract_lets +onlyGivenNames x; clear_value x)
    | (extract_lets +onlyGivenNames x)
    | with_reducible apply Follows.ite
    | split)

theorem taskBoundary_follows {z : State} (t : TaskRef) (unit : Nat) {s : State} (hs : Follows z s) :
    Follows z (taskBoundary t unit s) := by
  unfold taskBoundary
  repeat' (first
    | with_reducible assumption
    | with_reducible apply endLate_follows
    | (extract_lets +onlyGivenNames x; clear_value x)
    | with_reducible apply Follows.ite
    | split)

theorem setHeader_follows {z : State} (j : Nat) (h : Nat × Nat) (v : Nat × Nat) {s : State} (hs : Follows z s) :
    Follows z (setHeader j h v s) := by
  unfold setHeader
  repeat' (first
    | with_reducible assumption
    | with_reducible apply modTensor_follows)

theorem residentPage_follows {z : State} (r : Ref) (page : Nat) {s : State} (hs : Follows z s) :
    Follows z (residentPage r page s).1 := by
  unfold residentPage
  repeat' (first
    | with_reducible assumption
    | with_reducible apply Follows.foldl
    | with_reducible apply requestPage_follows
    | (intro _))

theorem clearGradient_follows {z : State} (r : Ref) (page : Nat) {s : State} (hs : Follows z s) :
    Follows z (clearGradient r page s) := by
  unfold clearGradient
  repeat' (first
    | with_reducible assumption
    | with_reducible apply Follows.foldl
    | with_reducible apply poke_follows
    | with_reducible apply freeBasin_follows
    | (intro _)
    | (extract_lets +onlyGivenNames x; clear_value x)
    | (extract_lets +onlyGivenNames x)
    | with_reducible apply Follows.ite
    | split)

theorem retireOptim_follows {z : State} (t : TaskRef) {s : State} (hs : Follows z s) :
    Follows z (retireOptim t s) := by
  unfold retireOptim
  repeat' (first
    | with_reducible assumption
    | with_reducible apply retire_follows
    | with_reducible apply putRecord_follows
    | (extract_lets +onlyGivenNames x)
    | with_reducible apply Follows.ite
    | split)

theorem skipOptim_follows {z : State} (r : Ref) {s : State} (hs : Follows z s) :
    Follows z (skipOptim r s) := by
  unfold skipOptim
  repeat' (first
    | with_reducible assumption
    | with_reducible apply Follows.foldl
    | with_reducible apply unpinParameter_follows
    | with_reducible apply clearGradient_follows
    | with_reducible apply setRunning_follows
    | with_reducible apply modSub_follows
    | with_reducible apply retireOptim_follows
    | (intro _))

theorem optimiserStart_follows {z : State} (r : Ref) {s : State} (hs : Follows z s) :
    Follows z (optimiserStart r s) := by
  unfold optimiserStart
  repeat' (first
    | with_reducible assumption
    | with_reducible apply taskFault_follows
    | with_reducible apply skipOptim_follows
    | with_reducible apply retire_follows
    | with_reducible apply setRunning_follows
    | (extract_lets +onlyGivenNames x; clear_value x)
    | (extract_lets +onlyGivenNames x)
    | with_reducible apply Follows.ite)

theorem withPage_follows {z : State} (t : TaskRef) (page : Nat) (reads : Ref → State → List (Option TV)) (f : Ref → State → State) {s : State} (hf : ∀ y0 y1, Follows z y1 → Follows z (f y0 y1)) (hs : Follows z s) :
    Follows z (withPage t page reads f s) := by
  unfold withPage
  repeat' (first
    | with_reducible assumption
    | with_reducible apply hf
    | with_reducible apply residentPage_follows
    | with_reducible apply lineFails_follows
    | (extract_lets +onlyGivenNames x; have hx : Follows z x.1 := ?_; clear_value x; rotate_left; unfold x)
    | (extract_lets +onlyGivenNames x)
    | with_reducible apply Follows.ite
    | split)

theorem pageEffects_follows {z : State} (r : Ref) (page : Nat) (f : NumFlags) {s : State} (hs : Follows z s) :
    Follows z (pageEffects r page f s) := by
  unfold pageEffects
  repeat' (first
    | with_reducible assumption
    | with_reducible apply raiseFlags_follows
    | with_reducible apply orMasks_follows)

theorem momentTask_follows {z : State} (page : Nat) (r : Ref) {s : State} (hs : Follows z s) :
    Follows z (momentTask page r s) := by
  unfold momentTask
  repeat' (first
    | with_reducible assumption
    | with_reducible apply taskFault_follows
    | with_reducible apply pageEffects_follows
    | with_reducible apply applyStores_follows
    | with_reducible apply modCore_follows
    | with_reducible apply modDesc_follows
    | with_reducible apply setHeader_follows
    | (intro k hk; exact hk)
    | (extract_lets +onlyGivenNames x; have hx : Follows z x := ?_; clear_value x; rotate_left; unfold x)
    | (extract_lets +onlyGivenNames x; clear_value x)
    | (extract_lets +onlyGivenNames x)
    | with_reducible apply Follows.ite)

theorem endPage_follows {z : State} (r : Ref) (page : Nat) (finished : Nat) (unchanged : Nat) {s : State} (hs : Follows z s) :
    Follows z (endPage r page finished unchanged s) := by
  unfold endPage
  repeat' (first
    | with_reducible assumption
    | with_reducible apply modDesc_follows
    | with_reducible apply modSub_follows
    | with_reducible apply retireOptim_follows
    | (extract_lets +onlyGivenNames x; have hx : Follows z x := ?_; clear_value x; rotate_left; unfold x)
    | with_reducible apply Follows.ite)

theorem writeWeights_follows {z : State} (page : Nat) (r : Ref) (h : Nat × Nat) {s : State} (hs : Follows z s) :
    Follows z (writeWeights page r h s) := by
  unfold writeWeights
  repeat' (first
    | with_reducible assumption
    | with_reducible apply pageEffects_follows
    | with_reducible apply applyStores_follows
    | with_reducible apply modDesc_follows
    | with_reducible apply modCore_follows
    | with_reducible apply unpinParameter_follows
    | with_reducible apply clearGradient_follows
    | with_reducible apply setHeader_follows
    | (intro k hk; exact hk))

theorem weightTask_follows {z : State} (page : Nat) (r : Ref) {s : State} (hs : Follows z s) :
    Follows z (weightTask page r s) := by
  unfold weightTask
  repeat' (first
    | with_reducible assumption
    | with_reducible apply endPage_follows
    | with_reducible apply writeWeights_follows
    | with_reducible apply unpinParameter_follows
    | with_reducible apply taskFault_follows
    | (extract_lets +onlyGivenNames x; clear_value x)
    | (extract_lets +onlyGivenNames x)
    | with_reducible apply Follows.ite)

theorem ensureOutputs_follows {z : State} (r : Ref) {s : State} (hs : Follows z s) :
    Follows z (ensureOutputs r s).1 := by
  unfold ensureOutputs
  repeat' (first
    | with_reducible assumption
    | with_reducible apply bringForWrite_follows)

theorem placedOutput_follows {z : State} (r : Ref) {s : State} (hs : Follows z s) :
    Follows z (placedOutput r s) := by
  unfold placedOutput
  repeat' (first
    | with_reducible assumption
    | with_reducible apply noteWrite_follows)

theorem modColl_follows {z : State} (t : TaskRef) (f : Coll → Coll) {s : State} (hs : Follows z s) :
    Follows z (modColl t f s) := by
  unfold modColl
  repeat' (first
    | with_reducible assumption
    | with_reducible apply modJob_follows)

theorem endColl_follows {z : State} (t : TaskRef) {s : State} (hs : Follows z s) :
    Follows z (endColl t s) := by
  unfold endColl
  repeat' (first
    | with_reducible assumption
    | with_reducible apply retire_follows
    | with_reducible apply modJob_follows)

theorem sendLevel_follows {z : State} (t : TaskRef) {s : State} (hs : Follows z s) :
    Follows z (sendLevel t s) := by
  unfold sendLevel
  repeat' (first
    | with_reducible assumption
    | with_reducible apply Follows.foldl
    | with_reducible apply sendAll_follows
    | (intro _)
    | (extract_lets +onlyGivenNames x; clear_value x)
    | with_reducible apply Follows.ite
    | split)

theorem writeFeedback_follows {z : State} (c : Coll) (r : Ref) {s : State} (hs : Follows z s) :
    Follows z (writeFeedback c r s) := by
  unfold writeFeedback
  repeat' (first
    | with_reducible assumption
    | with_reducible apply raiseFlags_follows
    | with_reducible apply applyStores_follows
    | split)

theorem finishReduction_follows {z : State} (c : Coll) (r : Ref) (vals : Nat → Val) (own : Nat → Bool) {s : State} (hs : Follows z s) :
    Follows z (finishReduction c r vals own s) := by
  unfold finishReduction
  repeat' (first
    | with_reducible assumption
    | with_reducible apply orMasks_follows
    | with_reducible apply finishOp_follows
    | with_reducible apply setOverflow_follows
    | with_reducible apply endColl_follows
    | with_reducible apply writeFeedback_follows
    | (extract_lets +onlyGivenNames x)
    | with_reducible apply Follows.ite)

theorem putShard_follows {z : State} (r : Ref) (q : Nat) (off : Nat) (b : Bytes) {s : State} (hs : Follows z s) :
    Follows z (putShard r q off b s) := by
  unfold putShard
  repeat' (first
    | with_reducible assumption
    | with_reducible apply Follows.foldl
    | with_reducible apply poke_follows
    | (intro _))

theorem advance_follows {z : State} (x0 : Nat) (x1 : TaskRef) {x2 : State} (hx2 : Follows z x2) :
    Follows z (advance x0 x1 x2) := by
  induction x0 generalizing x2 with
  | zero => exact hx2
  | succ k ih =>
    unfold advance
    split
    · rename_i c r _ _
      have he : ∀ t, Follows z t → Follows z (ensureOutputs r t).1 := fun t h => ensureOutputs_follows r h
      have hfold : ∀ t, Follows z t → ∀ (l : List Nat) (g : State → Nat → List Packet) (j : Nat),
          Follows z (l.foldl (fun s q => sendAll j (g s q) s) t) :=
        fun t h l g j => Follows.foldl _ h fun _ _ h => sendAll_follows _ _ h
      extract_lets +onlyGivenNames x y n
      refine Follows.ite hx2 (Follows.ite (Follows.ite ?_ hx2) (Follows.ite (Follows.ite ?_ hx2) (Follows.ite ?_ (Follows.ite ?_ hx2))))
      · extract_lets +onlyGivenNames e
        refine Follows.ite (he _ hx2) ?_
        refine (endColl_follows _ (placedOutput_follows _ (orMasks_follows _ _ _ ?_)))
        exact putShard_follows _ _ _ _ (he _ hx2)
      · extract_lets +onlyGivenNames next s
        have hs : Follows z s := raiseFlags_follows _ _ _ (modColl_follows _ _ hx2)
        clear_value s
        refine Follows.ite (ih (sendLevel_follows _ hs)) (Follows.ite (ih hs) ?_)
        extract_lets +onlyGivenNames e
        refine Follows.ite (modColl_follows _ _ (he _ hs)) ?_
        split
        · exact he _ hs
        · dsimp only
          exact ih (Follows.ite (he _ hs) (hfold _ (he _ hs) _ (fun s q => cutTransfer 1 _ _ (_ ||| sourceMask s _) _ _) _))
      · extract_lets +onlyGivenNames e l
        exact Follows.ite (he _ hx2) (finishReduction_follows _ _ _ _ (he _ hx2))
      · extract_lets +onlyGivenNames e all l mine
        exact Follows.ite (he _ hx2) (finishReduction_follows _ _ _ _ (he _ hx2))
    · exact hx2

theorem goOn_follows {z : State} (t : TaskRef) {s : State} (hs : Follows z s) :
    Follows z (goOn t s) := by
  unfold goOn
  repeat' (first
    | with_reducible assumption
    | with_reducible apply advance_follows)

theorem takeTag_follows {z : State} (i : Nat) {s : State} (hs : Follows z s) :
    Follows z (takeTag i s).2 := by
  unfold takeTag
  repeat' (first
    | with_reducible assumption
    | with_reducible apply modObj_follows
    | split)

theorem startGathering_follows {z : State} (r : Ref) (grp : Group) {s : State} (hs : Follows z s) :
    Follows z (startGathering r grp s) := by
  unfold startGathering
  repeat' (first
    | with_reducible assumption
    | with_reducible apply Follows.foldl
    | with_reducible apply takeTag_follows
    | with_reducible apply setRunning_follows
    | with_reducible apply modJob_follows
    | with_reducible apply sendAll_follows
    | with_reducible apply goOn_follows
    | (intro _)
    | (extract_lets +onlyGivenNames x)
    | with_reducible apply Follows.ite)

theorem startReducing_follows {z : State} (r : Ref) (grp : Group) {s : State} (hs : Follows z s) :
    Follows z (startReducing r grp s) := by
  unfold startReducing
  repeat' (first
    | with_reducible assumption
    | with_reducible apply takeTag_follows
    | with_reducible apply setRunning_follows
    | with_reducible apply raiseFlags_follows
    | with_reducible apply goOn_follows
    | with_reducible apply sendLevel_follows
    | with_reducible apply modJob_follows)

theorem collStart_follows {z : State} (r : Ref) {s : State} (hs : Follows z s) :
    Follows z (collStart r s) := by
  unfold collStart
  repeat' (first
    | with_reducible assumption
    | with_reducible apply programFault_follows
    | with_reducible apply bringPages_follows
    | with_reducible apply lineFails_follows
    | with_reducible apply startGathering_follows
    | with_reducible apply startReducing_follows
    | (extract_lets +onlyGivenNames x; have hx : Follows z x.1 := ?_; clear_value x; rotate_left; unfold x)
    | (extract_lets +onlyGivenNames x)
    | with_reducible apply Follows.ite
    | split)

theorem verdictStart_follows {z : State} (r : Ref) {s : State} (hs : Follows z s) :
    Follows z (verdictStart r s) := by
  unfold verdictStart
  repeat' (first
    | with_reducible assumption
    | with_reducible apply Follows.foldl
    | with_reducible apply programFault_follows
    | with_reducible apply verdictFault_follows
    | with_reducible apply taskFault_follows
    | with_reducible apply takeTag_follows
    | with_reducible apply modJob_follows
    | with_reducible apply setRunning_follows
    | with_reducible apply sendAll_follows
    | (intro _)
    | (extract_lets +onlyGivenNames x; have hx : Follows z x := ?_; clear_value x; rotate_left; unfold x)
    | (extract_lets +onlyGivenNames x; have hx : Follows z x.2 := ?_; clear_value x; rotate_left; unfold x)
    | (extract_lets +onlyGivenNames x; clear_value x)
    | (extract_lets +onlyGivenNames x)
    | with_reducible apply Follows.ite
    | split)

theorem modXfer_follows {z : State} (t : TaskRef) (f : Xfer → Xfer) {s : State} (hs : Follows z s) :
    Follows z (modXfer t f s) := by
  unfold modXfer
  repeat' (first
    | with_reducible assumption
    | with_reducible apply modJob_follows)

theorem endXfer_follows {z : State} (t : TaskRef) {s : State} (hs : Follows z s) :
    Follows z (endXfer t s) := by
  unfold endXfer
  repeat' (first
    | with_reducible assumption
    | with_reducible apply retire_follows
    | with_reducible apply modJob_follows)

theorem mismatch_follows {z : State} (t : TaskRef) (peer : Nat) (vc : Nat) (tag : Nat) {s : State} (hs : Follows z s) :
    Follows z (mismatch t peer vc tag s) := by
  unfold mismatch
  repeat' (first
    | with_reducible assumption
    | with_reducible apply taskFault_follows
    | with_reducible apply errorTo_follows)

theorem transmit_follows {z : State} (r : Ref) (want : Nat) {s : State} (hs : Follows z s) :
    Follows z (transmit r want s) := by
  unfold transmit
  repeat' (first
    | with_reducible assumption
    | with_reducible apply mismatch_follows
    | with_reducible apply lineFails_follows
    | with_reducible apply sendAll_follows
    | with_reducible apply modXfer_follows
    | (extract_lets +onlyGivenNames x; clear_value x)
    | (extract_lets +onlyGivenNames x)
    | with_reducible apply Follows.ite)

theorem sendStart_follows {z : State} (r : Ref) {s : State} (hs : Follows z s) :
    Follows z (sendStart r s) := by
  unfold sendStart
  repeat' (first
    | with_reducible assumption
    | with_reducible apply ensurePages_follows
    | with_reducible apply modJob_follows
    | with_reducible apply setRunning_follows
    | with_reducible apply transmit_follows
    | (extract_lets +onlyGivenNames x; have hx : Follows z x := ?_; clear_value x; rotate_left; unfold x)
    | (extract_lets +onlyGivenNames x; have hx : Follows z x.1 := ?_; clear_value x; rotate_left; unfold x)
    | (extract_lets +onlyGivenNames x; clear_value x)
    | (extract_lets +onlyGivenNames x)
    | with_reducible apply Follows.ite
    | split)

theorem receiveStart_follows {z : State} (r : Ref) {s : State} (hs : Follows z s) :
    Follows z (receiveStart r s) := by
  unfold receiveStart
  repeat' (first
    | with_reducible assumption
    | with_reducible apply ensurePages_follows
    | with_reducible apply modJob_follows
    | with_reducible apply setRunning_follows
    | with_reducible apply sendOrFault_follows
    | (extract_lets +onlyGivenNames x; have hx : Follows z x := ?_; clear_value x; rotate_left; unfold x)
    | (extract_lets +onlyGivenNames x; have hx : Follows z x.1 := ?_; clear_value x; rotate_left; unfold x)
    | (extract_lets +onlyGivenNames x; clear_value x)
    | with_reducible apply Follows.ite)

theorem clearArrives_follows {z : State} (j : Nat) (src : Nat) (tag : Nat) (want : Nat) {s : State} (hs : Follows z s) :
    Follows z (clearArrives j src tag want s) := by
  unfold clearArrives
  repeat' (first
    | with_reducible assumption
    | with_reducible apply modJob_follows
    | with_reducible apply transmit_follows
    | split)

theorem placementArrives_follows {z : State} (j : Nat) (src : Nat) (tag : Nat) (placed : Nat) {s : State} (hs : Follows z s) :
    Follows z (placementArrives j src tag placed s) := by
  unfold placementArrives
  repeat' (first
    | with_reducible assumption
    | with_reducible apply taskFault_follows
    | with_reducible apply endXfer_follows
    | with_reducible apply Follows.ite
    | split)

theorem receiveData_follows {z : State} (x : Xfer) (off : Nat) (mask : Nat) (last : Bool) (data : Bytes) {s : State} (hs : Follows z s) :
    Follows z (receiveData x off mask last data s) := by
  unfold receiveData
  repeat' (first
    | with_reducible assumption
    | with_reducible apply Follows.foldl
    | with_reducible apply mismatch_follows
    | with_reducible apply modXfer_follows
    | with_reducible apply engineWrite_follows
    | with_reducible apply orMasks_follows
    | with_reducible apply placedOutput_follows
    | with_reducible apply sendOrFault_follows
    | with_reducible apply endXfer_follows
    | (intro _)
    | (extract_lets +onlyGivenNames x; have hx : Follows z x := ?_; clear_value x; rotate_left; unfold x)
    | (extract_lets +onlyGivenNames x; clear_value x)
    | (extract_lets +onlyGivenNames x)
    | with_reducible apply Follows.ite
    | split)

theorem collFault_follows {z : State} (c : Coll) {s : State} (hs : Follows z s) :
    Follows z (collFault c s) := by
  unfold collFault
  repeat' (first
    | with_reducible assumption
    | with_reducible apply verdictFault_follows
    | with_reducible apply taskFault_follows
    | with_reducible apply Follows.ite)

theorem collData_follows {z : State} (c : Coll) (src off mask : Nat) (last : Bool) (data : Bytes) {s : State} (hs : Follows z s) :
    Follows z (collData c src off mask last data s).1 := by
  unfold collData
  split
  · exact hs
  · rename_i r _
    extract_lets +onlyGivenNames q
    split
    · exact collFault_follows _ hs
    · rename_i k l size _
      extract_lets +onlyGivenNames so
      refine Follows.ite_fst (collFault_follows _ hs) ?_
      have he : Follows z (if c.kind = 0x21 then ensureOutputs r s
          else if c.kind = 0x22 ∨ c.kind = 0x23 then
            ((r.pages (opWrites r.d)).filter fun p => (dirAt s c.task.job p).gradient).foldl
              (fun acc p => ((gradientWrite c.task.job p acc.1).1, acc.2 && (gradientWrite c.task.job p acc.1).2)) (s, true)
          else (s, true)).1 := by
        exact Follows.ite_fst (ensureOutputs_follows _ hs) (Follows.ite_fst
          (Follows.foldl_fst _ hs fun t x h => gradientWrite_follows _ _ h) hs)
      dsimp only
      refine Follows.ite_fst he ?_
      have ht := fun f => modColl_follows (z := z) c.task f he
      have hu := fun f m k b => Follows.ite (c := c.kind = 0x21) (orMasks_follows c.task.job m (opWrites r.d) (putShard_follows r q k b (ht f))) (ht f)
      exact Follows.ite (goOn_follows _ (hu _ _ _ _)) (hu _ _ _ _)

theorem dataArrives_follows {z : State} (j : Nat) (src : Nat) (vc : Nat) (tag : Nat) (off : Nat) (mask : Nat) (last : Bool) (data : Bytes) {s : State} (hs : Follows z s) :
    Follows z (dataArrives j src vc tag off mask last data s).1 := by
  unfold dataArrives
  repeat' (first
    | with_reducible assumption
    | with_reducible apply receiveData_follows
    | with_reducible apply collData_follows
    | with_reducible apply mechFault_follows
    | (extract_lets +onlyGivenNames x; clear_value x)
    | (extract_lets +onlyGivenNames x)
    | with_reducible apply Follows.ite_fst
    | split)

theorem collTimeout_follows {z : State} (t : TaskRef) {s : State} (hs : Follows z s) :
    Follows z (collTimeout t s) := by
  unfold collTimeout
  repeat' (first
    | with_reducible assumption
    | with_reducible apply taskFault_follows
    | with_reducible apply Follows.ite)

theorem xferTimeout_follows {z : State} (t : TaskRef) {s : State} (hs : Follows z s) :
    Follows z (xferTimeout t s) := by
  unfold xferTimeout
  repeat' (first
    | with_reducible assumption
    | with_reducible apply taskFault_follows
    | with_reducible apply Follows.ite
    | split)

theorem bumpJob_follows {z : State} (j : Nat) (k : Nat) {s : State} (hs : Follows z s) :
    Follows z (bumpJob j k s) := by
  unfold bumpJob
  repeat' (first
    | with_reducible assumption
    | with_reducible apply modJob_follows)

theorem markWanted_follows {z : State} (j : Nat) {s : State} (hs : Follows z s) :
    Follows z (markWanted j s) := by
  unfold markWanted
  repeat' (first
    | with_reducible assumption
    | with_reducible apply modJob_follows
    | (extract_lets +onlyGivenNames x; clear_value x)
    | with_reducible apply Follows.ite
    | split)

theorem ensureBytes_follows {z : State} (j : Nat) (v : TV) (off : Nat) (n : Nat) {s : State} (hs : Follows z s) :
    Follows z (ensureBytes j v off n s).1 := by
  unfold ensureBytes
  repeat' (first
    | with_reducible assumption
    | with_reducible apply bringPages_follows)

theorem serveRead_follows {z : State} (j : Nat) (b : Bytes) {s : State} (hs : Follows z s) :
    Follows z (serveRead j b s).1 := by
  unfold serveRead
  repeat' (first
    | with_reducible assumption
    | with_reducible apply hf
    | with_reducible apply errorTo_follows
    | with_reducible apply ensureBytes_follows
    | with_reducible apply lineFails_follows
    | with_reducible apply sendAll_follows
    | (intro _)
    | (extract_lets +onlyGivenNames x; have hx : Follows z x.1 := ?_; clear_value x; rotate_left; unfold x)
    | (extract_lets +onlyGivenNames x; have hf : ∀ c, Follows z (x c).1 := ?_; clear_value x; rotate_left; unfold x)
    | (extract_lets +onlyGivenNames x; clear_value x)
    | (extract_lets +onlyGivenNames x)
    | with_reducible apply Follows.ite_fst
    | split)

theorem fencePacket_follows {z : State} (j : Nat) (b : Bytes) {s : State} (hs : Follows z s) :
    Follows z (fencePacket j b s).1 := by
  unfold fencePacket
  repeat' (first
    | with_reducible assumption
    | with_reducible apply bumpJob_follows
    | with_reducible apply errorTo_follows
    | with_reducible apply applySignal_follows
    | with_reducible apply touchFence_follows
    | (extract_lets +onlyGivenNames x; have hx : Follows z x.1 := ?_; clear_value x; rotate_left; unfold x)
    | (extract_lets +onlyGivenNames x; clear_value x)
    | (extract_lets +onlyGivenNames x)
    | with_reducible apply Follows.ite_fst
    | split)

theorem forward_follows {z : State} (port : Nat) (b : Bytes) {s : State} (hs : Follows z s) :
    Follows z (forward port b s) := by
  unfold forward
  repeat' (first
    | with_reducible assumption
    | with_reducible apply hf
    | with_reducible apply freeBuffer_follows
    | with_reducible apply bumpPort_follows
    | with_reducible apply egress_follows
    | (intro _)
    | (extract_lets +onlyGivenNames x; have hf : ∀ c, Follows z (x c) := ?_; clear_value x; rotate_left; unfold x)
    | split)

theorem takeRequest_follows {z : State} (j : Nat) (b : Bytes) {s : State} (hs : Follows z s) :
    Follows z (takeRequest j b s).1 := by
  unfold takeRequest
  repeat' (first
    | with_reducible assumption
    | with_reducible apply dataArrives_follows
    | with_reducible apply modJob_follows
    | with_reducible apply serveRead_follows
    | with_reducible apply fencePacket_follows
    | (extract_lets +onlyGivenNames x; have hx : Follows z x.1 := ?_; clear_value x; rotate_left; unfold x)
    | split)

theorem addWaiting_follows {z : State} (port : Nat) (x : Option Nat × Bytes) {s : State} (hs : Follows z s) :
    Follows z (addWaiting port x s) := by
  unfold addWaiting
  repeat' (first
    | with_reducible assumption
    | with_reducible apply modPort_follows)

theorem tryPacket_follows {z : State} (port : Nat) (x : Option Nat × Bytes) {s : State} (hs : Follows z s) :
    Follows z (tryPacket port x s) := by
  unfold tryPacket
  repeat' (first
    | with_reducible assumption
    | with_reducible apply forward_follows
    | with_reducible apply takeRequest_follows
    | with_reducible apply freeBuffer_follows
    | with_reducible apply markWanted_follows
    | with_reducible apply addWaiting_follows
    | (extract_lets +onlyGivenNames x; have hx : Follows z x.1 := ?_; clear_value x; rotate_left; unfold x)
    | split)

theorem retryPort_follows {z : State} (port : Nat) {s : State} (hs : Follows z s) :
    Follows z (retryPort port s) := by
  unfold retryPort
  repeat' (first
    | with_reducible assumption
    | with_reducible apply Follows.foldl
    | with_reducible apply modPort_follows
    | with_reducible apply addWaiting_follows
    | with_reducible apply tryPacket_follows
    | (intro _)
    | (extract_lets +onlyGivenNames x)
    | with_reducible apply Follows.ite)

theorem retryHeld_follows {z : State} (j : Nat) {s : State} (hs : Follows z s) :
    Follows z (retryHeld j s) := by
  unfold retryHeld
  repeat' (first
    | with_reducible assumption
    | with_reducible apply Follows.foldl
    | with_reducible apply retryPort_follows
    | with_reducible apply goOn_follows
    | (intro _))

theorem dropWaiting_follows {z : State} (j : Nat) {s : State} (hs : Follows z s) :
    Follows z (dropWaiting j s) := by
  unfold dropWaiting
  repeat' (first
    | with_reducible assumption
    | with_reducible apply Follows.foldl
    | with_reducible apply freeBuffer_follows
    | with_reducible apply modPort_follows
    | (intro _)
    | (extract_lets +onlyGivenNames x)
    | with_reducible apply Follows.ite)

end Sys2Proof.Laws
end

