-- ==== Sys2Proof/Laws/FollowsJobs.lean ====
section
/-! SUPPORT. What follows a state keeps its promises: one lemma per operation, for keys, jobs, shards, slices, Vale, Steppe, captures and restores. -/

set_option linter.tactic.unusedName false

namespace Sys2Proof.Laws

open Sys2Proof.Machine

theorem slotRecord_follows {z : State} (action : Nat) (n : Nat) (jobId : Nat) (k : KeySlot) {s : State} (hs : Follows z s) :
    Follows z (slotRecord action n jobId k s) := by
  unfold slotRecord
  repeat' (first
    | with_reducible assumption
    | with_reducible apply ledger_follows)

theorem fillSlot_follows {z : State} (n : Nat) (k : KeySlot) {s : State} (hs : Follows z s) :
    Follows z (fillSlot n k s) := by
  unfold fillSlot
  repeat' (first
    | with_reducible assumption
    | rw [mk_change]
    | (with_reducible refine Follows.keep ?_ ?_ ?_ ?_; rotate_left; with_reducible rfl; with_reducible rfl; with_reducible rfl))

theorem destroySlot_follows {z : State} (action : Nat) (n : Nat) {s : State} (hs : Follows z s) :
    Follows z (destroySlot action n s) := by
  unfold destroySlot
  repeat' (first
    | with_reducible assumption
    | rw [mk_change]
    | with_reducible apply slotRecord_follows
    | (with_reducible refine Follows.keep ?_ ?_ ?_ ?_; rotate_left; with_reducible rfl; with_reducible rfl; with_reducible rfl)
    | (extract_lets +onlyGivenNames x; clear_value x)
    | split)

theorem keyIdFree_follows {z : State} (k : Nat) {s : State} (hs : Follows z s) :
    Follows z (keyIdFree k s) := by
  unfold keyIdFree
  repeat' (first
    | with_reducible assumption
    | rw [mk_change]
    | with_reducible apply destroySlot_follows
    | with_reducible apply ledgerSelf_follows
    | (with_reducible refine Follows.keep ?_ ?_ ?_ ?_; rotate_left; with_reducible rfl; with_reducible rfl; with_reducible rfl)
    | (extract_lets +onlyGivenNames x; have hx : Follows z x := ?_; clear_value x; rotate_left; unfold x)
    | (extract_lets +onlyGivenNames x; have _ : Vale := x)
    | with_reducible apply Follows.ite
    | split)

theorem keyUp_follows {z : State} (j : Nat) (secret : Bytes) (slots : List (Nat × KeySlot)) {s : State} (hs : Follows z s) :
    Follows z (keyUp j secret slots s) := by
  unfold keyUp
  repeat' (first
    | with_reducible assumption
    | rw [mk_change]
    | with_reducible apply Follows.foldl
    | with_reducible apply fillSlot_follows
    | with_reducible apply modJob_follows
    | (with_reducible refine Follows.keep ?_ ?_ ?_ ?_; rotate_left; with_reducible rfl; with_reducible rfl; with_reducible rfl)
    | (intro _)
    | (extract_lets +onlyGivenNames x; have hx : Follows z x := ?_; clear_value x; rotate_left; unfold x)
    | (extract_lets +onlyGivenNames x; clear_value x)
    | split)

theorem slotRecords_follows {z : State} (jobId : Nat) (l : List (Nat × KeySlot)) {s : State} (hs : Follows z s) :
    Follows z (slotRecords jobId l s) := by
  unfold slotRecords
  repeat' (first
    | with_reducible assumption
    | with_reducible apply Follows.foldl
    | with_reducible apply slotRecord_follows
    | (intro _))

theorem withGlen_follows {z : State} (m : Msg) (body : Msg → State → State) {s : State} (hbody : ∀ y0 y1, Follows z y1 → Follows z (body y0 y1)) (hs : Follows z s) :
    Follows z (withGlen m body s) := by
  unfold withGlen
  repeat' (first
    | with_reducible assumption
    | rw [mk_change]
    | with_reducible apply hbody
    | with_reducible apply newTicket_follows
    | with_reducible apply keepRunning_follows
    | (with_reducible refine Follows.keep ?_ ?_ ?_ ?_; rotate_left; with_reducible rfl; with_reducible rfl; with_reducible rfl)
    | (extract_lets +onlyGivenNames x; have hx : Follows z x.2 := ?_; clear_value x; rotate_left; unfold x)
    | (extract_lets +onlyGivenNames x; clear_value x)
    | with_reducible apply Follows.ite)

theorem jobCreateRun_follows {z : State} (m : Msg) {s : State} (hs : Follows z s) :
    Follows z (jobCreateRun m s) := by
  unfold jobCreateRun
  repeat' (first
    | with_reducible assumption
    | rw [mk_change]
    | with_reducible apply complete_follows
    | with_reducible apply ledgerFor_follows
    | with_reducible apply freshBytes_follows
    | with_reducible apply deferChange_follows
    | with_reducible apply slotRecords_follows
    | (with_reducible refine Follows.keep ?_ ?_ ?_ ?_; rotate_left; with_reducible rfl; with_reducible rfl; with_reducible rfl)
    | (extract_lets +onlyGivenNames x; have hx : Follows z x := ?_; clear_value x; rotate_left; unfold x)
    | (extract_lets +onlyGivenNames x; have hx : Follows z x.2 := ?_; clear_value x; rotate_left; unfold x)
    | (extract_lets +onlyGivenNames x; clear_value x)
    | (extract_lets +onlyGivenNames x)
    | with_reducible apply Follows.ite
    | with_reducible apply Follows.ite_snd
    | split)

theorem sendKeying_follows {z : State} (device : Nat) (jobId : Nat) (kind : KeyingKind) (record : Bytes) {s : State} (hs : Follows z s) :
    Follows z (sendKeying device jobId kind record s) := by
  unfold sendKeying
  repeat' (first
    | with_reducible assumption
    | with_reducible apply emit_follows)

theorem applyCreate_follows {z : State} (j : Nat) (b : Job) (slots : List (Nat × KeySlot)) {s : State} (hs : Follows z s) :
    Follows z (applyCreate j b slots s) := by
  unfold applyCreate
  repeat' (first
    | with_reducible assumption
    | rw [mk_change]
    | with_reducible apply clearPartitionFlags_follows
    | with_reducible apply modJob_follows
    | with_reducible apply keyUp_follows
    | with_reducible apply sendKeying_follows
    | (with_reducible refine Follows.keep ?_ ?_ ?_ ?_; rotate_left; with_reducible rfl; with_reducible rfl; with_reducible rfl)
    | (extract_lets +onlyGivenNames x; have hx : Follows z x := ?_; clear_value x; rotate_left; unfold x)
    | (extract_lets +onlyGivenNames x; have _ : Vale := x)
    | (extract_lets +onlyGivenNames x; clear_value x)
    | (extract_lets +onlyGivenNames x)
    | with_reducible apply Follows.ite)

theorem attestRun_follows {z : State} (m : Msg) {s : State} (hs : Follows z s) :
    Follows z (attestRun m s) := by
  unfold attestRun
  repeat' (first
    | with_reducible assumption
    | rw [mk_change]
    | with_reducible apply complete_follows
    | with_reducible apply newTicket_follows
    | with_reducible apply keepRunning_follows
    | (with_reducible refine Follows.keep ?_ ?_ ?_ ?_; rotate_left; with_reducible rfl; with_reducible rfl; with_reducible rfl)
    | (extract_lets +onlyGivenNames x; have hx : Follows z x := ?_; clear_value x; rotate_left; unfold x)
    | (extract_lets +onlyGivenNames x; have hx : Follows z x.2 := ?_; clear_value x; rotate_left; unfold x)
    | (extract_lets +onlyGivenNames x; clear_value x)
    | (extract_lets +onlyGivenNames x)
    | with_reducible apply Follows.ite
    | split)

theorem attestDone_follows {z : State} (ticket : Nat) (j : Nat) (off : Nat) (report : Bytes) {s : State} (hs : Follows z s) :
    Follows z (attestDone ticket j off report s) := by
  unfold attestDone
  repeat' (first
    | with_reducible assumption
    | with_reducible apply finish_follows
    | with_reducible apply engineWrite_follows)

theorem certReadBody_follows {z : State} (m : Msg) {s : State} (hs : Follows z s) :
    Follows z (certReadBody m s) := by
  unfold certReadBody
  repeat' (first
    | with_reducible assumption
    | with_reducible apply complete_follows
    | with_reducible apply engineWrite_follows
    | with_reducible apply Follows.ite
    | split)

theorem keyDeliverRun_follows {z : State} (m : Msg) {s : State} (hs : Follows z s) :
    Follows z (keyDeliverRun m s) := by
  unfold keyDeliverRun
  repeat' (first
    | with_reducible assumption
    | with_reducible apply complete_follows
    | with_reducible apply completeResult_follows
    | with_reducible apply deferChange_follows
    | with_reducible apply slotRecord_follows
    | (extract_lets +onlyGivenNames x; clear_value x)
    | (extract_lets +onlyGivenNames x)
    | with_reducible apply Follows.ite
    | split)

theorem applyOwnerKey_follows {z : State} (m : Option Msg) (j : Nat) (own : Nat) (serial : Nat) (k : Bytes) (n : Nat) {s : State} (hs : Follows z s) :
    Follows z (applyOwnerKey m j own serial k n s) := by
  unfold applyOwnerKey
  repeat' (first
    | with_reducible assumption
    | with_reducible apply ledger_follows
    | with_reducible apply destroySlot_follows
    | with_reducible apply modJob_follows
    | with_reducible apply fillSlot_follows
    | (extract_lets +onlyGivenNames x; clear_value x)
    | (extract_lets +onlyGivenNames x)
    | split)

theorem sealRun_follows {z : State} (m : Msg) {s : State} (hs : Follows z s) :
    Follows z (sealRun m s) := by
  unfold sealRun
  repeat' (first
    | with_reducible assumption
    | with_reducible apply complete_follows
    | with_reducible apply engineWrite_follows
    | (extract_lets +onlyGivenNames x; clear_value x)
    | (extract_lets +onlyGivenNames x)
    | with_reducible apply Follows.ite
    | split)

theorem startKeying_follows {z : State} (j : Nat) (b : Job) (secret : Bytes) {s : State} (hs : Follows z s) :
    ∀ c out, startKeying j b secret s = some (c, out) → Follows z out := by
  intro c out e
  unfold startKeying at e
  dsimp only at e
  split at e
  · cases e
  · simp only [Option.some.injEq, Prod.mk.injEq] at e
    rw [← e.2]
    exact slotRecords_follows _ _ hs

theorem unsealRun_follows {z : State} (m : Msg) {s : State} (hs : Follows z s) :
    Follows z (unsealRun m s) := by
  unfold unsealRun
  repeat' (first
    | with_reducible assumption
    | with_reducible apply complete_follows
    | with_reducible apply deferChange_follows
    | (extract_lets +onlyGivenNames x; clear_value x)
    | (extract_lets +onlyGivenNames x)
    | with_reducible apply Follows.ite
    | split
    | (with_reducible apply startKeying_follows; rotate_left; with_reducible assumption))

theorem serveMember_follows {z : State} (sender : Nat) (j : Nat) (b : Job) (r : Bytes) {s : State} (hs : Follows z s) :
    Follows z (serveMember sender j b r s) := by
  unfold serveMember
  repeat' (first
    | with_reducible assumption
    | with_reducible apply modJob_follows
    | with_reducible apply ledgerSelf_follows
    | with_reducible apply jobEvent_follows
    | with_reducible apply sendKeying_follows
    | with_reducible apply freshBytes_follows
    | (extract_lets +onlyGivenNames x; have hx : Follows z x := ?_; clear_value x; rotate_left; unfold x)
    | (extract_lets +onlyGivenNames x; have hx : Follows z x.2 := ?_; clear_value x; rotate_left; unfold x)
    | (extract_lets +onlyGivenNames x; clear_value x)
    | with_reducible apply Follows.ite)

theorem takeLeadReport_follows {z : State} (j : Nat) (b : Job) (r : Bytes) {s : State} (hs : Follows z s) :
    Follows z (takeLeadReport j b r s) := by
  unfold takeLeadReport
  repeat' (first
    | with_reducible assumption
    | with_reducible apply freshBytes_follows
    | with_reducible apply sendKeying_follows
    | with_reducible apply modJob_follows
    | (extract_lets +onlyGivenNames x; have hx : Follows z x.2 := ?_; clear_value x; rotate_left; unfold x)
    | (extract_lets +onlyGivenNames x; clear_value x)
    | with_reducible apply Follows.ite)

theorem takeDelivery_follows {z : State} (j : Nat) (b : Job) (r : Bytes) {s : State} (hs : Follows z s) :
    Follows z (takeDelivery j b r s) := by
  unfold takeDelivery
  extract_lets head s2 key
  split
  · exact modJob_follows _ _ hs
  · rename_i c e
    obtain ⟨k, -, e⟩ := Option.bind_eq_some_iff.1 e
    rw [mk_change]
    exact (startKeying_follows _ _ _ hs c.1 c.2 e).keepT rfl rfl rfl

theorem keyingRun_follows {z : State} (sender : Nat) (jobId : Nat) (kind : KeyingKind) (r : Bytes) {s : State} (hs : Follows z s) :
    Follows z (keyingRun sender jobId kind r s) := by
  unfold keyingRun
  repeat' (first
    | with_reducible assumption
    | with_reducible apply sendKeying_follows
    | with_reducible apply modJob_follows
    | with_reducible apply serveMember_follows
    | with_reducible apply takeLeadReport_follows
    | with_reducible apply takeDelivery_follows
    | (extract_lets +onlyGivenNames x)
    | with_reducible apply Follows.ite
    | split)

theorem keyingArrives_follows {z : State} (sender : Nat) (jobId : Nat) (kind : KeyingKind) (r : Bytes) {s : State} (hs : Follows z s) :
    Follows z (keyingArrives sender jobId kind r s) := by
  unfold keyingArrives
  repeat' (first
    | with_reducible assumption
    | rw [mk_change]
    | with_reducible apply keyingRun_follows
    | (with_reducible refine Follows.keep ?_ ?_ ?_ ?_; rotate_left; with_reducible rfl; with_reducible rfl; with_reducible rfl)
    | (extract_lets +onlyGivenNames x; clear_value x)
    | (extract_lets +onlyGivenNames x)
    | with_reducible apply Follows.ite)

theorem keyingRetry_follows {z : State} (j : Nat) {s : State} (hs : Follows z s) :
    Follows z (keyingRetry j s) := by
  unfold keyingRetry
  repeat' (first
    | with_reducible assumption
    | with_reducible apply sendKeying_follows
    | with_reducible apply Follows.ite
    | split)

theorem sectionBytes_follows {z : State} (b : Job) (x : Section) {s : State} (hs : Follows z s) :
    Follows z (sectionBytes b x s).2 := by
  unfold sectionBytes
  repeat' (first
    | with_reducible assumption
    | with_reducible apply Follows.foldl_snd
    | with_reducible apply freshBytes_follows
    | (intro _)
    | with_reducible apply Follows.ite_snd)

theorem shardBytes_follows {z : State} (b : Job) {s : State} (hs : Follows z s) :
    Follows z (shardBytes b s).2 := by
  unfold shardBytes
  repeat' (first
    | with_reducible assumption
    | with_reducible apply Follows.foldl_snd
    | with_reducible apply sectionBytes_follows
    | (intro _))

theorem askTag_follows {z : State} (p : Nat) (slice : Nat) (line : Nat) {s : State} (hs : Follows z s) :
    Follows z (askTag p slice line s).1 := by
  unfold askTag
  repeat' (first
    | with_reducible assumption
    | with_reducible apply modPchan_follows
    | (extract_lets +onlyGivenNames x; clear_value x)
    | (extract_lets +onlyGivenNames x)
    | with_reducible apply Follows.ite_fst)

theorem tagAccept_follows {z : State} (p : Nat) {s : State} (hs : Follows z s) :
    Follows z (tagAccept p s) := by
  unfold tagAccept
  repeat' (first
    | with_reducible assumption
    | with_reducible apply modPchan_follows
    | (extract_lets +onlyGivenNames x; clear_value x)
    | with_reducible apply Follows.ite)

theorem threadWaits_follows {z : State} (r : CoreReq) {s : State} (hs : Follows z s) : Follows z (threadWaits r s) := by
  unfold threadWaits
  split
  · exact modCore_follows _ _ hs fun k hk => by rw [stopThread_tile]; exact hk
  · exact modCore_follows _ _ hs fun k hk => hk
  · exact hs

theorem fillTile_wf (address : Nat) (l : List Flit) {c : CoreSt} (h : c.tile.wf = true) : (fillTile address l c).tile.wf = true := by
  unfold fillTile
  extract_lets d
  have hd : d.tile.wf = true := foldl_wf _ h fun c x h => by
    dsimp only
    split
    · exact drainFlit_wf h
    · exact h
  clear_value d
  split
  · exact drainFill_wf hd
  · exact hd

/-- A response keeps the tile store in canonical form. -/
theorem takeResponse_wf (r : CoreReq) (header : Nat) (data : Option Bytes) {c : CoreSt} (h : c.tile.wf = true) :
    (takeResponse r header data c).tile.wf = true := by
  unfold takeResponse
  dsimp only
  split
  · exact foldl_wf _ h fun c x h => by rw [readyThread_tile]; exact h
  · split
    · exact fillTile_wf _ _ h
    · exact h
  · exact h
  · exact h

theorem answerCore_follows {z : State} (r : CoreReq) (status : Nat) (data : Option Bytes) {s : State} (hs : Follows z s) :
    Follows z (answerCore r status data s) :=
  modCore_follows _ _ hs fun _ hk => takeResponse_wf _ _ _ hk

theorem performReq_follows {z : State} (r : CoreReq) {s : State} (hs : Follows z s) :
    Follows z (performReq r s) := by
  unfold performReq
  repeat' (first
    | with_reducible assumption
    | with_reducible apply answerCore_follows
    | with_reducible apply markDirty_follows
    | with_reducible apply cacheLineWrite_follows
    | with_reducible apply touchWay_follows
    | (extract_lets +onlyGivenNames x; have hx : Follows z x := ?_; clear_value x; rotate_left; unfold x)
    | (extract_lets +onlyGivenNames x; clear_value x)
    | with_reducible apply Follows.ite
    | split)

theorem cacheDir_follows {z : State} (slice : Nat) (r : CoreReq) {s : State} (hs : Follows z s) :
    Follows z (cacheDir slice r s) := by
  unfold cacheDir
  repeat' (first
    | with_reducible assumption
    | rw [mk_change]
    | (with_reducible refine Follows.keep ?_ ?_ ?_ ?_; rotate_left; with_reducible rfl; with_reducible rfl; with_reducible rfl)
    | (extract_lets +onlyGivenNames x; clear_value x)
    | with_reducible apply Follows.ite
    | split)

theorem pageReady_follows {z : State} (r : CoreReq) {s : State} (hs : Follows z s) :
    Follows z (pageReady r s).1 := by
  unfold pageReady
  repeat' (first
    | with_reducible assumption
    | with_reducible apply gradientWrite_follows
    | with_reducible apply requestPage_follows
    | (extract_lets +onlyGivenNames x; have hx : Follows z x := ?_; clear_value x; rotate_left; unfold x)
    | (extract_lets +onlyGivenNames x; clear_value x)
    | (extract_lets +onlyGivenNames x)
    | with_reducible apply Follows.ite_fst
    | split)

theorem setMiss_follows {z : State} (slice : Nat) (l : List MissReg) {s : State} (hs : Follows z s) :
    Follows z (setMiss slice l s) := by
  unfold setMiss
  repeat' (first
    | with_reducible assumption
    | rw [mk_change]
    | (with_reducible refine Follows.keep ?_ ?_ ?_ ?_; rotate_left; with_reducible rfl; with_reducible rfl; with_reducible rfl))

theorem modMiss_follows {z : State} (slice : Nat) (j : Nat) (line : Nat) (f : MissReg → Option MissReg) {s : State} (hs : Follows z s) :
    Follows z (modMiss slice j line f s) := by
  unfold modMiss
  repeat' (first
    | with_reducible assumption
    | with_reducible apply setMiss_follows)

theorem answerReqs_follows {z : State} (x0 : List CoreReq) {x1 : State} (hx1 : Follows z x1) :
    Follows z (answerReqs x0 x1).1 := by
  induction x0 generalizing x1 with
  | nil =>
    unfold answerReqs
    repeat' (first
      | with_reducible assumption)
  | cons y l ih =>
    unfold answerReqs
    try split
    all_goals (try injections)
    all_goals (try subst_vars)
    repeat' (first
      | with_reducible assumption
      | with_reducible apply ih
      | with_reducible apply pageReady_follows
      | with_reducible apply performReq_follows
      | (extract_lets +onlyGivenNames x; have hx : Follows z x.1 := ?_; clear_value x; rotate_left; unfold x)
      | with_reducible apply Follows.ite_fst)

theorem workMiss_follows {z : State} (slice : Nat) (m : MissReg) {s : State} (hs : Follows z s) :
    Follows z (workMiss slice m s) := by
  unfold workMiss
  repeat' (first
    | with_reducible assumption
    | with_reducible apply answerReqs_follows
    | with_reducible apply modMiss_follows
    | with_reducible apply askTag_follows
    | (extract_lets +onlyGivenNames x; have hx : Follows z x := ?_; clear_value x; rotate_left; unfold x)
    | (extract_lets +onlyGivenNames x; have hx : Follows z x.1 := ?_; clear_value x; rotate_left; unfold x)
    | (extract_lets +onlyGivenNames x; clear_value x)
    | (extract_lets +onlyGivenNames x)
    | with_reducible apply Follows.ite
    | split)

theorem workAll_follows {z : State} {s : State} (hs : Follows z s) :
    Follows z (workAll s) := by
  unfold workAll
  repeat' (first
    | with_reducible assumption
    | with_reducible apply Follows.foldl
    | with_reducible apply workMiss_follows
    | (intro _))

theorem takeMiss_follows {z : State} (slice : Nat) (mayTake : Bool) (r : CoreReq) {s : State} (hs : Follows z s) :
    Follows z (takeMiss slice mayTake r s).1 := by
  unfold takeMiss
  repeat' (first
    | with_reducible assumption
    | with_reducible apply modMiss_follows
    | with_reducible apply workMiss_follows
    | with_reducible apply setMiss_follows
    | (extract_lets +onlyGivenNames x; clear_value x)
    | with_reducible apply Follows.ite_fst
    | split)

theorem tryHit_follows {z : State} (slice : Nat) (r : CoreReq) {s : State} (hs : Follows z s) :
    Follows z (tryHit slice r s).1 := by
  unfold tryHit
  repeat' (first
    | with_reducible assumption
    | with_reducible apply pageReady_follows
    | with_reducible apply performReq_follows
    | (extract_lets +onlyGivenNames x; have hx : Follows z x.1 := ?_; clear_value x; rotate_left; unfold x)
    | (extract_lets +onlyGivenNames x)
    | with_reducible apply Follows.ite_fst)

theorem sliceTakes_follows {z : State} (slice : Nat) (r : CoreReq) {s : State} (hs : Follows z s) :
    Follows z (sliceTakes slice r s).1 := by
  unfold sliceTakes
  repeat' (first
    | with_reducible assumption
    | rw [mk_change]
    | with_reducible apply tryHit_follows
    | with_reducible apply takeMiss_follows
    | (with_reducible refine Follows.keep ?_ ?_ ?_ ?_; rotate_left; with_reducible rfl; with_reducible rfl; with_reducible rfl)
    | (extract_lets +onlyGivenNames x; have hx : Follows z x.1 := ?_; clear_value x; rotate_left; unfold x)
    | (extract_lets +onlyGivenNames x; clear_value x)
    | (extract_lets +onlyGivenNames x)
    | with_reducible apply Follows.ite_fst)

theorem setInput_follows {z : State} (n : Nat) (l : List CoreReq) {s : State} (hs : Follows z s) :
    Follows z (setInput n l s) := by
  unfold setInput
  repeat' (first
    | with_reducible assumption
    | rw [mk_change]
    | (with_reducible refine Follows.keep ?_ ?_ ?_ ?_; rotate_left; with_reducible rfl; with_reducible rfl; with_reducible rfl))

theorem refuse_follows {z : State} (r : CoreReq) {s : State} (hs : Follows z s) :
    Follows z (refuse r s) := by
  unfold refuse
  repeat' (first
    | with_reducible assumption
    | with_reducible apply answerCore_follows
    | with_reducible apply programFault_follows
    | (extract_lets +onlyGivenNames x; have hx : Follows z x := ?_; clear_value x; rotate_left; unfold x)
    | split)

theorem reservedPacket_follows {z : State} (r : CoreReq) {s : State} (hs : Follows z s) :
    Follows z (reservedPacket r s) := by
  unfold reservedPacket
  repeat' (first
    | with_reducible assumption
    | with_reducible apply taskFault_follows
    | with_reducible apply jobFault_follows
    | split)

theorem waitRegister_tile (r : CoreReq) (c : CoreSt) : (waitRegister r c).tile = c.tile := by
  unfold waitRegister
  rw [stopThread_tile]

theorem cacheAccess_follows {z : State} (r : CoreReq) {s : State} (hs : Follows z s) : Follows z (cacheAccess r s) := by
  unfold cacheAccess
  split
  · exact hs
  · split
    · exact reservedPacket_follows _ hs
    · refine Follows.ite (refuse_follows _ hs) (Follows.ite (refuse_follows _ hs) (Follows.ite ?_ ?_))
      · exact modCore_follows _ _ hs fun k hk => by rw [waitRegister_tile]; exact hk
      · extract_lets slice n t h
        have ht : Follows z t := threadWaits_follows _ (cacheDir_follows _ _ hs)
        exact Follows.ite (Follows.ite (sliceTakes_follows _ _ ht) (setInput_follows _ _ (sliceTakes_follows _ _ ht)))
          (setInput_follows _ _ ht)

theorem dropDamaged_follows {z : State} (r : CoreReq) (ecc : List EccReport) {s : State} (hs : Follows z s) :
    Follows z (dropDamaged r ecc s) := by
  unfold dropDamaged
  repeat' (first
    | with_reducible assumption
    | with_reducible apply modCore_follows
    | with_reducible apply setWay_follows
    | (intro k hk; exact hk)
    | (extract_lets +onlyGivenNames x; have hx : Follows z x := ?_; clear_value x; rotate_left; unfold x)
    | (extract_lets +onlyGivenNames x; clear_value x)
    | (extract_lets +onlyGivenNames x)
    | with_reducible apply Follows.ite
    | split)

theorem drainInput_follows {z : State} (slice : Nat) (n : Nat) (x0 : List CoreReq) {x1 : State} (hx1 : Follows z x1) :
    Follows z (drainInput slice n x0 x1) := by
  induction x0 generalizing x1 with
  | nil =>
    unfold drainInput
    repeat' (first
      | with_reducible assumption
      | with_reducible apply setInput_follows)
  | cons y l ih =>
    unfold drainInput
    try split
    all_goals (try injections)
    all_goals (try subst_vars)
    repeat' (first
      | with_reducible assumption
      | with_reducible apply ih
      | with_reducible apply setInput_follows
      | with_reducible apply sliceTakes_follows
      | (extract_lets +onlyGivenNames x; have hx : Follows z x.1 := ?_; clear_value x; rotate_left; unfold x)
      | with_reducible apply Follows.ite)

theorem drainInputs_follows {z : State} (slice : Nat) {s : State} (hs : Follows z s) :
    Follows z (drainInputs slice s) := by
  unfold drainInputs
  repeat' (first
    | with_reducible assumption
    | with_reducible apply Follows.foldl
    | with_reducible apply drainInput_follows
    | (intro _))

theorem dequeueMiss_follows {z : State} (slice : Nat) {s : State} (hs : Follows z s) :
    Follows z (dequeueMiss slice s) := by
  unfold dequeueMiss
  repeat' (first
    | with_reducible assumption
    | rw [mk_change]
    | with_reducible apply hf
    | with_reducible apply drainInputs_follows
    | with_reducible apply tryHit_follows
    | with_reducible apply takeMiss_follows
    | (with_reducible refine Follows.keep ?_ ?_ ?_ ?_; rotate_left; with_reducible rfl; with_reducible rfl; with_reducible rfl)
    | (intro _)
    | (extract_lets +onlyGivenNames x; have hx : Follows z x.1 := ?_; clear_value x; rotate_left; unfold x)
    | (extract_lets +onlyGivenNames x; have hf : ∀ t, Follows z t → Follows z (x t) := ?_; clear_value x; rotate_left; unfold x)
    | (extract_lets +onlyGivenNames x)
    | with_reducible apply Follows.ite
    | split)

theorem mergeFill_follows {z : State} (slice : Nat) (j : Nat) (line : Nat) (v : Nat) {s : State} (hs : Follows z s) :
    Follows z (mergeFill slice j line v s) := by
  unfold mergeFill
  repeat' (first
    | with_reducible assumption
    | with_reducible apply touchWay_follows
    | with_reducible apply setWay_follows
    | with_reducible apply allocWay_follows
    | (extract_lets +onlyGivenNames x; have hx : Follows z x.2 := ?_; clear_value x; rotate_left; unfold x)
    | (extract_lets +onlyGivenNames x; clear_value x)
    | split)

theorem lineFill_follows {z : State} (slice : Nat) (line : Nat) (first : Fetch) (second : Fetch) (ecc : List EccReport) {s : State} (hs : Follows z s) :
    Follows z (lineFill slice line first second ecc s) := by
  unfold lineFill
  repeat' (first
    | with_reducible assumption
    | with_reducible apply Follows.foldl
    | with_reducible apply freeTagOf_follows
    | with_reducible apply modMiss_follows
    | with_reducible apply answerCore_follows
    | with_reducible apply readLine_follows
    | with_reducible apply meetWords_follows
    | with_reducible apply lineFails_follows
    | with_reducible apply mergeFill_follows
    | with_reducible apply performReq_follows
    | (intro _)
    | (extract_lets +onlyGivenNames x; have hx : Follows z x := ?_; clear_value x; rotate_left; unfold x)
    | (extract_lets +onlyGivenNames x; have hx : Follows z x.1 := ?_; clear_value x; rotate_left; unfold x)
    | (extract_lets +onlyGivenNames x; clear_value x)
    | (extract_lets +onlyGivenNames x)
    | with_reducible apply Follows.ite
    | with_reducible apply Follows.ite_fst
    | split)

theorem performRead_follows {z : State} (r : ValeReq) (first : Fetch) (second : Fetch) {s : State} (hs : Follows z s) :
    Follows z (performRead r first second s) := by
  unfold performRead
  repeat' (first
    | with_reducible assumption
    | with_reducible apply readLine_follows
    | with_reducible apply answerVale_follows
    | with_reducible apply lineFails_follows
    | (extract_lets +onlyGivenNames x; have hx : Follows z x.1 := ?_; clear_value x; rotate_left; unfold x)
    | with_reducible apply Follows.ite)

theorem performPartial_follows {z : State} (x : Blocked) (r : ValeReq) {s : State} (hs : Follows z s) :
    Follows z (performPartial x r s) := by
  unfold performPartial
  repeat' (first
    | with_reducible assumption
    | with_reducible apply readLine_follows
    | with_reducible apply performWrite_follows
    | with_reducible apply lineFails_follows
    | with_reducible apply answerVale_follows
    | (extract_lets +onlyGivenNames x; have hx : Follows z x.1 := ?_; clear_value x; rotate_left; unfold x)
    | with_reducible apply Follows.ite)

theorem performHeld_follows {z : State} (x : Blocked) {s : State} (hs : Follows z s) :
    Follows z (performHeld x s) := by
  unfold performHeld
  repeat' (first
    | with_reducible assumption
    | with_reducible apply performWrite_follows
    | with_reducible apply performRead_follows
    | with_reducible apply performPartial_follows
    | (extract_lets +onlyGivenNames x)
    | with_reducible apply Follows.ite
    | split)

theorem agentReq_follows {z : State} (r : ValeReq) (x : Blocked) {s : State} (hs : Follows z s) :
    Follows z (agentReq r x s) := by
  unfold agentReq
  repeat' (first
    | with_reducible assumption
    | with_reducible apply answerVale_follows
    | with_reducible apply holdRequest_follows
    | with_reducible apply performHeld_follows
    | (extract_lets +onlyGivenNames x)
    | with_reducible apply Follows.ite)

theorem valeReadReq_follows {z : State} (r : ValeReq) (first : Fetch) (second : Fetch) {s : State} (hs : Follows z s) :
    Follows z (valeReadReq r first second s) := by
  unfold valeReadReq
  repeat' (first
    | with_reducible assumption
    | with_reducible apply agentReq_follows)

theorem valeFullReq_follows {z : State} (r : ValeReq) (data : Bytes) {s : State} (hs : Follows z s) :
    Follows z (valeFullReq r data s) := by
  unfold valeFullReq
  repeat' (first
    | with_reducible assumption
    | with_reducible apply agentReq_follows)

theorem valePartialReq_follows {z : State} (r : ValeReq) (mask : Nat) (data : Bytes) (first : Fetch) (second : Fetch) {s : State} (hs : Follows z s) :
    Follows z (valePartialReq r mask data first second s) := by
  unfold valePartialReq
  repeat' (first
    | with_reducible assumption
    | with_reducible apply agentReq_follows)

theorem modRegion_follows {z : State} (r : Nat) (f : Region → Region) {s : State} (hs : Follows z s) :
    Follows z (modRegion r f s) := by
  unfold modRegion
  repeat' (first
    | with_reducible assumption
    | rw [mk_change]
    | (with_reducible refine Follows.keep ?_ ?_ ?_ ?_; rotate_left; with_reducible rfl; with_reducible rfl; with_reducible rfl))

theorem beginSweep_follows {z : State} (r : Nat) (target : Nat) {s : State} (hs : Follows z s) :
    Follows z (beginSweep r target s) := by
  unfold beginSweep
  repeat' (first
    | with_reducible assumption
    | rw [mk_change]
    | with_reducible apply modRegion_follows
    | (with_reducible refine Follows.keep ?_ ?_ ?_ ?_; rotate_left; with_reducible rfl; with_reducible rfl; with_reducible rfl))

theorem allocSweepKey_follows {z : State} (j : Nat) (k : Nat) (b : Job) {s : State} (hs : Follows z s) :
    Follows z (allocSweepKey j k b s) := by
  unfold allocSweepKey
  repeat' (first
    | with_reducible assumption
    | rw [mk_change]
    | with_reducible apply modJob_follows
    | with_reducible apply slotRecord_follows
    | (with_reducible refine Follows.keepT ?_ ?_ ?_ ?_; rotate_left; with_reducible rfl; with_reducible rfl; with_reducible rfl))

theorem sweepStart_follows {z : State} {s : State} (hs : Follows z s) :
    Follows z (sweepStart s) := by
  unfold sweepStart
  repeat' (first
    | with_reducible assumption
    | rw [mk_change]
    | with_reducible apply beginSweep_follows
    | with_reducible apply allocSweepKey_follows
    | with_reducible apply jobEvent_follows
    | (with_reducible refine Follows.keep ?_ ?_ ?_ ?_; rotate_left; with_reducible rfl; with_reducible rfl; with_reducible rfl)
    | (extract_lets +onlyGivenNames x; have _ : Vale := x)
    | with_reducible apply Follows.ite
    | split)

theorem sweepStep_follows {z : State} (first : Fetch) (second : Fetch) {s : State} (hs : Follows z s) :
    Follows z (sweepStep first second s) := by
  unfold sweepStep
  repeat' (first
    | with_reducible assumption
    | rw [mk_change]
    | with_reducible apply readLine_follows
    | with_reducible apply lineFails_follows
    | with_reducible apply modRegion_follows
    | (with_reducible refine Follows.keep ?_ ?_ ?_ ?_; rotate_left; with_reducible rfl; with_reducible rfl; with_reducible rfl)
    | (extract_lets +onlyGivenNames x; have hx : Follows z x := ?_; clear_value x; rotate_left; unfold x)
    | (extract_lets +onlyGivenNames x; have hx : Follows z x.1 := ?_; clear_value x; rotate_left; unfold x)
    | (extract_lets +onlyGivenNames x; have _ : Vale := x)
    | (extract_lets +onlyGivenNames x; clear_value x)
    | split)

theorem endStall_follows {z : State} (region : Nat) {s : State} (hs : Follows z s) :
    Follows z (endStall region s) := by
  unfold endStall
  repeat' (first
    | with_reducible assumption
    | with_reducible apply modJob_follows
    | with_reducible apply Follows.ite
    | split)

theorem resumeBlocked_follows {z : State} {s : State} (hs : Follows z s) :
    Follows z (resumeBlocked s) := by
  unfold resumeBlocked
  repeat' (first
    | with_reducible assumption
    | rw [mk_change]
    | with_reducible apply freeTagOf_follows
    | with_reducible apply endStall_follows
    | with_reducible apply performHeld_follows
    | (with_reducible refine Follows.keep ?_ ?_ ?_ ?_; rotate_left; with_reducible rfl; with_reducible rfl; with_reducible rfl)
    | (extract_lets +onlyGivenNames x; have _ : Vale := x)
    | with_reducible apply Follows.ite
    | split)

theorem keyIdRetire_follows {z : State} (k : Nat) {s : State} (hs : Follows z s) :
    Follows z (keyIdRetire k s) := by
  unfold keyIdRetire
  repeat' (first
    | with_reducible assumption
    | rw [mk_change]
    | (with_reducible refine Follows.keep ?_ ?_ ?_ ?_; rotate_left; with_reducible rfl; with_reducible rfl; with_reducible rfl)
    | (extract_lets +onlyGivenNames x; have _ : Vale := x)
    | with_reducible apply Follows.ite
    | split)

theorem pagesMoved_follows {z : State} (j : Nat) {s : State} (hs : Follows z s) :
    Follows z (pagesMoved j s) := by
  unfold pagesMoved
  repeat' (first
    | with_reducible assumption
    | with_reducible apply settle_follows
    | with_reducible apply retryHeld_follows
    | with_reducible apply workAll_follows)

theorem steppeAttachBody_follows {z : State} (m : Msg) {s : State} (hs : Follows z s) :
    Follows z (steppeAttachBody m s) := by
  unfold steppeAttachBody
  repeat' (first
    | with_reducible assumption
    | with_reducible apply complete_follows
    | with_reducible apply modTier_follows
    | (extract_lets +onlyGivenNames x; clear_value x)
    | (extract_lets +onlyGivenNames x)
    | with_reducible apply Follows.ite
    | split)

theorem hostEvict_follows {z : State} (j : Nat) (p : Nat) {s : State} (hs : Follows z s) :
    Follows z (hostEvict j p s) := by
  unfold hostEvict
  repeat' (first
    | with_reducible assumption
    | with_reducible apply modTier_follows
    | with_reducible apply startEvict_follows
    | (extract_lets +onlyGivenNames x; clear_value x)
    | (extract_lets +onlyGivenNames x)
    | with_reducible apply Follows.ite)

theorem tierMoveBody_follows {z : State} (evict : Bool) (m : Msg) {s : State} (hs : Follows z s) :
    Follows z (tierMoveBody evict m s) := by
  unfold tierMoveBody
  split
  · exact complete_follows _ _ hs
  · rename_i j _
    extract_lets first count
    refine Follows.ite (complete_follows _ _ hs) (pagesMoved_follows _ (keepRunning_follows _ _ (Follows.foldl _ hs ?_)))
    intro t k h
    exact Follows.ite (hostEvict_follows _ _ h) (requestPage_follows _ _ h)

theorem tierMove_follows {z : State} (ctx : Nat) (evict : Bool) {s : State} (hs : Follows z s) :
    Follows z (tierMove ctx evict s) := by
  unfold tierMove
  repeat' (first
    | with_reducible assumption
    | with_reducible apply withMessage_follows
    | with_reducible apply complete_follows
    | with_reducible apply tierMoveBody_follows
    | (intro _)
    | (extract_lets +onlyGivenNames x; clear_value x)
    | (extract_lets +onlyGivenNames x)
    | with_reducible apply Follows.ite)

theorem frameResume_follows {z : State} (j : Nat) {s : State} (hs : Follows z s) :
    Follows z (frameResume j s) := by
  unfold frameResume
  repeat' (first
    | with_reducible assumption
    | with_reducible apply pagesMoved_follows
    | with_reducible apply modTier_follows
    | with_reducible apply startFetch_follows
    | (extract_lets +onlyGivenNames x; clear_value x)
    | split)

theorem fetchFails_follows {z : State} (j : Nat) (p : Nat) (c : Nat) {s : State} (hs : Follows z s) :
    Follows z (fetchFails j p c s) := by
  unfold fetchFails
  repeat' (first
    | with_reducible assumption
    | with_reducible apply fetchLost_follows
    | with_reducible apply dropFlight_follows)

theorem chunkArrives_follows {z : State} (j : Nat) (p : Nat) (c : Nat) (record : Bytes) {s : State} (hs : Follows z s) :
    Follows z (chunkArrives j p c record s) := by
  unfold chunkArrives
  repeat' (first
    | with_reducible assumption
    | with_reducible apply fetchFails_follows
    | with_reducible apply valeWrite_follows
    | with_reducible apply dropFlight_follows
    | with_reducible apply modTier_follows
    | with_reducible apply pagesMoved_follows
    | with_reducible apply modDir_follows
    | (extract_lets +onlyGivenNames x; have hx : Follows z x := ?_; clear_value x; rotate_left; unfold x)
    | (extract_lets +onlyGivenNames x; clear_value x)
    | (extract_lets +onlyGivenNames x)
    | with_reducible apply Follows.ite
    | split)

theorem evictDone_follows {z : State} (j : Nat) (p : Nat) {s : State} (hs : Follows z s) :
    Follows z (evictDone j p s) := by
  unfold evictDone
  repeat' (first
    | with_reducible assumption
    | with_reducible apply dropFlight_follows
    | with_reducible apply restPage_follows
    | with_reducible apply modTier_follows
    | with_reducible apply startFetch_follows
    | with_reducible apply pagesMoved_follows
    | with_reducible apply requestPage_follows
    | (extract_lets +onlyGivenNames x; have hx : Follows z x := ?_; clear_value x; rotate_left; unfold x)
    | (extract_lets +onlyGivenNames x; clear_value x)
    | (extract_lets +onlyGivenNames x)
    | with_reducible apply Follows.ite
    | split)

theorem evictFails_follows {z : State} (j : Nat) (p : Nat) {s : State} (hs : Follows z s) :
    Follows z (evictFails j p s) := by
  unfold evictFails
  repeat' (first
    | with_reducible assumption
    | with_reducible apply pagesMoved_follows
    | with_reducible apply evictLost_follows
    | with_reducible apply dropFlight_follows)

theorem basinFold_follows {z : State} (j : Nat) (bp : Nat) {s : State} (hs : Follows z s) :
    Follows z (basinFold j bp s) := by
  unfold basinFold
  repeat' (first
    | with_reducible assumption
    | with_reducible apply pagesMoved_follows
    | with_reducible apply foldPage_follows)

theorem modCapture_follows {z : State} (j : Nat) (f : Capture → Capture) {s : State} (hs : Follows z s) :
    Follows z (modCapture j f s) := by
  unfold modCapture
  repeat' (first
    | with_reducible assumption
    | with_reducible apply modJob_follows)

theorem ckptSetupBody_follows {z : State} (m : Msg) {s : State} (hs : Follows z s) :
    Follows z (ckptSetupBody m s) := by
  unfold ckptSetupBody
  repeat' (first
    | with_reducible assumption
    | with_reducible apply complete_follows
    | with_reducible apply modCapture_follows
    | (extract_lets +onlyGivenNames x; clear_value x)
    | (extract_lets +onlyGivenNames x)
    | with_reducible apply Follows.ite
    | split)

theorem ckptStatusBody_follows {z : State} (m : Msg) {s : State} (hs : Follows z s) :
    Follows z (ckptStatusBody m s) := by
  unfold ckptStatusBody
  repeat' (first
    | with_reducible assumption
    | with_reducible apply complete_follows
    | with_reducible apply completeResult_follows
    | split)

theorem writeDirty_follows {z : State} (j : Nat) {s : State} (hs : Follows z s) :
    Follows z (writeDirty j s) := by
  unfold writeDirty
  repeat' (first
    | with_reducible assumption
    | with_reducible apply flushLines_follows)

theorem memberFails_follows {z : State} (j : Nat) {s : State} (hs : Follows z s) :
    Follows z (memberFails j s) := by
  unfold memberFails
  repeat' (first
    | with_reducible assumption
    | with_reducible apply toLead_follows
    | split)

theorem releaseMember_follows {z : State} (j : Nat) {s : State} (hs : Follows z s) :
    Follows z (releaseMember j s) := by
  unfold releaseMember
  repeat' (first
    | with_reducible assumption
    | with_reducible apply modCapture_follows
    | with_reducible apply addFlight_follows
    | (extract_lets +onlyGivenNames x; have hx : Follows z x := ?_; clear_value x; rotate_left; unfold x)
    | (extract_lets +onlyGivenNames x; clear_value x)
    | (extract_lets +onlyGivenNames x)
    | with_reducible apply Follows.ite
    | split)

theorem leadRelease_follows {z : State} (j : Nat) {s : State} (hs : Follows z s) :
    Follows z (leadRelease j s) := by
  unfold leadRelease
  repeat' (first
    | with_reducible assumption
    | with_reducible apply releaseMember_follows
    | with_reducible apply toMembers_follows
    | split)

theorem leadJudge_follows {z : State} (x0 : Nat) (x1 : Nat) {x2 : State} (hx2 : Follows z x2) :
    Follows z (leadJudge x0 x1 x2) := by
  induction x0 generalizing x1 x2 with
  | zero =>
    unfold leadJudge
    repeat' (first
      | with_reducible assumption)
  | succ k ih =>
    unfold leadJudge
    try split
    all_goals (try injections)
    all_goals (try subst_vars)
    repeat' (first
      | with_reducible assumption
      | with_reducible apply ih
      | with_reducible apply leadRelease_follows
      | with_reducible apply modCapture_follows
      | with_reducible apply toMembers_follows
      | (extract_lets +onlyGivenNames x; have hx : Follows z x := ?_; clear_value x; rotate_left; unfold x)
      | (extract_lets +onlyGivenNames x; clear_value x)
      | (extract_lets +onlyGivenNames x)
      | with_reducible apply Follows.ite)

theorem reportArrives_follows {z : State} (j : Nat) (src : Nat) (round : Nat) (value : Nat) {s : State} (hs : Follows z s) :
    Follows z (reportArrives j src round value s) := by
  unfold reportArrives
  repeat' (first
    | with_reducible assumption
    | with_reducible apply abandonCapture_follows
    | with_reducible apply leadJudge_follows
    | with_reducible apply modCapture_follows
    | (extract_lets +onlyGivenNames x; clear_value x)
    | (extract_lets +onlyGivenNames x)
    | with_reducible apply Follows.ite
    | split)

theorem sendReport_follows {z : State} (j : Nat) {s : State} (hs : Follows z s) :
    Follows z (sendReport j s) := by
  unfold sendReport
  repeat' (first
    | with_reducible assumption
    | with_reducible apply reportArrives_follows
    | with_reducible apply toLead_follows
    | with_reducible apply Follows.ite
    | split)

theorem memberArrived_follows {z : State} (j : Nat) (arrived : Bool) {s : State} (hs : Follows z s) :
    Follows z (memberArrived j arrived s) := by
  unfold memberArrived
  repeat' (first
    | with_reducible assumption
    | with_reducible apply writeDirty_follows
    | with_reducible apply sendReport_follows
    | with_reducible apply modCapture_follows
    | (extract_lets +onlyGivenNames x; have hx : Follows z x := ?_; clear_value x; rotate_left; unfold x)
    | (extract_lets +onlyGivenNames x; clear_value x)
    | with_reducible apply Follows.ite
    | split)

theorem dropKept_follows {z : State} (j : Nat) {s : State} (hs : Follows z s) : Follows z (dropKept j s) := by
  unfold dropKept
  rw [mk_change]
  exact hs.make (Nat.le_refl _) (List.prefix_refl _) (Nat.le_refl _) (Nat.le_refl _) id (fun h => coresWf_map h fun x hx => hx)
    (.refl _) (.refl _)

theorem startCapture_follows {z : State} (j : Nat) (cause : Nat) {s : State} (hs : Follows z s) :
    Follows z (startCapture j cause s) := by
  unfold startCapture
  repeat' (first
    | with_reducible assumption
    | with_reducible apply modCapture_follows
    | with_reducible apply dropKept_follows
    | with_reducible apply toMembers_follows
    | with_reducible apply abandonCapture_follows
    | with_reducible apply markWanted_follows
    | (extract_lets +onlyGivenNames x; have hx : Follows z x := ?_; clear_value x; rotate_left; unfold x)
    | (extract_lets +onlyGivenNames x; clear_value x)
    | with_reducible apply Follows.ite
    | split)

theorem leadTrigger_follows {z : State} (j : Nat) (cause : Nat) {s : State} (hs : Follows z s) :
    Follows z (leadTrigger j cause s) := by
  unfold leadTrigger
  repeat' (first
    | with_reducible assumption
    | with_reducible apply modCapture_follows
    | with_reducible apply startCapture_follows
    | (extract_lets +onlyGivenNames x)
    | with_reducible apply Follows.ite
    | split)

theorem fireTrigger_follows {z : State} (j : Nat) (cause : Nat) {s : State} (hs : Follows z s) :
    Follows z (fireTrigger j cause s) := by
  unfold fireTrigger
  repeat' (first
    | with_reducible assumption
    | with_reducible apply leadTrigger_follows
    | with_reducible apply toLead_follows
    | (extract_lets +onlyGivenNames x)
    | with_reducible apply Follows.ite
    | split)

theorem ckptTriggerBody_follows {z : State} (m : Msg) {s : State} (hs : Follows z s) :
    Follows z (ckptTriggerBody m s) := by
  unfold ckptTriggerBody
  repeat' (first
    | with_reducible assumption
    | with_reducible apply complete_follows
    | with_reducible apply fireTrigger_follows
    | with_reducible apply modCapture_follows
    | with_reducible apply Follows.ite
    | split)

theorem checkpointTimer_follows {z : State} (j : Nat) {s : State} (hs : Follows z s) :
    Follows z (checkpointTimer j s) := by
  unfold checkpointTimer
  repeat' (first
    | with_reducible assumption
    | with_reducible apply leadTrigger_follows
    | with_reducible apply Follows.ite
    | split)

theorem stepTrigger_follows {z : State} (j : Nat) {s : State} (hs : Follows z s) :
    Follows z (stepTrigger j s) := by
  unfold stepTrigger
  repeat' (first
    | with_reducible assumption
    | with_reducible apply leadTrigger_follows
    | (extract_lets +onlyGivenNames x; clear_value x)
    | with_reducible apply Follows.ite
    | split)

theorem warnTrigger_follows {z : State} (j : Nat) (bitNo : Nat) (holds : Bool) {s : State} (hs : Follows z s) :
    Follows z (warnTrigger j bitNo holds s) := by
  unfold warnTrigger
  repeat' (first
    | with_reducible assumption
    | with_reducible apply fireTrigger_follows
    | with_reducible apply modCapture_follows
    | (extract_lets +onlyGivenNames x; have hx : Follows z x := ?_; clear_value x; rotate_left; unfold x)
    | (extract_lets +onlyGivenNames x; clear_value x)
    | (extract_lets +onlyGivenNames x)
    | with_reducible apply Follows.ite
    | split)

theorem enterArrives_follows {z : State} (j : Nat) (low : Nat) (step : Nat) {s : State} (hs : Follows z s) :
    Follows z (enterArrives j low step s) := by
  unfold enterArrives
  repeat' (first
    | with_reducible assumption
    | with_reducible apply modCapture_follows
    | with_reducible apply memberFails_follows
    | with_reducible apply markWanted_follows
    | with_reducible apply dropKept_follows
    | (extract_lets +onlyGivenNames x; have hx : Follows z x := ?_; clear_value x; rotate_left; unfold x)
    | (extract_lets +onlyGivenNames x; clear_value x)
    | (extract_lets +onlyGivenNames x)
    | with_reducible apply Follows.ite
    | split)

theorem confirmArrives_follows {z : State} (j : Nat) (round : Nat) {s : State} (hs : Follows z s) :
    Follows z (confirmArrives j round s) := by
  unfold confirmArrives
  repeat' (first
    | with_reducible assumption
    | with_reducible apply sendReport_follows
    | with_reducible apply modCapture_follows
    | with_reducible apply Follows.ite
    | split)

theorem releaseArrives_follows {z : State} (j : Nat) {s : State} (hs : Follows z s) :
    Follows z (releaseArrives j s) := by
  unfold releaseArrives
  repeat' (first
    | with_reducible assumption
    | with_reducible apply memberFails_follows
    | with_reducible apply releaseMember_follows
    | (extract_lets +onlyGivenNames x)
    | with_reducible apply Follows.ite
    | split)

theorem barrierTimeout_follows {z : State} (j : Nat) {s : State} (hs : Follows z s) :
    Follows z (barrierTimeout j s) := by
  unfold barrierTimeout
  repeat' (first
    | with_reducible assumption
    | with_reducible apply abandonCapture_follows
    | with_reducible apply Follows.ite
    | split)

theorem writeManifest_follows {z : State} (j : Nat) {s : State} (hs : Follows z s) :
    Follows z (writeManifest j s) := by
  unfold writeManifest
  repeat' (first
    | with_reducible assumption
    | with_reducible apply abandonCapture_follows
    | with_reducible apply modCapture_follows
    | with_reducible apply addFlight_follows
    | with_reducible apply putOut_follows
    | (extract_lets +onlyGivenNames x; have hx : Follows z x := ?_; clear_value x; rotate_left; unfold x)
    | (extract_lets +onlyGivenNames x; clear_value x)
    | (extract_lets +onlyGivenNames x)
    | with_reducible apply Follows.ite
    | split)

theorem shardDoneArrives_follows {z : State} (j : Nat) (src : Nat) (part : Nat) (value : Nat) {s : State} (hs : Follows z s) :
    Follows z (shardDoneArrives j src part value s) := by
  unfold shardDoneArrives
  repeat' (first
    | with_reducible assumption
    | with_reducible apply writeManifest_follows
    | with_reducible apply modCapture_follows
    | with_reducible apply Follows.ite
    | split)

theorem captureFails_follows {z : State} (j : Nat) {s : State} (hs : Follows z s) :
    Follows z (captureFails j s) := by
  unfold captureFails
  repeat' (first
    | with_reducible assumption
    | with_reducible apply abandonCapture_follows
    | with_reducible apply memberFails_follows
    | (extract_lets +onlyGivenNames x)
    | with_reducible apply Follows.ite
    | split)

theorem shardSent_follows {z : State} (j : Nat) (b : Job) (shard : Bytes) {s : State} (hs : Follows z s) :
    Follows z (shardSent j b shard s) := by
  unfold shardSent
  repeat' (first
    | with_reducible assumption
    | with_reducible apply Follows.foldl
    | with_reducible apply putOut_follows
    | with_reducible apply modCapture_follows
    | with_reducible apply shardDoneArrives_follows
    | with_reducible apply toLead_follows
    | (intro _)
    | (extract_lets +onlyGivenNames x)
    | with_reducible apply Follows.ite
    | split)

theorem shardWritten_follows {z : State} (j : Nat) (ok : Bool) {s : State} (hs : Follows z s) :
    Follows z (shardWritten j ok s) := by
  unfold shardWritten
  repeat' (first
    | with_reducible assumption
    | with_reducible apply dropFlight_follows
    | with_reducible apply captureFails_follows
    | with_reducible apply shardBytes_follows
    | with_reducible apply shardSent_follows
    | (extract_lets +onlyGivenNames x; have hx : Follows z x := ?_; clear_value x; rotate_left; unfold x)
    | (extract_lets +onlyGivenNames x; have hx : Follows z x.2 := ?_; clear_value x; rotate_left; unfold x)
    | (extract_lets +onlyGivenNames x; clear_value x)
    | (extract_lets +onlyGivenNames x)
    | with_reducible apply Follows.ite
    | split)

theorem manifestDone_follows {z : State} (j : Nat) (ok : Bool) {s : State} (hs : Follows z s) :
    Follows z (manifestDone j ok s) := by
  unfold manifestDone
  repeat' (first
    | with_reducible assumption
    | with_reducible apply dropFlight_follows
    | with_reducible apply endCapture_follows
    | with_reducible apply toMembers_follows
    | with_reducible apply abandonCapture_follows
    | (extract_lets +onlyGivenNames x; have hx : Follows z x := ?_; clear_value x; rotate_left; unfold x)
    | (extract_lets +onlyGivenNames x)
    | with_reducible apply Follows.ite
    | split)

theorem manifestArrives_follows {z : State} (j : Nat) {s : State} (hs : Follows z s) :
    Follows z (manifestArrives j s) := by
  unfold manifestArrives
  repeat' (first
    | with_reducible assumption
    | with_reducible apply endCapture_follows
    | with_reducible apply Follows.ite
    | split)

theorem abandonArrives_follows {z : State} (j : Nat) (cause : Nat) {s : State} (hs : Follows z s) :
    Follows z (abandonArrives j cause s) := by
  unfold abandonArrives
  repeat' (first
    | with_reducible assumption
    | with_reducible apply endCapture_follows
    | with_reducible apply Follows.ite
    | split)

theorem endRestore_follows {z : State} (j : Nat) (cause : Nat) {s : State} (hs : Follows z s) :
    Follows z (endRestore j cause s) := by
  unfold endRestore
  repeat' (first
    | with_reducible assumption
    | with_reducible apply modJob_follows
    | with_reducible apply finish_follows)

theorem refuseArrives_follows {z : State} (j : Nat) {s : State} (hs : Follows z s) :
    Follows z (refuseArrives j s) := by
  unfold refuseArrives
  repeat' (first
    | with_reducible assumption
    | with_reducible apply endRestore_follows
    | with_reducible apply Follows.ite
    | split)

theorem leadRefuse_follows {z : State} (j : Nat) (failed : List (Nat × Nat × Nat)) {s : State} (hs : Follows z s) :
    Follows z (leadRefuse j failed s) := by
  unfold leadRefuse
  repeat' (first
    | with_reducible assumption
    | with_reducible apply toMembers_follows
    | with_reducible apply refuseArrives_follows
    | with_reducible apply engineWrite_follows
    | (extract_lets +onlyGivenNames x; clear_value x)
    | split)

theorem goArrives_follows {z : State} (j : Nat) {s : State} (hs : Follows z s) :
    Follows z (goArrives j s) := by
  unfold goArrives
  repeat' (first
    | with_reducible assumption
    | with_reducible apply Follows.foldl
    | with_reducible apply modJob_follows
    | with_reducible apply startRead_follows
    | with_reducible apply finish_follows
    | (intro _)
    | (extract_lets +onlyGivenNames x; have hx : Follows z x := ?_; clear_value x; rotate_left; unfold x)
    | (extract_lets +onlyGivenNames x)
    | with_reducible apply Follows.ite
    | split)

theorem judgeChecks_follows {z : State} (j : Nat) {s : State} (hs : Follows z s) :
    Follows z (judgeChecks j s) := by
  unfold judgeChecks
  repeat' (first
    | with_reducible assumption
    | with_reducible apply goArrives_follows
    | with_reducible apply toMembers_follows
    | with_reducible apply leadRefuse_follows
    | (extract_lets +onlyGivenNames x; clear_value x)
    | (extract_lets +onlyGivenNames x)
    | with_reducible apply Follows.ite
    | split)

theorem checkArrives_follows {z : State} (j : Nat) (src : Nat) (cause : Nat) (step : Nat) {s : State} (hs : Follows z s) :
    Follows z (checkArrives j src cause step s) := by
  unfold checkArrives
  repeat' (first
    | with_reducible assumption
    | with_reducible apply judgeChecks_follows
    | with_reducible apply modJob_follows
    | with_reducible apply Follows.ite
    | split)

theorem doneArrives_follows {z : State} (j : Nat) (src : Nat) (cause : Nat) {s : State} (hs : Follows z s) :
    Follows z (doneArrives j src cause s) := by
  unfold doneArrives
  repeat' (first
    | with_reducible assumption
    | with_reducible apply modJob_follows
    | with_reducible apply leadRefuse_follows
    | with_reducible apply goArrives_follows
    | with_reducible apply toMembers_follows
    | (extract_lets +onlyGivenNames x; have hx : Follows z x := ?_; clear_value x; rotate_left; unfold x)
    | (extract_lets +onlyGivenNames x; clear_value x)
    | (extract_lets +onlyGivenNames x)
    | with_reducible apply Follows.ite
    | split)

theorem restoreBody_follows {z : State} (manifest : ReadResult) (chunk : ReadResult) (m : Msg) {s : State} (hs : Follows z s) :
    Follows z (restoreBody manifest chunk m s) := by
  unfold restoreBody
  repeat' (first
    | with_reducible assumption
    | with_reducible apply complete_follows
    | with_reducible apply keepRunning_follows
    | with_reducible apply modJob_follows
    | with_reducible apply checkArrives_follows
    | with_reducible apply toLead_follows
    | (extract_lets +onlyGivenNames x; have hx : Follows z x := ?_; clear_value x; rotate_left; unfold x)
    | (extract_lets +onlyGivenNames x; clear_value x)
    | (extract_lets +onlyGivenNames x)
    | with_reducible apply Follows.ite
    | split)

theorem loadControl_follows {z : State} (j : Nat) (c : Bytes) (f : Nat → Nat) {s : State} (hs : Follows z s) :
    Follows z (loadControl j c f s) := by
  unfold loadControl
  repeat' (first
    | with_reducible assumption
    | rw [mk_change]
    | with_reducible apply Follows.foldl
    | with_reducible apply modJob_follows
    | (with_reducible refine Follows.keep ?_ ?_ ?_ ?_; rotate_left; with_reducible rfl; with_reducible rfl; with_reducible rfl)
    | (intro _)
    | (extract_lets +onlyGivenNames x; clear_value x)
    | with_reducible apply Follows.ite
    | split)

theorem loadPages_follows {z : State} (j : Nat) (om : List (Nat × Nat)) (x0 : Nat) (x1 : Bytes) {x2 : State} (hx2 : Follows z x2) :
    Follows z (loadPages j om x0 x1 x2) := by
  induction x0 generalizing x1 x2 with
  | zero =>
    unfold loadPages
    repeat' (first
      | with_reducible assumption)
  | succ k ih =>
    unfold loadPages
    try split
    all_goals (try injections)
    all_goals (try subst_vars)
    repeat' (first
      | with_reducible assumption
      | with_reducible apply ih
      | with_reducible apply modTier_follows
      | with_reducible apply modDir_follows
      | with_reducible apply valeWrite_follows
      | (extract_lets +onlyGivenNames x)
      | split)

theorem loadImages_follows {z : State} (j : Nat) (x0 : Nat) (x1 : Bytes) {x2 : State} (hx2 : Follows z x2) :
    Follows z (loadImages j x0 x1 x2) := by
  induction x0 generalizing x1 x2 with
  | zero =>
    unfold loadImages
    repeat' (first
      | with_reducible assumption)
  | succ k ih =>
    unfold loadImages
    try split
    all_goals (try injections)
    all_goals (try subst_vars)
    repeat' (first
      | with_reducible assumption
      | with_reducible apply ih
      | with_reducible apply putOut_follows
      | (extract_lets +onlyGivenNames x)
      | split)

theorem loadStash_follows {z : State} (j : Nat) (x0 : List TV) (x1 : Bytes) {x2 : State} (hx2 : Follows z x2) :
    Follows z (loadStash j x0 x1 x2) := by
  induction x0 generalizing x1 x2 with
  | nil =>
    unfold loadStash
    repeat' (first
      | with_reducible assumption)
  | cons y l ih =>
    unfold loadStash
    try split
    all_goals (try injections)
    all_goals (try subst_vars)
    repeat' (first
      | with_reducible assumption
      | with_reducible apply ih
      | with_reducible apply applyStores_follows)

theorem rebuildCopies_follows {z : State} (j : Nat) (only : Nat → Bool) {s : State} (hs : Follows z s) :
    Follows z (rebuildCopies j only s) := by
  unfold rebuildCopies
  repeat' (first
    | with_reducible assumption
    | with_reducible apply Follows.foldl
    | with_reducible apply applyStores_follows
    | (intro _)
    | (extract_lets +onlyGivenNames x; clear_value x)
    | (extract_lets +onlyGivenNames x)
    | with_reducible apply Follows.ite
    | split)

theorem loadShard_follows {z : State} (j : Nat) (x : RestoreSt) (chunk : Nat → Option Bytes) {s : State} (hs : Follows z s) :
    Follows z (loadShard j x chunk s) := by
  unfold loadShard
  extract_lets n old f secs sec s1 om s2 s3 s4 s5 s6 s7
  have h1 : Follows z s1 := Follows.foldl _ hs fun t y h => loadControl_follows _ _ _ h
  have h2 : Follows z s2 := Follows.foldl _ h1 fun t y h => Follows.foldl _ h fun t c h =>
    modCore_follows _ _ h fun k _ => Memory_writeN_wf _ _ rfl
  have h3 : Follows z s3 := Follows.foldl _ h2 fun t y h => Follows.foldl _ h fun t c h => modDir_follows _ _ _ h
  have h4 : Follows z s4 := Follows.foldl _ h3 fun t y h => engineWrite_follows _ _ _ h
  have h5 : Follows z s5 := Follows.foldl _ h4 fun t y h => loadPages_follows _ _ _ _ h
  have h6 : Follows z s6 := Follows.foldl _ h5 fun t y h => loadImages_follows _ _ _ h
  have h7 : Follows z s7 := Follows.foldl _ h6 fun t y h => loadStash_follows _ _ _ h
  exact Follows.ite (rebuildCopies_follows _ _ h7) h7

theorem loadDone_follows {z : State} (j : Nat) (shard : ReadResult) {s : State} (hs : Follows z s) :
    Follows z (loadDone j shard s) := by
  unfold loadDone
  repeat' (first
    | with_reducible assumption
    | with_reducible apply hf
    | with_reducible apply dropFlight_follows
    | with_reducible apply modJob_follows
    | with_reducible apply doneArrives_follows
    | with_reducible apply toLead_follows
    | with_reducible apply loadShard_follows
    | (intro _)
    | (extract_lets +onlyGivenNames x; have hx : Follows z x := ?_; clear_value x; rotate_left; unfold x)
    | (extract_lets +onlyGivenNames x; have hf : ∀ c t, Follows z t → Follows z (x c t) := ?_; clear_value x; rotate_left; unfold x)
    | (extract_lets +onlyGivenNames x; clear_value x)
    | (extract_lets +onlyGivenNames x)
    | with_reducible apply Follows.ite
    | split)

theorem importBody_follows {z : State} (manifest : ReadResult) (header : ReadResult) (index : ReadResult) (m : Msg) {s : State} (hs : Follows z s) :
    Follows z (importBody manifest header index m s) := by
  unfold importBody
  repeat' (first
    | with_reducible assumption
    | with_reducible apply Follows.foldl
    | with_reducible apply complete_follows
    | with_reducible apply completeResult_follows
    | with_reducible apply modJob_follows
    | with_reducible apply requestPage_follows
    | with_reducible apply keepRunning_follows
    | (intro _)
    | (extract_lets +onlyGivenNames x; have hx : Follows z x := ?_; clear_value x; rotate_left; unfold x)
    | (extract_lets +onlyGivenNames x; clear_value x)
    | (extract_lets +onlyGivenNames x)
    | with_reducible apply Follows.ite
    | split)

theorem importHeaders_follows {z : State} (j : Nat) (target : Nat) (dv : TV) (sd : Nat) (value : Nat) (new : Nat × Nat) {s : State} (hs : Follows z s) :
    Follows z (importHeaders j target dv sd value new s) := by
  unfold importHeaders
  repeat' (first
    | with_reducible assumption
    | with_reducible apply modTensor_follows
    | split)

theorem placeImport_follows {z : State} (j : Nat) (b : Job) (x : RestoreSt) (d : Bytes) (e : TensorE) (src : Bytes) (dv : TV) (sv : TV) {s : State} (hs : Follows z s) :
    Follows z (placeImport j b x d e src dv sv s) := by
  unfold placeImport
  repeat' (first
    | with_reducible assumption
    | with_reducible apply Follows.foldl
    | with_reducible apply engineWrite_follows
    | with_reducible apply rebuildCopies_follows
    | with_reducible apply importHeaders_follows
    | with_reducible apply modNum_follows
    | (intro _)
    | (extract_lets +onlyGivenNames x; have hx : Follows z x := ?_; clear_value x; rotate_left; unfold x)
    | (extract_lets +onlyGivenNames x; clear_value x)
    | with_reducible apply Follows.ite
    | split)

theorem importDone_follows {z : State} (j : Nat) (chunks : ReadResult) {s : State} (hs : Follows z s) :
    Follows z (importDone j chunks s) := by
  unfold importDone
  repeat' (first
    | with_reducible assumption
    | with_reducible apply endRestore_follows
    | with_reducible apply finish_follows
    | with_reducible apply modJob_follows
    | with_reducible apply placeImport_follows
    | (extract_lets +onlyGivenNames x; clear_value x)
    | (extract_lets +onlyGivenNames x)
    | with_reducible apply Follows.ite
    | split)

theorem failWarn_follows {z : State} (mask : Nat) {s : State} (hs : Follows z s) :
    Follows z (failWarn mask s) := by
  unfold failWarn
  repeat' (first
    | with_reducible assumption
    | rw [mk_change]
    | with_reducible apply alert_follows
    | (with_reducible refine Follows.keep ?_ ?_ ?_ ?_; rotate_left; with_reducible rfl; with_reducible rfl; with_reducible rfl)
    | (extract_lets +onlyGivenNames x; have hx : Follows z x := ?_; clear_value x; rotate_left; unfold x)
    | (extract_lets +onlyGivenNames x; clear_value x)
    | with_reducible apply Follows.ite)

theorem evalWarnings_follows {z : State} {s : State} (hs : Follows z s) :
    Follows z (evalWarnings s) := by
  unfold evalWarnings
  repeat' (first
    | with_reducible assumption
    | with_reducible apply Follows.foldl
    | with_reducible apply failWarn_follows
    | with_reducible apply warnTrigger_follows
    | (intro _)
    | (extract_lets +onlyGivenNames x)
    | with_reducible apply Follows.ite)

end Sys2Proof.Laws
end

