-- ==== Sys2Proof/Laws/FollowsPorts.lean ====
section
/-! SUPPORT. What follows a state keeps its promises: one lemma per operation, for ports, packets, teardowns, verdicts, Ethernet, flash and activations. -/

set_option linter.tactic.unusedName false

namespace Sys2Proof.Laws

open Sys2Proof.Machine

theorem sendControl_follows {z : State} (n : Nat) (subtype : Nat) (fields : Bytes) {s : State} (hs : Follows z s) :
    Follows z (sendControl n subtype fields s) := by
  unfold sendControl
  repeat' (first
    | with_reducible assumption
    | with_reducible apply emit_follows)

theorem onControl_follows {z : State} (n : Nat) (b : Bytes) (subtype : Nat) (ok : PassPort → Bool) (f : PassPort → State → State) {s : State} (hf : ∀ y0 y1, Follows z y1 → Follows z (f y0 y1)) (hs : Follows z s) :
    Follows z (onControl n b subtype ok f s) := by
  unfold onControl
  repeat' (first
    | with_reducible assumption
    | with_reducible apply hf
    | (extract_lets +onlyGivenNames x; clear_value x)
    | with_reducible apply Follows.ite)

theorem ackUpTo_follows {z : State} (n : Nat) (seq : Nat) {s : State} (hs : Follows z s) :
    Follows z (ackUpTo n seq s) := by
  unfold ackUpTo
  repeat' (first
    | with_reducible assumption
    | with_reducible apply modPort_follows)

theorem resend_follows {z : State} (n : Nat) {s : State} (hs : Follows z s) :
    Follows z (resend n s) := by
  unfold resend
  repeat' (first
    | with_reducible assumption
    | with_reducible apply Follows.foldl
    | with_reducible apply bumpPort_follows
    | with_reducible apply emit_follows
    | (intro _)
    | (extract_lets +onlyGivenNames x; clear_value x)
    | with_reducible apply Follows.ite)

theorem onTimer_follows {z : State} (n : Nat) (f : PassPort → State → State) {s : State} (hf : ∀ y0 y1, Follows z y1 → Follows z (f y0 y1)) (hs : Follows z s) :
    Follows z (onTimer n f s) := by
  unfold onTimer
  repeat' (first
    | with_reducible assumption
    | with_reducible apply hf
    | (extract_lets +onlyGivenNames x; clear_value x)
    | with_reducible apply Follows.ite)

theorem portEvent_follows {z : State} (n : Nat) (cause : Nat) {s : State} (hs : Follows z s) :
    Follows z (portEvent n cause s) := by
  unfold portEvent
  repeat' (first
    | with_reducible assumption
    | with_reducible apply mgmtEvent_follows)

theorem loseMembers_follows {z : State} {s : State} (hs : Follows z s) :
    Follows z (loseMembers s) := by
  unfold loseMembers
  repeat' (first
    | with_reducible assumption
    | with_reducible apply Follows.foldl
    | with_reducible apply abandonCapture_follows
    | (intro _)
    | (extract_lets +onlyGivenNames x; clear_value x)
    | with_reducible apply Follows.ite)

theorem portStops_follows {z : State} (n : Nat) (ev : State → State) {s : State} (hev : ∀ y0, Follows z y0 → Follows z (ev y0)) (hs : Follows z s) :
    Follows z (portStops n ev s) := by
  unfold portStops
  repeat' (first
    | with_reducible assumption
    | with_reducible apply Follows.foldl
    | with_reducible apply hev
    | with_reducible apply modPort_follows
    | with_reducible apply leaveBuffer_follows
    | with_reducible apply mechFault_follows
    | with_reducible apply loseMembers_follows
    | (intro _))

theorem portDown_follows {z : State} (n : Nat) (cause : Nat) {s : State} (hs : Follows z s) :
    Follows z (portDown n cause s) := by
  unfold portDown
  repeat' (first
    | with_reducible assumption
    | with_reducible apply portStops_follows
    | with_reducible apply portEvent_follows)

theorem losePeer_follows {z : State} (n : Nat) (cause : Nat) {s : State} (hs : Follows z s) :
    Follows z (losePeer n cause s) := by
  unfold losePeer
  repeat' (first
    | with_reducible assumption
    | with_reducible apply settle_follows
    | with_reducible apply portDown_follows
    | with_reducible apply Follows.ite)

theorem checkReady_follows {z : State} {s : State} (hs : Follows z s) :
    Follows z (checkReady s) := by
  unfold checkReady
  repeat' (first
    | with_reducible assumption
    | rw [mk_change]
    | (with_reducible refine Follows.keep ?_ ?_ ?_ ?_; rotate_left; with_reducible rfl; with_reducible rfl; with_reducible rfl)
    | (extract_lets +onlyGivenNames x; clear_value x)
    | with_reducible apply Follows.ite)

theorem beginFull_follows {z : State} (n : Nat) {s : State} (hs : Follows z s) :
    Follows z (beginFull n s) := by
  unfold beginFull
  repeat' (first
    | with_reducible assumption
    | with_reducible apply bumpPort_follows
    | with_reducible apply modPort_follows)

theorem beginFast_follows {z : State} (n : Nat) {s : State} (hs : Follows z s) :
    Follows z (beginFast n s) := by
  unfold beginFast
  repeat' (first
    | with_reducible assumption
    | with_reducible apply bumpPort_follows
    | with_reducible apply modPort_follows)

theorem attemptFails_follows {z : State} (n : Nat) {s : State} (hs : Follows z s) :
    Follows z (attemptFails n s) := by
  unfold attemptFails
  repeat' (first
    | with_reducible assumption
    | with_reducible apply modPort_follows
    | with_reducible apply beginFull_follows
    | with_reducible apply beginFast_follows
    | with_reducible apply portDown_follows
    | (extract_lets +onlyGivenNames x; have hx : Follows z x := ?_; clear_value x; rotate_left; unfold x)
    | (extract_lets +onlyGivenNames x; clear_value x)
    | (extract_lets +onlyGivenNames x)
    | with_reducible apply Follows.ite)

theorem helloArrives_follows {z : State} (n : Nat) (b : Bytes) {s : State} (hs : Follows z s) :
    Follows z (helloArrives n b s) := by
  unfold helloArrives
  repeat' (first
    | with_reducible assumption
    | with_reducible apply modPort_follows
    | with_reducible apply portDown_follows
    | (extract_lets +onlyGivenNames x; have hx : Follows z x := ?_; clear_value x; rotate_left; unfold x)
    | (extract_lets +onlyGivenNames x; clear_value x)
    | split)

theorem portUp_follows {z : State} (n : Nat) {s : State} (hs : Follows z s) :
    Follows z (portUp n s) := by
  unfold portUp
  repeat' (first
    | with_reducible assumption
    | with_reducible apply modPort_follows
    | with_reducible apply portEvent_follows
    | with_reducible apply drainPort_follows
    | with_reducible apply resend_follows
    | (extract_lets +onlyGivenNames x)
    | with_reducible apply Follows.ite)

theorem stepEnds_follows {z : State} (n : Nat) (reversed : Bool) {s : State} (hs : Follows z s) :
    Follows z (stepEnds n reversed s) := by
  unfold stepEnds
  repeat' (first
    | with_reducible assumption
    | with_reducible apply hf
    | with_reducible apply modPort_follows
    | with_reducible apply sendControl_follows
    | with_reducible apply checkReady_follows
    | with_reducible apply portUp_follows
    | (intro _)
    | (extract_lets +onlyGivenNames x; have hf : ∀ c t, Follows z t → Follows z (x c t) := ?_; clear_value x; rotate_left; unfold x)
    | (extract_lets +onlyGivenNames x; clear_value x)
    | with_reducible apply Follows.ite
    | split)

theorem linkTake_follows {z : State} (n : Nat) (bytes : Bytes) (vc : Nat) (units : Nat) {s : State} (hs : Follows z s) :
    ∀ out, linkTake n bytes vc units s = some out → Follows z out := by
  intro out e
  unfold linkTake at e
  split at e
  · cases e
  · split at e
    · cases e; exact hs
    · dsimp only at e
      split at e
      · simp only [Option.some.injEq] at e
        rw [← e]
        exact modPort_follows _ _ hs
      · cases e

theorem checkPacket_follows {z : State} (n : Nat) (b : Bytes) {s : State} (hs : Follows z s) :
    Follows z (checkPacket n b s).1 := by
  unfold checkPacket
  repeat' (first
    | with_reducible assumption
    | with_reducible apply hf
    | with_reducible apply freeBuffer_follows
    | with_reducible apply bumpPort_follows
    | with_reducible apply mechFault_follows
    | with_reducible apply bumpJob_follows
    | with_reducible apply modJob_follows
    | (extract_lets +onlyGivenNames x; have hf : ∀ t, Follows z t → Follows z (x t).1 := ?_; clear_value x; rotate_left; unfold x)
    | (extract_lets +onlyGivenNames x; clear_value x)
    | (extract_lets +onlyGivenNames x)
    | with_reducible apply Follows.ite_fst
    | split)

theorem arrive_follows {z : State} (n : Nat) (bytes : Bytes) (ecc : List EccReport) (fits : State → Bytes → Bool)
    (body : Nat → Nat → Bytes → State → State) {s : State} (hbody : ∀ y0 y1 y2 y3, Follows z y3 → Follows z (body y0 y1 y2 y3))
    (hs : Follows z s) : Follows z (arrive n bytes ecc fits body s) := by
  unfold arrive
  extract_lets b
  refine Follows.ite hs ?_
  split
  · exact hs
  · rename_i t e
    have ht := linkTake_follows _ _ _ _ hs t e
    extract_lets w r
    have hw : Follows z w.1 := meetWords_follows _ _ ht
    have hr : Follows z r.1 := checkPacket_follows _ _ hw
    refine Follows.ite (settle_follows (freeBuffer_follows _ _ _ hw)) ?_
    split
    · exact settle_follows hr
    · exact settle_follows (hbody _ _ _ _ hr)

theorem request_follows {z : State} (j : Nat) (n : Nat) (b : Bytes) {s : State} (hs : Follows z s) :
    Follows z (request j n b s) := by
  unfold request
  repeat' (first
    | with_reducible assumption
    | with_reducible apply markWanted_follows
    | with_reducible apply addWaiting_follows
    | with_reducible apply tryPacket_follows
    | with_reducible apply Follows.ite)

theorem response_follows {z : State} (f : Nat → Bytes → State → State) (j : Nat) (n : Nat) (b : Bytes) {s : State} (hf : ∀ y0 y1 y2, Follows z y2 → Follows z (f y0 y1 y2)) (hs : Follows z s) :
    Follows z (response f j n b s) := by
  unfold response
  repeat' (first
    | with_reducible assumption
    | with_reducible apply hf
    | with_reducible apply freeBuffer_follows)

theorem readArrives_follows {z : State} (j : Nat) (b : Bytes) {s : State} (hs : Follows z s) :
    Follows z (readArrives j b s) := by
  unfold readArrives
  repeat' (first
    | with_reducible assumption
    | with_reducible apply readDataArrives_follows
    | with_reducible apply modJob_follows)

theorem signalRefused_follows {z : State} (j : Nat) (proxy : Nat) {s : State} (hs : Follows z s) :
    Follows z (signalRefused j proxy s) := by
  unfold signalRefused
  repeat' (first
    | with_reducible assumption
    | with_reducible apply programFault_follows
    | with_reducible apply fenceEvent_follows
    | (extract_lets +onlyGivenNames x)
    | with_reducible apply Follows.ite
    | split)

theorem errorArrives_follows {z : State} (j : Nat) (b : Bytes) {s : State} (hs : Follows z s) :
    Follows z (errorArrives j b s) := by
  unfold errorArrives
  repeat' (first
    | with_reducible assumption
    | with_reducible apply signalRefused_follows
    | with_reducible apply taskFault_follows
    | with_reducible apply mechFault_follows
    | (extract_lets +onlyGivenNames x; clear_value x)
    | (extract_lets +onlyGivenNames x)
    | with_reducible apply Follows.ite
    | split)

theorem retirementArrives_follows {z : State} (n : Nat) (j : Nat) {s : State} (hs : Follows z s) :
    Follows z (retirementArrives n j s) := by
  unfold retirementArrives
  repeat' (first
    | with_reducible assumption
    | rw [mk_change]
    | with_reducible apply mechFault_follows
    | (with_reducible refine Follows.keep ?_ ?_ ?_ ?_; rotate_left; with_reducible rfl; with_reducible rfl; with_reducible rfl))

theorem ofCapture_follows {z : State} (f : Nat → Bytes → State → State) (j : Nat) (b : Bytes) {s : State} (hf : ∀ y0 y1 y2, Follows z y2 → Follows z (f y0 y1 y2)) (hs : Follows z s) :
    Follows z (ofCapture f j b s) := by
  unfold ofCapture
  repeat' (first
    | with_reducible assumption
    | with_reducible apply hf
    | with_reducible apply Follows.ite
    | split)

theorem barrier_follows {z : State} (phase : Nat) (n : Nat) (bytes : Bytes) (f : Nat → Bytes → State → State) {s : State} (hf : ∀ y0 y1 y2, Follows z y2 → Follows z (f y0 y1 y2)) (hs : Follows z s) :
    Follows z (barrier phase n bytes f s) := by
  unfold barrier
  repeat' (first
    | with_reducible assumption
    | with_reducible apply arrive_follows
    | with_reducible apply response_follows
    | (intro _))

theorem transit_follows {z : State} (n : Nat) (bytes : Bytes) (ecc : List EccReport) {s : State} (hs : Follows z s) :
    Follows z (transit n bytes ecc s) := by
  unfold transit
  extract_lets b
  refine Follows.ite hs ?_
  split
  · exact hs
  · rename_i t e
    have ht := linkTake_follows _ _ _ _ hs t e
    extract_lets w
    have hw : Follows z w.1 := meetWords_follows _ _ ht
    exact Follows.ite (settle_follows (freeBuffer_follows _ _ _ hw))
      (Follows.ite (settle_follows (addWaiting_follows _ _ hw)) (settle_follows (forward_follows _ _ hw)))

theorem plp1_follows {z : State} (n : Nat) (bytes : Bytes) {s : State} (hs : Follows z s) : Follows z (plp1 n bytes s) := by
  unfold plp1
  extract_lets b vc p
  refine Follows.ite hs ?_
  split
  · exact hs
  · rename_i t e
    have ht := linkTake_follows _ _ _ _ hs t e
    extract_lets drop
    have hd : ∀ i, Follows z (drop i) := fun i => settle_follows (freeBuffer_follows _ _ _ (bumpPort_follows _ _ ht))
    clear_value drop
    split
    · exact hd _
    · refine Follows.ite (hd _) (Follows.ite (hd _) (Follows.ite (hd _) ?_))
      extract_lets live out
      exact Follows.ite (hd _) (Follows.ite (hd _) (settle_follows (egress_follows _ _ _ _ ht)))

theorem abortCopy_follows {z : State} (n : Nat) (vc : Nat) (units : Nat) {s : State} (hs : Follows z s) :
    Follows z (abortCopy n vc units s) := by
  unfold abortCopy
  repeat' (first
    | with_reducible assumption
    | with_reducible apply emit_follows
    | with_reducible apply modPort_follows)

theorem badCodeword_follows {z : State} (n : Nat) (vc : Nat) (units : Nat) (forwarded : Option Nat) {s : State} (hs : Follows z s) :
    Follows z (badCodeword n vc units forwarded s) := by
  unfold badCodeword
  repeat' (first
    | with_reducible assumption
    | with_reducible apply modPort_follows
    | with_reducible apply bumpPort_follows
    | with_reducible apply sendControl_follows
    | with_reducible apply abortCopy_follows
    | with_reducible apply settle_follows
    | with_reducible apply evalWarnings_follows
    | (extract_lets +onlyGivenNames x; have hx : Follows z x := ?_; clear_value x; rotate_left; unfold x)
    | (extract_lets +onlyGivenNames x; clear_value x)
    | with_reducible apply Follows.ite
    | split)

theorem abortMarker_follows {z : State} (n : Nat) (vc : Nat) (units : Nat) {s : State} (hs : Follows z s) :
    Follows z (abortMarker n vc units s) := by
  unfold abortMarker
  repeat' (first
    | with_reducible assumption
    | with_reducible apply modPort_follows
    | with_reducible apply Follows.ite)

theorem ingressFails_follows {z : State} (j : Nat) (dst : Nat) (own : Nat) (seq : Nat) (status : Nat) (first : Nat) (m : Msg) {s : State} (hs : Follows z s) :
    Follows z (ingressFails j dst own seq status first m s) := by
  unfold ingressFails
  repeat' (first
    | with_reducible assumption
    | with_reducible apply modTensor_follows
    | with_reducible apply jobEvent_follows
    | with_reducible apply complete_follows)

theorem ingressBody_follows {z : State} (m : Msg) {s : State} (hs : Follows z s) :
    Follows z (ingressBody m s) := by
  unfold ingressBody
  repeat' (first
    | with_reducible assumption
    | with_reducible apply complete_follows
    | with_reducible apply ingressFails_follows
    | with_reducible apply keepRunning_follows
    | with_reducible apply modTensor_follows
    | (extract_lets +onlyGivenNames x; clear_value x)
    | (extract_lets +onlyGivenNames x)
    | with_reducible apply Follows.ite
    | split)

theorem ingressDone_follows {z : State} (j dst : Nat) {s : State} (hs : Follows z s) : Follows z (ingressDone j dst s) := by
  unfold ingressDone
  split
  · rename_i b m t _ e
    have ht : Follows z t := Follows.of_snd e (takeRunning_follows _ hs)
    extract_lets n own seq key u slot
    have hu : Follows z u := modTensor_follows _ _ _ ht
    refine Follows.ite (ingressFails_follows _ _ _ _ _ _ _ hu) ?_
    split
    · exact ingressFails_follows _ _ _ _ _ _ _ hu
    · exact Follows.ite (ingressFails_follows _ _ _ _ _ _ _ hu) (complete_follows _ _ (modJob_follows _ _ (modTensor_follows _ _ _
        (Follows.foldl _ hu fun _ _ h => engineWrite_follows _ _ _ h))))
    · exact ingressFails_follows _ _ _ _ _ _ _ hu
  · exact hs

theorem modNarrows_follows {z : State} (j : Nat) (f : Narrows → Narrows) {s : State} (hs : Follows z s) :
    Follows z (modNarrows j f s) := by
  unfold modNarrows
  repeat' (first
    | with_reducible assumption
    | with_reducible apply modJob_follows)

theorem releaseEvent_follows {z : State} (r : Ref) (status : Nat) (mask : Nat) (size : Nat) {s : State} (hs : Follows z s) :
    Follows z (releaseEvent r status mask size s) := by
  unfold releaseEvent
  repeat' (first
    | with_reducible assumption
    | with_reducible apply jobEvent_follows)

theorem releaseStart_follows {z : State} (r : Ref) {s : State} (hs : Follows z s) :
    Follows z (releaseStart r s) := by
  unfold releaseStart
  repeat' (first
    | with_reducible assumption
    | with_reducible apply ensurePages_follows
    | with_reducible apply retire_follows
    | with_reducible apply releaseEvent_follows
    | with_reducible apply modNarrows_follows
    | with_reducible apply programFault_follows
    | with_reducible apply addFlight_follows
    | with_reducible apply putOut_follows
    | with_reducible apply setRunning_follows
    | (extract_lets +onlyGivenNames x; have hx : Follows z x := ?_; clear_value x; rotate_left; unfold x)
    | (extract_lets +onlyGivenNames x; have hx : Follows z x.1 := ?_; clear_value x; rotate_left; unfold x)
    | (extract_lets +onlyGivenNames x; clear_value x)
    | (extract_lets +onlyGivenNames x)
    | with_reducible apply Follows.ite)

theorem releaseDone_follows {z : State} (j : Nat) (n : Nat) (ok : Bool) {s : State} (hs : Follows z s) :
    Follows z (releaseDone j n ok s) := by
  unfold releaseDone
  repeat' (first
    | with_reducible assumption
    | with_reducible apply modNarrows_follows
    | with_reducible apply dropFlight_follows
    | with_reducible apply releaseEvent_follows
    | with_reducible apply retire_follows
    | with_reducible apply programFault_follows
    | (extract_lets +onlyGivenNames x; have hx : Follows z x := ?_; clear_value x; rotate_left; unfold x)
    | with_reducible apply Follows.ite
    | split)

theorem stopMessages_follows {z : State} (j : Nat) {s : State} (hs : Follows z s) :
    Follows z (stopMessages j s) := by
  unfold stopMessages
  repeat' (first
    | with_reducible assumption
    | rw [mk_change]
    | with_reducible apply Follows.foldl
    | with_reducible apply complete_follows
    | (with_reducible refine Follows.keep ?_ ?_ ?_ ?_; rotate_left; with_reducible rfl; with_reducible rfl; with_reducible rfl)
    | (intro _))

theorem cancelSweep_follows {z : State} (regions : List Nat) {s : State} (hs : Follows z s) :
    Follows z (cancelSweep regions s) := by
  unfold cancelSweep
  repeat' (first
    | with_reducible assumption
    | rw [mk_change]
    | (with_reducible refine Follows.keep ?_ ?_ ?_ ?_; rotate_left; with_reducible rfl; with_reducible rfl; with_reducible rfl))

theorem clearInboxes_follows {z : State} (j : Nat) {s : State} (hs : Follows z s) :
    Follows z (clearInboxes j s) := by
  unfold clearInboxes
  repeat' (first
    | with_reducible assumption
    | rw [mk_change]
    | with_reducible apply Follows.foldl
    | with_reducible apply complete_follows
    | (with_reducible refine Follows.keep ?_ ?_ ?_ ?_; rotate_left; with_reducible rfl; with_reducible rfl; with_reducible rfl)
    | (intro _))

theorem beginStop_follows {z : State} (j : Nat) {s : State} (hs : Follows z s) :
    Follows z (beginStop j s) := by
  unfold beginStop
  repeat' (first
    | with_reducible assumption
    | with_reducible apply clearInboxes_follows
    | with_reducible apply stopMessages_follows
    | with_reducible apply modJob_follows)

theorem closeJob_follows {z : State} (j : Nat) (cause : Nat) {s : State} (hs : Follows z s) :
    Follows z (closeJob j cause s) := by
  unfold closeJob
  repeat' (first
    | with_reducible assumption
    | with_reducible apply abandonCapture_follows
    | with_reducible apply endCapture_follows
    | with_reducible apply modJob_follows
    | with_reducible apply cancelSweep_follows
    | with_reducible apply beginStop_follows
    | (extract_lets +onlyGivenNames x; have hx : Follows z x := ?_; clear_value x; rotate_left; unfold x)
    | (extract_lets +onlyGivenNames x)
    | with_reducible apply Follows.ite
    | split)

theorem beginTeardown_follows {z : State} (j : Nat) (cause : Nat) {s : State} (hs : Follows z s) :
    Follows z (beginTeardown j cause s) := by
  unfold beginTeardown
  repeat' (first
    | with_reducible assumption
    | with_reducible apply closeJob_follows
    | (extract_lets +onlyGivenNames x)
    | with_reducible apply Follows.ite)

theorem jobDestroyBody_follows {z : State} (m : Msg) {s : State} (hs : Follows z s) :
    Follows z (jobDestroyBody m s) := by
  unfold jobDestroyBody
  repeat' (first
    | with_reducible assumption
    | with_reducible apply complete_follows
    | with_reducible apply keepRunning_follows
    | with_reducible apply beginTeardown_follows
    | split)

theorem jobDestroyRun_follows {z : State} (m : Msg) {s : State} (hs : Follows z s) :
    Follows z (jobDestroyRun m s) := by
  unfold jobDestroyRun
  repeat' (first
    | with_reducible assumption
    | with_reducible apply withGlen_follows
    | with_reducible apply jobDestroyBody_follows
    | with_reducible apply Follows.ite
    | split)

theorem cancelFlights_follows {z : State} (j : Nat) {s : State} (hs : Follows z s) :
    Follows z (cancelFlights j s) := by
  unfold cancelFlights
  repeat' (first
    | with_reducible assumption
    | rw [mk_change]
    | (with_reducible refine Follows.keep ?_ ?_ ?_ ?_; rotate_left; with_reducible rfl; with_reducible rfl; with_reducible rfl))

theorem retireIds_follows {z : State} (j : Nat) {s : State} (hs : Follows z s) :
    Follows z (retireIds j s) := by
  unfold retireIds
  repeat' (first
    | with_reducible assumption
    | rw [mk_change]
    | with_reducible apply Follows.foldl
    | with_reducible apply flushLines_follows
    | with_reducible apply keyIdFree_follows
    | with_reducible apply ledgerSelf_follows
    | (with_reducible refine Follows.keep ?_ ?_ ?_ ?_; rotate_left; with_reducible rfl; with_reducible rfl; with_reducible rfl)
    | (intro _))

theorem clearRegions_follows {z : State} (regions : List Nat) {s : State} (hs : Follows z s) :
    Follows z (clearRegions regions s) := by
  unfold clearRegions
  extract_lets inside gone t
  have ht : Follows z t := Follows.foldl _ hs fun _ _ h => freeTagOf_follows _ h
  rw [mk_change]
  exact ht.make (Nat.le_refl _) (List.prefix_refl _) (Nat.le_refl _) (Nat.le_refl _) (Memory_filter_wf _) id (.refl _) (.refl _)

theorem destroyJobSlots_follows {z : State} (j : Nat) {s : State} (hs : Follows z s) :
    Follows z (destroyJobSlots j s) := by
  unfold destroyJobSlots
  repeat' (first
    | with_reducible assumption
    | with_reducible apply Follows.foldl
    | with_reducible apply destroySlot_follows
    | (intro _))

theorem jobGone_follows {z : State} (j : Nat) (cause : Nat) {s : State} (hs : Follows z s) :
    Follows z (jobGone j cause s) := by
  unfold jobGone
  repeat' (first
    | with_reducible assumption
    | rw [mk_change]
    | with_reducible apply Follows.foldl
    | with_reducible apply ledgerFor_follows
    | with_reducible apply ledgerSelf_follows
    | with_reducible apply releaseObject_follows
    | with_reducible apply complete_follows
    | with_reducible apply finish_follows
    | with_reducible apply blockSwitch_follows
    | with_reducible apply modBubbles_follows
    | with_reducible apply beginStop_follows
    | with_reducible apply modJob_follows
    | (with_reducible refine Follows.keep ?_ ?_ ?_ ?_; rotate_left; with_reducible rfl; with_reducible rfl; with_reducible rfl)
    | (intro _)
    | (extract_lets +onlyGivenNames x; have hx : Follows z x := ?_; clear_value x; rotate_left; unfold x)
    | (extract_lets +onlyGivenNames x; clear_value x)
    | (extract_lets +onlyGivenNames x)
    | with_reducible apply Follows.ite
    | split)

theorem stepDone_follows {z : State} (j : Nat) {s : State} (hs : Follows z s) :
    Follows z (stepDone j s) := by
  unfold stepDone
  repeat' (first
    | with_reducible assumption
    | with_reducible apply hf
    | with_reducible apply modJob_follows
    | with_reducible apply retryHeld_follows
    | with_reducible apply dropWaiting_follows
    | with_reducible apply cancelFlights_follows
    | with_reducible apply controlAll_follows
    | with_reducible apply retireIds_follows
    | with_reducible apply clearRegions_follows
    | with_reducible apply jobGone_follows
    | with_reducible apply destroyJobSlots_follows
    | (intro _)
    | (extract_lets +onlyGivenNames x; have hx : Follows z x := ?_; clear_value x; rotate_left; unfold x)
    | (extract_lets +onlyGivenNames x; have hf : ∀ c d t, Follows z t → Follows z (x c d t) := ?_; clear_value x; rotate_left; unfold x)
    | (extract_lets +onlyGivenNames x; clear_value x)
    | (extract_lets +onlyGivenNames x)
    | with_reducible apply Follows.ite
    | split)

theorem leakSlot_follows {z : State} (j : Nat) (slot : Nat) {s : State} (hs : Follows z s) :
    Follows z (leakSlot j slot s) := by
  unfold leakSlot
  repeat' (first
    | with_reducible assumption
    | with_reducible apply jobEvent_follows
    | with_reducible apply modNum_follows
    | with_reducible apply freeSlot_follows)

theorem dropGradients_follows {z : State} (j : Nat) {s : State} (hs : Follows z s) :
    Follows z (dropGradients j s) := by
  unfold dropGradients
  repeat' (first
    | with_reducible assumption
    | with_reducible apply Follows.foldl
    | with_reducible apply unpinAll_follows
    | with_reducible apply freeBasin_follows
    | (intro _))

theorem applyVerdict_follows {z : State} (j : Nat) (word : Nat) {s : State} (hs : Follows z s) :
    Follows z (applyVerdict j word s) := by
  unfold applyVerdict
  repeat' (first
    | with_reducible assumption
    | with_reducible apply Follows.foldl
    | with_reducible apply modNarrows_follows
    | with_reducible apply dropGradients_follows
    | with_reducible apply modJob_follows
    | with_reducible apply modNum_follows
    | with_reducible apply jobNumeric_follows
    | with_reducible apply numericEvent_follows
    | with_reducible apply leakSlot_follows
    | with_reducible apply mechFault_follows
    | with_reducible apply stepTrigger_follows
    | (intro _)
    | (extract_lets +onlyGivenNames x; have hx : Follows z x := ?_; clear_value x; rotate_left; unfold x)
    | (extract_lets +onlyGivenNames x; clear_value x)
    | (extract_lets +onlyGivenNames x)
    | with_reducible apply Follows.ite
    | split)

theorem storeWord_follows {z : State} (r : Ref) (word : Nat) {s : State} (hs : Follows z s) :
    Follows z (storeWord r word s) := by
  unfold storeWord
  repeat' (first
    | with_reducible assumption
    | with_reducible apply Follows.foldl
    | with_reducible apply poke_follows
    | with_reducible apply noteWrite_follows
    | (intro _)
    | split)

theorem verdictDone_follows {z : State} (j : Nat) (word : Nat) {s : State} (hs : Follows z s) :
    Follows z (verdictDone j word s) := by
  unfold verdictDone
  repeat' (first
    | with_reducible assumption
    | with_reducible apply ensureOutputs_follows
    | with_reducible apply retryHeld_follows
    | with_reducible apply endColl_follows
    | with_reducible apply applyVerdict_follows
    | with_reducible apply storeWord_follows
    | (extract_lets +onlyGivenNames x; have hx : Follows z x.1 := ?_; clear_value x; rotate_left; unfold x)
    | (extract_lets +onlyGivenNames x)
    | with_reducible apply Follows.ite
    | split)

theorem flightFails_follows {z : State} (p : Qp) {s : State} (f : Flight) (hs : Follows z s) :
    Follows z (flightFails p s f) := by
  unfold flightFails
  repeat' (first
    | with_reducible assumption
    | rw [mk_change]
    | with_reducible apply bumpEth_follows
    | with_reducible apply releaseDone_follows
    | with_reducible apply fetchFails_follows
    | with_reducible apply evictFails_follows
    | with_reducible apply captureFails_follows
    | with_reducible apply dropFlight_follows
    | with_reducible apply manifestDone_follows
    | with_reducible apply loadDone_follows
    | (with_reducible refine Follows.keep ?_ ?_ ?_ ?_; rotate_left; with_reducible rfl; with_reducible rfl; with_reducible rfl)
    | (extract_lets +onlyGivenNames x; clear_value x)
    | split)

theorem qpFails_follows {z : State} (q : Nat) (p : Qp) {s : State} (hs : Follows z s) :
    Follows z (qpFails q p s) := by
  unfold qpFails
  repeat' (first
    | with_reducible assumption
    | rw [mk_change]
    | with_reducible apply Follows.foldl
    | with_reducible apply modQp_follows
    | with_reducible apply modEth_follows
    | with_reducible apply flowOf_follows
    | with_reducible apply flightFails_follows
    | (with_reducible refine Follows.keep ?_ ?_ ?_ ?_; rotate_left; with_reducible rfl; with_reducible rfl; with_reducible rfl))

theorem resumed_follows {z : State} (n : Nat) (k : Nat) {s : State} (hs : Follows z s) :
    Follows z (resumed n k s) := by
  unfold resumed
  repeat' (first
    | with_reducible assumption
    | with_reducible apply Follows.foldl
    | with_reducible apply emit_follows
    | with_reducible apply modEth_follows
    | (intro _))

theorem modConfig_follows {z : State} (i : Nat) (f : FlashSlot → FlashSlot) {s : State} (hs : Follows z s) :
    Follows z (modConfig i f s) := by
  unfold modConfig
  repeat' (first
    | with_reducible assumption
    | rw [mk_change]
    | (with_reducible refine Follows.keep ?_ ?_ ?_ ?_; rotate_left; with_reducible rfl; with_reducible rfl; with_reducible rfl))

theorem forSlot_follows {z : State} (m : Msg) (slot : Nat) (body : State → State) {s : State} (hbody : ∀ y0, Follows z y0 → Follows z (body y0)) (hs : Follows z s) :
    Follows z (forSlot m slot body s) := by
  unfold forSlot
  repeat' (first
    | with_reducible assumption
    | with_reducible apply hbody
    | with_reducible apply complete_follows
    | (extract_lets +onlyGivenNames x)
    | with_reducible apply Follows.ite)

theorem configActivateRun_follows {z : State} (m : Msg) {s : State} (hs : Follows z s) :
    Follows z (configActivateRun m s) := by
  unfold configActivateRun
  repeat' (first
    | with_reducible assumption
    | rw [mk_change]
    | with_reducible apply forSlot_follows
    | with_reducible apply complete_follows
    | with_reducible apply ledgerFor_follows
    | with_reducible apply deferChange_follows
    | (with_reducible refine Follows.keep ?_ ?_ ?_ ?_; rotate_left; with_reducible rfl; with_reducible rfl; with_reducible rfl)
    | (intro _)
    | (extract_lets +onlyGivenNames x; have hx : Follows z x := ?_; clear_value x; rotate_left; unfold x)
    | (extract_lets +onlyGivenNames x; clear_value x)
    | (extract_lets +onlyGivenNames x)
    | with_reducible apply Follows.ite)

theorem modFw_follows {z : State} (i : Nat) (f : FlashSlot → FlashSlot) {s : State} (hs : Follows z s) :
    Follows z (modFw i f s) := by
  unfold modFw
  repeat' (first
    | with_reducible assumption
    | rw [mk_change]
    | (with_reducible refine Follows.keep ?_ ?_ ?_ ?_; rotate_left; with_reducible rfl; with_reducible rfl; with_reducible rfl))

theorem sendRecord_follows {z : State} (ctx : Nat) (n : Nat) (status : Nat) (b : Bytes) {s : State} (hs : Follows z s) :
    Follows z (sendRecord ctx n status b s) := by
  unfold sendRecord
  repeat' (first
    | with_reducible assumption
    | with_reducible apply sendCtx_follows)

theorem sendRecords_follows {z : State} (ctx : Nat) (x0 : Nat) (x1 : Nat) {x2 : State} (hx2 : Follows z x2) :
    Follows z (sendRecords ctx x0 x1 x2) := by
  induction x0 generalizing x1 x2 with
  | zero =>
    unfold sendRecords
    repeat' (first
      | with_reducible assumption)
  | succ k ih =>
    unfold sendRecords
    try split
    all_goals (try injections)
    all_goals (try subst_vars)
    repeat' (first
      | with_reducible assumption
      | with_reducible apply ih
      | with_reducible apply sendRecord_follows)

theorem pumpStreams_follows {z : State} {s : State} (hs : Follows z s) :
    Follows z (pumpStreams s) := by
  unfold pumpStreams
  repeat' (first
    | with_reducible assumption
    | rw [mk_change]
    | with_reducible apply Follows.foldl
    | with_reducible apply sendRecords_follows
    | (with_reducible refine Follows.keep ?_ ?_ ?_ ?_; rotate_left; with_reducible rfl; with_reducible rfl; with_reducible rfl)
    | (intro _))

theorem ledgerNote_follows {z : State} (action : Nat) (first : Nat) {s : State} (hs : Follows z s) :
    Follows z (ledgerNote action first s) := by
  unfold ledgerNote
  repeat' (first
    | with_reducible assumption
    | rw [mk_change]
    | with_reducible apply ledgerSelf_follows
    | (with_reducible refine Follows.keep ?_ ?_ ?_ ?_; rotate_left; with_reducible rfl; with_reducible rfl; with_reducible rfl)
    | (extract_lets +onlyGivenNames x; have _ : Ledger := x)
    | with_reducible apply Follows.ite)

theorem streamBody_follows {z : State} (ctx : Nat) (m : Msg) {s : State} (hs : Follows z s) :
    Follows z (streamBody ctx m s) := by
  unfold streamBody
  repeat' (first
    | with_reducible assumption
    | rw [mk_change]
    | with_reducible apply complete_follows
    | with_reducible apply ledgerNote_follows
    | with_reducible apply sendRecord_follows
    | with_reducible apply pumpStreams_follows
    | (with_reducible refine Follows.keep ?_ ?_ ?_ ?_; rotate_left; with_reducible rfl; with_reducible rfl; with_reducible rfl)
    | (extract_lets +onlyGivenNames x; have hx : Follows z x := ?_; clear_value x; rotate_left; unfold x)
    | (extract_lets +onlyGivenNames x; have _ : Ledger := x)
    | (extract_lets +onlyGivenNames x; clear_value x)
    | split)

theorem ledgerBy_follows {z : State} (m : Option Msg) (kind : Nat) (action : Nat) (part : Nat) (before : Bool) (detail : Bytes) {s : State} (hs : Follows z s) :
    Follows z (ledgerBy m kind action part before detail s) := by
  unfold ledgerBy
  repeat' (first
    | with_reducible assumption
    | with_reducible apply ledgerFor_follows
    | with_reducible apply ledgerSelf_follows
    | split)

theorem powerRecord_follows {z : State} (m : Option Msg) (old : Bytes) (new : Bytes) {s : State} (hs : Follows z s) :
    Follows z (powerRecord m old new s) := by
  unfold powerRecord
  repeat' (first
    | with_reducible assumption
    | with_reducible apply ledgerBy_follows
    | with_reducible apply Follows.ite)

theorem applyPower_follows {z : State} (m : Option Msg) (p : PowerCfg) {s : State} (hs : Follows z s) :
    Follows z (applyPower m p s) := by
  unfold applyPower
  repeat' (first
    | with_reducible assumption
    | rw [mk_change]
    | with_reducible apply powerRecord_follows
    | (with_reducible refine Follows.keep ?_ ?_ ?_ ?_; rotate_left; with_reducible rfl; with_reducible rfl; with_reducible rfl))

theorem setBoot_follows {z : State} (img : Image) (port : Nat) (part : Nat) {s : State} (hs : Follows z s) :
    Follows z (setBoot img port part s) := by
  unfold setBoot
  repeat' (first
    | with_reducible assumption
    | rw [mk_change]
    | (with_reducible refine Follows.keep ?_ ?_ ?_ ?_; rotate_left; with_reducible rfl; with_reducible rfl; with_reducible rfl))

theorem setContexts_follows {z : State} (img : Image) {s : State} (hs : Follows z s) :
    Follows z (setContexts img s) := by
  unfold setContexts
  repeat' (first
    | with_reducible assumption
    | rw [mk_change]
    | with_reducible apply Follows.foldl
    | (with_reducible refine Follows.keep ?_ ?_ ?_ ?_; rotate_left; with_reducible rfl; with_reducible rfl; with_reducible rfl)
    | (intro _)
    | (extract_lets +onlyGivenNames x)
    | with_reducible apply Follows.ite)

theorem startEthernet_follows {z : State} {s : State} (hs : Follows z s) :
    Follows z (startEthernet s) := by
  unfold startEthernet
  repeat' (first
    | with_reducible assumption
    | with_reducible apply Follows.foldl
    | with_reducible apply setContexts_follows
    | with_reducible apply setBoot_follows
    | (intro _))

theorem relight_follows {z : State} (img : Image) {s : State} (n : Nat) (hs : Follows z s) :
    Follows z (relight img s n) := by
  unfold relight
  repeat' (first
    | with_reducible assumption
    | with_reducible apply modEth_follows
    | (extract_lets +onlyGivenNames x)
    | with_reducible apply Follows.ite)

theorem applyEth_follows {z : State} (img : Image) {s : State} (hs : Follows z s) :
    Follows z (applyEth img s) := by
  unfold applyEth
  repeat' (first
    | with_reducible assumption
    | with_reducible apply Follows.foldl
    | with_reducible apply setBoot_follows
    | with_reducible apply relight_follows
    | (intro _)
    | (extract_lets +onlyGivenNames x)
    | with_reducible apply Follows.ite)

theorem repurpose_follows {z : State} (n role : Nat) {s : State} (hs : Follows z s) : Follows z (repurpose n role s) := by
  unfold repurpose
  extract_lets t
  have ht : Follows z t := Follows.ite hs (portStops_follows _ _ (fun _ h => h) hs)
  exact Follows.ite (modPort_follows _ _ ht) (beginFull_follows _ (modPort_follows _ _ ht))

theorem applyPass_follows {z : State} (img : Image) {s : State} (hs : Follows z s) :
    Follows z (applyPass img s) := by
  unfold applyPass
  repeat' (first
    | with_reducible assumption
    | rw [mk_change]
    | with_reducible apply Follows.foldl
    | with_reducible apply repurpose_follows
    | with_reducible apply beginFast_follows
    | (with_reducible refine Follows.keep ?_ ?_ ?_ ?_; rotate_left; with_reducible rfl; with_reducible rfl; with_reducible rfl)
    | (intro _)
    | (extract_lets +onlyGivenNames x; have hx : Follows z x := ?_; clear_value x; rotate_left; unfold x)
    | (extract_lets +onlyGivenNames x; clear_value x)
    | (extract_lets +onlyGivenNames x)
    | with_reducible apply Follows.ite)

theorem zeroCores_follows {z : State} (p : Nat → Bool) {s : State} (hs : Follows z s) : Follows z (zeroCores p s) := by
  unfold zeroCores
  rw [mk_change]
  refine hs.make (Nat.le_refl _) (List.prefix_refl _) (Nat.le_refl _) (Nat.le_refl _) id (fun h => ?_) (.refl _) (.refl _)
  refine coresWf_filter (coresWf_map h (fun x hx => ?_))
  split
  · rfl
  · exact hx

theorem applyStructure_follows {z : State} (img : Image) {s : State} (hs : Follows z s) :
    Follows z (applyStructure img s) := by
  unfold applyStructure
  repeat' (first
    | with_reducible assumption
    | rw [mk_change]
    | with_reducible apply zeroCores_follows
    | (with_reducible refine Follows.keep ?_ ?_ ?_ ?_; rotate_left; with_reducible rfl; with_reducible rfl; with_reducible rfl))

theorem applyTriggers_follows {z : State} (img : Image) {s : State} (hs : Follows z s) :
    Follows z (applyTriggers img s) := by
  unfold applyTriggers
  repeat' (first
    | with_reducible assumption
    | rw [mk_change]
    | (with_reducible refine Follows.keep ?_ ?_ ?_ ?_; rotate_left; with_reducible rfl; with_reducible rfl; with_reducible rfl))

theorem partRecords_follows {z : State} (m : Option Msg) (img : Image) {s : State} (hs : Follows z s) :
    Follows z (partRecords m img s) := by
  unfold partRecords
  repeat' (first
    | with_reducible assumption
    | with_reducible apply Follows.foldl
    | with_reducible apply ledgerBy_follows
    | (intro _)
    | (extract_lets +onlyGivenNames x; clear_value x)
    | with_reducible apply Follows.ite)

theorem applyImage_follows {z : State} (m : Option Msg) (slot : Nat) (img : Image) {s : State} (hs : Follows z s) :
    Follows z (applyImage m slot img s) := by
  unfold applyImage
  repeat' (first
    | with_reducible assumption
    | rw [mk_change]
    | with_reducible apply partRecords_follows
    | with_reducible apply applyPower_follows
    | with_reducible apply applyTriggers_follows
    | with_reducible apply applyEth_follows
    | with_reducible apply applyPass_follows
    | with_reducible apply applyStructure_follows
    | with_reducible apply setContexts_follows
    | (with_reducible refine Follows.keep ?_ ?_ ?_ ?_; rotate_left; with_reducible rfl; with_reducible rfl; with_reducible rfl))

end Sys2Proof.Laws
end

