-- ==== Sys2Proof/Laws/FollowsSystem.lean ====
section
/-! SUPPORT. What follows a state keeps its promises: one lemma per operation, for resets, boot, limits, the life cycle, the mirror, power, supply, the start order and the registers. -/

set_option linter.tactic.unusedName false

namespace Sys2Proof.Laws

open Sys2Proof.Machine

theorem coldCores_wf (c : Tab CoreSt) : coresWf (coldCores c) :=
  coresWf_filter (fun y hy => by obtain ⟨x, -, rfl⟩ := List.mem_map.1 hy; rfl)

theorem coldLedger_after (l : Ledger) : LedgerAfter l (coldLedger l) := by
  intro h
  refine ⟨⟨?_, ?_, h.mirrorBelow, Nat.le_refl _, ?_, ?_⟩, Nat.le_refl _, fun _ _ h _ => h⟩
  · rintro n r r' (hx | hx) hx'
    · cases hx
    · rcases hx' with hx' | hx'
      · cases hx'
      · exact h.one n r r' (.inr hx) (.inr hx')
  · rintro n r (hx | hx)
    · cases hx
    · exact h.mirrorBelow n r hx
  · rintro n r (hx | hx) hn
    · cases hx
    · have hn : n + 1 = l.mirrored := hn
      have e : l.mirrored - 1 = n := by omega
      show sha256 ((tget l.mirror (l.mirrored - 1)).getD []) = sha256 r
      rw [e]
      obtain ⟨w, hw⟩ := tget_of_mem hx
      have hw : tget l.mirror n = some w := hw
      rw [hw, h.one n r w (.inr hx) (.inr (mem_of_tget hw))]
      rfl
  · rintro n r r' (hx | hx) hx'
    · cases hx
    · rcases hx' with hx' | hx'
      · cases hx'
      · exact h.link n r r' (.inr hx) (.inr hx')

theorem coldState_follows {z : State} {s : State} (hs : Follows z s) : Follows z (coldState s) :=
  hs.trans {
    pending := rfl, free := Nat.le_refl _, sent := List.prefix_refl _, boot := Nat.le_refl _, tickets := Nat.le_refl _
    mem := fun _ => rfl, cores := fun _ => coldCores_wf _, ledger := coldLedger_after _, fuses := .same rfl }

theorem railsOff_follows {z : State} {s : State} (hs : Follows z s) : Follows z (railsOff s) := by
  unfold railsOff
  extract_lets +onlyGivenNames t
  have ht : Follows z t := Follows.foldl _ hs fun _ _ h => complete_follows _ _ h
  clear_value t
  extract_lets +onlyGivenNames stays tickets
  rw [mk_change]
  exact ht.make (Nat.le_refl _) (List.prefix_refl _) (Nat.le_refl _) (Nat.le_refl _) (fun _ => rfl) (fun _ => coldCores_wf _)
    (.same rfl) (.refl _)

theorem refuseRestore_follows {z : State} (j : Nat) {s : State} (hs : Follows z s) :
    Follows z (refuseRestore j s) := by
  unfold refuseRestore
  repeat' (first
    | with_reducible assumption
    | with_reducible apply modJob_follows
    | with_reducible apply doneArrives_follows
    | with_reducible apply checkArrives_follows
    | with_reducible apply toLead_follows
    | (extract_lets +onlyGivenNames x; have hx : Follows z x := ?_; clear_value x; rotate_left; unfold x)
    | (extract_lets +onlyGivenNames x; clear_value x)
    | (extract_lets +onlyGivenNames x)
    | with_reducible apply Follows.ite
    | split)

theorem haltJob_follows {z : State} (j : Nat) {s : State} (hs : Follows z s) :
    Follows z (haltJob j s) := by
  unfold haltJob
  repeat' (first
    | with_reducible assumption
    | with_reducible apply abandonCapture_follows
    | with_reducible apply memberFails_follows
    | with_reducible apply refuseRestore_follows
    | with_reducible apply modJob_follows
    | (extract_lets +onlyGivenNames x)
    | with_reducible apply Follows.ite
    | split)

theorem endBubbles_follows {z : State} (p : Nat) {s : State} (hs : Follows z s) :
    Follows z (endBubbles p s) := by
  unfold endBubbles
  repeat' (first
    | with_reducible assumption
    | with_reducible apply Follows.foldl
    | with_reducible apply modBubbles_follows
    | with_reducible apply blockReturn_follows
    | (intro _)
    | (extract_lets +onlyGivenNames x; have hx : Follows z x := ?_; clear_value x; rotate_left; unfold x)
    | with_reducible apply Follows.ite)

theorem sweepBack_follows {z : State} (mine : Nat → Bool) {s : State} (hs : Follows z s) :
    Follows z (sweepBack mine s) := by
  unfold sweepBack
  repeat' (first
    | with_reducible assumption
    | rw [mk_change]
    | (with_reducible refine Follows.keep ?_ ?_ ?_ ?_; rotate_left; with_reducible rfl; with_reducible rfl; with_reducible rfl))

theorem resetPart_follows {z : State} (p : Nat) {s : State} (hs : Follows z s) :
    Follows z (resetPart p s) := by
  unfold resetPart
  repeat' (first
    | with_reducible assumption
    | with_reducible apply sweepBack_follows
    | with_reducible apply haltJob_follows
    | with_reducible apply endBubbles_follows
    | with_reducible apply settle_follows
    | with_reducible apply zeroCores_follows)

theorem hold_follows {z : State} (m : Msg) {s : State} (hs : Follows z s) :
    Follows z (hold m s) := by
  unfold hold
  repeat' (first
    | with_reducible assumption
    | rw [mk_change]
    | (with_reducible refine Follows.keep ?_ ?_ ?_ ?_; rotate_left; with_reducible rfl; with_reducible rfl; with_reducible rfl))

theorem functionResetRun_follows {z : State} (m : Msg) {s : State} (hs : Follows z s) :
    Follows z (functionResetRun m s) := by
  unfold functionResetRun
  repeat' (first
    | with_reducible assumption
    | with_reducible apply Follows.foldl
    | with_reducible apply complete_follows
    | with_reducible apply hold_follows
    | with_reducible apply resetPart_follows
    | (intro _)
    | (extract_lets +onlyGivenNames x; clear_value x)
    | (extract_lets +onlyGivenNames x)
    | with_reducible apply Follows.ite)

theorem coldZero_wf {c : Tab CoreSt} : coresWf (coldZero c) :=
  coresWf_filter (fun y hy => by obtain ⟨x, -, rfl⟩ := List.mem_map.1 hy; rfl)

theorem warmNow_follows {z : State} (m : Option Msg) {s : State} (hs : Follows z s) : Follows z (warmNow m s) := by
  unfold warmNow
  extract_lets +onlyGivenNames others t u
  have ht : Follows z t := Follows.foldl _ hs fun _ _ h => complete_follows _ _ h
  have hu : Follows z u := Follows.foldl _ ht fun _ _ h => freeObject_follows _ h
  clear_value u t
  have hw : ∀ x, Follows z x → Follows z (match m with | some m => if m.ctx.isNone = true then complete m 0x00 x else x | none => x) := by
    intro x hx
    split
    · exact Follows.ite (complete_follows _ _ hx) hx
    · exact hx
  refine hw _ (startEthernet_follows ?_)
  dsimp only
  rw [mk_change]
  exact hu.make (Nat.le_refl _) (List.prefix_refl _) (Nat.le_refl _) (Nat.le_refl _) id (fun _ => coldZero_wf) (.same rfl) (.same rfl)

theorem tearAll_follows {z : State} (cause : Nat) {s : State} (hs : Follows z s) :
    Follows z (tearAll cause s) := by
  unfold tearAll
  repeat' (first
    | with_reducible assumption
    | with_reducible apply Follows.foldl
    | with_reducible apply beginTeardown_follows
    | (intro _))

theorem startWarm_follows {z : State} (m : Option Msg) {s : State} (hs : Follows z s) :
    Follows z (startWarm m s) := by
  unfold startWarm
  repeat' (first
    | with_reducible assumption
    | rw [mk_change]
    | with_reducible apply warmNow_follows
    | with_reducible apply tearAll_follows
    | (with_reducible refine Follows.keep ?_ ?_ ?_ ?_; rotate_left; with_reducible rfl; with_reducible rfl; with_reducible rfl)
    | with_reducible apply Follows.ite)

theorem warmResetRun_follows {z : State} (m : Msg) {s : State} (hs : Follows z s) :
    Follows z (warmResetRun m s) := by
  unfold warmResetRun
  repeat' (first
    | with_reducible assumption
    | with_reducible apply complete_follows
    | with_reducible apply hold_follows
    | with_reducible apply startWarm_follows
    | (extract_lets +onlyGivenNames x)
    | with_reducible apply Follows.ite)

theorem takeDerates_follows {z : State} (l : List (Nat × Nat)) {s : State} (hs : Follows z s) :
    Follows z (takeDerates l s) := by
  unfold takeDerates
  repeat' (first
    | with_reducible assumption
    | rw [mk_change]
    | with_reducible apply Follows.foldl
    | with_reducible apply modCore_follows
    | with_reducible apply ledgerSelf_follows
    | (with_reducible refine Follows.keep ?_ ?_ ?_ ?_; rotate_left; with_reducible rfl; with_reducible rfl; with_reducible rfl)
    | (intro k hk; exact hk)
    | (intro _)
    | (extract_lets +onlyGivenNames x; have hx : Follows z x := ?_; clear_value x; rotate_left; unfold x)
    | (extract_lets +onlyGivenNames x; clear_value x)
    | with_reducible apply Follows.ite)

theorem burn_follows {z : State} (r mark : Nat) {s : State} (hs : Follows z s) : Follows z (burn r mark s) := by
  unfold burn
  extract_lets +onlyGivenNames v
  rw [mk_change]
  exact hs.make (Nat.le_refl _) (List.prefix_refl _) (Nat.le_refl _) (Nat.le_refl _) id id (.same rfl)
    ⟨fun row k h => burn_marked s.lc r mark row k h, Nat.le_refl _⟩

theorem zeroKeys_follows {z : State} {s : State} (hs : Follows z s) :
    Follows z (zeroKeys s) := by
  unfold zeroKeys
  repeat' (first
    | with_reducible assumption
    | rw [mk_change]
    | (with_reducible refine Follows.keep ?_ ?_ ?_ ?_; rotate_left; with_reducible rfl; with_reducible rfl; with_reducible rfl))

theorem makeSlot_follows {z : State} (n : Nat) (k : KeySlot) {s : State} (hs : Follows z s) :
    Follows z (makeSlot n k s) := by
  unfold makeSlot
  repeat' (first
    | with_reducible assumption
    | with_reducible apply fillSlot_follows
    | with_reducible apply slotRecord_follows)

theorem makeIdentity_follows {z : State} {s : State} (hs : Follows z s) :
    Follows z (makeIdentity s) := by
  unfold makeIdentity
  repeat' (first
    | with_reducible assumption
    | with_reducible apply makeSlot_follows)

theorem makeKem_follows {z : State} {s : State} (hs : Follows z s) :
    Follows z (makeKem s) := by
  unfold makeKem
  repeat' (first
    | with_reducible assumption
    | with_reducible apply makeSlot_follows)

theorem sealBuyer_follows {z : State} {s : State} (hs : Follows z s) :
    Follows z (sealBuyer s) := by
  unfold sealBuyer
  repeat' (first
    | with_reducible assumption
    | rw [mk_change]
    | with_reducible apply freshBytes_follows
    | (with_reducible refine Follows.keep ?_ ?_ ?_ ?_; rotate_left; with_reducible rfl; with_reducible rfl; with_reducible rfl)
    | (extract_lets +onlyGivenNames x; have _ : LifeCycle := x)
    | with_reducible apply Follows.ite)

theorem lcEffect_follows {z : State} (r : Nat) (n : Nat) {s : State} (hs : Follows z s) :
    Follows z (lcEffect r n s) := by
  unfold lcEffect
  repeat' (first
    | with_reducible assumption
    | rw [mk_change]
    | with_reducible apply freshBytes_follows
    | with_reducible apply makeKem_follows
    | with_reducible apply makeIdentity_follows
    | with_reducible apply sealBuyer_follows
    | with_reducible apply zeroKeys_follows
    | (with_reducible refine Follows.keep ?_ ?_ ?_ ?_; rotate_left; with_reducible rfl; with_reducible rfl; with_reducible rfl)
    | (extract_lets +onlyGivenNames x; clear_value x)
    | split)

theorem resumeSteps_follows {z : State} (r : Nat) (x0 : Nat) (x1 : Nat) {x2 : State} (hx2 : Follows z x2) :
    Follows z (resumeSteps r x0 x1 x2) := by
  induction x0 generalizing x1 x2 with
  | zero =>
    unfold resumeSteps
    repeat' (first
      | with_reducible assumption)
  | succ k ih =>
    unfold resumeSteps
    try split
    all_goals (try injections)
    all_goals (try subst_vars)
    repeat' (first
      | with_reducible assumption
      | with_reducible apply ih
      | with_reducible apply ledger_follows
      | with_reducible apply burn_follows
      | with_reducible apply lcEffect_follows)

theorem resumeTransition_follows {z : State} {s : State} (hs : Follows z s) :
    Follows z (resumeTransition s) := by
  unfold resumeTransition
  repeat' (first
    | with_reducible assumption
    | with_reducible apply ledger_follows
    | with_reducible apply resumeSteps_follows
    | with_reducible apply burn_follows
    | split)

theorem rootCheck_follows {z : State} {s : State} (hs : Follows z s) :
    Follows z (rootCheck s) := by
  unfold rootCheck
  repeat' (first
    | with_reducible assumption
    | rw [mk_change]
    | with_reducible apply ledger_follows
    | (with_reducible refine Follows.keep ?_ ?_ ?_ ?_; rotate_left; with_reducible rfl; with_reducible rfl; with_reducible rfl)
    | (extract_lets +onlyGivenNames x; have hx : Follows z x := ?_; clear_value x; rotate_left; unfold x)
    | (extract_lets +onlyGivenNames x; clear_value x)
    | with_reducible apply Follows.ite)

theorem glenStart_follows {z : State} (env : BootEnv) {s : State} (hs : Follows z s) :
    Follows z (glenStart env s) := by
  unfold glenStart
  repeat' (first
    | with_reducible assumption
    | rw [mk_change]
    | with_reducible apply alert_follows
    | with_reducible apply resumeTransition_follows
    | with_reducible apply rootCheck_follows
    | (with_reducible refine Follows.keep ?_ ?_ ?_ ?_; rotate_left; with_reducible rfl; with_reducible rfl; with_reducible rfl)
    | (extract_lets +onlyGivenNames x; have _ : LifeCycle := x)
    | (extract_lets +onlyGivenNames x; clear_value x)
    | with_reducible apply Follows.ite)

theorem trySets_follows {z : State} (env : BootEnv) (x0 : List Nat) (x1 : Bool) {x2 : State} (hx2 : Follows z x2) :
    Follows z (trySets env x0 x1 x2).2 := by
  induction x0 generalizing x1 x2 with
  | nil =>
    unfold trySets
    repeat' (first
      | with_reducible assumption)
  | cons y l ih =>
    unfold trySets
    try split
    all_goals (try injections)
    all_goals (try subst_vars)
    repeat' (first
      | with_reducible assumption
      | with_reducible apply ih
      | with_reducible apply alert_follows
      | with_reducible apply ledger_follows
      | (extract_lets +onlyGivenNames x; have hx : Follows z x := ?_; clear_value x; rotate_left; unfold x)
      | with_reducible apply Follows.ite_snd)

theorem tryImages_follows {z : State} (x0 : List Nat) (x1 : Bool) {x2 : State} (hx2 : Follows z x2) :
    Follows z (tryImages x0 x1 x2).2.2 := by
  induction x0 generalizing x1 x2 with
  | nil =>
    unfold tryImages
    repeat' (first
      | with_reducible assumption
      | with_reducible apply alert_follows
      | with_reducible apply ledgerSelf_follows
      | (extract_lets +onlyGivenNames x; have hx : Follows z x := ?_; clear_value x; rotate_left; unfold x)
      | with_reducible apply Follows.ite)
  | cons y l ih =>
    unfold tryImages
    try split
    all_goals (try injections)
    all_goals (try subst_vars)
    repeat' (first
      | with_reducible assumption
      | with_reducible apply ih
      | with_reducible apply alert_follows
      | with_reducible apply ledgerSelf_follows
      | (extract_lets +onlyGivenNames x; have hx : Follows z x := ?_; clear_value x; rotate_left; unfold x)
      | (extract_lets +onlyGivenNames x; clear_value x)
      | split)

theorem chooseImage_follows {z : State} {s : State} (hs : Follows z s) :
    Follows z (chooseImage s) := by
  unfold chooseImage
  repeat' (first
    | with_reducible assumption
    | rw [mk_change]
    | with_reducible apply tryImages_follows
    | with_reducible apply ledgerSelf_follows
    | with_reducible apply startEthernet_follows
    | (with_reducible refine Follows.keep ?_ ?_ ?_ ?_; rotate_left; with_reducible rfl; with_reducible rfl; with_reducible rfl)
    | (extract_lets +onlyGivenNames x)
    | with_reducible apply Follows.ite)

theorem bootKeys_follows {z : State} (env : BootEnv) {s : State} (hs : Follows z s) :
    Follows z (bootKeys env s) := by
  unfold bootKeys
  repeat' (first
    | with_reducible assumption
    | with_reducible apply makeSlot_follows
    | with_reducible apply makeKem_follows
    | with_reducible apply makeIdentity_follows
    | with_reducible apply freshBytes_follows
    | (extract_lets +onlyGivenNames x)
    | with_reducible apply Follows.ite)

/-- Records that the ring holds enter the mirror, in rising order. -/
theorem mirrorPut_after {l m : Ledger} {n : Nat} {r : Bytes} (h : (n, r) ∈ l.ring) (hn : l.mirrored ≤ n)
    (e : (m.ring, m.next, m.headDigest) = (l.ring, l.next, l.headDigest)) (hm : m.mirror = mirrorPut n r l.mirror)
    (hk : m.mirrored = n + 1) : LedgerAfter l m := by
  intro hl
  simp only [Prod.mk.injEq] at e
  have key : ∀ x, x ∈ m.mirror → x = (n, r) ∨ x ∈ l.mirror := by
    intro x hx
    rw [hm] at hx
    unfold mirrorPut at hx
    rcases mem_tset hx with e | hx
    · exact .inl e
    · split at hx
      · exact .inr hx
      · exact .inr (mem_terase hx)
  refine LedgerAfter.fewer ?_ ?_ ?_ e.2.1 e.2.2 (by omega) ?_ hl
  · rintro k q (hx | hx)
    · rw [e.1] at hx
      exact .inl hx
    · rcases key _ hx with e' | hx
      · cases e'; exact .inl h
      · exact .inr hx
  · intro k q hx
    rcases key _ hx with e' | hx
    · cases e'; omega
    · have := hl.mirrorBelow k q hx; omega
  · intro k q hx hlt
    rcases key _ hx with e' | hx
    · cases e'; omega
    · exact hx
  · intro hl
    have := hl.below n r (.inl h)
    rw [e.2.1]; omega

theorem mirrorAll_follows {z : State} {s : State} (hs : Follows z s) : Follows z (mirrorAll s) := by
  unfold mirrorAll
  extract_lets +onlyGivenNames l
  rw [mk_change]
  refine hs.make (Nat.le_refl _) (List.prefix_refl _) (Nat.le_refl _) (Nat.le_refl _) id id (fun hl => ?_) (.refl _)
  have key : ∀ (q : Tab Bytes) (m : Tab Bytes), (∀ x, x ∈ q → x ∈ l.ring ∧ l.mirrored ≤ x.1) →
      ∀ x, x ∈ q.foldl (fun (m : Tab Bytes) r => mirrorPut r.1 r.2 m) m → x ∈ m ∨ (x ∈ l.ring ∧ l.mirrored ≤ x.1) := by
    intro q
    induction q with
    | nil => intro m _ x hx; exact .inl hx
    | cons y q ih =>
      intro m hq x hx
      rcases ih _ (fun x hx => hq x (List.mem_cons_of_mem _ hx)) x hx with hx | hx
      · unfold mirrorPut at hx
        rcases mem_tset hx with e | hx
        · rw [e]; exact .inr (hq y List.mem_cons_self)
        · split at hx
          · exact .inl hx
          · exact .inl (mem_terase hx)
      · exact .inr hx
  have key := key (l.ring.filter fun r => decide (l.mirrored ≤ r.1)) l.mirror fun x hx => by
    have := List.mem_filter.1 hx
    exact ⟨this.1, of_decide_eq_true this.2⟩
  refine LedgerAfter.fewer ?_ ?_ ?_ rfl rfl hl.mirroredLe (fun _ => Nat.le_refl _) hl
  · rintro k q (hx | hx)
    · exact .inl hx
    · exact (key _ hx).symm.imp (fun x => x.1) id
  · intro k q hx
    rcases key _ hx with hx | hx
    · exact Nat.lt_of_lt_of_le (hl.mirrorBelow k q hx) hl.mirroredLe
    · exact hl.below k q (.inl hx.1)
  · intro k q hx hlt
    rcases key _ hx with hx | hx
    · exact hx
    · exact absurd hlt (Nat.not_lt_of_le hx.2)

theorem bootLoad_follows {z : State} (env : BootEnv) {s : State} (hs : Follows z s) :
    Follows z (bootLoad env s) := by
  unfold bootLoad
  repeat' (first
    | with_reducible assumption
    | rw [mk_change]
    | with_reducible apply trySets_follows
    | with_reducible apply mirrorAll_follows
    | with_reducible apply alert_follows
    | with_reducible apply chooseImage_follows
    | with_reducible apply takeDerates_follows
    | with_reducible apply bootKeys_follows
    | (with_reducible refine Follows.keep ?_ ?_ ?_ ?_; rotate_left; with_reducible rfl; with_reducible rfl; with_reducible rfl)
    | (extract_lets +onlyGivenNames x; have hx : Follows z x.2 := ?_; clear_value x; rotate_left; unfold x)
    | (extract_lets +onlyGivenNames x; clear_value x)
    | split)

theorem coldBoot_follows {z : State} (env : BootEnv) {s : State} (hs : Follows z s) :
    Follows z (coldBoot env s) := by
  unfold coldBoot
  repeat' (first
    | with_reducible assumption
    | with_reducible apply glenStart_follows
    | with_reducible apply bootLoad_follows
    | (extract_lets +onlyGivenNames x; have hx : Follows z x := ?_; clear_value x; rotate_left; unfold x)
    | with_reducible apply Follows.ite)

theorem coldReset_follows {z : State} (env : BootEnv) {s : State} (hs : Follows z s) : Follows z (coldReset env s) := by
  unfold coldReset
  have ht := coldState_follows hs
  have hb : s.boot ≤ (coldState s).boot + 1 := Nat.le_succ _
  dsimp only
  simp only [mk_change]
  exact Follows.ite (ht.make (Nat.le_refl _) (List.prefix_refl _) (Nat.le_succ _) (Nat.le_refl _) id id (.refl _) (.refl _))
    (coldBoot_follows _ (ht.make (Nat.le_refl _) (List.prefix_refl _) (Nat.le_succ _) (Nat.le_refl _) id id (.refl _) (.refl _)))

theorem accessErr_follows {z : State} (mask : Nat) {s : State} (hs : Follows z s) :
    Follows z (accessErr mask s) := by
  unfold accessErr
  repeat' (first
    | with_reducible assumption
    | rw [mk_change]
    | (with_reducible refine Follows.keep ?_ ?_ ?_ ?_; rotate_left; with_reducible rfl; with_reducible rfl; with_reducible rfl))

theorem writeAt_follows {z : State} (addr : Nat) (f : State → State) {s : State} (hf : ∀ y0, Follows z y0 → Follows z (f y0)) (hs : Follows z s) :
    Follows z (writeAt addr f s) := by
  unfold writeAt
  repeat' (first
    | with_reducible assumption
    | with_reducible apply hf
    | with_reducible apply accessErr_follows
    | (extract_lets +onlyGivenNames x)
    | with_reducible apply Follows.ite)

theorem rlWrite_follows {z : State} (lo : Nat) (hi : Nat) (v : Nat) (f : State → State) {s : State} (hf : ∀ y0, Follows z y0 → Follows z (f y0)) (hs : Follows z s) :
    Follows z (rlWrite lo hi v f s) := by
  unfold rlWrite
  repeat' (first
    | with_reducible assumption
    | with_reducible apply hf
    | with_reducible apply accessErr_follows
    | (extract_lets +onlyGivenNames x)
    | with_reducible apply Follows.ite)

theorem powerSet_follows {z : State} (f : Power → Power) {s : State} (hs : Follows z s) :
    Follows z (powerSet f s) := by
  unfold powerSet
  repeat' (first
    | with_reducible assumption
    | rw [mk_change]
    | with_reducible apply powerRecord_follows
    | (with_reducible refine Follows.keep ?_ ?_ ?_ ?_; rotate_left; with_reducible rfl; with_reducible rfl; with_reducible rfl))

theorem powerApply_follows {z : State} (off : Nat) (v : Nat) {s : State} (hs : Follows z s) :
    Follows z (powerApply off v s) := by
  unfold powerApply
  repeat' (first
    | with_reducible assumption
    | with_reducible apply rlWrite_follows
    | with_reducible apply powerSet_follows
    | (extract_lets +onlyGivenNames x)
    | with_reducible apply Follows.ite)

theorem powerWrite_follows {z : State} (off : Nat) (v : Nat) {s : State} (hs : Follows z s) :
    Follows z (powerWrite off v s) := by
  unfold powerWrite
  repeat' (first
    | with_reducible assumption
    | rw [mk_change]
    | with_reducible apply powerApply_follows
    | (with_reducible refine Follows.keep ?_ ?_ ?_ ?_; rotate_left; with_reducible rfl; with_reducible rfl; with_reducible rfl)
    | with_reducible apply Follows.ite)

theorem sweepRateSet_follows {z : State} (v : Nat) {s : State} (hs : Follows z s) :
    Follows z (sweepRateSet v s) := by
  unfold sweepRateSet
  repeat' (first
    | with_reducible assumption
    | rw [mk_change]
    | with_reducible apply rlWrite_follows
    | (with_reducible refine Follows.keep ?_ ?_ ?_ ?_; rotate_left; with_reducible rfl; with_reducible rfl; with_reducible rfl)
    | (intro _))

theorem stopGlen_follows {z : State} {s : State} (hs : Follows z s) :
    Follows z (stopGlen s) := by
  unfold stopGlen
  repeat' (first
    | with_reducible assumption
    | rw [mk_change]
    | with_reducible apply Follows.foldl
    | with_reducible apply finish_follows
    | (with_reducible refine Follows.keep ?_ ?_ ?_ ?_; rotate_left; with_reducible rfl; with_reducible rfl; with_reducible rfl)
    | (intro _))

theorem lcRun_follows {z : State} (m : Msg) {s : State} (hs : Follows z s) :
    Follows z (lcRun m s) := by
  unfold lcRun
  repeat' (first
    | with_reducible assumption
    | rw [mk_change]
    | with_reducible apply hold_follows
    | with_reducible apply completeResult_follows
    | with_reducible apply complete_follows
    | with_reducible apply ledgerFor_follows
    | with_reducible apply deferChange_follows
    | (with_reducible refine Follows.keep ?_ ?_ ?_ ?_; rotate_left; with_reducible rfl; with_reducible rfl; with_reducible rfl)
    | (extract_lets +onlyGivenNames x; have hx : Follows z x := ?_; clear_value x; rotate_left; unfold x)
    | (extract_lets +onlyGivenNames x; have _ : LifeCycle := x)
    | (extract_lets +onlyGivenNames x; clear_value x)
    | with_reducible apply Follows.ite
    | split)

theorem lcAwait_follows {z : State} (action : Nat) (step : Nat) (mark : Nat) {s : State} (hs : Follows z s) :
    Follows z (lcAwait action step mark s) := by
  unfold lcAwait
  repeat' (first
    | with_reducible assumption
    | rw [mk_change]
    | with_reducible apply ledgerBy_follows
    | (with_reducible refine Follows.keep ?_ ?_ ?_ ?_; rotate_left; with_reducible rfl; with_reducible rfl; with_reducible rfl))

theorem lcStepDone_follows {z : State} (r : Nat) (n : Nat) {s : State} (hs : Follows z s) :
    Follows z (lcStepDone r n s) := by
  unfold lcStepDone
  repeat' (first
    | with_reducible assumption
    | with_reducible apply burn_follows
    | with_reducible apply lcAwait_follows
    | (extract_lets +onlyGivenNames x; have hx : Follows z x := ?_; clear_value x; rotate_left; unfold x)
    | with_reducible apply Follows.ite)

theorem lcTear_follows {z : State} (r : Nat) {s : State} (hs : Follows z s) :
    Follows z (lcTear r s) := by
  unfold lcTear
  repeat' (first
    | with_reducible assumption
    | rw [mk_change]
    | with_reducible apply lcStepDone_follows
    | with_reducible apply tearAll_follows
    | (with_reducible refine Follows.keep ?_ ?_ ?_ ?_; rotate_left; with_reducible rfl; with_reducible rfl; with_reducible rfl)
    | with_reducible apply Follows.ite)

theorem lcStep_follows {z : State} (r : Nat) (n : Nat) {s : State} (hs : Follows z s) :
    Follows z (lcStep r n s) := by
  unfold lcStep
  repeat' (first
    | with_reducible assumption
    | with_reducible apply lcTear_follows
    | with_reducible apply lcStepDone_follows
    | with_reducible apply lcEffect_follows
    | with_reducible apply stopGlen_follows
    | (extract_lets +onlyGivenNames x)
    | with_reducible apply Follows.ite)

theorem lcApply_follows {z : State} (mark : Nat) {s : State} (hs : Follows z s) :
    Follows z (lcApply mark s) := by
  unfold lcApply
  repeat' (first
    | with_reducible assumption
    | rw [mk_change]
    | with_reducible apply lcAwait_follows
    | with_reducible apply burn_follows
    | with_reducible apply finish_follows
    | with_reducible apply lcStep_follows
    | (with_reducible refine Follows.keep ?_ ?_ ?_ ?_; rotate_left; with_reducible rfl; with_reducible rfl; with_reducible rfl)
    | (extract_lets +onlyGivenNames x; have hx : Follows z x := ?_; clear_value x; rotate_left; unfold x)
    | (extract_lets +onlyGivenNames x; have _ : LifeCycle := x)
    | (extract_lets +onlyGivenNames x; clear_value x)
    | (extract_lets +onlyGivenNames x)
    | with_reducible apply Follows.ite
    | split)

theorem debugOpenRun_follows {z : State} (m : Msg) {s : State} (hs : Follows z s) :
    Follows z (debugOpenRun m s) := by
  unfold debugOpenRun
  repeat' (first
    | with_reducible assumption
    | with_reducible apply hf
    | with_reducible apply completeResult_follows
    | with_reducible apply complete_follows
    | with_reducible apply deferChange_follows
    | with_reducible apply ledgerFor_follows
    | (intro _)
    | (extract_lets +onlyGivenNames x; have hf : ∀ c, Follows z (x c) := ?_; clear_value x; rotate_left; unfold x)
    | (extract_lets +onlyGivenNames x; clear_value x)
    | (extract_lets +onlyGivenNames x)
    | with_reducible apply Follows.ite)

theorem openDebug_follows {z : State} (ticket : Nat) (scope : Nat) (token : Bytes) {s : State} (hs : Follows z s) :
    Follows z (openDebug ticket scope token s) := by
  unfold openDebug
  repeat' (first
    | with_reducible assumption
    | rw [mk_change]
    | with_reducible apply finish_follows
    | (with_reducible refine Follows.keep ?_ ?_ ?_ ?_; rotate_left; with_reducible rfl; with_reducible rfl; with_reducible rfl))

theorem debugApply_follows {z : State} (ticket : Nat) (scope : Nat) (token : Bytes) {s : State} (hs : Follows z s) :
    Follows z (debugApply ticket scope token s) := by
  unfold debugApply
  repeat' (first
    | with_reducible assumption
    | rw [mk_change]
    | with_reducible apply openDebug_follows
    | with_reducible apply tearAll_follows
    | (with_reducible refine Follows.keep ?_ ?_ ?_ ?_; rotate_left; with_reducible rfl; with_reducible rfl; with_reducible rfl)
    | with_reducible apply Follows.ite)

theorem debugCloseRun_follows {z : State} (m : Msg) {s : State} (hs : Follows z s) :
    Follows z (debugCloseRun m s) := by
  unfold debugCloseRun
  repeat' (first
    | with_reducible assumption
    | with_reducible apply hold_follows
    | with_reducible apply startWarm_follows
    | with_reducible apply Follows.ite)

theorem runHeld_follows {z : State} (m : Msg) {s : State} (hs : Follows z s) :
    Follows z (runHeld m s) := by
  unfold runHeld
  repeat' (first
    | with_reducible assumption
    | with_reducible apply withGlen_follows
    | with_reducible apply jobCreateRun_follows
    | with_reducible apply configActivateRun_follows
    | with_reducible apply lcRun_follows
    | with_reducible apply debugCloseRun_follows
    | with_reducible apply functionResetRun_follows
    | with_reducible apply warmResetRun_follows
    | (extract_lets +onlyGivenNames x)
    | with_reducible apply Follows.ite)

theorem releaseHeld_follows {z : State} {s : State} (hs : Follows z s) :
    Follows z (releaseHeld s) := by
  unfold releaseHeld
  repeat' (first
    | with_reducible assumption
    | rw [mk_change]
    | with_reducible apply Follows.foldl
    | with_reducible apply powerWrite_follows
    | with_reducible apply runHeld_follows
    | (with_reducible refine Follows.keep ?_ ?_ ?_ ?_; rotate_left; with_reducible rfl; with_reducible rfl; with_reducible rfl)
    | (intro _)
    | (extract_lets +onlyGivenNames x)
    | split)

theorem withReset_follows {z : State} (src : MsgRef) (kind : Nat) (body : Msg → State → State) {s : State} (hbody : ∀ y0 y1, Follows z y1 → Follows z (body y0 y1)) (hs : Follows z s) :
    Follows z (withReset src kind body s) := by
  unfold withReset
  repeat' (first
    | with_reducible assumption
    | with_reducible apply hbody
    | with_reducible apply withMsgRef_follows
    | with_reducible apply complete_follows
    | (intro _)
    | (extract_lets +onlyGivenNames x)
    | with_reducible apply Follows.ite
    | split)

theorem clearCaches_follows {z : State} {s : State} (hs : Follows z s) : Follows z (clearCaches s) := by
  unfold clearCaches
  rw [mk_change]
  refine hs.make (Nat.le_refl _) (List.prefix_refl _) (Nat.le_refl _) (Nat.le_refl _) id (fun h => ?_) (.refl _) (.refl _)
  exact coresWf_filter (coresWf_map h (fun x hx => hx))

theorem takeSet_follows {z : State} (e : FwEffect) {s : State} (hs : Follows z s) :
    Follows z (takeSet e s) := by
  unfold takeSet
  repeat' (first
    | with_reducible assumption
    | rw [mk_change]
    | with_reducible apply makeKem_follows
    | with_reducible apply destroySlot_follows
    | (with_reducible refine Follows.keep ?_ ?_ ?_ ?_; rotate_left; with_reducible rfl; with_reducible rfl; with_reducible rfl)
    | (extract_lets +onlyGivenNames x; have hx : Follows z x := ?_; clear_value x; rotate_left; unfold x)
    | (extract_lets +onlyGivenNames x; clear_value x)
    | with_reducible apply Follows.ite)

theorem activationDone_follows {z : State} (ok : Bool) {s : State} (hs : Follows z s) :
    Follows z (activationDone ok s) := by
  unfold activationDone
  repeat' (first
    | with_reducible assumption
    | rw [mk_change]
    | with_reducible apply clearCaches_follows
    | with_reducible apply finish_follows
    | with_reducible apply takeSet_follows
    | with_reducible apply ledgerBy_follows
    | with_reducible apply freshBytes_follows
    | with_reducible apply releaseHeld_follows
    | (with_reducible refine Follows.keep ?_ ?_ ?_ ?_; rotate_left; with_reducible rfl; with_reducible rfl; with_reducible rfl)
    | (extract_lets +onlyGivenNames x; have hx : Follows z x := ?_; clear_value x; rotate_left; unfold x)
    | (extract_lets +onlyGivenNames x; have hx : Follows z x.2 := ?_; clear_value x; rotate_left; unfold x)
    | (extract_lets +onlyGivenNames x; clear_value x)
    | with_reducible apply Follows.ite
    | split)

theorem afterOne_follows {z : State} {s : State} (a : AfterJobs) (hs : Follows z s) :
    Follows z (afterOne s a) := by
  unfold afterOne
  repeat' (first
    | with_reducible assumption
    | with_reducible apply openDebug_follows
    | with_reducible apply lcStepDone_follows
    | split)

theorem afterTeardown_follows {z : State} {s : State} (hs : Follows z s) :
    Follows z (afterTeardown s) := by
  unfold afterTeardown
  repeat' (first
    | with_reducible assumption
    | rw [mk_change]
    | with_reducible apply Follows.foldl
    | with_reducible apply warmNow_follows
    | with_reducible apply afterOne_follows
    | (with_reducible refine Follows.keep ?_ ?_ ?_ ?_; rotate_left; with_reducible rfl; with_reducible rfl; with_reducible rfl)
    | (extract_lets +onlyGivenNames x)
    | with_reducible apply Follows.ite
    | split)

theorem markFw_follows {z : State} (ticket : Nat) (slot : Nat) {s : State} (hs : Follows z s) :
    Follows z (markFw ticket slot s) := by
  unfold markFw
  repeat' (first
    | with_reducible assumption
    | with_reducible apply finish_follows
    | with_reducible apply modFw_follows
    | with_reducible apply Follows.ite)

theorem applyChange_follows {z : State} (t : Nat) (c : Change) {s : State} (hs : Follows z s) : Follows z (applyChange t c s) := by
  unfold applyChange
  split
  · refine finish_follows _ _ _ ?_
    rw [mk_change]
    exact hs.keep rfl rfl rfl
  · exact releaseHeld_follows (finish_follows _ _ _ (applyImage_follows _ _ _ hs))
  · exact finish_follows _ _ _ (applyCreate_follows _ _ _ hs)
  · exact finish_follows _ _ _ (applyOwnerKey_follows _ _ _ _ _ _ hs)
  · exact finish_follows _ _ _ (keyUp_follows _ _ _ hs)
  · refine modJob_follows _ _ ?_
    dsimp only
    rw [mk_change]
    exact (fillSlot_follows _ _ hs).keep rfl rfl rfl
  · exact markFw_follows _ _ hs
  · rw [mk_change]
    exact hs.keep rfl rfl rfl
  · refine finish_follows _ _ _ ?_
    rw [mk_change]
    exact hs.make (Nat.le_refl _) (List.prefix_refl _) (Nat.le_refl _) (Nat.le_refl _) id id (.refl _)
      ⟨fun _ _ h => h, Nat.le_max_left _ _⟩
  · exact lcApply_follows _ hs
  · exact debugApply_follows _ _ _ hs
  · split
    · rename_i e
      exact debugCloseRun_follows _ (Follows.of_snd e (takeRunning_follows _ hs))
    · rename_i e
      exact startWarm_follows _ (Follows.of_snd e (takeRunning_follows _ hs))

theorem applyMirrored_follows {z : State} {s : State} (hs : Follows z s) :
    Follows z (applyMirrored s) := by
  unfold applyMirrored
  repeat' (first
    | with_reducible assumption
    | rw [mk_change]
    | with_reducible apply Follows.foldl
    | with_reducible apply applyChange_follows
    | (with_reducible refine Follows.keep ?_ ?_ ?_ ?_; rotate_left; with_reducible rfl; with_reducible rfl; with_reducible rfl)
    | (intro _))

theorem mirrorFails_follows {z : State} (first : Nat) {s : State} (hs : Follows z s) :
    Follows z (mirrorFails first s) := by
  unfold mirrorFails
  repeat' (first
    | with_reducible assumption
    | rw [mk_change]
    | with_reducible apply Follows.foldl
    | with_reducible apply ledgerNote_follows
    | with_reducible apply releaseHeld_follows
    | with_reducible apply finish_follows
    | with_reducible apply alert_follows
    | (with_reducible refine Follows.keep ?_ ?_ ?_ ?_; rotate_left; with_reducible rfl; with_reducible rfl; with_reducible rfl)
    | (intro _))

theorem mirrorWrite_follows {z : State} (ok : Bool) {s : State} (hs : Follows z s) : Follows z (mirrorWrite ok s) := by
  unfold mirrorWrite
  split
  · exact hs
  · rename_i n r e
    unfold nextUnmirrored at e
    have hmem := List.mem_of_find?_eq_some e
    have hle : s.ledger.mirrored ≤ n := of_decide_eq_true (List.find?_some (p := fun (r : Nat × Bytes) => decide (s.ledger.mirrored ≤ r.1)) e)
    refine Follows.ite hs (Follows.ite (applyMirrored_follows ?_) ?_)
    · rw [mk_change]
      exact hs.make (Nat.le_refl _) (List.prefix_refl _) (Nat.le_refl _) (Nat.le_refl _) id id
        (mirrorPut_after hmem hle rfl rfl rfl) (.refl _)
    · dsimp only
      rw [mk_change]
      refine Follows.ite (hs.keep rfl rfl rfl) (mirrorFails_follows _ (hs.keep rfl rfl rfl))

theorem glenMessage_follows {z : State} (m : Msg) {s : State} (hs : Follows z s) :
    Follows z (glenMessage m s) := by
  unfold glenMessage
  repeat' (first
    | with_reducible assumption
    | with_reducible apply jobCreateRun_follows
    | with_reducible apply jobDestroyBody_follows
    | with_reducible apply attestRun_follows
    | with_reducible apply keyDeliverRun_follows
    | with_reducible apply sealRun_follows
    | with_reducible apply unsealRun_follows
    | with_reducible apply lcRun_follows
    | with_reducible apply debugOpenRun_follows
    | split)

theorem glenDrain_follows {z : State} (x0 : Nat) {x1 : State} (hx1 : Follows z x1) :
    Follows z (glenDrain x0 x1) := by
  induction x0 generalizing x1 with
  | zero =>
    unfold glenDrain
    repeat' (first
      | with_reducible assumption)
  | succ k ih =>
    unfold glenDrain
    try split
    all_goals (try injections)
    all_goals (try subst_vars)
    repeat' (first
      | with_reducible assumption
      | rw [mk_change]
      | with_reducible apply ih
      | with_reducible apply takeRunning_follows
      | with_reducible apply glenMessage_follows
      | with_reducible apply keyingRun_follows
      | (with_reducible refine Follows.keep ?_ ?_ ?_ ?_; rotate_left; with_reducible rfl; with_reducible rfl; with_reducible rfl)
      | (extract_lets +onlyGivenNames x; clear_value x)
      | (extract_lets +onlyGivenNames x)
      | with_reducible apply Follows.ite
      | split
      | (refine Follows.of_snd (by with_reducible assumption) ?_))

theorem glenDone_follows {z : State} {s : State} (hs : Follows z s) :
    Follows z (glenDone s) := by
  unfold glenDone
  repeat' (first
    | with_reducible assumption
    | rw [mk_change]
    | with_reducible apply attestDone_follows
    | with_reducible apply glenDrain_follows
    | (with_reducible refine Follows.keep ?_ ?_ ?_ ?_; rotate_left; with_reducible rfl; with_reducible rfl; with_reducible rfl)
    | (extract_lets +onlyGivenNames x; clear_value x)
    | split)

theorem respond_follows {z : State} {s : State} (hs : Follows z s) :
    Follows z (respond s) := by
  unfold respond
  repeat' (first
    | with_reducible assumption
    | rw [mk_change]
    | (with_reducible refine Follows.keep ?_ ?_ ?_ ?_; rotate_left; with_reducible rfl; with_reducible rfl; with_reducible rfl))

theorem challengeWrite_follows {z : State} (i : Nat) (v : Nat) {s : State} (hs : Follows z s) :
    Follows z (challengeWrite i v s) := by
  unfold challengeWrite
  repeat' (first
    | with_reducible assumption
    | rw [mk_change]
    | with_reducible apply accessErr_follows
    | (with_reducible refine Follows.keep ?_ ?_ ?_ ?_; rotate_left; with_reducible rfl; with_reducible rfl; with_reducible rfl)
    | (extract_lets +onlyGivenNames x; have hx : Follows z x := ?_; clear_value x; rotate_left; unfold x)
    | (extract_lets +onlyGivenNames x; clear_value x)
    | (extract_lets +onlyGivenNames x)
    | with_reducible apply Follows.ite)

theorem heatBlock_follows {z : State} {s : State} (b : Nat) (hs : Follows z s) :
    Follows z (heatBlock s b) := by
  unfold heatBlock
  repeat' (first
    | with_reducible assumption
    | rw [mk_change]
    | (with_reducible refine Follows.keep ?_ ?_ ?_ ?_; rotate_left; with_reducible rfl; with_reducible rfl; with_reducible rfl))

theorem heatStacks_follows {z : State} {s : State} (hs : Follows z s) :
    Follows z (heatStacks s) := by
  unfold heatStacks
  repeat' (first
    | with_reducible assumption
    | rw [mk_change]
    | (with_reducible refine Follows.keep ?_ ?_ ?_ ?_; rotate_left; with_reducible rfl; with_reducible rfl; with_reducible rfl))

theorem grantNow_follows {z : State} (rise : Nat) {s : State} (hs : Follows z s) :
    Follows z (grantNow rise s) := by
  unfold grantNow
  repeat' (first
    | with_reducible assumption
    | rw [mk_change]
    | (with_reducible refine Follows.keep ?_ ?_ ?_ ?_; rotate_left; with_reducible rfl; with_reducible rfl; with_reducible rfl))

theorem chargeThrottle_follows {z : State} {s : State} (hs : Follows z s) :
    Follows z (chargeThrottle s) := by
  unfold chargeThrottle
  repeat' (first
    | with_reducible assumption
    | rw [mk_change]
    | with_reducible apply Follows.foldl
    | (with_reducible refine Follows.keep ?_ ?_ ?_ ?_; rotate_left; with_reducible rfl; with_reducible rfl; with_reducible rfl)
    | (intro _))

theorem takeReadings_follows {z : State} (m : PowerMeas) {s : State} (hs : Follows z s) :
    Follows z (takeReadings m s) := by
  unfold takeReadings
  repeat' (first
    | with_reducible assumption
    | rw [mk_change]
    | (with_reducible refine Follows.keep ?_ ?_ ?_ ?_; rotate_left; with_reducible rfl; with_reducible rfl; with_reducible rfl))

theorem powerPass_follows {z : State} (m : PowerMeas) {s : State} (hs : Follows z s) :
    Follows z (powerPass m s) := by
  unfold powerPass
  repeat' (first
    | with_reducible assumption
    | with_reducible apply Follows.foldl
    | with_reducible apply takeReadings_follows
    | with_reducible apply chargeThrottle_follows
    | with_reducible apply grantNow_follows
    | with_reducible apply heatStacks_follows
    | with_reducible apply heatBlock_follows
    | with_reducible apply evalWarnings_follows
    | with_reducible apply failWarn_follows
    | with_reducible apply alert_follows
    | (extract_lets +onlyGivenNames x)
    | with_reducible apply Follows.ite)

theorem freeEvent_follows {z : State} {s : State} (hs : Follows z s) :
    Follows z (freeEvent s) := by
  unfold freeEvent
  repeat' (first
    | with_reducible assumption
    | with_reducible apply freshNat_follows
    | with_reducible apply freshBytes_follows
    | with_reducible apply mgmtEvent_follows)

theorem alertHold_follows {z : State} (b : Nat) {s : State} (hs : Follows z s) :
    Follows z (alertHold b s) := by
  unfold alertHold
  repeat' (first
    | with_reducible assumption
    | rw [mk_change]
    | with_reducible apply alert_follows
    | (with_reducible refine Follows.keep ?_ ?_ ?_ ?_; rotate_left; with_reducible rfl; with_reducible rfl; with_reducible rfl))

theorem noteDroop_follows {z : State} {s : State} (hs : Follows z s) :
    Follows z (noteDroop s) := by
  unfold noteDroop
  repeat' (first
    | with_reducible assumption
    | rw [mk_change]
    | (with_reducible refine Follows.keep ?_ ?_ ?_ ?_; rotate_left; with_reducible rfl; with_reducible rfl; with_reducible rfl))

theorem portDownFree_follows {z : State} (n : Nat) {s : State} (hs : Follows z s) :
    Follows z (portDownFree n s) := by
  unfold portDownFree
  repeat' (first
    | with_reducible assumption
    | with_reducible apply freshNat_follows
    | with_reducible apply portDown_follows)

theorem zeroise_follows {z : State} (bits : Nat) {s : State} (hs : Follows z s) :
    Follows z (zeroise bits s) := by
  unfold zeroise
  repeat' (first
    | with_reducible assumption
    | rw [mk_change]
    | with_reducible apply zeroKeys_follows
    | with_reducible apply stopGlen_follows
    | (with_reducible refine Follows.keep ?_ ?_ ?_ ?_; rotate_left; with_reducible rfl; with_reducible rfl; with_reducible rfl))

theorem auditFails_follows {z : State} {s : State} (row : Nat) (hs : Follows z s) :
    Follows z (auditFails s row) := by
  unfold auditFails
  repeat' (first
    | with_reducible assumption
    | rw [mk_change]
    | with_reducible apply logError_follows
    | with_reducible apply orphanRecord_follows
    | with_reducible apply failWarn_follows
    | with_reducible apply alert_follows
    | (with_reducible refine Follows.keep ?_ ?_ ?_ ?_; rotate_left; with_reducible rfl; with_reducible rfl; with_reducible rfl))

theorem stacksReady_follows {z : State} (failed : List Nat) {s : State} (hs : Follows z s) :
    Follows z (stacksReady failed s) := by
  unfold stacksReady
  repeat' (first
    | with_reducible assumption
    | rw [mk_change]
    | with_reducible apply alert_follows
    | (with_reducible refine Follows.keep ?_ ?_ ?_ ?_; rotate_left; with_reducible rfl; with_reducible rfl; with_reducible rfl)
    | (extract_lets +onlyGivenNames x; clear_value x)
    | with_reducible apply Follows.ite)

theorem valeReady_follows {z : State} {s : State} (hs : Follows z s) : Follows z (valeReady s) := by
  unfold valeReady
  rw [mk_change]
  refine hs.make (Nat.le_refl _) (List.prefix_refl _) (Nat.le_refl _) (Nat.le_refl _) (fun h => ?_) id (.refl _) (.refl _)
  split
  · exact h
  · rfl

theorem ethTrained_follows {z : State} {s : State} (hs : Follows z s) :
    Follows z (ethTrained s) := by
  unfold ethTrained
  repeat' (first
    | with_reducible assumption
    | rw [mk_change]
    | (with_reducible refine Follows.keep ?_ ?_ ?_ ?_; rotate_left; with_reducible rfl; with_reducible rfl; with_reducible rfl))

theorem stepOfStart_follows {z : State} (env : StartEnv) {s : State} (hs : Follows z s) :
    Follows z (stepOfStart env s) := by
  unfold stepOfStart
  repeat' (first
    | with_reducible assumption
    | rw [mk_change]
    | with_reducible apply glenStart_follows
    | with_reducible apply bootLoad_follows
    | with_reducible apply stacksReady_follows
    | with_reducible apply valeReady_follows
    | with_reducible apply checkReady_follows
    | with_reducible apply ethTrained_follows
    | (with_reducible refine Follows.keep ?_ ?_ ?_ ?_; rotate_left; with_reducible rfl; with_reducible rfl; with_reducible rfl)
    | (extract_lets +onlyGivenNames x; clear_value x)
    | with_reducible apply Follows.ite
    | split)

theorem startBlocks_follows {z : State} (l : List Nat) {s : State} (hs : Follows z s) :
    Follows z (startBlocks l s) := by
  unfold startBlocks
  repeat' (first
    | with_reducible assumption
    | rw [mk_change]
    | (with_reducible refine Follows.keep ?_ ?_ ?_ ?_; rotate_left; with_reducible rfl; with_reducible rfl; with_reducible rfl))

theorem blockSlot_follows {z : State} {s : State} (hs : Follows z s) :
    Follows z (blockSlot s) := by
  unfold blockSlot
  repeat' (first
    | with_reducible assumption
    | rw [mk_change]
    | with_reducible apply startBlocks_follows
    | (with_reducible refine Follows.keep ?_ ?_ ?_ ?_; rotate_left; with_reducible rfl; with_reducible rfl; with_reducible rfl)
    | (extract_lets +onlyGivenNames x; clear_value x)
    | with_reducible apply Follows.ite)

theorem blockFails_follows {z : State} (b : Nat) {s : State} (hs : Follows z s) :
    Follows z (blockFails b s) := by
  unfold blockFails
  repeat' (first
    | with_reducible assumption
    | rw [mk_change]
    | with_reducible apply freeEvent_follows
    | (with_reducible refine Follows.keep ?_ ?_ ?_ ?_; rotate_left; with_reducible rfl; with_reducible rfl; with_reducible rfl)
    | (extract_lets +onlyGivenNames x; clear_value x)
    | with_reducible apply Follows.ite)

theorem lightPass_follows {z : State} (failed : List Nat) {s : State} (n : Nat) (hs : Follows z s) :
    Follows z (lightPass failed s n) := by
  unfold lightPass
  repeat' (first
    | with_reducible assumption
    | rw [mk_change]
    | with_reducible apply portDownFree_follows
    | with_reducible apply modPort_follows
    | with_reducible apply beginFast_follows
    | (with_reducible refine Follows.keep ?_ ?_ ?_ ?_; rotate_left; with_reducible rfl; with_reducible rfl; with_reducible rfl)
    | (extract_lets +onlyGivenNames x; have hx : Follows z x := ?_; clear_value x; rotate_left; unfold x)
    | (extract_lets +onlyGivenNames x; clear_value x)
    | (extract_lets +onlyGivenNames x)
    | with_reducible apply Follows.ite)

theorem lightEth_follows {z : State} (failed : List Nat) (n : Nat) {s : State} (hs : Follows z s) :
    Follows z (lightEth failed n s) := by
  unfold lightEth
  repeat' (first
    | with_reducible assumption
    | rw [mk_change]
    | with_reducible apply modEth_follows
    | (with_reducible refine Follows.keep ?_ ?_ ?_ ?_; rotate_left; with_reducible rfl; with_reducible rfl; with_reducible rfl)
    | (extract_lets +onlyGivenNames x; clear_value x)
    | (extract_lets +onlyGivenNames x)
    | with_reducible apply Follows.ite)

theorem laserNext_follows {z : State} (failed : List Nat) {s : State} (hs : Follows z s) :
    Follows z (laserNext failed s) := by
  unfold laserNext
  repeat' (first
    | with_reducible assumption
    | rw [mk_change]
    | with_reducible apply Follows.foldl
    | with_reducible apply lightPass_follows
    | with_reducible apply lightEth_follows
    | (with_reducible refine Follows.keep ?_ ?_ ?_ ?_; rotate_left; with_reducible rfl; with_reducible rfl; with_reducible rfl)
    | (extract_lets +onlyGivenNames x; have hx : Follows z x := ?_; clear_value x; rotate_left; unfold x)
    | (extract_lets +onlyGivenNames x; clear_value x)
    | with_reducible apply Follows.ite)

theorem latch_follows {z : State} (a : Nat) {s : State} (hs : Follows z s) :
    Follows z (latch a s) := by
  unfold latch
  repeat' (first
    | with_reducible assumption
    | rw [mk_change]
    | (with_reducible refine Follows.keep ?_ ?_ ?_ ?_; rotate_left; with_reducible rfl; with_reducible rfl; with_reducible rfl)
    | (extract_lets +onlyGivenNames x; clear_value x)
    | (extract_lets +onlyGivenNames x)
    | with_reducible apply Follows.ite
    | split)

theorem readAt_follows {z : State} (a : Nat) {s : State} (hs : Follows z s) :
    Follows z (readAt a s) := by
  unfold readAt
  repeat' (first
    | with_reducible assumption
    | with_reducible apply emit_follows
    | with_reducible apply latch_follows
    | (extract_lets +onlyGivenNames x; clear_value x)
    | (extract_lets +onlyGivenNames x)
    | with_reducible apply Follows.ite)

theorem alertClear_follows {z : State} (v : Nat) {s : State} (hs : Follows z s) :
    Follows z (alertClear v s) := by
  unfold alertClear
  repeat' (first
    | with_reducible assumption
    | rw [mk_change]
    | (with_reducible refine Follows.keep ?_ ?_ ?_ ?_; rotate_left; with_reducible rfl; with_reducible rfl; with_reducible rfl))

theorem failwarnClear_follows {z : State} (v : Nat) {s : State} (hs : Follows z s) :
    Follows z (failwarnClear v s) := by
  unfold failwarnClear
  repeat' (first
    | with_reducible assumption
    | rw [mk_change]
    | (with_reducible refine Follows.keep ?_ ?_ ?_ ?_; rotate_left; with_reducible rfl; with_reducible rfl; with_reducible rfl))

theorem accessErrClear_follows {z : State} (v : Nat) {s : State} (hs : Follows z s) :
    Follows z (accessErrClear v s) := by
  unfold accessErrClear
  repeat' (first
    | with_reducible assumption
    | rw [mk_change]
    | (with_reducible refine Follows.keep ?_ ?_ ?_ ?_; rotate_left; with_reducible rfl; with_reducible rfl; with_reducible rfl))

theorem flagsClear_follows {z : State} (j : Nat) (v : Nat) {s : State} (hs : Follows z s) :
    Follows z (flagsClear j v s) := by
  unfold flagsClear
  repeat' (first
    | with_reducible assumption
    | with_reducible apply clearFlags_follows
    | with_reducible apply Follows.ite)

theorem nlogPick_follows {z : State} (v : Nat) {s : State} (hs : Follows z s) :
    Follows z (nlogPick v s) := by
  unfold nlogPick
  repeat' (first
    | with_reducible assumption
    | rw [mk_change]
    | (with_reducible refine Follows.keep ?_ ?_ ?_ ?_; rotate_left; with_reducible rfl; with_reducible rfl; with_reducible rfl))

theorem errPick_follows {z : State} (v : Nat) {s : State} (hs : Follows z s) :
    Follows z (errPick v s) := by
  unfold errPick
  repeat' (first
    | with_reducible assumption
    | rw [mk_change]
    | (with_reducible refine Follows.keep ?_ ?_ ?_ ?_; rotate_left; with_reducible rfl; with_reducible rfl; with_reducible rfl))

theorem ledgerPickLow_follows {z : State} (v : Nat) {s : State} (hs : Follows z s) :
    Follows z (ledgerPickLow v s) := by
  unfold ledgerPickLow
  repeat' (first
    | with_reducible assumption
    | rw [mk_change]
    | (with_reducible refine Follows.keep ?_ ?_ ?_ ?_; rotate_left; with_reducible rfl; with_reducible rfl; with_reducible rfl))

theorem ledgerPick_follows {z : State} (v : Nat) {s : State} (hs : Follows z s) :
    Follows z (ledgerPick v s) := by
  unfold ledgerPick
  repeat' (first
    | with_reducible assumption
    | rw [mk_change]
    | (with_reducible refine Follows.keep ?_ ?_ ?_ ?_; rotate_left; with_reducible rfl; with_reducible rfl; with_reducible rfl)
    | (extract_lets +onlyGivenNames x; have hx : Follows z x := ?_; clear_value x; rotate_left; unfold x)
    | (extract_lets +onlyGivenNames x; clear_value x)
    | with_reducible apply Follows.ite
    | split)

theorem ledgerFetched_follows {z : State} {s : State} (hs : Follows z s) :
    Follows z (ledgerFetched s) := by
  unfold ledgerFetched
  repeat' (first
    | with_reducible assumption
    | rw [mk_change]
    | (with_reducible refine Follows.keep ?_ ?_ ?_ ?_; rotate_left; with_reducible rfl; with_reducible rfl; with_reducible rfl)
    | (extract_lets +onlyGivenNames x; have hx : Follows z x := ?_; clear_value x; rotate_left; unfold x)
    | (extract_lets +onlyGivenNames x; clear_value x)
    | split)

theorem windowWrite_follows {z : State} (f : Mgmt → Mgmt) {s : State} (hs : Follows z s) :
    Follows z (windowWrite f s) := by
  unfold windowWrite
  repeat' (first
    | with_reducible assumption
    | rw [mk_change]
    | with_reducible apply accessErr_follows
    | (with_reducible refine Follows.keep ?_ ?_ ?_ ?_; rotate_left; with_reducible rfl; with_reducible rfl; with_reducible rfl)
    | with_reducible apply Follows.ite)

theorem pagePick_follows {z : State} (v : Nat) {s : State} (hs : Follows z s) :
    Follows z (pagePick v s) := by
  unfold pagePick
  repeat' (first
    | with_reducible assumption
    | with_reducible apply windowWrite_follows)

theorem scanBegin_follows {z : State} (v : Nat) {s : State} (hs : Follows z s) :
    Follows z (scanBegin v s) := by
  unfold scanBegin
  repeat' (first
    | with_reducible assumption
    | with_reducible apply windowWrite_follows)

theorem statusPut_follows {z : State} (o : Nat) (v : Nat) {s : State} (hs : Follows z s) :
    Follows z (statusPut o v s) := by
  unfold statusPut
  repeat' (first
    | with_reducible assumption
    | rw [mk_change]
    | with_reducible apply alertClear_follows
    | with_reducible apply failwarnClear_follows
    | with_reducible apply accessErrClear_follows
    | (with_reducible refine Follows.keep ?_ ?_ ?_ ?_; rotate_left; with_reducible rfl; with_reducible rfl; with_reducible rfl)
    | (extract_lets +onlyGivenNames x; clear_value x)
    | (extract_lets +onlyGivenNames x)
    | with_reducible apply Follows.ite)

theorem headerPut_follows {z : State} (o : Nat) (v : Nat) {s : State} (hs : Follows z s) :
    Follows z (headerPut o v s) := by
  unfold headerPut
  repeat' (first
    | with_reducible assumption
    | with_reducible apply windowWrite_follows
    | with_reducible apply pagePick_follows
    | with_reducible apply scanBegin_follows
    | (extract_lets +onlyGivenNames x)
    | with_reducible apply Follows.ite)

theorem glenPut_follows {z : State} (o : Nat) (v : Nat) {s : State} (hs : Follows z s) :
    Follows z (glenPut o v s) := by
  unfold glenPut
  repeat' (first
    | with_reducible assumption
    | rw [mk_change]
    | with_reducible apply challengeWrite_follows
    | (with_reducible refine Follows.keep ?_ ?_ ?_ ?_; rotate_left; with_reducible rfl; with_reducible rfl; with_reducible rfl)
    | (extract_lets +onlyGivenNames x; clear_value x)
    | (extract_lets +onlyGivenNames x)
    | with_reducible apply Follows.ite)

theorem registerPut_follows {z : State} (a : Nat) (v : Nat) {s : State} (hs : Follows z s) :
    Follows z (registerPut a v s) := by
  unfold registerPut
  repeat' (first
    | with_reducible assumption
    | rw [mk_change]
    | with_reducible apply statusPut_follows
    | with_reducible apply powerWrite_follows
    | with_reducible apply flagsClear_follows
    | with_reducible apply nlogPick_follows
    | with_reducible apply errPick_follows
    | with_reducible apply ledgerPickLow_follows
    | with_reducible apply ledgerPick_follows
    | with_reducible apply headerPut_follows
    | with_reducible apply glenPut_follows
    | with_reducible apply sweepRateSet_follows
    | (with_reducible refine Follows.keep ?_ ?_ ?_ ?_; rotate_left; with_reducible rfl; with_reducible rfl; with_reducible rfl)
    | (extract_lets +onlyGivenNames x; clear_value x)
    | (extract_lets +onlyGivenNames x)
    | with_reducible apply Follows.ite)

theorem takeAddress_follows {z : State} (a : Nat) {s : State} (hs : Follows z s) :
    Follows z (takeAddress a s) := by
  unfold takeAddress
  repeat' (first
    | with_reducible assumption
    | rw [mk_change]
    | (with_reducible refine Follows.keep ?_ ?_ ?_ ?_; rotate_left; with_reducible rfl; with_reducible rfl; with_reducible rfl)
    | (extract_lets +onlyGivenNames x; clear_value x)
    | with_reducible apply Follows.ite)

theorem idle_follows {z : State} {s : State} (hs : Follows z s) :
    Follows z (idle s) := by
  unfold idle
  repeat' (first
    | with_reducible assumption
    | rw [mk_change]
    | with_reducible apply bubbleTick_follows
    | (with_reducible refine Follows.keep ?_ ?_ ?_ ?_; rotate_left; with_reducible rfl; with_reducible rfl; with_reducible rfl)
    | with_reducible apply Follows.ite)

end Sys2Proof.Laws
end

