-- ==== Sys2Proof/Laws/FollowsCommands.lean ====
section
/-! SUPPORT. What follows a state keeps its promises: one lemma per operation, for every command. -/

set_option linter.tactic.unusedName false

namespace Sys2Proof.Laws

open Sys2Proof.Machine

theorem execHello_follows (ctx : Nat) {z next : State} (e : execHello ctx z = .next next) :
    Follows z next := by
  unfold execHello at e
  injection e with e
  subst e
  have hs := Follows.refl z
  repeat' (first
    | with_reducible assumption
    | with_reducible apply settle_follows
    | with_reducible apply complete_follows
    | with_reducible apply popInbox_follows
    | with_reducible apply helloBody_follows
    | (extract_lets +onlyGivenNames x)
    | with_reducible apply Follows.ite
    | split)

theorem execQpCreate_follows (ctx : Nat) {z next : State} (e : execQpCreate ctx z = .next next) :
    Follows z next := by
  unfold execQpCreate at e
  injection e with e
  subst e
  have hs := Follows.refl z
  repeat' (first
    | with_reducible assumption
    | with_reducible apply settle_follows
    | with_reducible apply withMessage_follows
    | with_reducible apply qpCreateBody_follows)

theorem execWindowOpen_follows (ctx : Nat) {z next : State} (e : execWindowOpen ctx z = .next next) :
    Follows z next := by
  unfold execWindowOpen at e
  injection e with e
  subst e
  have hs := Follows.refl z
  repeat' (first
    | with_reducible assumption
    | with_reducible apply settle_follows
    | with_reducible apply withMessage_follows
    | with_reducible apply windowOpenBody_follows)

theorem execGroupCreate_follows (ctx : Nat) {z next : State} (e : execGroupCreate ctx z = .next next) :
    Follows z next := by
  unfold execGroupCreate at e
  injection e with e
  subst e
  have hs := Follows.refl z
  repeat' (first
    | with_reducible assumption
    | with_reducible apply settle_follows
    | with_reducible apply withMessage_follows
    | with_reducible apply groupCreateBody_follows)

theorem execProgramCreate_follows (ctx : Nat) {z next : State} (e : execProgramCreate ctx z = .next next) :
    Follows z next := by
  unfold execProgramCreate at e
  injection e with e
  subst e
  have hs := Follows.refl z
  repeat' (first
    | with_reducible assumption
    | with_reducible apply settle_follows
    | with_reducible apply withMessage_follows
    | with_reducible apply programCreateBody_follows)

theorem execFenceCreate_follows (ctx : Nat) {z next : State} (e : execFenceCreate ctx z = .next next) :
    Follows z next := by
  unfold execFenceCreate at e
  injection e with e
  subst e
  have hs := Follows.refl z
  repeat' (first
    | with_reducible assumption
    | with_reducible apply settle_follows
    | with_reducible apply withMessage_follows
    | with_reducible apply fenceCreateBody_follows)

theorem execFenceImport_follows (ctx : Nat) {z next : State} (e : execFenceImport ctx z = .next next) :
    Follows z next := by
  unfold execFenceImport at e
  injection e with e
  subst e
  have hs := Follows.refl z
  repeat' (first
    | with_reducible assumption
    | with_reducible apply settle_follows
    | with_reducible apply withMessage_follows
    | with_reducible apply fenceImportBody_follows)

theorem execFenceSignal_follows (ctx : Nat) {z next : State} (e : execFenceSignal ctx z = .next next) :
    Follows z next := by
  unfold execFenceSignal at e
  injection e with e
  subst e
  have hs := Follows.refl z
  repeat' (first
    | with_reducible assumption
    | with_reducible apply settle_follows
    | with_reducible apply withMessage_follows
    | with_reducible apply fenceSignalBody_follows)

theorem execFenceWait_follows (ctx : Nat) {z next : State} (e : execFenceWait ctx z = .next next) :
    Follows z next := by
  unfold execFenceWait at e
  injection e with e
  subst e
  have hs := Follows.refl z
  repeat' (first
    | with_reducible assumption
    | with_reducible apply settle_follows
    | with_reducible apply withMessage_follows
    | with_reducible apply fenceWaitBody_follows)

theorem execFenceQuery_follows (ctx : Nat) {z next : State} (e : execFenceQuery ctx z = .next next) :
    Follows z next := by
  unfold execFenceQuery at e
  injection e with e
  subst e
  have hs := Follows.refl z
  repeat' (first
    | with_reducible assumption
    | with_reducible apply settle_follows
    | with_reducible apply withMessage_follows
    | with_reducible apply fenceQueryBody_follows)

theorem execFenceWaitTimeout_follows (wait : WaitRef) {z next : State} (e : execFenceWaitTimeout wait z = .next next) :
    Follows z next := by
  unfold execFenceWaitTimeout at e
  injection e with e
  subst e
  have hs := Follows.refl z
  repeat' (first
    | with_reducible assumption
    | with_reducible apply settle_follows
    | with_reducible apply waitTimeout_follows)

theorem execObjectDestroy_follows (ctx : Nat) {z next : State} (e : execObjectDestroy ctx z = .next next) :
    Follows z next := by
  unfold execObjectDestroy at e
  injection e with e
  subst e
  have hs := Follows.refl z
  repeat' (first
    | with_reducible assumption
    | with_reducible apply settle_follows
    | with_reducible apply withMessage_follows
    | with_reducible apply objectDestroyBody_follows)

theorem execObjectFree_follows (obj : ObjRef) {z next : State} (e : execObjectFree obj z = .next next) :
    Follows z next := by
  unfold execObjectFree at e
  injection e with e
  subst e
  have hs := Follows.refl z
  repeat' (first
    | with_reducible assumption
    | with_reducible apply settle_follows
    | with_reducible apply objectFree_follows)

theorem execMessageWaitRelease_follows (ctx : Nat) {z next : State} (e : execMessageWaitRelease ctx z = .next next) :
    Follows z next := by
  unfold execMessageWaitRelease at e
  injection e with e
  subst e
  have hs := Follows.refl z
  repeat' (first
    | with_reducible assumption
    | with_reducible apply settle_follows
    | with_reducible apply waitRelease_follows
    | with_reducible apply Follows.ite)

theorem execTensorDefine_follows (ctx : Nat) {z next : State} (e : execTensorDefine ctx z = .next next) :
    Follows z next := by
  unfold execTensorDefine at e
  injection e with e
  subst e
  have hs := Follows.refl z
  repeat' (first
    | with_reducible assumption
    | with_reducible apply settle_follows
    | with_reducible apply withMessage_follows
    | with_reducible apply tensorDefineBody_follows)

theorem execTensorRelease_follows (ctx : Nat) {z next : State} (e : execTensorRelease ctx z = .next next) :
    Follows z next := by
  unfold execTensorRelease at e
  injection e with e
  subst e
  have hs := Follows.refl z
  repeat' (first
    | with_reducible assumption
    | with_reducible apply settle_follows
    | with_reducible apply withMessage_follows
    | with_reducible apply tensorReleaseBody_follows)

theorem execProgramSubmit_follows (ctx : Nat) {z next : State} (e : execProgramSubmit ctx z = .next next) :
    Follows z next := by
  unfold execProgramSubmit at e
  injection e with e
  subst e
  have hs := Follows.refl z
  repeat' (first
    | with_reducible assumption
    | with_reducible apply settle_follows
    | with_reducible apply withMessage_follows
    | with_reducible apply submitBody_follows)

theorem execProgramAbort_follows (ctx : Nat) {z next : State} (e : execProgramAbort ctx z = .next next) :
    Follows z next := by
  unfold execProgramAbort at e
  injection e with e
  subst e
  have hs := Follows.refl z
  repeat' (first
    | with_reducible assumption
    | with_reducible apply settle_follows
    | with_reducible apply withMessage_follows
    | with_reducible apply abortBody_follows)

theorem execNop_follows (t : TaskRef) {z next : State} (e : execNop t z = .next next) :
    Follows z next := by
  unfold execNop at e
  injection e with e
  subst e
  have hs := Follows.refl z
  repeat' (first
    | with_reducible assumption
    | with_reducible apply settle_follows
    | with_reducible apply withDesc_follows
    | with_reducible apply retire_follows
    | (intro _))

theorem execSpanBegin_follows (t : TaskRef) {z next : State} (e : execSpanBegin t z = .next next) :
    Follows z next := by
  unfold execSpanBegin at e
  injection e with e
  subst e
  have hs := Follows.refl z
  repeat' (first
    | with_reducible assumption
    | with_reducible apply settle_follows
    | with_reducible apply withDesc_follows
    | with_reducible apply retire_follows
    | (intro _))

theorem execSpanEnd_follows (t : TaskRef) {z next : State} (e : execSpanEnd t z = .next next) :
    Follows z next := by
  unfold execSpanEnd at e
  injection e with e
  subst e
  have hs := Follows.refl z
  repeat' (first
    | with_reducible assumption
    | with_reducible apply settle_follows
    | with_reducible apply withDesc_follows
    | with_reducible apply retire_follows
    | (intro _)
    | (extract_lets +onlyGivenNames x)
    | with_reducible apply Follows.ite
    | split)

theorem execFenceWaitDescriptor_follows (t : TaskRef) {z next : State} (e : execFenceWaitDescriptor t z = .next next) :
    Follows z next := by
  unfold execFenceWaitDescriptor at e
  injection e with e
  subst e
  have hs := Follows.refl z
  repeat' (first
    | with_reducible assumption
    | with_reducible apply settle_follows
    | with_reducible apply withDesc_follows
    | with_reducible apply fenceWaitDesc_follows)

theorem execFenceSignalDescriptor_follows (t : TaskRef) {z next : State} (e : execFenceSignalDescriptor t z = .next next) :
    Follows z next := by
  unfold execFenceSignalDescriptor at e
  injection e with e
  subst e
  have hs := Follows.refl z
  repeat' (first
    | with_reducible assumption
    | with_reducible apply settle_follows
    | with_reducible apply withDesc_follows
    | with_reducible apply fenceSignalDesc_follows)

theorem execPhaseHint_follows (t : TaskRef) {z next : State} (e : execPhaseHint t z = .next next) :
    Follows z next := by
  unfold execPhaseHint at e
  injection e with e
  subst e
  have hs := Follows.refl z
  repeat' (first
    | with_reducible assumption
    | with_reducible apply settle_follows
    | with_reducible apply withDesc_follows
    | with_reducible apply retire_follows
    | with_reducible apply takeHint_follows
    | (intro _))

theorem execBubbleOpen_follows (t : TaskRef) {z next : State} (e : execBubbleOpen t z = .next next) :
    Follows z next := by
  unfold execBubbleOpen at e
  injection e with e
  subst e
  have hs := Follows.refl z
  repeat' (first
    | with_reducible assumption
    | with_reducible apply settle_follows
    | with_reducible apply withDesc_follows
    | with_reducible apply bubbleOpen_follows)

theorem execBlockLend_follows (partition : Nat) (block : Nat) {z next : State} (e : execBlockLend partition block z = .next next) :
    Follows z next := by
  unfold execBlockLend at e
  injection e with e
  subst e
  have hs := Follows.refl z
  repeat' (first
    | with_reducible assumption
    | with_reducible apply settle_follows
    | with_reducible apply blockLend_follows
    | with_reducible apply Follows.ite)

theorem execBubbleWindowClose_follows (partition : Nat) (window : Nat) {z next : State} (e : execBubbleWindowClose partition window z = .next next) :
    Follows z next := by
  unfold execBubbleWindowClose at e
  injection e with e
  subst e
  have hs := Follows.refl z
  repeat' (first
    | with_reducible assumption
    | with_reducible apply windowClose_follows
    | with_reducible apply Follows.ite)

theorem execBlockReturn_follows (partition : Nat) (block : Nat) {z next : State} (e : execBlockReturn partition block z = .next next) :
    Follows z next := by
  unfold execBlockReturn at e
  injection e with e
  subst e
  have hs := Follows.refl z
  repeat' (first
    | with_reducible assumption
    | with_reducible apply settle_follows
    | with_reducible apply blockReturn_follows
    | with_reducible apply Follows.ite)

theorem execSpanDiscard_follows (job : Nat) (sub : Nat) (span : Nat) {z next : State} (e : execSpanDiscard job sub span z = .next next) :
    Follows z next := by
  unfold execSpanDiscard at e
  injection e with e
  subst e
  have hs := Follows.refl z
  repeat' (first
    | with_reducible assumption
    | with_reducible apply settle_follows
    | with_reducible apply withSpan_follows
    | with_reducible apply discardSpan_follows)

theorem execSpanRerun_follows (job : Nat) (sub : Nat) (span : Nat) {z next : State} (e : execSpanRerun job sub span z = .next next) :
    Follows z next := by
  unfold execSpanRerun at e
  injection e with e
  subst e
  have hs := Follows.refl z
  repeat' (first
    | with_reducible assumption
    | with_reducible apply settle_follows
    | with_reducible apply withSpan_follows
    | with_reducible apply rerunSpan_follows)

theorem execSaddleGather_follows (t : TaskRef) {z next : State} (e : execSaddleGather t z = .next next) :
    Follows z next := by
  unfold execSaddleGather at e
  injection e with e
  subst e
  have hs := Follows.refl z
  repeat' (first
    | with_reducible assumption
    | with_reducible apply settle_follows
    | with_reducible apply withDesc_follows
    | with_reducible apply saddleGather_follows)

theorem execSaddleStagingResume_follows (slice : Nat) (set : Nat) {z next : State} (e : execSaddleStagingResume slice set z = .next next) :
    Follows z next := by
  unfold execSaddleStagingResume at e
  injection e with e
  subst e
  have hs := Follows.refl z
  repeat' (first
    | with_reducible assumption
    | with_reducible apply settle_follows
    | with_reducible apply stagingResume_follows
    | with_reducible apply Follows.ite)

theorem execMicrocodeReloadDone_follows (quarter : Nat) {z next : State} (e : execMicrocodeReloadDone quarter z = .next next) :
    Follows z next := by
  unfold execMicrocodeReloadDone at e
  injection e with e
  subst e
  have hs := Follows.refl z
  repeat' (first
    | with_reducible assumption
    | with_reducible apply settle_follows
    | with_reducible apply microcodeReload_follows)

theorem execMatmul_follows (t : TaskRef) (ecc : List EccReport) {z next : State} (e : execMatmul t ecc z = .next next) :
    Follows z next := by
  unfold execMatmul at e
  injection e with e
  subst e
  have hs := Follows.refl z
  repeat' (first
    | with_reducible assumption
    | with_reducible apply settle_follows
    | with_reducible apply withDesc_follows
    | with_reducible apply matmul_follows)

theorem execMatmulDx_follows (t : TaskRef) {z next : State} (e : execMatmulDx t z = .next next) :
    Follows z next := by
  unfold execMatmulDx at e
  injection e with e
  subst e
  have hs := Follows.refl z
  repeat' (first
    | with_reducible assumption
    | with_reducible apply settle_follows
    | with_reducible apply withDesc_follows
    | with_reducible apply runOp_follows)

theorem execMatmulDw_follows (t : TaskRef) {z next : State} (e : execMatmulDw t z = .next next) :
    Follows z next := by
  unfold execMatmulDw at e
  injection e with e
  subst e
  have hs := Follows.refl z
  repeat' (first
    | with_reducible assumption
    | with_reducible apply settle_follows
    | with_reducible apply withDesc_follows
    | with_reducible apply runOp_follows)

theorem execMatmulAlt_follows (t : TaskRef) {z next : State} (e : execMatmulAlt t z = .next next) :
    Follows z next := by
  unfold execMatmulAlt at e
  injection e with e
  subst e
  have hs := Follows.refl z
  repeat' (first
    | with_reducible assumption
    | with_reducible apply settle_follows
    | with_reducible apply withDesc_follows
    | with_reducible apply runUnits_follows)

theorem execAttentionFwd_follows (t : TaskRef) {z next : State} (e : execAttentionFwd t z = .next next) :
    Follows z next := by
  unfold execAttentionFwd at e
  injection e with e
  subst e
  have hs := Follows.refl z
  repeat' (first
    | with_reducible assumption
    | with_reducible apply settle_follows
    | with_reducible apply withDesc_follows
    | with_reducible apply runOp_follows)

theorem execAttentionBwd_follows (t : TaskRef) {z next : State} (e : execAttentionBwd t z = .next next) :
    Follows z next := by
  unfold execAttentionBwd at e
  injection e with e
  subst e
  have hs := Follows.refl z
  repeat' (first
    | with_reducible assumption
    | with_reducible apply settle_follows
    | with_reducible apply withDesc_follows
    | with_reducible apply runOp_follows)

theorem execNorm_follows (t : TaskRef) {z next : State} (e : execNorm t z = .next next) :
    Follows z next := by
  unfold execNorm at e
  injection e with e
  subst e
  have hs := Follows.refl z
  repeat' (first
    | with_reducible assumption
    | with_reducible apply settle_follows
    | with_reducible apply withDesc_follows
    | with_reducible apply runOp_follows)

theorem execNormBwd_follows (t : TaskRef) {z next : State} (e : execNormBwd t z = .next next) :
    Follows z next := by
  unfold execNormBwd at e
  injection e with e
  subst e
  have hs := Follows.refl z
  repeat' (first
    | with_reducible assumption
    | with_reducible apply settle_follows
    | with_reducible apply withDesc_follows
    | with_reducible apply runOp_follows)

theorem execSoftmax_follows (t : TaskRef) {z next : State} (e : execSoftmax t z = .next next) :
    Follows z next := by
  unfold execSoftmax at e
  injection e with e
  subst e
  have hs := Follows.refl z
  repeat' (first
    | with_reducible assumption
    | with_reducible apply settle_follows
    | with_reducible apply withDesc_follows
    | with_reducible apply runOp_follows)

theorem execElementwise_follows (t : TaskRef) {z next : State} (e : execElementwise t z = .next next) :
    Follows z next := by
  unfold execElementwise at e
  injection e with e
  subst e
  have hs := Follows.refl z
  repeat' (first
    | with_reducible assumption
    | with_reducible apply settle_follows
    | with_reducible apply withDesc_follows
    | with_reducible apply runOp_follows)

theorem execReduce_follows (t : TaskRef) {z next : State} (e : execReduce t z = .next next) :
    Follows z next := by
  unfold execReduce at e
  injection e with e
  subst e
  have hs := Follows.refl z
  repeat' (first
    | with_reducible assumption
    | with_reducible apply settle_follows
    | with_reducible apply withDesc_follows
    | with_reducible apply runOp_follows)

theorem execCast_follows (t : TaskRef) {z next : State} (e : execCast t z = .next next) :
    Follows z next := by
  unfold execCast at e
  injection e with e
  subst e
  have hs := Follows.refl z
  repeat' (first
    | with_reducible assumption
    | with_reducible apply settle_follows
    | with_reducible apply withDesc_follows
    | with_reducible apply runOp_follows)

theorem execTransposeCopy_follows (t : TaskRef) {z next : State} (e : execTransposeCopy t z = .next next) :
    Follows z next := by
  unfold execTransposeCopy at e
  injection e with e
  subst e
  have hs := Follows.refl z
  repeat' (first
    | with_reducible assumption
    | with_reducible apply settle_follows
    | with_reducible apply withDesc_follows
    | with_reducible apply runOp_follows)

theorem execCopy_follows (t : TaskRef) {z next : State} (e : execCopy t z = .next next) :
    Follows z next := by
  unfold execCopy at e
  injection e with e
  subst e
  have hs := Follows.refl z
  repeat' (first
    | with_reducible assumption
    | with_reducible apply settle_follows
    | with_reducible apply withDesc_follows
    | with_reducible apply runOp_follows)

theorem execFill_follows (t : TaskRef) {z next : State} (e : execFill t z = .next next) :
    Follows z next := by
  unfold execFill at e
  injection e with e
  subst e
  have hs := Follows.refl z
  repeat' (first
    | with_reducible assumption
    | with_reducible apply settle_follows
    | with_reducible apply withDesc_follows
    | with_reducible apply runOp_follows)

theorem execScatterReduce_follows (t : TaskRef) {z next : State} (e : execScatterReduce t z = .next next) :
    Follows z next := by
  unfold execScatterReduce at e
  injection e with e
  subst e
  have hs := Follows.refl z
  repeat' (first
    | with_reducible assumption
    | with_reducible apply settle_follows
    | with_reducible apply withDesc_follows
    | with_reducible apply runOp_follows)

theorem execStash_follows (t : TaskRef) {z next : State} (e : execStash t z = .next next) :
    Follows z next := by
  unfold execStash at e
  injection e with e
  subst e
  have hs := Follows.refl z
  repeat' (first
    | with_reducible assumption
    | with_reducible apply settle_follows
    | with_reducible apply withDesc_follows
    | with_reducible apply stashRun_follows)

theorem execUnstash_follows (t : TaskRef) {z next : State} (e : execUnstash t z = .next next) :
    Follows z next := by
  unfold execUnstash at e
  injection e with e
  subst e
  have hs := Follows.refl z
  repeat' (first
    | with_reducible assumption
    | with_reducible apply settle_follows
    | with_reducible apply withDesc_follows
    | with_reducible apply stashRun_follows)

theorem execDigest_follows (t : TaskRef) {z next : State} (e : execDigest t z = .next next) :
    Follows z next := by
  unfold execDigest at e
  injection e with e
  subst e
  have hs := Follows.refl z
  repeat' (first
    | with_reducible assumption
    | with_reducible apply settle_follows
    | with_reducible apply withDesc_follows
    | with_reducible apply digestRun_follows)

theorem execStatistics_follows (t : TaskRef) {z next : State} (e : execStatistics t z = .next next) :
    Follows z next := by
  unfold execStatistics at e
  injection e with e
  subst e
  have hs := Follows.refl z
  repeat' (first
    | with_reducible assumption
    | with_reducible apply settle_follows
    | with_reducible apply withDesc_follows
    | with_reducible apply statisticsRun_follows)

theorem execIngressWait_follows (t : TaskRef) {z next : State} (e : execIngressWait t z = .next next) :
    Follows z next := by
  unfold execIngressWait at e
  injection e with e
  subst e
  have hs := Follows.refl z
  repeat' (first
    | with_reducible assumption
    | with_reducible apply settle_follows
    | with_reducible apply withDesc_follows
    | with_reducible apply ingressWaitRun_follows)

theorem execTaskBoundary_follows (t : TaskRef) (unit : Nat) {z next : State} (e : execTaskBoundary t unit z = .next next) :
    Follows z next := by
  unfold execTaskBoundary at e
  injection e with e
  subst e
  have hs := Follows.refl z
  repeat' (first
    | with_reducible assumption
    | with_reducible apply settle_follows
    | with_reducible apply taskBoundary_follows
    | with_reducible apply Follows.ite)

theorem execOptimiserStep_follows (t : TaskRef) {z next : State} (e : execOptimiserStep t z = .next next) :
    Follows z next := by
  unfold execOptimiserStep at e
  injection e with e
  subst e
  have hs := Follows.refl z
  repeat' (first
    | with_reducible assumption
    | with_reducible apply settle_follows
    | with_reducible apply withDesc_follows
    | with_reducible apply optimiserStart_follows)

theorem execMomentTask_follows (t : TaskRef) (page : Nat) {z next : State} (e : execMomentTask t page z = .next next) :
    Follows z next := by
  unfold execMomentTask at e
  injection e with e
  subst e
  have hs := Follows.refl z
  repeat' (first
    | with_reducible assumption
    | with_reducible apply settle_follows
    | with_reducible apply withPage_follows
    | with_reducible apply momentTask_follows)

theorem execWeightTask_follows (t : TaskRef) (page : Nat) {z next : State} (e : execWeightTask t page z = .next next) :
    Follows z next := by
  unfold execWeightTask at e
  injection e with e
  subst e
  have hs := Follows.refl z
  repeat' (first
    | with_reducible assumption
    | with_reducible apply settle_follows
    | with_reducible apply withPage_follows
    | with_reducible apply weightTask_follows)

theorem execSend_follows (t : TaskRef) {z next : State} (e : execSend t z = .next next) :
    Follows z next := by
  unfold execSend at e
  injection e with e
  subst e
  have hs := Follows.refl z
  repeat' (first
    | with_reducible assumption
    | with_reducible apply settle_follows
    | with_reducible apply withDesc_follows
    | with_reducible apply sendStart_follows)

theorem execCollectiveTimeout_follows (t : TaskRef) {z next : State} (e : execCollectiveTimeout t z = .next next) :
    Follows z next := by
  unfold execCollectiveTimeout at e
  injection e with e
  subst e
  have hs := Follows.refl z
  repeat' (first
    | with_reducible assumption
    | with_reducible apply settle_follows
    | with_reducible apply collTimeout_follows
    | with_reducible apply Follows.ite)

theorem execTransferTimeout_follows (t : TaskRef) {z next : State} (e : execTransferTimeout t z = .next next) :
    Follows z next := by
  unfold execTransferTimeout at e
  injection e with e
  subst e
  have hs := Follows.refl z
  repeat' (first
    | with_reducible assumption
    | with_reducible apply settle_follows
    | with_reducible apply xferTimeout_follows
    | with_reducible apply Follows.ite)

theorem execSpanCommit_follows (job : Nat) (sub : Nat) (span : Nat) {z next : State} (e : execSpanCommit job sub span z = .next next) :
    Follows z next := by
  unfold execSpanCommit at e
  injection e with e
  subst e
  have hs := Follows.refl z
  repeat' (first
    | with_reducible assumption
    | with_reducible apply settle_follows
    | with_reducible apply retryHeld_follows
    | with_reducible apply withSpan_follows
    | with_reducible apply commitSpan_follows)

theorem execAllGather_follows (t : TaskRef) {z next : State} (e : execAllGather t z = .next next) :
    Follows z next := by
  unfold execAllGather at e
  injection e with e
  subst e
  have hs := Follows.refl z
  repeat' (first
    | with_reducible assumption
    | with_reducible apply settle_follows
    | with_reducible apply retryHeld_follows
    | with_reducible apply withDesc_follows
    | with_reducible apply collStart_follows)

theorem execReduceScatter_follows (t : TaskRef) {z next : State} (e : execReduceScatter t z = .next next) :
    Follows z next := by
  unfold execReduceScatter at e
  injection e with e
  subst e
  have hs := Follows.refl z
  repeat' (first
    | with_reducible assumption
    | with_reducible apply settle_follows
    | with_reducible apply retryHeld_follows
    | with_reducible apply withDesc_follows
    | with_reducible apply collStart_follows)

theorem execAllReduce_follows (t : TaskRef) {z next : State} (e : execAllReduce t z = .next next) :
    Follows z next := by
  unfold execAllReduce at e
  injection e with e
  subst e
  have hs := Follows.refl z
  repeat' (first
    | with_reducible assumption
    | with_reducible apply settle_follows
    | with_reducible apply retryHeld_follows
    | with_reducible apply withDesc_follows
    | with_reducible apply collStart_follows)

theorem execReceive_follows (t : TaskRef) {z next : State} (e : execReceive t z = .next next) :
    Follows z next := by
  unfold execReceive at e
  injection e with e
  subst e
  have hs := Follows.refl z
  repeat' (first
    | with_reducible assumption
    | with_reducible apply settle_follows
    | with_reducible apply retryHeld_follows
    | with_reducible apply withDesc_follows
    | with_reducible apply receiveStart_follows)

theorem execVerdict_follows (t : TaskRef) {z next : State} (e : execVerdict t z = .next next) :
    Follows z next := by
  unfold execVerdict at e
  injection e with e
  subst e
  have hs := Follows.refl z
  repeat' (first
    | with_reducible assumption
    | with_reducible apply settle_follows
    | with_reducible apply retryHeld_follows
    | with_reducible apply withDesc_follows
    | with_reducible apply verdictStart_follows)

theorem execFenceEvictionDone_follows (slot : Nat) {z next : State} (e : execFenceEvictionDone slot z = .next next) :
    Follows z next := by
  unfold execFenceEvictionDone at e
  injection e with e
  subst e
  have hs := Follows.refl z
  repeat' (first
    | with_reducible assumption
    | with_reducible apply settle_follows
    | with_reducible apply retryHeld_follows
    | with_reducible apply evictionDone_follows)

theorem execJobCreate_follows (ctx : Nat) {z next : State} (e : execJobCreate ctx z = .next next) :
    Follows z next := by
  unfold execJobCreate at e
  injection e with e
  subst e
  have hs := Follows.refl z
  repeat' (first
    | with_reducible assumption
    | with_reducible apply settle_follows
    | with_reducible apply withMessage_follows
    | with_reducible apply withGlen_follows
    | with_reducible apply jobCreateRun_follows
    | (intro _))

theorem execAttest_follows (ctx : Nat) {z next : State} (e : execAttest ctx z = .next next) :
    Follows z next := by
  unfold execAttest at e
  injection e with e
  subst e
  have hs := Follows.refl z
  repeat' (first
    | with_reducible assumption
    | with_reducible apply settle_follows
    | with_reducible apply withMessage_follows
    | with_reducible apply withGlen_follows
    | with_reducible apply attestRun_follows
    | (intro _))

theorem execCertRead_follows (ctx : Nat) {z next : State} (e : execCertRead ctx z = .next next) :
    Follows z next := by
  unfold execCertRead at e
  injection e with e
  subst e
  have hs := Follows.refl z
  repeat' (first
    | with_reducible assumption
    | with_reducible apply settle_follows
    | with_reducible apply withMessage_follows
    | with_reducible apply certReadBody_follows)

theorem execKeyDeliver_follows (ctx : Nat) {z next : State} (e : execKeyDeliver ctx z = .next next) :
    Follows z next := by
  unfold execKeyDeliver at e
  injection e with e
  subst e
  have hs := Follows.refl z
  repeat' (first
    | with_reducible assumption
    | with_reducible apply settle_follows
    | with_reducible apply withMessage_follows
    | with_reducible apply withGlen_follows
    | with_reducible apply keyDeliverRun_follows
    | (intro _))

theorem execJobKeySeal_follows (ctx : Nat) {z next : State} (e : execJobKeySeal ctx z = .next next) :
    Follows z next := by
  unfold execJobKeySeal at e
  injection e with e
  subst e
  have hs := Follows.refl z
  repeat' (first
    | with_reducible assumption
    | with_reducible apply settle_follows
    | with_reducible apply withMessage_follows
    | with_reducible apply withGlen_follows
    | with_reducible apply sealRun_follows
    | (intro _))

theorem execJobKeyUnseal_follows (ctx : Nat) {z next : State} (e : execJobKeyUnseal ctx z = .next next) :
    Follows z next := by
  unfold execJobKeyUnseal at e
  injection e with e
  subst e
  have hs := Follows.refl z
  repeat' (first
    | with_reducible assumption
    | with_reducible apply settle_follows
    | with_reducible apply withMessage_follows
    | with_reducible apply withGlen_follows
    | with_reducible apply unsealRun_follows
    | (intro _))

theorem execKeyingReportRequest_follows (sender : Nat) (jobId : Nat) {z next : State} (e : execKeyingReportRequest sender jobId z = .next next) :
    Follows z next := by
  unfold execKeyingReportRequest at e
  injection e with e
  subst e
  have hs := Follows.refl z
  repeat' (first
    | with_reducible assumption
    | with_reducible apply keyingArrives_follows)

theorem execLeadReport_follows (sender : Nat) (jobId : Nat) (record : Bytes) {z next : State} (e : execLeadReport sender jobId record z = .next next) :
    Follows z next := by
  unfold execLeadReport at e
  injection e with e
  subst e
  have hs := Follows.refl z
  repeat' (first
    | with_reducible assumption
    | with_reducible apply keyingArrives_follows)

theorem execMemberReport_follows (sender : Nat) (jobId : Nat) (record : Bytes) {z next : State} (e : execMemberReport sender jobId record z = .next next) :
    Follows z next := by
  unfold execMemberReport at e
  injection e with e
  subst e
  have hs := Follows.refl z
  repeat' (first
    | with_reducible assumption
    | with_reducible apply keyingArrives_follows)

theorem execJobKeyDelivery_follows (sender : Nat) (jobId : Nat) (record : Bytes) {z next : State} (e : execJobKeyDelivery sender jobId record z = .next next) :
    Follows z next := by
  unfold execJobKeyDelivery at e
  injection e with e
  subst e
  have hs := Follows.refl z
  repeat' (first
    | with_reducible assumption
    | with_reducible apply keyingArrives_follows)

theorem execKeyingRefusal_follows (sender : Nat) (jobId : Nat) (cause : Nat) {z next : State} (e : execKeyingRefusal sender jobId cause z = .next next) :
    Follows z next := by
  unfold execKeyingRefusal at e
  injection e with e
  subst e
  have hs := Follows.refl z
  repeat' (first
    | with_reducible assumption
    | with_reducible apply keyingArrives_follows)

theorem execKeyingRetryTimer_follows (job : Nat) {z next : State} (e : execKeyingRetryTimer job z = .next next) :
    Follows z next := by
  unfold execKeyingRetryTimer at e
  injection e with e
  subst e
  have hs := Follows.refl z
  repeat' (first
    | with_reducible assumption
    | with_reducible apply keyingRetry_follows
    | with_reducible apply Follows.ite)

theorem execValeRequestAccept_follows (pchan : Nat) {z next : State} (e : execValeRequestAccept pchan z = .next next) :
    Follows z next := by
  unfold execValeRequestAccept at e
  injection e with e
  subst e
  have hs := Follows.refl z
  repeat' (first
    | with_reducible assumption
    | with_reducible apply tagAccept_follows
    | with_reducible apply Follows.ite)

theorem execPlainCacheAccess_follows (req : CoreReq) (ecc : List EccReport) {z next : State} (e : execPlainCacheAccess req ecc z = .next next) :
    Follows z next := by
  unfold execPlainCacheAccess at e
  injection e with e
  subst e
  have hs := Follows.refl z
  repeat' (first
    | with_reducible assumption
    | with_reducible apply meetWords_follows
    | with_reducible apply dropDamaged_follows
    | with_reducible apply settle_follows
    | with_reducible apply cacheAccess_follows
    | (extract_lets +onlyGivenNames x; have hx : Follows z x.1 := ?_; clear_value x; rotate_left; unfold x)
    | (extract_lets +onlyGivenNames x)
    | with_reducible apply Follows.ite)

theorem execMissQueueDequeue_follows (slice : Nat) {z next : State} (e : execMissQueueDequeue slice z = .next next) :
    Follows z next := by
  unfold execMissQueueDequeue at e
  injection e with e
  subst e
  have hs := Follows.refl z
  repeat' (first
    | with_reducible assumption
    | with_reducible apply settle_follows
    | with_reducible apply dequeueMiss_follows
    | with_reducible apply Follows.ite)

theorem execLineFill_follows (slice : Nat) (line : Nat) (first : Fetch) (second : Fetch) (ecc : List EccReport) {z next : State} (e : execLineFill slice line first second ecc z = .next next) :
    Follows z next := by
  unfold execLineFill at e
  injection e with e
  subst e
  have hs := Follows.refl z
  repeat' (first
    | with_reducible assumption
    | with_reducible apply settle_follows
    | with_reducible apply lineFill_follows
    | with_reducible apply Follows.ite)

theorem execValeRead_follows (req : ValeReq) (first : Fetch) (second : Fetch) {z next : State} (e : execValeRead req first second z = .next next) :
    Follows z next := by
  unfold execValeRead at e
  injection e with e
  subst e
  have hs := Follows.refl z
  repeat' (first
    | with_reducible assumption
    | with_reducible apply settle_follows
    | with_reducible apply valeReadReq_follows
    | with_reducible apply Follows.ite)

theorem execValeFullLineWrite_follows (req : ValeReq) (data : Bytes) {z next : State} (e : execValeFullLineWrite req data z = .next next) :
    Follows z next := by
  unfold execValeFullLineWrite at e
  injection e with e
  subst e
  have hs := Follows.refl z
  repeat' (first
    | with_reducible assumption
    | with_reducible apply settle_follows
    | with_reducible apply valeFullReq_follows
    | with_reducible apply Follows.ite)

theorem execValePartialWrite_follows (req : ValeReq) (mask : BitVec 256) (data : Bytes) (first : Fetch) (second : Fetch) {z next : State} (e : execValePartialWrite req mask data first second z = .next next) :
    Follows z next := by
  unfold execValePartialWrite at e
  injection e with e
  subst e
  have hs := Follows.refl z
  repeat' (first
    | with_reducible assumption
    | with_reducible apply settle_follows
    | with_reducible apply valePartialReq_follows
    | with_reducible apply Follows.ite)

theorem execSweepStart_follows {z next : State} (e : execSweepStart z = .next next) :
    Follows z next := by
  unfold execSweepStart at e
  injection e with e
  subst e
  have hs := Follows.refl z
  repeat' (first
    | with_reducible assumption
    | with_reducible apply sweepStart_follows
    | with_reducible apply Follows.ite)

theorem execSweepStep_follows (first : Fetch) (second : Fetch) {z next : State} (e : execSweepStep first second z = .next next) :
    Follows z next := by
  unfold execSweepStep at e
  injection e with e
  subst e
  have hs := Follows.refl z
  repeat' (first
    | with_reducible assumption
    | with_reducible apply settle_follows
    | with_reducible apply sweepStep_follows
    | with_reducible apply Follows.ite)

theorem execBlockedWriteResume_follows {z next : State} (e : execBlockedWriteResume z = .next next) :
    Follows z next := by
  unfold execBlockedWriteResume at e
  injection e with e
  subst e
  have hs := Follows.refl z
  repeat' (first
    | with_reducible assumption
    | with_reducible apply settle_follows
    | with_reducible apply resumeBlocked_follows
    | with_reducible apply Follows.ite)

theorem execKeyIdRetire_follows (key : Nat) {z next : State} (e : execKeyIdRetire key z = .next next) :
    Follows z next := by
  unfold execKeyIdRetire at e
  injection e with e
  subst e
  have hs := Follows.refl z
  repeat' (first
    | with_reducible assumption
    | with_reducible apply keyIdRetire_follows
    | with_reducible apply Follows.ite)

theorem execKeyIdFree_follows (key : Nat) {z next : State} (e : execKeyIdFree key z = .next next) :
    Follows z next := by
  unfold execKeyIdFree at e
  injection e with e
  subst e
  have hs := Follows.refl z
  repeat' (first
    | with_reducible assumption
    | with_reducible apply keyIdFree_follows
    | with_reducible apply Follows.ite)

theorem execSteppeAttach_follows (ctx : Nat) {z next : State} (e : execSteppeAttach ctx z = .next next) :
    Follows z next := by
  unfold execSteppeAttach at e
  injection e with e
  subst e
  have hs := Follows.refl z
  repeat' (first
    | with_reducible assumption
    | with_reducible apply settle_follows
    | with_reducible apply withMessage_follows
    | with_reducible apply steppeAttachBody_follows)

theorem execTierMoveFetch_follows (ctx : Nat) {z next : State} (e : execTierMoveFetch ctx z = .next next) :
    Follows z next := by
  unfold execTierMoveFetch at e
  injection e with e
  subst e
  have hs := Follows.refl z
  repeat' (first
    | with_reducible assumption
    | with_reducible apply settle_follows
    | with_reducible apply tierMove_follows)

theorem execTierMoveEvict_follows (ctx : Nat) {z next : State} (e : execTierMoveEvict ctx z = .next next) :
    Follows z next := by
  unfold execTierMoveEvict at e
  injection e with e
  subst e
  have hs := Follows.refl z
  repeat' (first
    | with_reducible assumption
    | with_reducible apply settle_follows
    | with_reducible apply tierMove_follows)

theorem execFetchFrameResume_follows (job : Nat) {z next : State} (e : execFetchFrameResume job z = .next next) :
    Follows z next := by
  unfold execFetchFrameResume at e
  injection e with e
  subst e
  have hs := Follows.refl z
  repeat' (first
    | with_reducible assumption
    | with_reducible apply frameResume_follows
    | with_reducible apply Follows.ite)

theorem execSteppeChunkArrival_follows (job : Nat) (page : Nat) (chunk : Nat) (record : Bytes) {z next : State} (e : execSteppeChunkArrival job page chunk record z = .next next) :
    Follows z next := by
  unfold execSteppeChunkArrival at e
  injection e with e
  subst e
  have hs := Follows.refl z
  repeat' (first
    | with_reducible assumption
    | with_reducible apply settle_follows
    | with_reducible apply chunkArrives_follows
    | with_reducible apply Follows.ite)

theorem execEvictionComplete_follows (job : Nat) (page : Nat) {z next : State} (e : execEvictionComplete job page z = .next next) :
    Follows z next := by
  unfold execEvictionComplete at e
  injection e with e
  subst e
  have hs := Follows.refl z
  repeat' (first
    | with_reducible assumption
    | with_reducible apply settle_follows
    | with_reducible apply evictDone_follows
    | with_reducible apply Follows.ite)

theorem execBasinFold_follows (job : Nat) (basin : Nat) {z next : State} (e : execBasinFold job basin z = .next next) :
    Follows z next := by
  unfold execBasinFold at e
  injection e with e
  subst e
  have hs := Follows.refl z
  repeat' (first
    | with_reducible assumption
    | with_reducible apply basinFold_follows
    | with_reducible apply Follows.ite)

theorem execCkptSetup_follows (ctx : Nat) {z next : State} (e : execCkptSetup ctx z = .next next) :
    Follows z next := by
  unfold execCkptSetup at e
  injection e with e
  subst e
  have hs := Follows.refl z
  repeat' (first
    | with_reducible assumption
    | with_reducible apply settle_follows
    | with_reducible apply withMessage_follows
    | with_reducible apply ckptSetupBody_follows)

theorem execCkptStatus_follows (ctx : Nat) {z next : State} (e : execCkptStatus ctx z = .next next) :
    Follows z next := by
  unfold execCkptStatus at e
  injection e with e
  subst e
  have hs := Follows.refl z
  repeat' (first
    | with_reducible assumption
    | with_reducible apply settle_follows
    | with_reducible apply withMessage_follows
    | with_reducible apply ckptStatusBody_follows)

theorem execMemberArrived_follows (job : Nat) (arrived : Bool) {z next : State} (e : execMemberArrived job arrived z = .next next) :
    Follows z next := by
  unfold execMemberArrived at e
  injection e with e
  subst e
  have hs := Follows.refl z
  repeat' (first
    | with_reducible assumption
    | with_reducible apply settle_follows
    | with_reducible apply memberArrived_follows
    | with_reducible apply Follows.ite)

theorem execCkptTrigger_follows (ctx : Nat) {z next : State} (e : execCkptTrigger ctx z = .next next) :
    Follows z next := by
  unfold execCkptTrigger at e
  injection e with e
  subst e
  have hs := Follows.refl z
  repeat' (first
    | with_reducible assumption
    | with_reducible apply settle_follows
    | with_reducible apply withMessage_follows
    | with_reducible apply ckptTriggerBody_follows)

theorem execCheckpointTimer_follows (job : Nat) {z next : State} (e : execCheckpointTimer job z = .next next) :
    Follows z next := by
  unfold execCheckpointTimer at e
  injection e with e
  subst e
  have hs := Follows.refl z
  repeat' (first
    | with_reducible assumption
    | with_reducible apply settle_follows
    | with_reducible apply checkpointTimer_follows
    | with_reducible apply Follows.ite)

theorem execBarrierTimeout_follows (job : Nat) {z next : State} (e : execBarrierTimeout job z = .next next) :
    Follows z next := by
  unfold execBarrierTimeout at e
  injection e with e
  subst e
  have hs := Follows.refl z
  repeat' (first
    | with_reducible assumption
    | with_reducible apply settle_follows
    | with_reducible apply barrierTimeout_follows
    | with_reducible apply Follows.ite)

theorem execShardWriteComplete_follows (job : Nat) (ok : Bool) {z next : State} (e : execShardWriteComplete job ok z = .next next) :
    Follows z next := by
  unfold execShardWriteComplete at e
  injection e with e
  subst e
  have hs := Follows.refl z
  repeat' (first
    | with_reducible assumption
    | with_reducible apply settle_follows
    | with_reducible apply shardWritten_follows
    | with_reducible apply Follows.ite)

theorem execManifestWriteComplete_follows (job : Nat) (ok : Bool) {z next : State} (e : execManifestWriteComplete job ok z = .next next) :
    Follows z next := by
  unfold execManifestWriteComplete at e
  injection e with e
  subst e
  have hs := Follows.refl z
  repeat' (first
    | with_reducible assumption
    | with_reducible apply settle_follows
    | with_reducible apply manifestDone_follows
    | with_reducible apply Follows.ite)

theorem execRestore_follows (ctx : Nat) (manifest : ReadResult) (chunk : ReadResult) {z next : State} (e : execRestore ctx manifest chunk z = .next next) :
    Follows z next := by
  unfold execRestore at e
  injection e with e
  subst e
  have hs := Follows.refl z
  repeat' (first
    | with_reducible assumption
    | with_reducible apply settle_follows
    | with_reducible apply withMessage_follows
    | with_reducible apply restoreBody_follows)

theorem execRestoreLoadComplete_follows (job : Nat) (shard : ReadResult) {z next : State} (e : execRestoreLoadComplete job shard z = .next next) :
    Follows z next := by
  unfold execRestoreLoadComplete at e
  injection e with e
  subst e
  have hs := Follows.refl z
  repeat' (first
    | with_reducible assumption
    | with_reducible apply settle_follows
    | with_reducible apply loadDone_follows
    | with_reducible apply Follows.ite)

theorem execStateImport_follows (ctx : Nat) (manifest : ReadResult) (header : ReadResult) (index : ReadResult) {z next : State} (e : execStateImport ctx manifest header index z = .next next) :
    Follows z next := by
  unfold execStateImport at e
  injection e with e
  subst e
  have hs := Follows.refl z
  repeat' (first
    | with_reducible assumption
    | with_reducible apply settle_follows
    | with_reducible apply withMessage_follows
    | with_reducible apply importBody_follows)

theorem execStateImportComplete_follows (job : Nat) (chunks : ReadResult) {z next : State} (e : execStateImportComplete job chunks z = .next next) :
    Follows z next := by
  unfold execStateImportComplete at e
  injection e with e
  subst e
  have hs := Follows.refl z
  repeat' (first
    | with_reducible assumption
    | with_reducible apply settle_follows
    | with_reducible apply importDone_follows
    | with_reducible apply Follows.ite)

theorem execAck_follows (port : Nat) (bytes : Bytes) {z next : State} (e : execAck port bytes z = .next next) :
    Follows z next := by
  unfold execAck at e
  injection e with e
  subst e
  have hs := Follows.refl z
  repeat' (first
    | with_reducible assumption
    | with_reducible apply settle_follows
    | with_reducible apply onControl_follows
    | with_reducible apply drainPort_follows
    | with_reducible apply ackUpTo_follows
    | (intro _))

theorem execNak_follows (port : Nat) (bytes : Bytes) {z next : State} (e : execNak port bytes z = .next next) :
    Follows z next := by
  unfold execNak at e
  injection e with e
  subst e
  have hs := Follows.refl z
  repeat' (first
    | with_reducible assumption
    | with_reducible apply settle_follows
    | with_reducible apply onControl_follows
    | with_reducible apply drainPort_follows
    | with_reducible apply resend_follows
    | with_reducible apply ackUpTo_follows
    | (intro _))

theorem execIdle_follows (port : Nat) (bytes : Bytes) {z next : State} (e : execIdle port bytes z = .next next) :
    Follows z next := by
  unfold execIdle at e
  injection e with e
  subst e
  have hs := Follows.refl z
  repeat' (first
    | with_reducible assumption
    | with_reducible apply onControl_follows
    | (intro _))

theorem execAckTimer_follows (port : Nat) {z next : State} (e : execAckTimer port z = .next next) :
    Follows z next := by
  unfold execAckTimer at e
  injection e with e
  subst e
  have hs := Follows.refl z
  repeat' (first
    | with_reducible assumption
    | with_reducible apply onTimer_follows
    | with_reducible apply sendControl_follows
    | (intro _))

theorem execCreditInit_follows (port : Nat) (bytes : Bytes) {z next : State} (e : execCreditInit port bytes z = .next next) :
    Follows z next := by
  unfold execCreditInit at e
  injection e with e
  subst e
  have hs := Follows.refl z
  repeat' (first
    | with_reducible assumption
    | with_reducible apply onControl_follows
    | with_reducible apply modPort_follows
    | with_reducible apply ackUpTo_follows
    | (intro _))

theorem execCreditReturn_follows (port : Nat) (bytes : Bytes) {z next : State} (e : execCreditReturn port bytes z = .next next) :
    Follows z next := by
  unfold execCreditReturn at e
  injection e with e
  subst e
  have hs := Follows.refl z
  repeat' (first
    | with_reducible assumption
    | with_reducible apply settle_follows
    | with_reducible apply onControl_follows
    | with_reducible apply drainPort_follows
    | with_reducible apply modPort_follows
    | (intro _))

theorem execCreditReturnTimer_follows (port : Nat) {z next : State} (e : execCreditReturnTimer port z = .next next) :
    Follows z next := by
  unfold execCreditReturnTimer at e
  injection e with e
  subst e
  have hs := Follows.refl z
  repeat' (first
    | with_reducible assumption
    | with_reducible apply onTimer_follows
    | with_reducible apply sendControl_follows
    | with_reducible apply modPort_follows
    | (intro _)
    | (extract_lets +onlyGivenNames x; clear_value x)
    | with_reducible apply Follows.ite)

theorem execIdleTimer_follows (port : Nat) {z next : State} (e : execIdleTimer port z = .next next) :
    Follows z next := by
  unfold execIdleTimer at e
  injection e with e
  subst e
  have hs := Follows.refl z
  repeat' (first
    | with_reducible assumption
    | with_reducible apply onTimer_follows
    | with_reducible apply sendControl_follows
    | (intro _)
    | (extract_lets +onlyGivenNames x)
    | with_reducible apply Follows.ite)

theorem execLightAbsent_follows (port : Nat) (lane : Nat) {z next : State} (e : execLightAbsent port lane z = .next next) :
    Follows z next := by
  unfold execLightAbsent at e
  injection e with e
  subst e
  have hs := Follows.refl z
  repeat' (first
    | with_reducible assumption
    | with_reducible apply losePeer_follows
    | with_reducible apply Follows.ite)

theorem execNoValidPacket_follows (port : Nat) {z next : State} (e : execNoValidPacket port z = .next next) :
    Follows z next := by
  unfold execNoValidPacket at e
  injection e with e
  subst e
  have hs := Follows.refl z
  repeat' (first
    | with_reducible assumption
    | with_reducible apply losePeer_follows)

theorem execPortTraining_follows (port : Nat) {z next : State} (e : execPortTraining port z = .next next) :
    Follows z next := by
  unfold execPortTraining at e
  injection e with e
  subst e
  have hs := Follows.refl z
  repeat' (first
    | with_reducible assumption
    | with_reducible apply beginFull_follows
    | with_reducible apply Follows.ite)

theorem execClockLockTimeout_follows (port : Nat) {z next : State} (e : execClockLockTimeout port z = .next next) :
    Follows z next := by
  unfold execClockLockTimeout at e
  injection e with e
  subst e
  have hs := Follows.refl z
  repeat' (first
    | with_reducible assumption
    | with_reducible apply modPort_follows
    | with_reducible apply settle_follows
    | with_reducible apply checkReady_follows
    | with_reducible apply attemptFails_follows
    | (extract_lets +onlyGivenNames x)
    | with_reducible apply Follows.ite)

theorem execTrainingStepTimeout_follows (port : Nat) {z next : State} (e : execTrainingStepTimeout port z = .next next) :
    Follows z next := by
  unfold execTrainingStepTimeout at e
  injection e with e
  subst e
  have hs := Follows.refl z
  repeat' (first
    | with_reducible assumption
    | with_reducible apply settle_follows
    | with_reducible apply checkReady_follows
    | with_reducible apply attemptFails_follows
    | with_reducible apply Follows.ite)

theorem execFastRetrain_follows (port : Nat) {z next : State} (e : execFastRetrain port z = .next next) :
    Follows z next := by
  unfold execFastRetrain at e
  injection e with e
  subst e
  have hs := Follows.refl z
  repeat' (first
    | with_reducible assumption
    | with_reducible apply beginFast_follows
    | with_reducible apply Follows.ite)

theorem execFullTrainingRetry_follows (port : Nat) {z next : State} (e : execFullTrainingRetry port z = .next next) :
    Follows z next := by
  unfold execFullTrainingRetry at e
  injection e with e
  subst e
  have hs := Follows.refl z
  repeat' (first
    | with_reducible assumption
    | with_reducible apply beginFull_follows
    | with_reducible apply Follows.ite)

theorem execPlpHello_follows (port : Nat) (bytes : Bytes) {z next : State} (e : execPlpHello port bytes z = .next next) :
    Follows z next := by
  unfold execPlpHello at e
  injection e with e
  subst e
  have hs := Follows.refl z
  repeat' (first
    | with_reducible assumption
    | with_reducible apply settle_follows
    | with_reducible apply onControl_follows
    | with_reducible apply checkReady_follows
    | with_reducible apply helloArrives_follows
    | (intro _))

theorem execTrainingStepDone_follows (port : Nat) (reversed : Bool) {z next : State} (e : execTrainingStepDone port reversed z = .next next) :
    Follows z next := by
  unfold execTrainingStepDone at e
  injection e with e
  subst e
  have hs := Follows.refl z
  repeat' (first
    | with_reducible assumption
    | with_reducible apply settle_follows
    | with_reducible apply stepEnds_follows
    | with_reducible apply Follows.ite)

theorem execData_follows (port : Nat) (bytes : Bytes) (ecc : List EccReport) {z next : State} (e : execData port bytes ecc z = .next next) :
    Follows z next := by
  unfold execData at e
  injection e with e
  subst e
  have hs := Follows.refl z
  repeat' (first
    | with_reducible assumption
    | with_reducible apply arrive_follows
    | with_reducible apply request_follows)

theorem execReadRequest_follows (port : Nat) (bytes : Bytes) {z next : State} (e : execReadRequest port bytes z = .next next) :
    Follows z next := by
  unfold execReadRequest at e
  injection e with e
  subst e
  have hs := Follows.refl z
  repeat' (first
    | with_reducible assumption
    | with_reducible apply arrive_follows
    | with_reducible apply request_follows)

theorem execFenceSignalPacket_follows (port : Nat) (bytes : Bytes) {z next : State} (e : execFenceSignalPacket port bytes z = .next next) :
    Follows z next := by
  unfold execFenceSignalPacket at e
  injection e with e
  subst e
  have hs := Follows.refl z
  repeat' (first
    | with_reducible assumption
    | with_reducible apply arrive_follows
    | with_reducible apply request_follows)

theorem execClearToSend_follows (port : Nat) (bytes : Bytes) {z next : State} (e : execClearToSend port bytes z = .next next) :
    Follows z next := by
  unfold execClearToSend at e
  injection e with e
  subst e
  have hs := Follows.refl z
  repeat' (first
    | with_reducible assumption
    | with_reducible apply arrive_follows
    | with_reducible apply response_follows
    | with_reducible apply clearArrives_follows
    | (intro _))

theorem execPlacementAck_follows (port : Nat) (bytes : Bytes) {z next : State} (e : execPlacementAck port bytes z = .next next) :
    Follows z next := by
  unfold execPlacementAck at e
  injection e with e
  subst e
  have hs := Follows.refl z
  repeat' (first
    | with_reducible assumption
    | with_reducible apply arrive_follows
    | with_reducible apply response_follows
    | with_reducible apply placementArrives_follows
    | (intro _))

theorem execReadData_follows (port : Nat) (bytes : Bytes) {z next : State} (e : execReadData port bytes z = .next next) :
    Follows z next := by
  unfold execReadData at e
  injection e with e
  subst e
  have hs := Follows.refl z
  repeat' (first
    | with_reducible assumption
    | with_reducible apply arrive_follows
    | with_reducible apply response_follows
    | with_reducible apply readArrives_follows
    | (intro _))

theorem execErrorPacket_follows (port : Nat) (bytes : Bytes) {z next : State} (e : execErrorPacket port bytes z = .next next) :
    Follows z next := by
  unfold execErrorPacket at e
  injection e with e
  subst e
  have hs := Follows.refl z
  repeat' (first
    | with_reducible assumption
    | with_reducible apply arrive_follows
    | with_reducible apply response_follows
    | with_reducible apply errorArrives_follows
    | (intro _))

theorem execKeyRetirement_follows (port : Nat) (bytes : Bytes) {z next : State} (e : execKeyRetirement port bytes z = .next next) :
    Follows z next := by
  unfold execKeyRetirement at e
  injection e with e
  subst e
  have hs := Follows.refl z
  repeat' (first
    | with_reducible assumption
    | with_reducible apply arrive_follows
    | with_reducible apply response_follows
    | with_reducible apply retirementArrives_follows
    | (intro _))

theorem execJobFaultNotice_follows (port : Nat) (bytes : Bytes) {z next : State} (e : execJobFaultNotice port bytes z = .next next) :
    Follows z next := by
  unfold execJobFaultNotice at e
  injection e with e
  subst e
  have hs := Follows.refl z
  repeat' (first
    | with_reducible assumption
    | with_reducible apply arrive_follows
    | with_reducible apply response_follows
    | with_reducible apply jobFault_follows
    | (intro _))

theorem execBarrierRequest_follows (port : Nat) (bytes : Bytes) {z next : State} (e : execBarrierRequest port bytes z = .next next) :
    Follows z next := by
  unfold execBarrierRequest at e
  injection e with e
  subst e
  have hs := Follows.refl z
  repeat' (first
    | with_reducible assumption
    | with_reducible apply barrier_follows
    | with_reducible apply leadTrigger_follows
    | (intro _))

theorem execBarrierEnter_follows (port : Nat) (bytes : Bytes) {z next : State} (e : execBarrierEnter port bytes z = .next next) :
    Follows z next := by
  unfold execBarrierEnter at e
  injection e with e
  subst e
  have hs := Follows.refl z
  repeat' (first
    | with_reducible assumption
    | with_reducible apply barrier_follows
    | with_reducible apply enterArrives_follows
    | (intro _))

theorem execBarrierReport_follows (port : Nat) (bytes : Bytes) {z next : State} (e : execBarrierReport port bytes z = .next next) :
    Follows z next := by
  unfold execBarrierReport at e
  injection e with e
  subst e
  have hs := Follows.refl z
  repeat' (first
    | with_reducible assumption
    | with_reducible apply barrier_follows
    | with_reducible apply ofCapture_follows
    | with_reducible apply reportArrives_follows
    | (intro _))

theorem execBarrierConfirm_follows (port : Nat) (bytes : Bytes) {z next : State} (e : execBarrierConfirm port bytes z = .next next) :
    Follows z next := by
  unfold execBarrierConfirm at e
  injection e with e
  subst e
  have hs := Follows.refl z
  repeat' (first
    | with_reducible assumption
    | with_reducible apply barrier_follows
    | with_reducible apply ofCapture_follows
    | with_reducible apply confirmArrives_follows
    | (intro _))

theorem execBarrierRelease_follows (port : Nat) (bytes : Bytes) {z next : State} (e : execBarrierRelease port bytes z = .next next) :
    Follows z next := by
  unfold execBarrierRelease at e
  injection e with e
  subst e
  have hs := Follows.refl z
  repeat' (first
    | with_reducible assumption
    | with_reducible apply barrier_follows
    | with_reducible apply ofCapture_follows
    | with_reducible apply releaseArrives_follows
    | (intro _))

theorem execShardDone_follows (port : Nat) (bytes : Bytes) {z next : State} (e : execShardDone port bytes z = .next next) :
    Follows z next := by
  unfold execShardDone at e
  injection e with e
  subst e
  have hs := Follows.refl z
  repeat' (first
    | with_reducible assumption
    | with_reducible apply barrier_follows
    | with_reducible apply ofCapture_follows
    | with_reducible apply shardDoneArrives_follows
    | (intro _))

theorem execAbandon_follows (port : Nat) (bytes : Bytes) {z next : State} (e : execAbandon port bytes z = .next next) :
    Follows z next := by
  unfold execAbandon at e
  injection e with e
  subst e
  have hs := Follows.refl z
  repeat' (first
    | with_reducible assumption
    | with_reducible apply barrier_follows
    | with_reducible apply abandonArrives_follows
    | (intro _))

theorem execManifestWritten_follows (port : Nat) (bytes : Bytes) {z next : State} (e : execManifestWritten port bytes z = .next next) :
    Follows z next := by
  unfold execManifestWritten at e
  injection e with e
  subst e
  have hs := Follows.refl z
  repeat' (first
    | with_reducible assumption
    | with_reducible apply barrier_follows
    | with_reducible apply ofCapture_follows
    | with_reducible apply manifestArrives_follows
    | (intro _))

theorem execRestoreCheck_follows (port : Nat) (bytes : Bytes) {z next : State} (e : execRestoreCheck port bytes z = .next next) :
    Follows z next := by
  unfold execRestoreCheck at e
  injection e with e
  subst e
  have hs := Follows.refl z
  repeat' (first
    | with_reducible assumption
    | with_reducible apply barrier_follows
    | with_reducible apply checkArrives_follows
    | (intro _))

theorem execRestoreGo_follows (port : Nat) (bytes : Bytes) {z next : State} (e : execRestoreGo port bytes z = .next next) :
    Follows z next := by
  unfold execRestoreGo at e
  injection e with e
  subst e
  have hs := Follows.refl z
  repeat' (first
    | with_reducible assumption
    | with_reducible apply barrier_follows
    | with_reducible apply goArrives_follows
    | (intro _))

theorem execRestoreRefuse_follows (port : Nat) (bytes : Bytes) {z next : State} (e : execRestoreRefuse port bytes z = .next next) :
    Follows z next := by
  unfold execRestoreRefuse at e
  injection e with e
  subst e
  have hs := Follows.refl z
  repeat' (first
    | with_reducible assumption
    | with_reducible apply barrier_follows
    | with_reducible apply refuseArrives_follows
    | (intro _))

theorem execRestoreDone_follows (port : Nat) (bytes : Bytes) {z next : State} (e : execRestoreDone port bytes z = .next next) :
    Follows z next := by
  unfold execRestoreDone at e
  injection e with e
  subst e
  have hs := Follows.refl z
  repeat' (first
    | with_reducible assumption
    | with_reducible apply barrier_follows
    | with_reducible apply doneArrives_follows
    | (intro _))

theorem execTransitForward_follows (port : Nat) (bytes : Bytes) (ecc : List EccReport) {z next : State} (e : execTransitForward port bytes ecc z = .next next) :
    Follows z next := by
  unfold execTransitForward at e
  injection e with e
  subst e
  have hs := Follows.refl z
  repeat' (first
    | with_reducible assumption
    | with_reducible apply transit_follows)

theorem execPlp1Forward_follows (port : Nat) (bytes : Bytes) {z next : State} (e : execPlp1Forward port bytes z = .next next) :
    Follows z next := by
  unfold execPlp1Forward at e
  injection e with e
  subst e
  have hs := Follows.refl z
  repeat' (first
    | with_reducible assumption
    | with_reducible apply plp1_follows)

theorem execUncorrectableCodeword_follows (port : Nat) (vc : Nat) (units : Nat) (forwarded : Option Nat) {z next : State} (e : execUncorrectableCodeword port vc units forwarded z = .next next) :
    Follows z next := by
  unfold execUncorrectableCodeword at e
  injection e with e
  subst e
  have hs := Follows.refl z
  repeat' (first
    | with_reducible assumption
    | with_reducible apply badCodeword_follows)

theorem execAbortMarker_follows (port : Nat) (vc : Nat) (units : Nat) {z next : State} (e : execAbortMarker port vc units z = .next next) :
    Follows z next := by
  unfold execAbortMarker at e
  injection e with e
  subst e
  have hs := Follows.refl z
  repeat' (first
    | with_reducible assumption
    | with_reducible apply abortMarker_follows)

theorem execIngress_follows (ctx : Nat) {z next : State} (e : execIngress ctx z = .next next) :
    Follows z next := by
  unfold execIngress at e
  injection e with e
  subst e
  have hs := Follows.refl z
  repeat' (first
    | with_reducible assumption
    | with_reducible apply settle_follows
    | with_reducible apply withMessage_follows
    | with_reducible apply ingressBody_follows)

theorem execIngressComplete_follows (job : Nat) (tensor : Nat) {z next : State} (e : execIngressComplete job tensor z = .next next) :
    Follows z next := by
  unfold execIngressComplete at e
  injection e with e
  subst e
  have hs := Follows.refl z
  repeat' (first
    | with_reducible assumption
    | with_reducible apply settle_follows
    | with_reducible apply ingressDone_follows
    | with_reducible apply Follows.ite)

theorem execRelease_follows (t : TaskRef) {z next : State} (e : execRelease t z = .next next) :
    Follows z next := by
  unfold execRelease at e
  injection e with e
  subst e
  have hs := Follows.refl z
  repeat' (first
    | with_reducible assumption
    | with_reducible apply settle_follows
    | with_reducible apply withDesc_follows
    | with_reducible apply releaseStart_follows)

theorem execReleaseComplete_follows (job : Nat) (release : Nat) (ok : Bool) {z next : State} (e : execReleaseComplete job release ok z = .next next) :
    Follows z next := by
  unfold execReleaseComplete at e
  injection e with e
  subst e
  have hs := Follows.refl z
  repeat' (first
    | with_reducible assumption
    | with_reducible apply settle_follows
    | with_reducible apply releaseDone_follows
    | with_reducible apply Follows.ite)

theorem execJobDestroy_follows (ctx : Nat) {z next : State} (e : execJobDestroy ctx z = .next next) :
    Follows z next := by
  unfold execJobDestroy at e
  injection e with e
  subst e
  have hs := Follows.refl z
  repeat' (first
    | with_reducible assumption
    | with_reducible apply settle_follows
    | with_reducible apply withMessage_follows
    | with_reducible apply jobDestroyRun_follows)

theorem execVerdictComplete_follows (job : Nat) (word : BitVec 64) {z next : State} (e : execVerdictComplete job word z = .next next) :
    Follows z next := by
  unfold execVerdictComplete at e
  injection e with e
  subst e
  have hs := Follows.refl z
  repeat' (first
    | with_reducible assumption
    | with_reducible apply settle_follows
    | with_reducible apply verdictDone_follows
    | with_reducible apply Follows.ite)

theorem execRdmaSend_follows (qp : Nat) (bytes : Bytes) {z next : State} (e : execRdmaSend qp bytes z = .next next) :
    Follows z next := by
  unfold execRdmaSend at e
  injection e with e
  subst e
  have hs := Follows.refl z
  repeat' (first
    | with_reducible assumption
    | with_reducible apply settle_follows
    | with_reducible apply onQp_follows
    | with_reducible apply arriveOp_follows
    | (intro _))

theorem execRdmaWrite_follows (qp : Nat) (rkey : Nat) (offset : Nat) (data : Bytes) (fetches : List Fetch) (ecc : List EccReport) {z next : State} (e : execRdmaWrite qp rkey offset data fetches ecc z = .next next) :
    Follows z next := by
  unfold execRdmaWrite at e
  injection e with e
  subst e
  have hs := Follows.refl z
  repeat' (first
    | with_reducible assumption
    | with_reducible apply settle_follows
    | with_reducible apply onQp_follows
    | with_reducible apply meetWords_follows
    | with_reducible apply arriveOp_follows
    | (intro _)
    | (extract_lets +onlyGivenNames x; have hx : Follows z x.1 := ?_; clear_value x; rotate_left; unfold x)
    | with_reducible apply Follows.ite)

theorem execRdmaWriteWithImmediate_follows (qp : Nat) (rkey : Nat) (offset : Nat) (data : Bytes) (imm : Bytes) (fetches : List Fetch) {z next : State} (e : execRdmaWriteWithImmediate qp rkey offset data imm fetches z = .next next) :
    Follows z next := by
  unfold execRdmaWriteWithImmediate at e
  injection e with e
  subst e
  have hs := Follows.refl z
  repeat' (first
    | with_reducible assumption
    | with_reducible apply settle_follows
    | with_reducible apply onQp_follows
    | with_reducible apply arriveOp_follows
    | (intro _))

theorem execRdmaRead_follows (qp : Nat) {z next : State} (e : execRdmaRead qp z = .next next) :
    Follows z next := by
  unfold execRdmaRead at e
  injection e with e
  subst e
  have hs := Follows.refl z
  repeat' (first
    | with_reducible assumption
    | with_reducible apply onQp_follows
    | with_reducible apply putOut_follows
    | (intro _))

theorem execAtomic_follows (qp : Nat) {z next : State} (e : execAtomic qp z = .next next) :
    Follows z next := by
  unfold execAtomic at e
  injection e with e
  subst e
  have hs := Follows.refl z
  repeat' (first
    | with_reducible assumption
    | with_reducible apply onQp_follows
    | with_reducible apply putOut_follows
    | (intro _))

theorem execRdmaAck_follows (qp : Nat) (segments : Nat) (ecc : List EccReport) {z next : State} (e : execRdmaAck qp segments ecc z = .next next) :
    Follows z next := by
  unfold execRdmaAck at e
  injection e with e
  subst e
  have hs := Follows.refl z
  repeat' (first
    | with_reducible assumption
    | with_reducible apply settle_follows
    | with_reducible apply onQp_follows
    | with_reducible apply meetWords_follows
    | with_reducible apply modQp_follows
    | (intro _))

theorem execRcNak_follows (qp : Nat) {z next : State} (e : execRcNak qp z = .next next) :
    Follows z next := by
  unfold execRcNak at e
  injection e with e
  subst e
  have hs := Follows.refl z
  repeat' (first
    | with_reducible assumption
    | with_reducible apply settle_follows
    | with_reducible apply onQp_follows
    | with_reducible apply qpFails_follows)

theorem execRcAckTimeout_follows (qp : Nat) {z next : State} (e : execRcAckTimeout qp z = .next next) :
    Follows z next := by
  unfold execRcAckTimeout at e
  injection e with e
  subst e
  have hs := Follows.refl z
  repeat' (first
    | with_reducible assumption
    | with_reducible apply settle_follows
    | with_reducible apply onQp_follows
    | with_reducible apply qpFails_follows
    | with_reducible apply putOut_follows
    | with_reducible apply modQp_follows
    | (intro _)
    | (extract_lets +onlyGivenNames x)
    | with_reducible apply Follows.ite)

theorem execRnrNak_follows (qp : Nat) {z next : State} (e : execRnrNak qp z = .next next) :
    Follows z next := by
  unfold execRnrNak at e
  injection e with e
  subst e
  have hs := Follows.refl z
  repeat' (first
    | with_reducible assumption
    | with_reducible apply onQp_follows
    | with_reducible apply putOut_follows
    | (intro _)
    | (extract_lets +onlyGivenNames x)
    | with_reducible apply Follows.ite)

theorem execCongestionExperienced_follows (qp : Nat) {z next : State} (e : execCongestionExperienced qp z = .next next) :
    Follows z next := by
  unfold execCongestionExperienced at e
  injection e with e
  subst e
  have hs := Follows.refl z
  repeat' (first
    | with_reducible assumption
    | with_reducible apply onQp_follows
    | with_reducible apply bumpEth_follows
    | with_reducible apply putOut_follows
    | with_reducible apply modQp_follows
    | (intro _)
    | (extract_lets +onlyGivenNames x; clear_value x)
    | with_reducible apply Follows.ite)

theorem execCongestionNotification_follows (qp : Nat) {z next : State} (e : execCongestionNotification qp z = .next next) :
    Follows z next := by
  unfold execCongestionNotification at e
  injection e with e
  subst e
  have hs := Follows.refl z
  repeat' (first
    | with_reducible assumption
    | with_reducible apply onQp_follows
    | with_reducible apply bumpEth_follows
    | with_reducible apply modQp_follows
    | (intro _))

theorem execRatePeriod_follows (qp : Nat) {z next : State} (e : execRatePeriod qp z = .next next) :
    Follows z next := by
  unfold execRatePeriod at e
  injection e with e
  subst e
  have hs := Follows.refl z
  repeat' (first
    | with_reducible assumption
    | with_reducible apply onQp_follows
    | with_reducible apply modQp_follows
    | (intro _))

theorem execPause_follows (port : Nat) (priority : Nat) {z next : State} (e : execPause port priority z = .next next) :
    Follows z next := by
  unfold execPause at e
  injection e with e
  subst e
  have hs := Follows.refl z
  repeat' (first
    | with_reducible assumption
    | with_reducible apply bumpEth_follows
    | with_reducible apply modEth_follows
    | with_reducible apply Follows.ite)

theorem execResume_follows (port : Nat) (priority : Nat) {z next : State} (e : execResume port priority z = .next next) :
    Follows z next := by
  unfold execResume at e
  injection e with e
  subst e
  have hs := Follows.refl z
  repeat' (first
    | with_reducible assumption
    | with_reducible apply resumed_follows
    | with_reducible apply Follows.ite)

theorem execEthLinkLoss_follows (port : Nat) {z next : State} (e : execEthLinkLoss port z = .next next) :
    Follows z next := by
  unfold execEthLinkLoss at e
  injection e with e
  subst e
  have hs := Follows.refl z
  repeat' (first
    | with_reducible assumption
    | with_reducible apply settle_follows
    | with_reducible apply checkReady_follows
    | with_reducible apply modEth_follows
    | with_reducible apply Follows.ite)

theorem execEthLinkReturn_follows (port : Nat) {z next : State} (e : execEthLinkReturn port z = .next next) :
    Follows z next := by
  unfold execEthLinkReturn at e
  injection e with e
  subst e
  have hs := Follows.refl z
  repeat' (first
    | with_reducible assumption
    | with_reducible apply settle_follows
    | with_reducible apply checkReady_follows
    | with_reducible apply modEth_follows
    | with_reducible apply Follows.ite)

theorem execConfigErase_follows (src : MsgRef) {z next : State} (e : execConfigErase src z = .next next) :
    Follows z next := by
  unfold execConfigErase at e
  injection e with e
  subst e
  have hs := Follows.refl z
  repeat' (first
    | with_reducible assumption
    | with_reducible apply settle_follows
    | with_reducible apply withMsgRef_follows
    | with_reducible apply forSlot_follows
    | with_reducible apply complete_follows
    | with_reducible apply modConfig_follows
    | with_reducible apply ledgerFor_follows
    | (intro _))

theorem execConfigWrite_follows (src : MsgRef) {z next : State} (e : execConfigWrite src z = .next next) :
    Follows z next := by
  unfold execConfigWrite at e
  injection e with e
  subst e
  have hs := Follows.refl z
  repeat' (first
    | with_reducible assumption
    | with_reducible apply settle_follows
    | with_reducible apply withMsgRef_follows
    | with_reducible apply forSlot_follows
    | with_reducible apply complete_follows
    | with_reducible apply modConfig_follows
    | (intro _)
    | (extract_lets +onlyGivenNames x)
    | split)

theorem execConfigCommit_follows (src : MsgRef) {z next : State} (e : execConfigCommit src z = .next next) :
    Follows z next := by
  unfold execConfigCommit at e
  injection e with e
  subst e
  have hs := Follows.refl z
  repeat' (first
    | with_reducible assumption
    | with_reducible apply settle_follows
    | with_reducible apply withMsgRef_follows
    | with_reducible apply forSlot_follows
    | with_reducible apply complete_follows
    | with_reducible apply completeResult_follows
    | with_reducible apply modConfig_follows
    | with_reducible apply ledgerFor_follows
    | (intro _)
    | (extract_lets +onlyGivenNames x; have hx : Follows z x := ?_; clear_value x; rotate_left; unfold x)
    | (extract_lets +onlyGivenNames x; clear_value x)
    | (extract_lets +onlyGivenNames x)
    | with_reducible apply Follows.ite
    | split)

theorem execConfigSelect_follows (src : MsgRef) {z next : State} (e : execConfigSelect src z = .next next) :
    Follows z next := by
  unfold execConfigSelect at e
  injection e with e
  subst e
  have hs := Follows.refl z
  repeat' (first
    | with_reducible assumption
    | with_reducible apply settle_follows
    | with_reducible apply withMsgRef_follows
    | with_reducible apply forSlot_follows
    | with_reducible apply complete_follows
    | with_reducible apply deferChange_follows
    | with_reducible apply ledgerFor_follows
    | (intro _)
    | (extract_lets +onlyGivenNames x)
    | with_reducible apply Follows.ite)

theorem execConfigActivate_follows (src : MsgRef) {z next : State} (e : execConfigActivate src z = .next next) :
    Follows z next := by
  unfold execConfigActivate at e
  injection e with e
  subst e
  have hs := Follows.refl z
  repeat' (first
    | with_reducible assumption
    | with_reducible apply settle_follows
    | with_reducible apply withMsgRef_follows
    | with_reducible apply configActivateRun_follows)

theorem execFwErase_follows (src : MsgRef) {z next : State} (e : execFwErase src z = .next next) :
    Follows z next := by
  unfold execFwErase at e
  injection e with e
  subst e
  have hs := Follows.refl z
  repeat' (first
    | with_reducible assumption
    | with_reducible apply settle_follows
    | with_reducible apply withMsgRef_follows
    | with_reducible apply forSlot_follows
    | with_reducible apply complete_follows
    | with_reducible apply modFw_follows
    | (intro _)
    | (extract_lets +onlyGivenNames x)
    | with_reducible apply Follows.ite)

theorem execFwWrite_follows (src : MsgRef) {z next : State} (e : execFwWrite src z = .next next) :
    Follows z next := by
  unfold execFwWrite at e
  injection e with e
  subst e
  have hs := Follows.refl z
  repeat' (first
    | with_reducible assumption
    | with_reducible apply settle_follows
    | with_reducible apply withMsgRef_follows
    | with_reducible apply forSlot_follows
    | with_reducible apply complete_follows
    | with_reducible apply modFw_follows
    | (intro _)
    | (extract_lets +onlyGivenNames x)
    | split)

theorem execFwCommit_follows (src : MsgRef) {z next : State} (e : execFwCommit src z = .next next) :
    Follows z next := by
  unfold execFwCommit at e
  injection e with e
  subst e
  have hs := Follows.refl z
  repeat' (first
    | with_reducible assumption
    | with_reducible apply settle_follows
    | with_reducible apply withMsgRef_follows
    | with_reducible apply forSlot_follows
    | with_reducible apply complete_follows
    | with_reducible apply modFw_follows
    | with_reducible apply completeResult_follows
    | with_reducible apply deferChange_follows
    | with_reducible apply ledgerFor_follows
    | (intro _)
    | (extract_lets +onlyGivenNames x; have hx : Follows z x := ?_; clear_value x; rotate_left; unfold x)
    | (extract_lets +onlyGivenNames x; clear_value x)
    | (extract_lets +onlyGivenNames x)
    | with_reducible apply Follows.ite
    | split)

theorem execFwActivate_follows (src : MsgRef) {z next : State} (e : execFwActivate src z = .next next) :
    Follows z next := by
  unfold execFwActivate at e
  injection e with e
  subst e
  have hs := Follows.refl z
  repeat' (first
    | with_reducible assumption
    | with_reducible apply settle_follows
    | with_reducible apply withMsgRef_follows
    | with_reducible apply fwActivateBody_follows)

theorem execFwRatchet_follows (src : MsgRef) {z next : State} (e : execFwRatchet src z = .next next) :
    Follows z next := by
  unfold execFwRatchet at e
  injection e with e
  subst e
  have hs := Follows.refl z
  repeat' (first
    | with_reducible assumption
    | with_reducible apply settle_follows
    | with_reducible apply withMsgRef_follows
    | with_reducible apply complete_follows
    | with_reducible apply deferChange_follows
    | with_reducible apply ledgerFor_follows
    | (intro _)
    | (extract_lets +onlyGivenNames x)
    | with_reducible apply Follows.ite
    | split)

theorem execReqWrite_follows (src : MsgRef) {z next : State} (e : execReqWrite src z = .next next) :
    Follows z next := by
  unfold execReqWrite at e
  injection e with e
  subst e
  have hs := Follows.refl z
  repeat' (first
    | with_reducible assumption
    | rw [mk_change]
    | with_reducible apply settle_follows
    | with_reducible apply withMsgRef_follows
    | with_reducible apply complete_follows
    | (with_reducible refine Follows.keep ?_ ?_ ?_ ?_; rotate_left; with_reducible rfl; with_reducible rfl; with_reducible rfl)
    | (intro _)
    | (extract_lets +onlyGivenNames x; clear_value x)
    | (extract_lets +onlyGivenNames x)
    | with_reducible apply Follows.ite)

theorem execLedgerAnchor_follows (ctx : Nat) {z next : State} (e : execLedgerAnchor ctx z = .next next) :
    Follows z next := by
  unfold execLedgerAnchor at e
  injection e with e
  subst e
  have hs := Follows.refl z
  repeat' (first
    | with_reducible assumption
    | rw [mk_change]
    | with_reducible apply settle_follows
    | with_reducible apply withMessage_follows
    | with_reducible apply complete_follows
    | with_reducible apply ledgerFor_follows
    | (with_reducible refine Follows.keep ?_ ?_ ?_ ?_; rotate_left; with_reducible rfl; with_reducible rfl; with_reducible rfl)
    | (intro _)
    | (extract_lets +onlyGivenNames x; have hx : Follows z x := ?_; clear_value x; rotate_left; unfold x)
    | (extract_lets +onlyGivenNames x; have _ : Ledger := x)
    | (extract_lets +onlyGivenNames x; clear_value x)
    | with_reducible apply Follows.ite)

theorem execLedgerStream_follows (ctx : Nat) {z next : State} (e : execLedgerStream ctx z = .next next) :
    Follows z next := by
  unfold execLedgerStream at e
  injection e with e
  subst e
  have hs := Follows.refl z
  repeat' (first
    | with_reducible assumption
    | with_reducible apply settle_follows
    | with_reducible apply withMessage_follows
    | with_reducible apply streamBody_follows)

theorem execLedgerStop_follows (ctx : Nat) {z next : State} (e : execLedgerStop ctx z = .next next) :
    Follows z next := by
  unfold execLedgerStop at e
  injection e with e
  subst e
  have hs := Follows.refl z
  repeat' (first
    | with_reducible assumption
    | rw [mk_change]
    | with_reducible apply settle_follows
    | with_reducible apply withMessage_follows
    | with_reducible apply complete_follows
    | (with_reducible refine Follows.keep ?_ ?_ ?_ ?_; rotate_left; with_reducible rfl; with_reducible rfl; with_reducible rfl)
    | (intro _)
    | (extract_lets +onlyGivenNames x; have _ : Ledger := x)
    | with_reducible apply Follows.ite)

theorem execPwrCapWrite_follows (value : BitVec 32) {z next : State} (e : execPwrCapWrite value z = .next next) :
    Follows z next := by
  unfold execPwrCapWrite at e
  injection e with e
  subst e
  have hs := Follows.refl z
  repeat' (first
    | with_reducible assumption
    | with_reducible apply writeAt_follows
    | with_reducible apply powerWrite_follows)

theorem execCurrentLimitWrite_follows (value : BitVec 32) {z next : State} (e : execCurrentLimitWrite value z = .next next) :
    Follows z next := by
  unfold execCurrentLimitWrite at e
  injection e with e
  subst e
  have hs := Follows.refl z
  repeat' (first
    | with_reducible assumption
    | with_reducible apply writeAt_follows
    | with_reducible apply powerWrite_follows)

theorem execThrottleTempWrite_follows (value : BitVec 32) {z next : State} (e : execThrottleTempWrite value z = .next next) :
    Follows z next := by
  unfold execThrottleTempWrite at e
  injection e with e
  subst e
  have hs := Follows.refl z
  repeat' (first
    | with_reducible assumption
    | with_reducible apply writeAt_follows
    | with_reducible apply powerWrite_follows)

theorem execSweepRateWrite_follows (value : BitVec 32) {z next : State} (e : execSweepRateWrite value z = .next next) :
    Follows z next := by
  unfold execSweepRateWrite at e
  injection e with e
  subst e
  have hs := Follows.refl z
  repeat' (first
    | with_reducible assumption
    | with_reducible apply writeAt_follows
    | with_reducible apply sweepRateSet_follows)

theorem execLcTransition_follows (src : MsgRef) {z next : State} (e : execLcTransition src z = .next next) :
    Follows z next := by
  unfold execLcTransition at e
  injection e with e
  subst e
  have hs := Follows.refl z
  repeat' (first
    | with_reducible assumption
    | with_reducible apply settle_follows
    | with_reducible apply withMsgRef_follows
    | with_reducible apply complete_follows
    | with_reducible apply withGlen_follows
    | with_reducible apply lcRun_follows
    | (intro _)
    | (extract_lets +onlyGivenNames x)
    | with_reducible apply Follows.ite)

theorem execLcReset_follows (env : BootEnv) {z next : State} (e : execLcReset env z = .next next) :
    Follows z next := by
  unfold execLcReset at e
  injection e with e
  subst e
  have hs := Follows.refl z
  repeat' (first
    | with_reducible assumption
    | with_reducible apply coldReset_follows
    | with_reducible apply Follows.ite)

theorem execDebugOpen_follows (ctx : Nat) {z next : State} (e : execDebugOpen ctx z = .next next) :
    Follows z next := by
  unfold execDebugOpen at e
  injection e with e
  subst e
  have hs := Follows.refl z
  repeat' (first
    | with_reducible assumption
    | with_reducible apply settle_follows
    | with_reducible apply withMessage_follows
    | with_reducible apply complete_follows
    | with_reducible apply withGlen_follows
    | with_reducible apply debugOpenRun_follows
    | (intro _)
    | (extract_lets +onlyGivenNames x)
    | with_reducible apply Follows.ite)

theorem execDebugClose_follows (ctx : Nat) {z next : State} (e : execDebugClose ctx z = .next next) :
    Follows z next := by
  unfold execDebugClose at e
  injection e with e
  subst e
  have hs := Follows.refl z
  repeat' (first
    | with_reducible assumption
    | with_reducible apply settle_follows
    | with_reducible apply withMessage_follows
    | with_reducible apply complete_follows
    | with_reducible apply deferChange_follows
    | with_reducible apply ledgerFor_follows
    | (intro _)
    | (extract_lets +onlyGivenNames x)
    | with_reducible apply Follows.ite)

theorem execFunctionReset_follows (src : MsgRef) {z next : State} (e : execFunctionReset src z = .next next) :
    Follows z next := by
  unfold execFunctionReset at e
  injection e with e
  subst e
  have hs := Follows.refl z
  repeat' (first
    | with_reducible assumption
    | with_reducible apply settle_follows
    | with_reducible apply withReset_follows
    | with_reducible apply functionResetRun_follows)

theorem execWarmReset_follows (src : MsgRef) {z next : State} (e : execWarmReset src z = .next next) :
    Follows z next := by
  unfold execWarmReset at e
  injection e with e
  subst e
  have hs := Follows.refl z
  repeat' (first
    | with_reducible assumption
    | with_reducible apply settle_follows
    | with_reducible apply withReset_follows
    | with_reducible apply warmResetRun_follows)

theorem execColdReset_follows (src : MsgRef) (env : BootEnv) {z next : State} (e : execColdReset src env z = .next next) :
    Follows z next := by
  unfold execColdReset at e
  injection e with e
  subst e
  have hs := Follows.refl z
  repeat' (first
    | with_reducible assumption
    | with_reducible apply withReset_follows
    | with_reducible apply coldReset_follows
    | (intro _))

theorem execFirmwareActivationDone_follows (ok : Bool) {z next : State} (e : execFirmwareActivationDone ok z = .next next) :
    Follows z next := by
  unfold execFirmwareActivationDone at e
  injection e with e
  subst e
  have hs := Follows.refl z
  repeat' (first
    | with_reducible assumption
    | with_reducible apply settle_follows
    | with_reducible apply activationDone_follows)

theorem execTeardownStepDone_follows (job : Nat) {z next : State} (e : execTeardownStepDone job z = .next next) :
    Follows z next := by
  unfold execTeardownStepDone at e
  injection e with e
  subst e
  have hs := Follows.refl z
  repeat' (first
    | with_reducible assumption
    | with_reducible apply settle_follows
    | with_reducible apply releaseHeld_follows
    | with_reducible apply afterTeardown_follows
    | with_reducible apply stepDone_follows
    | with_reducible apply Follows.ite)

theorem execLedgerMirrorWrite_follows (ok : Bool) {z next : State} (e : execLedgerMirrorWrite ok z = .next next) :
    Follows z next := by
  unfold execLedgerMirrorWrite at e
  injection e with e
  subst e
  have hs := Follows.refl z
  repeat' (first
    | with_reducible assumption
    | with_reducible apply settle_follows
    | with_reducible apply pumpStreams_follows
    | with_reducible apply afterTeardown_follows
    | with_reducible apply mirrorWrite_follows
    | with_reducible apply Follows.ite)

theorem execGlenOperationComplete_follows {z next : State} (e : execGlenOperationComplete z = .next next) :
    Follows z next := by
  unfold execGlenOperationComplete at e
  injection e with e
  subst e
  have hs := Follows.refl z
  repeat' (first
    | with_reducible assumption
    | with_reducible apply settle_follows
    | with_reducible apply glenDone_follows
    | with_reducible apply Follows.ite)

theorem execGlenResponseDone_follows {z next : State} (e : execGlenResponseDone z = .next next) :
    Follows z next := by
  unfold execGlenResponseDone at e
  injection e with e
  subst e
  have hs := Follows.refl z
  repeat' (first
    | with_reducible assumption
    | with_reducible apply respond_follows
    | with_reducible apply Follows.ite)

theorem execGlenChalWrite_follows (value : BitVec 32) {z next : State} (e : execGlenChalWrite value z = .next next) :
    Follows z next := by
  unfold execGlenChalWrite at e
  injection e with e
  subst e
  have hs := Follows.refl z
  repeat' (first
    | with_reducible assumption
    | with_reducible apply writeAt_follows
    | with_reducible apply challengeWrite_follows)

theorem execPowerInterval_follows (meas : PowerMeas) {z next : State} (e : execPowerInterval meas z = .next next) :
    Follows z next := by
  unfold execPowerInterval at e
  split at e
  · cases e
  injection e with e
  subst e
  have hs := Follows.refl z
  repeat' (first
    | with_reducible assumption
    | with_reducible apply settle_follows
    | with_reducible apply powerPass_follows
    | with_reducible apply Follows.ite)

theorem execRailDroop_follows (blocks : List Nat) {z next : State} (e : execRailDroop blocks z = .next next) :
    Follows z next := by
  unfold execRailDroop at e
  injection e with e
  subst e
  have hs := Follows.refl z
  repeat' (first
    | with_reducible assumption
    | rw [mk_change]
    | with_reducible apply settle_follows
    | with_reducible apply evalWarnings_follows
    | with_reducible apply grantNow_follows
    | with_reducible apply noteDroop_follows
    | (with_reducible refine Follows.keep ?_ ?_ ?_ ?_; rotate_left; with_reducible rfl; with_reducible rfl; with_reducible rfl)
    | (extract_lets +onlyGivenNames x; clear_value x)
    | with_reducible apply Follows.ite)

theorem execDroopRevocationEnd_follows {z next : State} (e : execDroopRevocationEnd z = .next next) :
    Follows z next := by
  unfold execDroopRevocationEnd at e
  injection e with e
  subst e
  have hs := Follows.refl z
  repeat' (first
    | with_reducible assumption
    | rw [mk_change]
    | (with_reducible refine Follows.keep ?_ ?_ ?_ ?_; rotate_left; with_reducible rfl; with_reducible rfl; with_reducible rfl))

theorem execClockStretchEnd_follows {z next : State} (e : execClockStretchEnd z = .next next) :
    Follows z next := by
  unfold execClockStretchEnd at e
  injection e with e
  subst e
  have hs := Follows.refl z
  repeat' (first
    | with_reducible assumption
    | rw [mk_change]
    | (with_reducible refine Follows.keep ?_ ?_ ?_ ?_; rotate_left; with_reducible rfl; with_reducible rfl; with_reducible rfl))

theorem execInputDroop_follows (vinMv : Nat) {z next : State} (e : execInputDroop vinMv z = .next next) :
    Follows z next := by
  unfold execInputDroop at e
  injection e with e
  subst e
  have hs := Follows.refl z
  repeat' (first
    | with_reducible assumption
    | rw [mk_change]
    | with_reducible apply noteDroop_follows
    | with_reducible apply settle_follows
    | with_reducible apply evalWarnings_follows
    | with_reducible apply grantNow_follows
    | (with_reducible refine Follows.keep ?_ ?_ ?_ ?_; rotate_left; with_reducible rfl; with_reducible rfl; with_reducible rfl)
    | (extract_lets +onlyGivenNames x; have hx : Follows z x := ?_; clear_value x; rotate_left; unfold x)
    | (extract_lets +onlyGivenNames x; clear_value x)
    | (extract_lets +onlyGivenNames x)
    | with_reducible apply Follows.ite)

theorem execInputUndervoltage_follows (vinMv : Nat) {z next : State} (e : execInputUndervoltage vinMv z = .next next) :
    Follows z next := by
  unfold execInputUndervoltage at e
  injection e with e
  subst e
  have hs := Follows.refl z
  repeat' (first
    | with_reducible assumption
    | rw [mk_change]
    | with_reducible apply railsOff_follows
    | with_reducible apply alertHold_follows
    | (with_reducible refine Follows.keep ?_ ?_ ?_ ?_; rotate_left; with_reducible rfl; with_reducible rfl; with_reducible rfl)
    | (extract_lets +onlyGivenNames x; clear_value x)
    | with_reducible apply Follows.ite)

theorem execInputOvervoltage_follows (vinMv : Nat) {z next : State} (e : execInputOvervoltage vinMv z = .next next) :
    Follows z next := by
  unfold execInputOvervoltage at e
  split at e
  · cases e
  injection e with e
  subst e
  have hs := Follows.refl z
  repeat' (first
    | with_reducible assumption
    | rw [mk_change]
    | with_reducible apply alertHold_follows
    | (with_reducible refine Follows.keep ?_ ?_ ?_ ?_; rotate_left; with_reducible rfl; with_reducible rfl; with_reducible rfl)
    | (extract_lets +onlyGivenNames x; clear_value x)
    | with_reducible apply Follows.ite)

theorem execInputOvervoltageTrip_follows (vinMv : Nat) {z next : State} (e : execInputOvervoltageTrip vinMv z = .next next) :
    Follows z next := by
  unfold execInputOvervoltageTrip at e
  split at e
  · cases e
  injection e with e
  subst e
  have hs := Follows.refl z
  repeat' (first
    | with_reducible assumption
    | rw [mk_change]
    | with_reducible apply railsOff_follows
    | with_reducible apply alertHold_follows
    | (with_reducible refine Follows.keep ?_ ?_ ?_ ?_; rotate_left; with_reducible rfl; with_reducible rfl; with_reducible rfl)
    | (extract_lets +onlyGivenNames x; clear_value x)
    | with_reducible apply Follows.ite)

theorem execThermtrip_follows (sensorClass : Nat) (sensor : Nat) {z next : State} (e : execThermtrip sensorClass sensor z = .next next) :
    Follows z next := by
  unfold execThermtrip at e
  injection e with e
  subst e
  have hs := Follows.refl z
  repeat' (first
    | with_reducible assumption
    | rw [mk_change]
    | with_reducible apply railsOff_follows
    | (with_reducible refine Follows.keep ?_ ?_ ?_ ?_; rotate_left; with_reducible rfl; with_reducible rfl; with_reducible rfl)
    | (extract_lets +onlyGivenNames x; clear_value x)
    | with_reducible apply Follows.ite)

theorem execInletOvertemp_follows (reading : Int) {z next : State} (e : execInletOvertemp reading z = .next next) :
    Follows z next := by
  unfold execInletOvertemp at e
  injection e with e
  subst e
  have hs := Follows.refl z
  repeat' (first
    | with_reducible assumption
    | rw [mk_change]
    | with_reducible apply freeEvent_follows
    | with_reducible apply alertHold_follows
    | (with_reducible refine Follows.keep ?_ ?_ ?_ ?_; rotate_left; with_reducible rfl; with_reducible rfl; with_reducible rfl)
    | (extract_lets +onlyGivenNames x; clear_value x)
    | with_reducible apply Follows.ite)

theorem execSysclkLoss_follows {z next : State} (e : execSysclkLoss z = .next next) :
    Follows z next := by
  unfold execSysclkLoss at e
  injection e with e
  subst e
  have hs := Follows.refl z
  repeat' (first
    | with_reducible assumption
    | rw [mk_change]
    | with_reducible apply railsOff_follows
    | with_reducible apply alertHold_follows
    | (with_reducible refine Follows.keep ?_ ?_ ?_ ?_; rotate_left; with_reducible rfl; with_reducible rfl; with_reducible rfl)
    | (extract_lets +onlyGivenNames x; clear_value x)
    | with_reducible apply Follows.ite)

theorem execNetclkLoss_follows {z next : State} (e : execNetclkLoss z = .next next) : Follows z next := by
  unfold execNetclkLoss at e
  injection e with e
  subst e
  refine Follows.ite ?_ (Follows.refl z)
  dsimp only
  refine settle_follows (checkReady_follows (Follows.foldl _ (Follows.foldl _ ?_ fun t n h => Follows.ite (portDownFree_follows _ h) h)
    fun t n h => modEth_follows _ _ h))
  rw [mk_change]
  exact (Follows.refl z).keep rfl rfl rfl
theorem execNetclkReturn_follows {z next : State} (e : execNetclkReturn z = .next next) :
    Follows z next := by
  unfold execNetclkReturn at e
  injection e with e
  subst e
  have hs := Follows.refl z
  repeat' (first
    | with_reducible assumption
    | rw [mk_change]
    | with_reducible apply Follows.foldl
    | with_reducible apply beginFull_follows
    | (with_reducible refine Follows.keep ?_ ?_ ?_ ?_; rotate_left; with_reducible rfl; with_reducible rfl; with_reducible rfl)
    | (intro _)
    | (extract_lets +onlyGivenNames x; clear_value x)
    | (extract_lets +onlyGivenNames x)
    | with_reducible apply Follows.ite)

theorem execTamperTrip_follows (source : TamperSource) {z next : State} (e : execTamperTrip source z = .next next) :
    Follows z next := by
  unfold execTamperTrip at e
  injection e with e
  subst e
  have hs := Follows.refl z
  repeat' (first
    | with_reducible assumption
    | with_reducible apply railsOff_follows
    | with_reducible apply zeroise_follows
    | with_reducible apply Follows.ite)

theorem execTamperSample_follows (lid : Bool) (temperature : Bool) {z next : State} (e : execTamperSample lid temperature z = .next next) :
    Follows z next := by
  unfold execTamperSample at e
  injection e with e
  subst e
  have hs := Follows.refl z
  repeat' (first
    | with_reducible assumption
    | with_reducible apply zeroise_follows
    | with_reducible apply Follows.ite)

theorem execVbatRemoval_follows {z next : State} (e : execVbatRemoval z = .next next) :
    Follows z next := by
  unfold execVbatRemoval at e
  injection e with e
  subst e
  have hs := Follows.refl z
  repeat' (first
    | with_reducible assumption
    | rw [mk_change]
    | (with_reducible refine Follows.keep ?_ ?_ ?_ ?_; rotate_left; with_reducible rfl; with_reducible rfl; with_reducible rfl)
    | (extract_lets +onlyGivenNames x; clear_value x)
    | with_reducible apply Follows.ite)

theorem execCeilingDerate_follows (derates : List (Nat × Nat)) {z next : State} (e : execCeilingDerate derates z = .next next) :
    Follows z next := by
  unfold execCeilingDerate at e
  injection e with e
  subst e
  have hs := Follows.refl z
  repeat' (first
    | with_reducible assumption
    | with_reducible apply settle_follows
    | with_reducible apply evalWarnings_follows
    | with_reducible apply takeDerates_follows
    | with_reducible apply Follows.ite)

theorem execAccountingAudit_follows {z next : State} (e : execAccountingAudit z = .next next) :
    Follows z next := by
  unfold execAccountingAudit at e
  injection e with e
  subst e
  have hs := Follows.refl z
  repeat' (first
    | with_reducible assumption
    | with_reducible apply Follows.foldl
    | with_reducible apply auditFails_follows
    | with_reducible apply Follows.ite)

theorem execPowerEnable_follows {z next : State} (e : execPowerEnable z = .next next) : Follows z next := by
  unfold execPowerEnable at e
  injection e with e
  subst e
  refine Follows.ite (Follows.refl z) ?_
  dsimp only
  rw [mk_change]
  exact (coldState_follows (Follows.refl z)).make (Nat.le_refl _) (List.prefix_refl _) (Nat.le_succ z.boot) (Nat.le_refl _) id id (.refl _) (.refl _)
theorem execPowerLoss_follows {z next : State} (e : execPowerLoss z = .next next) :
    Follows z next := by
  unfold execPowerLoss at e
  injection e with e
  subst e
  have hs := Follows.refl z
  repeat' (first
    | with_reducible assumption
    | rw [mk_change]
    | with_reducible apply coldState_follows
    | (with_reducible refine Follows.keep ?_ ?_ ?_ ?_; rotate_left; with_reducible rfl; with_reducible rfl; with_reducible rfl)
    | (extract_lets +onlyGivenNames x; clear_value x)
    | with_reducible apply Follows.ite)

theorem execBoardReset_follows {z next : State} (e : execBoardReset z = .next next) : Follows z next := by
  unfold execBoardReset at e
  injection e with e
  subst e
  refine Follows.ite ?_ (Follows.refl z)
  dsimp only
  rw [mk_change]
  exact (coldState_follows (Follows.refl z)).make (Nat.le_refl _) (List.prefix_refl _) (Nat.le_succ z.boot) (Nat.le_refl _) id id (.refl _) (.refl _)
theorem execResetLRelease_follows {z next : State} (e : execResetLRelease z = .next next) :
    Follows z next := by
  unfold execResetLRelease at e
  injection e with e
  subst e
  have hs := Follows.refl z
  repeat' (first
    | with_reducible assumption
    | rw [mk_change]
    | (with_reducible refine Follows.keep ?_ ?_ ?_ ?_; rotate_left; with_reducible rfl; with_reducible rfl; with_reducible rfl))

theorem execStartStepDone_follows (env : StartEnv) {z next : State} (e : execStartStepDone env z = .next next) :
    Follows z next := by
  unfold execStartStepDone at e
  injection e with e
  subst e
  have hs := Follows.refl z
  repeat' (first
    | with_reducible assumption
    | with_reducible apply stepOfStart_follows
    | with_reducible apply Follows.ite)

theorem execBlockGroupStart_follows {z next : State} (e : execBlockGroupStart z = .next next) :
    Follows z next := by
  unfold execBlockGroupStart at e
  injection e with e
  subst e
  have hs := Follows.refl z
  repeat' (first
    | with_reducible assumption
    | with_reducible apply blockSlot_follows
    | with_reducible apply Follows.ite)

theorem execBlockRailTimeout_follows (block : Nat) {z next : State} (e : execBlockRailTimeout block z = .next next) :
    Follows z next := by
  unfold execBlockRailTimeout at e
  injection e with e
  subst e
  have hs := Follows.refl z
  repeat' (first
    | with_reducible assumption
    | with_reducible apply blockFails_follows
    | with_reducible apply Follows.ite)

theorem execLaserStep_follows (failed : List Nat) {z next : State} (e : execLaserStep failed z = .next next) :
    Follows z next := by
  unfold execLaserStep at e
  injection e with e
  subst e
  have hs := Follows.refl z
  repeat' (first
    | with_reducible assumption
    | with_reducible apply settle_follows
    | with_reducible apply laserNext_follows
    | with_reducible apply Follows.ite)

theorem execCounterLowRead_follows (address : Nat) {z next : State} (e : execCounterLowRead address z = .next next) :
    Follows z next := by
  unfold execCounterLowRead at e
  injection e with e
  subst e
  have hs := Follows.refl z
  repeat' (first
    | with_reducible assumption
    | with_reducible apply readAt_follows)

theorem execLedgerSeqLoRead_follows {z next : State} (e : execLedgerSeqLoRead z = .next next) :
    Follows z next := by
  unfold execLedgerSeqLoRead at e
  injection e with e
  subst e
  have hs := Follows.refl z
  repeat' (first
    | with_reducible assumption
    | with_reducible apply readAt_follows)

theorem execAlertStatusWrite_follows (value : BitVec 32) {z next : State} (e : execAlertStatusWrite value z = .next next) :
    Follows z next := by
  unfold execAlertStatusWrite at e
  injection e with e
  subst e
  have hs := Follows.refl z
  repeat' (first
    | with_reducible assumption
    | with_reducible apply writeAt_follows
    | with_reducible apply alertClear_follows)

theorem execFailwarnWrite_follows (value : BitVec 32) {z next : State} (e : execFailwarnWrite value z = .next next) :
    Follows z next := by
  unfold execFailwarnWrite at e
  injection e with e
  subst e
  have hs := Follows.refl z
  repeat' (first
    | with_reducible assumption
    | with_reducible apply writeAt_follows
    | with_reducible apply failwarnClear_follows)

theorem execAccessErrWrite_follows (value : BitVec 32) {z next : State} (e : execAccessErrWrite value z = .next next) :
    Follows z next := by
  unfold execAccessErrWrite at e
  injection e with e
  subst e
  have hs := Follows.refl z
  repeat' (first
    | with_reducible assumption
    | with_reducible apply writeAt_follows
    | with_reducible apply accessErrClear_follows)

theorem execFlagsWrite_follows (job : Nat) (value : BitVec 32) {z next : State} (e : execFlagsWrite job value z = .next next) :
    Follows z next := by
  unfold execFlagsWrite at e
  injection e with e
  subst e
  have hs := Follows.refl z
  repeat' (first
    | with_reducible assumption
    | with_reducible apply writeAt_follows
    | with_reducible apply flagsClear_follows
    | with_reducible apply Follows.ite)

theorem execNlogSelectWrite_follows (value : BitVec 32) {z next : State} (e : execNlogSelectWrite value z = .next next) :
    Follows z next := by
  unfold execNlogSelectWrite at e
  injection e with e
  subst e
  have hs := Follows.refl z
  repeat' (first
    | with_reducible assumption
    | with_reducible apply writeAt_follows
    | with_reducible apply nlogPick_follows)

theorem execErrSelectWrite_follows (value : BitVec 32) {z next : State} (e : execErrSelectWrite value z = .next next) :
    Follows z next := by
  unfold execErrSelectWrite at e
  injection e with e
  subst e
  have hs := Follows.refl z
  repeat' (first
    | with_reducible assumption
    | with_reducible apply writeAt_follows
    | with_reducible apply errPick_follows)

theorem execLedgerSelectWrite_follows (value : BitVec 32) {z next : State} (e : execLedgerSelectWrite value z = .next next) :
    Follows z next := by
  unfold execLedgerSelectWrite at e
  injection e with e
  subst e
  have hs := Follows.refl z
  repeat' (first
    | with_reducible assumption
    | with_reducible apply writeAt_follows
    | with_reducible apply ledgerPick_follows)

theorem execLedgerSelectDone_follows {z next : State} (e : execLedgerSelectDone z = .next next) :
    Follows z next := by
  unfold execLedgerSelectDone at e
  injection e with e
  subst e
  have hs := Follows.refl z
  repeat' (first
    | with_reducible assumption
    | with_reducible apply ledgerFetched_follows
    | with_reducible apply Follows.ite)

theorem execShPageWrite_follows (value : BitVec 32) {z next : State} (e : execShPageWrite value z = .next next) :
    Follows z next := by
  unfold execShPageWrite at e
  injection e with e
  subst e
  have hs := Follows.refl z
  repeat' (first
    | with_reducible assumption
    | with_reducible apply writeAt_follows
    | with_reducible apply pagePick_follows)

theorem execShScan_follows (value : BitVec 32) {z next : State} (e : execShScan value z = .next next) :
    Follows z next := by
  unfold execShScan at e
  injection e with e
  subst e
  have hs := Follows.refl z
  repeat' (first
    | with_reducible assumption
    | with_reducible apply writeAt_follows
    | with_reducible apply scanBegin_follows)

theorem execShScanDone_follows {z next : State} (e : execShScanDone z = .next next) :
    Follows z next := by
  unfold execShScanDone at e
  injection e with e
  subst e
  have hs := Follows.refl z
  repeat' (first
    | with_reducible assumption
    | rw [mk_change]
    | (with_reducible refine Follows.keep ?_ ?_ ?_ ?_; rotate_left; with_reducible rfl; with_reducible rfl; with_reducible rfl)
    | (extract_lets +onlyGivenNames x; clear_value x)
    | with_reducible apply Follows.ite)

theorem execRegisterWrite_follows (address : Nat) (value : BitVec 32) {z next : State} (e : execRegisterWrite address value z = .next next) :
    Follows z next := by
  unfold execRegisterWrite at e
  injection e with e
  subst e
  have hs := Follows.refl z
  repeat' (first
    | with_reducible assumption
    | with_reducible apply writeAt_follows
    | with_reducible apply registerPut_follows)

theorem execSidebandResult_follows {z next : State} (e : execSidebandResult z = .next next) :
    Follows z next := by
  unfold execSidebandResult at e
  injection e with e
  subst e
  have hs := Follows.refl z
  repeat' (first
    | with_reducible assumption
    | with_reducible apply emit_follows
    | (extract_lets +onlyGivenNames x)
    | with_reducible apply Follows.ite)

theorem execEntdaa_follows (address : Nat) {z next : State} (e : execEntdaa address z = .next next) :
    Follows z next := by
  unfold execEntdaa at e
  injection e with e
  subst e
  have hs := Follows.refl z
  repeat' (first
    | with_reducible assumption
    | with_reducible apply takeAddress_follows
    | with_reducible apply emit_follows
    | (extract_lets +onlyGivenNames x)
    | with_reducible apply Follows.ite)

theorem execSetdasa_follows (address : Nat) {z next : State} (e : execSetdasa address z = .next next) :
    Follows z next := by
  unfold execSetdasa at e
  injection e with e
  subst e
  have hs := Follows.refl z
  repeat' (first
    | with_reducible assumption
    | with_reducible apply takeAddress_follows)

theorem execRstdaa_follows {z next : State} (e : execRstdaa z = .next next) :
    Follows z next := by
  unfold execRstdaa at e
  injection e with e
  subst e
  have hs := Follows.refl z
  repeat' (first
    | with_reducible assumption
    | rw [mk_change]
    | (with_reducible refine Follows.keep ?_ ?_ ?_ ?_; rotate_left; with_reducible rfl; with_reducible rfl; with_reducible rfl)
    | (extract_lets +onlyGivenNames x; clear_value x)
    | with_reducible apply Follows.ite)

theorem execEnec_follows {z next : State} (e : execEnec z = .next next) :
    Follows z next := by
  unfold execEnec at e
  injection e with e
  subst e
  have hs := Follows.refl z
  repeat' (first
    | with_reducible assumption
    | rw [mk_change]
    | (with_reducible refine Follows.keep ?_ ?_ ?_ ?_; rotate_left; with_reducible rfl; with_reducible rfl; with_reducible rfl)
    | (extract_lets +onlyGivenNames x; clear_value x)
    | with_reducible apply Follows.ite)

theorem execDisec_follows {z next : State} (e : execDisec z = .next next) :
    Follows z next := by
  unfold execDisec at e
  injection e with e
  subst e
  have hs := Follows.refl z
  repeat' (first
    | with_reducible assumption
    | rw [mk_change]
    | (with_reducible refine Follows.keep ?_ ?_ ?_ ?_; rotate_left; with_reducible rfl; with_reducible rfl; with_reducible rfl)
    | (extract_lets +onlyGivenNames x; clear_value x)
    | with_reducible apply Follows.ite)

theorem execGetpid_follows {z next : State} (e : execGetpid z = .next next) :
    Follows z next := by
  unfold execGetpid at e
  injection e with e
  subst e
  have hs := Follows.refl z
  repeat' (first
    | with_reducible assumption
    | with_reducible apply emit_follows
    | with_reducible apply Follows.ite)

theorem execGetbcr_follows {z next : State} (e : execGetbcr z = .next next) :
    Follows z next := by
  unfold execGetbcr at e
  injection e with e
  subst e
  have hs := Follows.refl z
  repeat' (first
    | with_reducible assumption
    | with_reducible apply emit_follows
    | with_reducible apply Follows.ite)

theorem execGetdcr_follows {z next : State} (e : execGetdcr z = .next next) :
    Follows z next := by
  unfold execGetdcr at e
  injection e with e
  subst e
  have hs := Follows.refl z
  repeat' (first
    | with_reducible assumption
    | with_reducible apply emit_follows
    | with_reducible apply Follows.ite)

theorem execGetstatus_follows {z next : State} (e : execGetstatus z = .next next) :
    Follows z next := by
  unfold execGetstatus at e
  injection e with e
  subst e
  have hs := Follows.refl z
  repeat' (first
    | with_reducible assumption
    | with_reducible apply freshBytes_follows
    | with_reducible apply emit_follows
    | (extract_lets +onlyGivenNames x; have hx : Follows z x.2 := ?_; clear_value x; rotate_left; unfold x)
    | with_reducible apply Follows.ite)

end Sys2Proof.Laws
end

