-- ==== Sys2Proof/Laws/FollowsExec.lean ====
section
/-! SUPPORT. Every command keeps what a following state keeps. -/

namespace Sys2Proof.Laws

open Sys2Proof.Machine

/-- Whatever a command answers follows the state that it ran in. -/
theorem exec_follows {c : Instr} {s t : State} (e : exec c s = .next t) : Follows s t :=
  match c, e with
  | .hello _, e => execHello_follows _ e
  | .qpCreate _, e => execQpCreate_follows _ e
  | .windowOpen _, e => execWindowOpen_follows _ e
  | .groupCreate _, e => execGroupCreate_follows _ e
  | .steppeAttach _, e => execSteppeAttach_follows _ e
  | .tierMoveFetch _, e => execTierMoveFetch_follows _ e
  | .tierMoveEvict _, e => execTierMoveEvict_follows _ e
  | .jobCreate _, e => execJobCreate_follows _ e
  | .jobDestroy _, e => execJobDestroy_follows _ e
  | .teardownStepDone _, e => execTeardownStepDone_follows _ e
  | .attest _, e => execAttest_follows _ e
  | .keyDeliver _, e => execKeyDeliver_follows _ e
  | .ingress _, e => execIngress_follows _ e
  | .ingressComplete _ _, e => execIngressComplete_follows _ _ e
  | .tensorDefine _, e => execTensorDefine_follows _ e
  | .tensorRelease _, e => execTensorRelease_follows _ e
  | .programCreate _, e => execProgramCreate_follows _ e
  | .programSubmit _, e => execProgramSubmit_follows _ e
  | .programAbort _, e => execProgramAbort_follows _ e
  | .fenceCreate _, e => execFenceCreate_follows _ e
  | .fenceImport _, e => execFenceImport_follows _ e
  | .fenceSignal _, e => execFenceSignal_follows _ e
  | .fenceWait _, e => execFenceWait_follows _ e
  | .fenceQuery _, e => execFenceQuery_follows _ e
  | .objectDestroy _, e => execObjectDestroy_follows _ e
  | .objectFree _, e => execObjectFree_follows _ e
  | .messageWaitRelease _, e => execMessageWaitRelease_follows _ e
  | .ckptSetup _, e => execCkptSetup_follows _ e
  | .ckptTrigger _, e => execCkptTrigger_follows _ e
  | .ckptStatus _, e => execCkptStatus_follows _ e
  | .restore _ _ _, e => execRestore_follows _ _ _ e
  | .stateImport _ _ _ _, e => execStateImport_follows _ _ _ _ e
  | .stateImportComplete _ _, e => execStateImportComplete_follows _ _ e
  | .configErase _, e => execConfigErase_follows _ e
  | .configWrite _, e => execConfigWrite_follows _ e
  | .configCommit _, e => execConfigCommit_follows _ e
  | .configSelect _, e => execConfigSelect_follows _ e
  | .configActivate _, e => execConfigActivate_follows _ e
  | .ledgerAnchor _, e => execLedgerAnchor_follows _ e
  | .ledgerStream _, e => execLedgerStream_follows _ e
  | .ledgerStop _, e => execLedgerStop_follows _ e
  | .certRead _, e => execCertRead_follows _ e
  | .jobKeySeal _, e => execJobKeySeal_follows _ e
  | .jobKeyUnseal _, e => execJobKeyUnseal_follows _ e
  | .fwErase _, e => execFwErase_follows _ e
  | .fwWrite _, e => execFwWrite_follows _ e
  | .fwCommit _, e => execFwCommit_follows _ e
  | .fwActivate _, e => execFwActivate_follows _ e
  | .fwRatchet _, e => execFwRatchet_follows _ e
  | .reqWrite _, e => execReqWrite_follows _ e
  | .lcTransition _, e => execLcTransition_follows _ e
  | .lcReset _, e => execLcReset_follows _ e
  | .debugOpen _, e => execDebugOpen_follows _ e
  | .debugClose _, e => execDebugClose_follows _ e
  | .functionReset _, e => execFunctionReset_follows _ e
  | .warmReset _, e => execWarmReset_follows _ e
  | .coldReset _ _, e => execColdReset_follows _ _ e
  | .nop _, e => execNop_follows _ e
  | .spanBegin _, e => execSpanBegin_follows _ e
  | .spanEnd _, e => execSpanEnd_follows _ e
  | .spanCommit _ _ _, e => execSpanCommit_follows _ _ _ e
  | .spanDiscard _ _ _, e => execSpanDiscard_follows _ _ _ e
  | .spanRerun _ _ _, e => execSpanRerun_follows _ _ _ e
  | .fenceWaitDescriptor _, e => execFenceWaitDescriptor_follows _ e
  | .fenceSignalDescriptor _, e => execFenceSignalDescriptor_follows _ e
  | .phaseHint _, e => execPhaseHint_follows _ e
  | .bubbleOpen _, e => execBubbleOpen_follows _ e
  | .blockLend _ _, e => execBlockLend_follows _ _ e
  | .bubbleWindowClose _ _, e => execBubbleWindowClose_follows _ _ e
  | .blockReturn _ _, e => execBlockReturn_follows _ _ e
  | .matmul _ _, e => execMatmul_follows _ _ e
  | .matmulDx _, e => execMatmulDx_follows _ e
  | .matmulDw _, e => execMatmulDw_follows _ e
  | .matmulAlt _, e => execMatmulAlt_follows _ e
  | .attentionFwd _, e => execAttentionFwd_follows _ e
  | .attentionBwd _, e => execAttentionBwd_follows _ e
  | .norm _, e => execNorm_follows _ e
  | .normBwd _, e => execNormBwd_follows _ e
  | .softmax _, e => execSoftmax_follows _ e
  | .elementwise _, e => execElementwise_follows _ e
  | .reduce _, e => execReduce_follows _ e
  | .cast _, e => execCast_follows _ e
  | .transposeCopy _, e => execTransposeCopy_follows _ e
  | .copy _, e => execCopy_follows _ e
  | .fill _, e => execFill_follows _ e
  | .scatterReduce _, e => execScatterReduce_follows _ e
  | .saddleGather _, e => execSaddleGather_follows _ e
  | .saddleStagingResume _ _, e => execSaddleStagingResume_follows _ _ e
  | .allGather _, e => execAllGather_follows _ e
  | .reduceScatter _, e => execReduceScatter_follows _ e
  | .allReduce _, e => execAllReduce_follows _ e
  | .send _, e => execSend_follows _ e
  | .receive _, e => execReceive_follows _ e
  | .verdict _, e => execVerdict_follows _ e
  | .verdictComplete _ _, e => execVerdictComplete_follows _ _ e
  | .stash _, e => execStash_follows _ e
  | .unstash _, e => execUnstash_follows _ e
  | .optimiserStep _, e => execOptimiserStep_follows _ e
  | .momentTask _ _, e => execMomentTask_follows _ _ e
  | .weightTask _ _, e => execWeightTask_follows _ _ e
  | .digest _, e => execDigest_follows _ e
  | .statistics _, e => execStatistics_follows _ e
  | .release _, e => execRelease_follows _ e
  | .releaseComplete _ _ _, e => execReleaseComplete_follows _ _ _ e
  | .ingressWait _, e => execIngressWait_follows _ e
  | .taskBoundary _ _, e => execTaskBoundary_follows _ _ e
  | .fenceWaitTimeout _, e => execFenceWaitTimeout_follows _ e
  | .collectiveTimeout _, e => execCollectiveTimeout_follows _ e
  | .transferTimeout _, e => execTransferTimeout_follows _ e
  | .fenceEvictionDone _, e => execFenceEvictionDone_follows _ e
  | .plainCacheAccess _ _, e => execPlainCacheAccess_follows _ _ e
  | .missQueueDequeue _, e => execMissQueueDequeue_follows _ e
  | .lineFill _ _ _ _ _, e => execLineFill_follows _ _ _ _ _ e
  | .valeRequestAccept _, e => execValeRequestAccept_follows _ e
  | .valeRead _ _ _, e => execValeRead_follows _ _ _ e
  | .valeFullLineWrite _ _, e => execValeFullLineWrite_follows _ _ e
  | .valePartialWrite _ _ _ _ _, e => execValePartialWrite_follows _ _ _ _ _ e
  | .sweepStart, e => execSweepStart_follows e
  | .sweepStep _ _, e => execSweepStep_follows _ _ e
  | .blockedWriteResume, e => execBlockedWriteResume_follows e
  | .keyIdRetire _, e => execKeyIdRetire_follows _ e
  | .keyIdFree _, e => execKeyIdFree_follows _ e
  | .fetchFrameResume _, e => execFetchFrameResume_follows _ e
  | .steppeChunkArrival _ _ _ _, e => execSteppeChunkArrival_follows _ _ _ _ e
  | .evictionComplete _ _, e => execEvictionComplete_follows _ _ e
  | .basinFold _ _, e => execBasinFold_follows _ _ e
  | .plpHello _ _, e => execPlpHello_follows _ _ e
  | .creditInit _ _, e => execCreditInit_follows _ _ e
  | .creditReturn _ _, e => execCreditReturn_follows _ _ e
  | .ack _ _, e => execAck_follows _ _ e
  | .nak _ _, e => execNak_follows _ _ e
  | .idle _ _, e => execIdle_follows _ _ e
  | .ackTimer _, e => execAckTimer_follows _ e
  | .creditReturnTimer _, e => execCreditReturnTimer_follows _ e
  | .idleTimer _, e => execIdleTimer_follows _ e
  | .uncorrectableCodeword _ _ _ _, e => execUncorrectableCodeword_follows _ _ _ _ e
  | .abortMarker _ _ _, e => execAbortMarker_follows _ _ _ e
  | .transitForward _ _ _, e => execTransitForward_follows _ _ _ e
  | .plp1Forward _ _, e => execPlp1Forward_follows _ _ e
  | .data _ _ _, e => execData_follows _ _ _ e
  | .clearToSend _ _, e => execClearToSend_follows _ _ e
  | .placementAck _ _, e => execPlacementAck_follows _ _ e
  | .readRequest _ _, e => execReadRequest_follows _ _ e
  | .readData _ _, e => execReadData_follows _ _ e
  | .fenceSignalPacket _ _, e => execFenceSignalPacket_follows _ _ e
  | .keyRetirement _ _, e => execKeyRetirement_follows _ _ e
  | .jobFaultNotice _ _, e => execJobFaultNotice_follows _ _ e
  | .errorPacket _ _, e => execErrorPacket_follows _ _ e
  | .barrierRequest _ _, e => execBarrierRequest_follows _ _ e
  | .barrierEnter _ _, e => execBarrierEnter_follows _ _ e
  | .memberArrived _ _, e => execMemberArrived_follows _ _ e
  | .barrierReport _ _, e => execBarrierReport_follows _ _ e
  | .barrierConfirm _ _, e => execBarrierConfirm_follows _ _ e
  | .barrierRelease _ _, e => execBarrierRelease_follows _ _ e
  | .barrierTimeout _, e => execBarrierTimeout_follows _ e
  | .shardWriteComplete _ _, e => execShardWriteComplete_follows _ _ e
  | .shardDone _ _, e => execShardDone_follows _ _ e
  | .manifestWriteComplete _ _, e => execManifestWriteComplete_follows _ _ e
  | .manifestWritten _ _, e => execManifestWritten_follows _ _ e
  | .abandon _ _, e => execAbandon_follows _ _ e
  | .restoreCheck _ _, e => execRestoreCheck_follows _ _ e
  | .restoreGo _ _, e => execRestoreGo_follows _ _ e
  | .restoreRefuse _ _, e => execRestoreRefuse_follows _ _ e
  | .restoreLoadComplete _ _, e => execRestoreLoadComplete_follows _ _ e
  | .restoreDone _ _, e => execRestoreDone_follows _ _ e
  | .keyingReportRequest _ _, e => execKeyingReportRequest_follows _ _ e
  | .leadReport _ _ _, e => execLeadReport_follows _ _ _ e
  | .memberReport _ _ _, e => execMemberReport_follows _ _ _ e
  | .jobKeyDelivery _ _ _, e => execJobKeyDelivery_follows _ _ _ e
  | .keyingRefusal _ _ _, e => execKeyingRefusal_follows _ _ _ e
  | .keyingRetryTimer _, e => execKeyingRetryTimer_follows _ e
  | .portTraining _, e => execPortTraining_follows _ e
  | .trainingStepDone _ _, e => execTrainingStepDone_follows _ _ e
  | .clockLockTimeout _, e => execClockLockTimeout_follows _ e
  | .fastRetrain _, e => execFastRetrain_follows _ e
  | .lightAbsent _ _, e => execLightAbsent_follows _ _ e
  | .noValidPacket _, e => execNoValidPacket_follows _ e
  | .fullTrainingRetry _, e => execFullTrainingRetry_follows _ e
  | .rdmaWrite _ _ _ _ _ _, e => execRdmaWrite_follows _ _ _ _ _ _ e
  | .rdmaWriteWithImmediate _ _ _ _ _ _, e => execRdmaWriteWithImmediate_follows _ _ _ _ _ _ e
  | .rdmaRead _, e => execRdmaRead_follows _ e
  | .atomic _, e => execAtomic_follows _ e
  | .rdmaAck _ _ _, e => execRdmaAck_follows _ _ _ e
  | .rcNak _, e => execRcNak_follows _ e
  | .rcAckTimeout _, e => execRcAckTimeout_follows _ e
  | .congestionExperienced _, e => execCongestionExperienced_follows _ e
  | .congestionNotification _, e => execCongestionNotification_follows _ e
  | .ratePeriod _, e => execRatePeriod_follows _ e
  | .pause _ _, e => execPause_follows _ _ e
  | .resume _ _, e => execResume_follows _ _ e
  | .ethLinkLoss _, e => execEthLinkLoss_follows _ e
  | .ethLinkReturn _, e => execEthLinkReturn_follows _ e
  | .powerInterval _, e => execPowerInterval_follows _ e
  | .railDroop _, e => execRailDroop_follows _ e
  | .droopRevocationEnd, e => execDroopRevocationEnd_follows e
  | .inputDroop _, e => execInputDroop_follows _ e
  | .inputUndervoltage _, e => execInputUndervoltage_follows _ e
  | .inputOvervoltage _, e => execInputOvervoltage_follows _ e
  | .inputOvervoltageTrip _, e => execInputOvervoltageTrip_follows _ e
  | .thermtrip _ _, e => execThermtrip_follows _ _ e
  | .inletOvertemp _, e => execInletOvertemp_follows _ e
  | .powerEnable, e => execPowerEnable_follows e
  | .startStepDone _, e => execStartStepDone_follows _ e
  | .blockGroupStart, e => execBlockGroupStart_follows e
  | .blockRailTimeout _, e => execBlockRailTimeout_follows _ e
  | .laserStep _, e => execLaserStep_follows _ e
  | .powerLoss, e => execPowerLoss_follows e
  | .boardReset, e => execBoardReset_follows e
  | .resetLRelease, e => execResetLRelease_follows e
  | .sysclkLoss, e => execSysclkLoss_follows e
  | .netclkLoss, e => execNetclkLoss_follows e
  | .tamperTrip _, e => execTamperTrip_follows _ e
  | .tamperSample _ _, e => execTamperSample_follows _ _ e
  | .ceilingDerate _, e => execCeilingDerate_follows _ e
  | .checkpointTimer _, e => execCheckpointTimer_follows _ e
  | .accountingAudit, e => execAccountingAudit_follows e
  | .microcodeReloadDone _, e => execMicrocodeReloadDone_follows _ e
  | .ledgerMirrorWrite _, e => execLedgerMirrorWrite_follows _ e
  | .glenResponseDone, e => execGlenResponseDone_follows e
  | .ledgerSelectDone, e => execLedgerSelectDone_follows e
  | .shScanDone, e => execShScanDone_follows e
  | .alertStatusWrite _, e => execAlertStatusWrite_follows _ e
  | .failwarnWrite _, e => execFailwarnWrite_follows _ e
  | .accessErrWrite _, e => execAccessErrWrite_follows _ e
  | .flagsWrite _ _, e => execFlagsWrite_follows _ _ e
  | .pwrCapWrite _, e => execPwrCapWrite_follows _ e
  | .currentLimitWrite _, e => execCurrentLimitWrite_follows _ e
  | .throttleTempWrite _, e => execThrottleTempWrite_follows _ e
  | .sweepRateWrite _, e => execSweepRateWrite_follows _ e
  | .nlogSelectWrite _, e => execNlogSelectWrite_follows _ e
  | .errSelectWrite _, e => execErrSelectWrite_follows _ e
  | .ledgerSelectWrite _, e => execLedgerSelectWrite_follows _ e
  | .shPageWrite _, e => execShPageWrite_follows _ e
  | .shScan _, e => execShScan_follows _ e
  | .glenChalWrite _, e => execGlenChalWrite_follows _ e
  | .counterLowRead _, e => execCounterLowRead_follows _ e
  | .ledgerSeqLoRead, e => execLedgerSeqLoRead_follows e
  | .registerWrite _ _, e => execRegisterWrite_follows _ _ e
  | .sidebandResult, e => execSidebandResult_follows e
  | .entdaa _, e => execEntdaa_follows _ e
  | .setdasa _, e => execSetdasa_follows _ e
  | .rstdaa, e => execRstdaa_follows e
  | .enec, e => execEnec_follows e
  | .disec, e => execDisec_follows e
  | .getpid, e => execGetpid_follows e
  | .getbcr, e => execGetbcr_follows e
  | .getdcr, e => execGetdcr_follows e
  | .getstatus, e => execGetstatus_follows e
  | .rdmaSend _ _, e => execRdmaSend_follows _ _ e
  | .rnrNak _, e => execRnrNak_follows _ e
  | .netclkReturn, e => execNetclkReturn_follows e
  | .vbatRemoval, e => execVbatRemoval_follows e
  | .trainingStepTimeout _, e => execTrainingStepTimeout_follows _ e
  | .glenOperationComplete, e => execGlenOperationComplete_follows e
  | .firmwareActivationDone _, e => execFirmwareActivationDone_follows _ e
  | .clockStretchEnd, e => execClockStretchEnd_follows e

end Sys2Proof.Laws
end

