-- ==== Sys2Proof/Laws/Starts.lean ====
section
/-! SUPPORT. What the shared checks before a command's effect answer: a message, a descriptor, a register access. -/

namespace Sys2Proof.Laws

open Sys2Proof.Machine

/-! ### Messages -/

/-- A message that may start runs its body, out of the inbox. -/
theorem withMessage_front {s : State} {ctx typ : Nat} {m : Msg} (body : Msg → State → State) (h : Front s ctx typ m) :
    withMessage ctx typ body s = body m (popInbox ctx s) := by
  obtain ⟨rest, e⟩ := h.first
  obtain ⟨c, b⟩ := m
  have hc : c = some ctx := h.context
  subst hc
  unfold withMessage
  simp only [h.ready, not_true, if_false, e, h.type, h.free, h.checks, ne_eq, not_true, if_false]

/-- The same for a message of the sideband. -/
theorem fromSideband_front {s : State} {b : Bytes} {typ : Nat} (body : Msg → State → State) (h : SidebandFront s b typ) :
    fromSideband b typ body s = body ⟨none, b⟩ { s with mgmt := { s.mgmt with busy := true } } := by
  have h1 := h.length.1
  have h2 := h.length.2.1
  have h3 : ¬ (b.length < 64 ∨ 1024 < b.length) := by omega
  unfold fromSideband
  rw [if_neg (by simp [h.power.1, h.power.2]), if_neg h3, if_neg (by simp [h.idle])]
  simp only [h.type, h.allowed, h.clean, h.context, h.length.2.2, ne_eq, not_true, if_false, or_self]

/-- A message that either way brings runs its body. -/
theorem withMsgRef_arrives {s t : State} {src : MsgRef} {typ : Nat} {m : Msg} (body : Msg → State → State)
    (h : Arrives s typ src m t) : withMsgRef src typ body s = body m t := by
  cases h with
  | inbox ctx m h => exact withMessage_front body h
  | sideband b h => exact fromSideband_front body h

/-- What stands first in an inbox is not of the type: nothing starts. -/
theorem withMessage_other {s : State} {ctx typ : Nat} {b : Bytes} {rest : List Bytes} (body : Msg → State → State)
    (e : ((tget s.ctxs ctx).map (·.inbox)).getD [] = b :: rest) (h : msgType b ≠ typ) : withMessage ctx typ body s = s := by
  unfold withMessage
  simp only [e, if_pos h, ite_self]

/-! ### Descriptors -/

/-- A descriptor that is read is the one that was named. -/
theorem refOf_task {s : State} {t : TaskRef} {r : Ref} (h : refOf s t = some r) : r.t = t := by
  unfold refOf at h
  split at h
  · cases h
  · split at h
    · cases h
    · simp only [Option.map_eq_some_iff] at h
      obtain ⟨d, -, rfl⟩ := h
      rfl

/-- A descriptor that starts runs its body. -/
theorem withDesc_starts {s u : State} {t : TaskRef} {op : Nat} {r : Ref} (body : Ref → State → State) (h : Starts s t op r u) :
    withDesc t op body s = body r u := by
  obtain ⟨r0, e, ho, hm, rfl⟩ := h.waits
  unfold withDesc
  simp only [e, ho, hm, true_and, if_true, h.now]

end Sys2Proof.Laws
end

