-- ==== Sys2Proof/Laws/State.lean ====
section
/-! SUPPORT. What each small update of the state leaves alone: one lemma per field, true by unfolding. -/

namespace Sys2Proof.Laws

open Sys2Proof.Machine

@[simp] theorem emit_pending (o : Out) (s : State) : (emit o s).pending = s.pending := rfl
@[simp] theorem emit_free (o : Out) (s : State) : (emit o s).free = s.free := rfl
@[simp] theorem emit_timeNs (o : Out) (s : State) : (emit o s).timeNs = s.timeNs := rfl
@[simp] theorem emit_boot (o : Out) (s : State) : (emit o s).boot = s.boot := rfl
@[simp] theorem emit_start (o : Out) (s : State) : (emit o s).start = s.start := rfl
@[simp] theorem emit_power (o : Out) (s : State) : (emit o s).power = s.power := rfl
@[simp] theorem emit_cores (o : Out) (s : State) : (emit o s).cores = s.cores := rfl
@[simp] theorem emit_cache (o : Out) (s : State) : (emit o s).cache = s.cache := rfl
@[simp] theorem emit_vale (o : Out) (s : State) : (emit o s).vale = s.vale := rfl
@[simp] theorem emit_dir (o : Out) (s : State) : (emit o s).dir = s.dir := rfl
@[simp] theorem emit_jobs (o : Out) (s : State) : (emit o s).jobs = s.jobs := rfl
@[simp] theorem emit_bubbles (o : Out) (s : State) : (emit o s).bubbles = s.bubbles := rfl
@[simp] theorem emit_ctxs (o : Out) (s : State) : (emit o s).ctxs = s.ctxs := rfl
@[simp] theorem emit_objects (o : Out) (s : State) : (emit o s).objects = s.objects := rfl
@[simp] theorem emit_running (o : Out) (s : State) : (emit o s).running = s.running := rfl
@[simp] theorem emit_held (o : Out) (s : State) : (emit o s).held = s.held := rfl
@[simp] theorem emit_afterJobs (o : Out) (s : State) : (emit o s).afterJobs = s.afterJobs := rfl
@[simp] theorem emit_tickets (o : Out) (s : State) : (emit o s).tickets = s.tickets := rfl
@[simp] theorem emit_eth (o : Out) (s : State) : (emit o s).eth = s.eth := rfl
@[simp] theorem emit_pass (o : Out) (s : State) : (emit o s).pass = s.pass := rfl
@[simp] theorem emit_config (o : Out) (s : State) : (emit o s).config = s.config := rfl
@[simp] theorem emit_glen (o : Out) (s : State) : (emit o s).glen = s.glen := rfl
@[simp] theorem emit_fw (o : Out) (s : State) : (emit o s).fw = s.fw := rfl
@[simp] theorem emit_lc (o : Out) (s : State) : (emit o s).lc = s.lc := rfl
@[simp] theorem emit_ledger (o : Out) (s : State) : (emit o s).ledger = s.ledger := rfl
@[simp] theorem emit_errors (o : Out) (s : State) : (emit o s).errors = s.errors := rfl
@[simp] theorem emit_mgmt (o : Out) (s : State) : (emit o s).mgmt = s.mgmt := rfl
@[simp] theorem emit_i3c (o : Out) (s : State) : (emit o s).i3c = s.i3c := rfl

@[simp] theorem modJob_pending (j : Nat) (f : Job → Job) (s : State) : (modJob j f s).pending = s.pending := rfl
@[simp] theorem modJob_free (j : Nat) (f : Job → Job) (s : State) : (modJob j f s).free = s.free := rfl
@[simp] theorem modJob_sent (j : Nat) (f : Job → Job) (s : State) : (modJob j f s).sent = s.sent := rfl
@[simp] theorem modJob_timeNs (j : Nat) (f : Job → Job) (s : State) : (modJob j f s).timeNs = s.timeNs := rfl
@[simp] theorem modJob_boot (j : Nat) (f : Job → Job) (s : State) : (modJob j f s).boot = s.boot := rfl
@[simp] theorem modJob_start (j : Nat) (f : Job → Job) (s : State) : (modJob j f s).start = s.start := rfl
@[simp] theorem modJob_power (j : Nat) (f : Job → Job) (s : State) : (modJob j f s).power = s.power := rfl
@[simp] theorem modJob_cores (j : Nat) (f : Job → Job) (s : State) : (modJob j f s).cores = s.cores := rfl
@[simp] theorem modJob_cache (j : Nat) (f : Job → Job) (s : State) : (modJob j f s).cache = s.cache := rfl
@[simp] theorem modJob_vale (j : Nat) (f : Job → Job) (s : State) : (modJob j f s).vale = s.vale := rfl
@[simp] theorem modJob_dir (j : Nat) (f : Job → Job) (s : State) : (modJob j f s).dir = s.dir := rfl
@[simp] theorem modJob_bubbles (j : Nat) (f : Job → Job) (s : State) : (modJob j f s).bubbles = s.bubbles := rfl
@[simp] theorem modJob_ctxs (j : Nat) (f : Job → Job) (s : State) : (modJob j f s).ctxs = s.ctxs := rfl
@[simp] theorem modJob_objects (j : Nat) (f : Job → Job) (s : State) : (modJob j f s).objects = s.objects := rfl
@[simp] theorem modJob_running (j : Nat) (f : Job → Job) (s : State) : (modJob j f s).running = s.running := rfl
@[simp] theorem modJob_held (j : Nat) (f : Job → Job) (s : State) : (modJob j f s).held = s.held := rfl
@[simp] theorem modJob_afterJobs (j : Nat) (f : Job → Job) (s : State) : (modJob j f s).afterJobs = s.afterJobs := rfl
@[simp] theorem modJob_tickets (j : Nat) (f : Job → Job) (s : State) : (modJob j f s).tickets = s.tickets := rfl
@[simp] theorem modJob_eth (j : Nat) (f : Job → Job) (s : State) : (modJob j f s).eth = s.eth := rfl
@[simp] theorem modJob_pass (j : Nat) (f : Job → Job) (s : State) : (modJob j f s).pass = s.pass := rfl
@[simp] theorem modJob_config (j : Nat) (f : Job → Job) (s : State) : (modJob j f s).config = s.config := rfl
@[simp] theorem modJob_glen (j : Nat) (f : Job → Job) (s : State) : (modJob j f s).glen = s.glen := rfl
@[simp] theorem modJob_fw (j : Nat) (f : Job → Job) (s : State) : (modJob j f s).fw = s.fw := rfl
@[simp] theorem modJob_lc (j : Nat) (f : Job → Job) (s : State) : (modJob j f s).lc = s.lc := rfl
@[simp] theorem modJob_ledger (j : Nat) (f : Job → Job) (s : State) : (modJob j f s).ledger = s.ledger := rfl
@[simp] theorem modJob_errors (j : Nat) (f : Job → Job) (s : State) : (modJob j f s).errors = s.errors := rfl
@[simp] theorem modJob_mgmt (j : Nat) (f : Job → Job) (s : State) : (modJob j f s).mgmt = s.mgmt := rfl
@[simp] theorem modJob_i3c (j : Nat) (f : Job → Job) (s : State) : (modJob j f s).i3c = s.i3c := rfl

@[simp] theorem modNum_pending (j : Nat) (f : NumState → NumState) (s : State) : (modNum j f s).pending = s.pending := rfl
@[simp] theorem modNum_free (j : Nat) (f : NumState → NumState) (s : State) : (modNum j f s).free = s.free := rfl
@[simp] theorem modNum_sent (j : Nat) (f : NumState → NumState) (s : State) : (modNum j f s).sent = s.sent := rfl
@[simp] theorem modNum_timeNs (j : Nat) (f : NumState → NumState) (s : State) : (modNum j f s).timeNs = s.timeNs := rfl
@[simp] theorem modNum_boot (j : Nat) (f : NumState → NumState) (s : State) : (modNum j f s).boot = s.boot := rfl
@[simp] theorem modNum_start (j : Nat) (f : NumState → NumState) (s : State) : (modNum j f s).start = s.start := rfl
@[simp] theorem modNum_power (j : Nat) (f : NumState → NumState) (s : State) : (modNum j f s).power = s.power := rfl
@[simp] theorem modNum_cores (j : Nat) (f : NumState → NumState) (s : State) : (modNum j f s).cores = s.cores := rfl
@[simp] theorem modNum_cache (j : Nat) (f : NumState → NumState) (s : State) : (modNum j f s).cache = s.cache := rfl
@[simp] theorem modNum_vale (j : Nat) (f : NumState → NumState) (s : State) : (modNum j f s).vale = s.vale := rfl
@[simp] theorem modNum_dir (j : Nat) (f : NumState → NumState) (s : State) : (modNum j f s).dir = s.dir := rfl
@[simp] theorem modNum_bubbles (j : Nat) (f : NumState → NumState) (s : State) : (modNum j f s).bubbles = s.bubbles := rfl
@[simp] theorem modNum_ctxs (j : Nat) (f : NumState → NumState) (s : State) : (modNum j f s).ctxs = s.ctxs := rfl
@[simp] theorem modNum_objects (j : Nat) (f : NumState → NumState) (s : State) : (modNum j f s).objects = s.objects := rfl
@[simp] theorem modNum_running (j : Nat) (f : NumState → NumState) (s : State) : (modNum j f s).running = s.running := rfl
@[simp] theorem modNum_held (j : Nat) (f : NumState → NumState) (s : State) : (modNum j f s).held = s.held := rfl
@[simp] theorem modNum_afterJobs (j : Nat) (f : NumState → NumState) (s : State) : (modNum j f s).afterJobs = s.afterJobs := rfl
@[simp] theorem modNum_tickets (j : Nat) (f : NumState → NumState) (s : State) : (modNum j f s).tickets = s.tickets := rfl
@[simp] theorem modNum_eth (j : Nat) (f : NumState → NumState) (s : State) : (modNum j f s).eth = s.eth := rfl
@[simp] theorem modNum_pass (j : Nat) (f : NumState → NumState) (s : State) : (modNum j f s).pass = s.pass := rfl
@[simp] theorem modNum_config (j : Nat) (f : NumState → NumState) (s : State) : (modNum j f s).config = s.config := rfl
@[simp] theorem modNum_glen (j : Nat) (f : NumState → NumState) (s : State) : (modNum j f s).glen = s.glen := rfl
@[simp] theorem modNum_fw (j : Nat) (f : NumState → NumState) (s : State) : (modNum j f s).fw = s.fw := rfl
@[simp] theorem modNum_lc (j : Nat) (f : NumState → NumState) (s : State) : (modNum j f s).lc = s.lc := rfl
@[simp] theorem modNum_ledger (j : Nat) (f : NumState → NumState) (s : State) : (modNum j f s).ledger = s.ledger := rfl
@[simp] theorem modNum_errors (j : Nat) (f : NumState → NumState) (s : State) : (modNum j f s).errors = s.errors := rfl
@[simp] theorem modNum_mgmt (j : Nat) (f : NumState → NumState) (s : State) : (modNum j f s).mgmt = s.mgmt := rfl
@[simp] theorem modNum_i3c (j : Nat) (f : NumState → NumState) (s : State) : (modNum j f s).i3c = s.i3c := rfl

@[simp] theorem modSub_pending (j k : Nat) (f : Sub → Sub) (s : State) : (modSub j k f s).pending = s.pending := rfl
@[simp] theorem modSub_free (j k : Nat) (f : Sub → Sub) (s : State) : (modSub j k f s).free = s.free := rfl
@[simp] theorem modSub_sent (j k : Nat) (f : Sub → Sub) (s : State) : (modSub j k f s).sent = s.sent := rfl
@[simp] theorem modSub_timeNs (j k : Nat) (f : Sub → Sub) (s : State) : (modSub j k f s).timeNs = s.timeNs := rfl
@[simp] theorem modSub_boot (j k : Nat) (f : Sub → Sub) (s : State) : (modSub j k f s).boot = s.boot := rfl
@[simp] theorem modSub_start (j k : Nat) (f : Sub → Sub) (s : State) : (modSub j k f s).start = s.start := rfl
@[simp] theorem modSub_power (j k : Nat) (f : Sub → Sub) (s : State) : (modSub j k f s).power = s.power := rfl
@[simp] theorem modSub_cores (j k : Nat) (f : Sub → Sub) (s : State) : (modSub j k f s).cores = s.cores := rfl
@[simp] theorem modSub_cache (j k : Nat) (f : Sub → Sub) (s : State) : (modSub j k f s).cache = s.cache := rfl
@[simp] theorem modSub_vale (j k : Nat) (f : Sub → Sub) (s : State) : (modSub j k f s).vale = s.vale := rfl
@[simp] theorem modSub_dir (j k : Nat) (f : Sub → Sub) (s : State) : (modSub j k f s).dir = s.dir := rfl
@[simp] theorem modSub_bubbles (j k : Nat) (f : Sub → Sub) (s : State) : (modSub j k f s).bubbles = s.bubbles := rfl
@[simp] theorem modSub_ctxs (j k : Nat) (f : Sub → Sub) (s : State) : (modSub j k f s).ctxs = s.ctxs := rfl
@[simp] theorem modSub_objects (j k : Nat) (f : Sub → Sub) (s : State) : (modSub j k f s).objects = s.objects := rfl
@[simp] theorem modSub_running (j k : Nat) (f : Sub → Sub) (s : State) : (modSub j k f s).running = s.running := rfl
@[simp] theorem modSub_held (j k : Nat) (f : Sub → Sub) (s : State) : (modSub j k f s).held = s.held := rfl
@[simp] theorem modSub_afterJobs (j k : Nat) (f : Sub → Sub) (s : State) : (modSub j k f s).afterJobs = s.afterJobs := rfl
@[simp] theorem modSub_tickets (j k : Nat) (f : Sub → Sub) (s : State) : (modSub j k f s).tickets = s.tickets := rfl
@[simp] theorem modSub_eth (j k : Nat) (f : Sub → Sub) (s : State) : (modSub j k f s).eth = s.eth := rfl
@[simp] theorem modSub_pass (j k : Nat) (f : Sub → Sub) (s : State) : (modSub j k f s).pass = s.pass := rfl
@[simp] theorem modSub_config (j k : Nat) (f : Sub → Sub) (s : State) : (modSub j k f s).config = s.config := rfl
@[simp] theorem modSub_glen (j k : Nat) (f : Sub → Sub) (s : State) : (modSub j k f s).glen = s.glen := rfl
@[simp] theorem modSub_fw (j k : Nat) (f : Sub → Sub) (s : State) : (modSub j k f s).fw = s.fw := rfl
@[simp] theorem modSub_lc (j k : Nat) (f : Sub → Sub) (s : State) : (modSub j k f s).lc = s.lc := rfl
@[simp] theorem modSub_ledger (j k : Nat) (f : Sub → Sub) (s : State) : (modSub j k f s).ledger = s.ledger := rfl
@[simp] theorem modSub_errors (j k : Nat) (f : Sub → Sub) (s : State) : (modSub j k f s).errors = s.errors := rfl
@[simp] theorem modSub_mgmt (j k : Nat) (f : Sub → Sub) (s : State) : (modSub j k f s).mgmt = s.mgmt := rfl
@[simp] theorem modSub_i3c (j k : Nat) (f : Sub → Sub) (s : State) : (modSub j k f s).i3c = s.i3c := rfl

@[simp] theorem modSpan_pending (j k pos : Nat) (f : SpanSt → SpanSt) (s : State) : (modSpan j k pos f s).pending = s.pending := rfl
@[simp] theorem modSpan_free (j k pos : Nat) (f : SpanSt → SpanSt) (s : State) : (modSpan j k pos f s).free = s.free := rfl
@[simp] theorem modSpan_sent (j k pos : Nat) (f : SpanSt → SpanSt) (s : State) : (modSpan j k pos f s).sent = s.sent := rfl
@[simp] theorem modSpan_timeNs (j k pos : Nat) (f : SpanSt → SpanSt) (s : State) : (modSpan j k pos f s).timeNs = s.timeNs := rfl
@[simp] theorem modSpan_boot (j k pos : Nat) (f : SpanSt → SpanSt) (s : State) : (modSpan j k pos f s).boot = s.boot := rfl
@[simp] theorem modSpan_start (j k pos : Nat) (f : SpanSt → SpanSt) (s : State) : (modSpan j k pos f s).start = s.start := rfl
@[simp] theorem modSpan_power (j k pos : Nat) (f : SpanSt → SpanSt) (s : State) : (modSpan j k pos f s).power = s.power := rfl
@[simp] theorem modSpan_cores (j k pos : Nat) (f : SpanSt → SpanSt) (s : State) : (modSpan j k pos f s).cores = s.cores := rfl
@[simp] theorem modSpan_cache (j k pos : Nat) (f : SpanSt → SpanSt) (s : State) : (modSpan j k pos f s).cache = s.cache := rfl
@[simp] theorem modSpan_vale (j k pos : Nat) (f : SpanSt → SpanSt) (s : State) : (modSpan j k pos f s).vale = s.vale := rfl
@[simp] theorem modSpan_dir (j k pos : Nat) (f : SpanSt → SpanSt) (s : State) : (modSpan j k pos f s).dir = s.dir := rfl
@[simp] theorem modSpan_bubbles (j k pos : Nat) (f : SpanSt → SpanSt) (s : State) : (modSpan j k pos f s).bubbles = s.bubbles := rfl
@[simp] theorem modSpan_ctxs (j k pos : Nat) (f : SpanSt → SpanSt) (s : State) : (modSpan j k pos f s).ctxs = s.ctxs := rfl
@[simp] theorem modSpan_objects (j k pos : Nat) (f : SpanSt → SpanSt) (s : State) : (modSpan j k pos f s).objects = s.objects := rfl
@[simp] theorem modSpan_running (j k pos : Nat) (f : SpanSt → SpanSt) (s : State) : (modSpan j k pos f s).running = s.running := rfl
@[simp] theorem modSpan_held (j k pos : Nat) (f : SpanSt → SpanSt) (s : State) : (modSpan j k pos f s).held = s.held := rfl
@[simp] theorem modSpan_afterJobs (j k pos : Nat) (f : SpanSt → SpanSt) (s : State) : (modSpan j k pos f s).afterJobs = s.afterJobs := rfl
@[simp] theorem modSpan_tickets (j k pos : Nat) (f : SpanSt → SpanSt) (s : State) : (modSpan j k pos f s).tickets = s.tickets := rfl
@[simp] theorem modSpan_eth (j k pos : Nat) (f : SpanSt → SpanSt) (s : State) : (modSpan j k pos f s).eth = s.eth := rfl
@[simp] theorem modSpan_pass (j k pos : Nat) (f : SpanSt → SpanSt) (s : State) : (modSpan j k pos f s).pass = s.pass := rfl
@[simp] theorem modSpan_config (j k pos : Nat) (f : SpanSt → SpanSt) (s : State) : (modSpan j k pos f s).config = s.config := rfl
@[simp] theorem modSpan_glen (j k pos : Nat) (f : SpanSt → SpanSt) (s : State) : (modSpan j k pos f s).glen = s.glen := rfl
@[simp] theorem modSpan_fw (j k pos : Nat) (f : SpanSt → SpanSt) (s : State) : (modSpan j k pos f s).fw = s.fw := rfl
@[simp] theorem modSpan_lc (j k pos : Nat) (f : SpanSt → SpanSt) (s : State) : (modSpan j k pos f s).lc = s.lc := rfl
@[simp] theorem modSpan_ledger (j k pos : Nat) (f : SpanSt → SpanSt) (s : State) : (modSpan j k pos f s).ledger = s.ledger := rfl
@[simp] theorem modSpan_errors (j k pos : Nat) (f : SpanSt → SpanSt) (s : State) : (modSpan j k pos f s).errors = s.errors := rfl
@[simp] theorem modSpan_mgmt (j k pos : Nat) (f : SpanSt → SpanSt) (s : State) : (modSpan j k pos f s).mgmt = s.mgmt := rfl
@[simp] theorem modSpan_i3c (j k pos : Nat) (f : SpanSt → SpanSt) (s : State) : (modSpan j k pos f s).i3c = s.i3c := rfl

@[simp] theorem modDesc_pending (t : TaskRef) (f : DescSt → DescSt) (s : State) : (modDesc t f s).pending = s.pending := rfl
@[simp] theorem modDesc_free (t : TaskRef) (f : DescSt → DescSt) (s : State) : (modDesc t f s).free = s.free := rfl
@[simp] theorem modDesc_sent (t : TaskRef) (f : DescSt → DescSt) (s : State) : (modDesc t f s).sent = s.sent := rfl
@[simp] theorem modDesc_timeNs (t : TaskRef) (f : DescSt → DescSt) (s : State) : (modDesc t f s).timeNs = s.timeNs := rfl
@[simp] theorem modDesc_boot (t : TaskRef) (f : DescSt → DescSt) (s : State) : (modDesc t f s).boot = s.boot := rfl
@[simp] theorem modDesc_start (t : TaskRef) (f : DescSt → DescSt) (s : State) : (modDesc t f s).start = s.start := rfl
@[simp] theorem modDesc_power (t : TaskRef) (f : DescSt → DescSt) (s : State) : (modDesc t f s).power = s.power := rfl
@[simp] theorem modDesc_cores (t : TaskRef) (f : DescSt → DescSt) (s : State) : (modDesc t f s).cores = s.cores := rfl
@[simp] theorem modDesc_cache (t : TaskRef) (f : DescSt → DescSt) (s : State) : (modDesc t f s).cache = s.cache := rfl
@[simp] theorem modDesc_vale (t : TaskRef) (f : DescSt → DescSt) (s : State) : (modDesc t f s).vale = s.vale := rfl
@[simp] theorem modDesc_dir (t : TaskRef) (f : DescSt → DescSt) (s : State) : (modDesc t f s).dir = s.dir := rfl
@[simp] theorem modDesc_bubbles (t : TaskRef) (f : DescSt → DescSt) (s : State) : (modDesc t f s).bubbles = s.bubbles := rfl
@[simp] theorem modDesc_ctxs (t : TaskRef) (f : DescSt → DescSt) (s : State) : (modDesc t f s).ctxs = s.ctxs := rfl
@[simp] theorem modDesc_objects (t : TaskRef) (f : DescSt → DescSt) (s : State) : (modDesc t f s).objects = s.objects := rfl
@[simp] theorem modDesc_running (t : TaskRef) (f : DescSt → DescSt) (s : State) : (modDesc t f s).running = s.running := rfl
@[simp] theorem modDesc_held (t : TaskRef) (f : DescSt → DescSt) (s : State) : (modDesc t f s).held = s.held := rfl
@[simp] theorem modDesc_afterJobs (t : TaskRef) (f : DescSt → DescSt) (s : State) : (modDesc t f s).afterJobs = s.afterJobs := rfl
@[simp] theorem modDesc_tickets (t : TaskRef) (f : DescSt → DescSt) (s : State) : (modDesc t f s).tickets = s.tickets := rfl
@[simp] theorem modDesc_eth (t : TaskRef) (f : DescSt → DescSt) (s : State) : (modDesc t f s).eth = s.eth := rfl
@[simp] theorem modDesc_pass (t : TaskRef) (f : DescSt → DescSt) (s : State) : (modDesc t f s).pass = s.pass := rfl
@[simp] theorem modDesc_config (t : TaskRef) (f : DescSt → DescSt) (s : State) : (modDesc t f s).config = s.config := rfl
@[simp] theorem modDesc_glen (t : TaskRef) (f : DescSt → DescSt) (s : State) : (modDesc t f s).glen = s.glen := rfl
@[simp] theorem modDesc_fw (t : TaskRef) (f : DescSt → DescSt) (s : State) : (modDesc t f s).fw = s.fw := rfl
@[simp] theorem modDesc_lc (t : TaskRef) (f : DescSt → DescSt) (s : State) : (modDesc t f s).lc = s.lc := rfl
@[simp] theorem modDesc_ledger (t : TaskRef) (f : DescSt → DescSt) (s : State) : (modDesc t f s).ledger = s.ledger := rfl
@[simp] theorem modDesc_errors (t : TaskRef) (f : DescSt → DescSt) (s : State) : (modDesc t f s).errors = s.errors := rfl
@[simp] theorem modDesc_mgmt (t : TaskRef) (f : DescSt → DescSt) (s : State) : (modDesc t f s).mgmt = s.mgmt := rfl
@[simp] theorem modDesc_i3c (t : TaskRef) (f : DescSt → DescSt) (s : State) : (modDesc t f s).i3c = s.i3c := rfl

@[simp] theorem modTier_pending (j : Nat) (f : Tier → Tier) (s : State) : (modTier j f s).pending = s.pending := rfl
@[simp] theorem modTier_free (j : Nat) (f : Tier → Tier) (s : State) : (modTier j f s).free = s.free := rfl
@[simp] theorem modTier_sent (j : Nat) (f : Tier → Tier) (s : State) : (modTier j f s).sent = s.sent := rfl
@[simp] theorem modTier_timeNs (j : Nat) (f : Tier → Tier) (s : State) : (modTier j f s).timeNs = s.timeNs := rfl
@[simp] theorem modTier_boot (j : Nat) (f : Tier → Tier) (s : State) : (modTier j f s).boot = s.boot := rfl
@[simp] theorem modTier_start (j : Nat) (f : Tier → Tier) (s : State) : (modTier j f s).start = s.start := rfl
@[simp] theorem modTier_power (j : Nat) (f : Tier → Tier) (s : State) : (modTier j f s).power = s.power := rfl
@[simp] theorem modTier_cores (j : Nat) (f : Tier → Tier) (s : State) : (modTier j f s).cores = s.cores := rfl
@[simp] theorem modTier_cache (j : Nat) (f : Tier → Tier) (s : State) : (modTier j f s).cache = s.cache := rfl
@[simp] theorem modTier_vale (j : Nat) (f : Tier → Tier) (s : State) : (modTier j f s).vale = s.vale := rfl
@[simp] theorem modTier_dir (j : Nat) (f : Tier → Tier) (s : State) : (modTier j f s).dir = s.dir := rfl
@[simp] theorem modTier_bubbles (j : Nat) (f : Tier → Tier) (s : State) : (modTier j f s).bubbles = s.bubbles := rfl
@[simp] theorem modTier_ctxs (j : Nat) (f : Tier → Tier) (s : State) : (modTier j f s).ctxs = s.ctxs := rfl
@[simp] theorem modTier_objects (j : Nat) (f : Tier → Tier) (s : State) : (modTier j f s).objects = s.objects := rfl
@[simp] theorem modTier_running (j : Nat) (f : Tier → Tier) (s : State) : (modTier j f s).running = s.running := rfl
@[simp] theorem modTier_held (j : Nat) (f : Tier → Tier) (s : State) : (modTier j f s).held = s.held := rfl
@[simp] theorem modTier_afterJobs (j : Nat) (f : Tier → Tier) (s : State) : (modTier j f s).afterJobs = s.afterJobs := rfl
@[simp] theorem modTier_tickets (j : Nat) (f : Tier → Tier) (s : State) : (modTier j f s).tickets = s.tickets := rfl
@[simp] theorem modTier_eth (j : Nat) (f : Tier → Tier) (s : State) : (modTier j f s).eth = s.eth := rfl
@[simp] theorem modTier_pass (j : Nat) (f : Tier → Tier) (s : State) : (modTier j f s).pass = s.pass := rfl
@[simp] theorem modTier_config (j : Nat) (f : Tier → Tier) (s : State) : (modTier j f s).config = s.config := rfl
@[simp] theorem modTier_glen (j : Nat) (f : Tier → Tier) (s : State) : (modTier j f s).glen = s.glen := rfl
@[simp] theorem modTier_fw (j : Nat) (f : Tier → Tier) (s : State) : (modTier j f s).fw = s.fw := rfl
@[simp] theorem modTier_lc (j : Nat) (f : Tier → Tier) (s : State) : (modTier j f s).lc = s.lc := rfl
@[simp] theorem modTier_ledger (j : Nat) (f : Tier → Tier) (s : State) : (modTier j f s).ledger = s.ledger := rfl
@[simp] theorem modTier_errors (j : Nat) (f : Tier → Tier) (s : State) : (modTier j f s).errors = s.errors := rfl
@[simp] theorem modTier_mgmt (j : Nat) (f : Tier → Tier) (s : State) : (modTier j f s).mgmt = s.mgmt := rfl
@[simp] theorem modTier_i3c (j : Nat) (f : Tier → Tier) (s : State) : (modTier j f s).i3c = s.i3c := rfl

@[simp] theorem modNarrows_pending (j : Nat) (f : Narrows → Narrows) (s : State) : (modNarrows j f s).pending = s.pending := rfl
@[simp] theorem modNarrows_free (j : Nat) (f : Narrows → Narrows) (s : State) : (modNarrows j f s).free = s.free := rfl
@[simp] theorem modNarrows_sent (j : Nat) (f : Narrows → Narrows) (s : State) : (modNarrows j f s).sent = s.sent := rfl
@[simp] theorem modNarrows_timeNs (j : Nat) (f : Narrows → Narrows) (s : State) : (modNarrows j f s).timeNs = s.timeNs := rfl
@[simp] theorem modNarrows_boot (j : Nat) (f : Narrows → Narrows) (s : State) : (modNarrows j f s).boot = s.boot := rfl
@[simp] theorem modNarrows_start (j : Nat) (f : Narrows → Narrows) (s : State) : (modNarrows j f s).start = s.start := rfl
@[simp] theorem modNarrows_power (j : Nat) (f : Narrows → Narrows) (s : State) : (modNarrows j f s).power = s.power := rfl
@[simp] theorem modNarrows_cores (j : Nat) (f : Narrows → Narrows) (s : State) : (modNarrows j f s).cores = s.cores := rfl
@[simp] theorem modNarrows_cache (j : Nat) (f : Narrows → Narrows) (s : State) : (modNarrows j f s).cache = s.cache := rfl
@[simp] theorem modNarrows_vale (j : Nat) (f : Narrows → Narrows) (s : State) : (modNarrows j f s).vale = s.vale := rfl
@[simp] theorem modNarrows_dir (j : Nat) (f : Narrows → Narrows) (s : State) : (modNarrows j f s).dir = s.dir := rfl
@[simp] theorem modNarrows_bubbles (j : Nat) (f : Narrows → Narrows) (s : State) : (modNarrows j f s).bubbles = s.bubbles := rfl
@[simp] theorem modNarrows_ctxs (j : Nat) (f : Narrows → Narrows) (s : State) : (modNarrows j f s).ctxs = s.ctxs := rfl
@[simp] theorem modNarrows_objects (j : Nat) (f : Narrows → Narrows) (s : State) : (modNarrows j f s).objects = s.objects := rfl
@[simp] theorem modNarrows_running (j : Nat) (f : Narrows → Narrows) (s : State) : (modNarrows j f s).running = s.running := rfl
@[simp] theorem modNarrows_held (j : Nat) (f : Narrows → Narrows) (s : State) : (modNarrows j f s).held = s.held := rfl
@[simp] theorem modNarrows_afterJobs (j : Nat) (f : Narrows → Narrows) (s : State) : (modNarrows j f s).afterJobs = s.afterJobs := rfl
@[simp] theorem modNarrows_tickets (j : Nat) (f : Narrows → Narrows) (s : State) : (modNarrows j f s).tickets = s.tickets := rfl
@[simp] theorem modNarrows_eth (j : Nat) (f : Narrows → Narrows) (s : State) : (modNarrows j f s).eth = s.eth := rfl
@[simp] theorem modNarrows_pass (j : Nat) (f : Narrows → Narrows) (s : State) : (modNarrows j f s).pass = s.pass := rfl
@[simp] theorem modNarrows_config (j : Nat) (f : Narrows → Narrows) (s : State) : (modNarrows j f s).config = s.config := rfl
@[simp] theorem modNarrows_glen (j : Nat) (f : Narrows → Narrows) (s : State) : (modNarrows j f s).glen = s.glen := rfl
@[simp] theorem modNarrows_fw (j : Nat) (f : Narrows → Narrows) (s : State) : (modNarrows j f s).fw = s.fw := rfl
@[simp] theorem modNarrows_lc (j : Nat) (f : Narrows → Narrows) (s : State) : (modNarrows j f s).lc = s.lc := rfl
@[simp] theorem modNarrows_ledger (j : Nat) (f : Narrows → Narrows) (s : State) : (modNarrows j f s).ledger = s.ledger := rfl
@[simp] theorem modNarrows_errors (j : Nat) (f : Narrows → Narrows) (s : State) : (modNarrows j f s).errors = s.errors := rfl
@[simp] theorem modNarrows_mgmt (j : Nat) (f : Narrows → Narrows) (s : State) : (modNarrows j f s).mgmt = s.mgmt := rfl
@[simp] theorem modNarrows_i3c (j : Nat) (f : Narrows → Narrows) (s : State) : (modNarrows j f s).i3c = s.i3c := rfl

@[simp] theorem modCapture_pending (j : Nat) (f : Capture → Capture) (s : State) : (modCapture j f s).pending = s.pending := rfl
@[simp] theorem modCapture_free (j : Nat) (f : Capture → Capture) (s : State) : (modCapture j f s).free = s.free := rfl
@[simp] theorem modCapture_sent (j : Nat) (f : Capture → Capture) (s : State) : (modCapture j f s).sent = s.sent := rfl
@[simp] theorem modCapture_timeNs (j : Nat) (f : Capture → Capture) (s : State) : (modCapture j f s).timeNs = s.timeNs := rfl
@[simp] theorem modCapture_boot (j : Nat) (f : Capture → Capture) (s : State) : (modCapture j f s).boot = s.boot := rfl
@[simp] theorem modCapture_start (j : Nat) (f : Capture → Capture) (s : State) : (modCapture j f s).start = s.start := rfl
@[simp] theorem modCapture_power (j : Nat) (f : Capture → Capture) (s : State) : (modCapture j f s).power = s.power := rfl
@[simp] theorem modCapture_cores (j : Nat) (f : Capture → Capture) (s : State) : (modCapture j f s).cores = s.cores := rfl
@[simp] theorem modCapture_cache (j : Nat) (f : Capture → Capture) (s : State) : (modCapture j f s).cache = s.cache := rfl
@[simp] theorem modCapture_vale (j : Nat) (f : Capture → Capture) (s : State) : (modCapture j f s).vale = s.vale := rfl
@[simp] theorem modCapture_dir (j : Nat) (f : Capture → Capture) (s : State) : (modCapture j f s).dir = s.dir := rfl
@[simp] theorem modCapture_bubbles (j : Nat) (f : Capture → Capture) (s : State) : (modCapture j f s).bubbles = s.bubbles := rfl
@[simp] theorem modCapture_ctxs (j : Nat) (f : Capture → Capture) (s : State) : (modCapture j f s).ctxs = s.ctxs := rfl
@[simp] theorem modCapture_objects (j : Nat) (f : Capture → Capture) (s : State) : (modCapture j f s).objects = s.objects := rfl
@[simp] theorem modCapture_running (j : Nat) (f : Capture → Capture) (s : State) : (modCapture j f s).running = s.running := rfl
@[simp] theorem modCapture_held (j : Nat) (f : Capture → Capture) (s : State) : (modCapture j f s).held = s.held := rfl
@[simp] theorem modCapture_afterJobs (j : Nat) (f : Capture → Capture) (s : State) : (modCapture j f s).afterJobs = s.afterJobs := rfl
@[simp] theorem modCapture_tickets (j : Nat) (f : Capture → Capture) (s : State) : (modCapture j f s).tickets = s.tickets := rfl
@[simp] theorem modCapture_eth (j : Nat) (f : Capture → Capture) (s : State) : (modCapture j f s).eth = s.eth := rfl
@[simp] theorem modCapture_pass (j : Nat) (f : Capture → Capture) (s : State) : (modCapture j f s).pass = s.pass := rfl
@[simp] theorem modCapture_config (j : Nat) (f : Capture → Capture) (s : State) : (modCapture j f s).config = s.config := rfl
@[simp] theorem modCapture_glen (j : Nat) (f : Capture → Capture) (s : State) : (modCapture j f s).glen = s.glen := rfl
@[simp] theorem modCapture_fw (j : Nat) (f : Capture → Capture) (s : State) : (modCapture j f s).fw = s.fw := rfl
@[simp] theorem modCapture_lc (j : Nat) (f : Capture → Capture) (s : State) : (modCapture j f s).lc = s.lc := rfl
@[simp] theorem modCapture_ledger (j : Nat) (f : Capture → Capture) (s : State) : (modCapture j f s).ledger = s.ledger := rfl
@[simp] theorem modCapture_errors (j : Nat) (f : Capture → Capture) (s : State) : (modCapture j f s).errors = s.errors := rfl
@[simp] theorem modCapture_mgmt (j : Nat) (f : Capture → Capture) (s : State) : (modCapture j f s).mgmt = s.mgmt := rfl
@[simp] theorem modCapture_i3c (j : Nat) (f : Capture → Capture) (s : State) : (modCapture j f s).i3c = s.i3c := rfl

@[simp] theorem modColl_pending (t : TaskRef) (f : Coll → Coll) (s : State) : (modColl t f s).pending = s.pending := rfl
@[simp] theorem modColl_free (t : TaskRef) (f : Coll → Coll) (s : State) : (modColl t f s).free = s.free := rfl
@[simp] theorem modColl_sent (t : TaskRef) (f : Coll → Coll) (s : State) : (modColl t f s).sent = s.sent := rfl
@[simp] theorem modColl_timeNs (t : TaskRef) (f : Coll → Coll) (s : State) : (modColl t f s).timeNs = s.timeNs := rfl
@[simp] theorem modColl_boot (t : TaskRef) (f : Coll → Coll) (s : State) : (modColl t f s).boot = s.boot := rfl
@[simp] theorem modColl_start (t : TaskRef) (f : Coll → Coll) (s : State) : (modColl t f s).start = s.start := rfl
@[simp] theorem modColl_power (t : TaskRef) (f : Coll → Coll) (s : State) : (modColl t f s).power = s.power := rfl
@[simp] theorem modColl_cores (t : TaskRef) (f : Coll → Coll) (s : State) : (modColl t f s).cores = s.cores := rfl
@[simp] theorem modColl_cache (t : TaskRef) (f : Coll → Coll) (s : State) : (modColl t f s).cache = s.cache := rfl
@[simp] theorem modColl_vale (t : TaskRef) (f : Coll → Coll) (s : State) : (modColl t f s).vale = s.vale := rfl
@[simp] theorem modColl_dir (t : TaskRef) (f : Coll → Coll) (s : State) : (modColl t f s).dir = s.dir := rfl
@[simp] theorem modColl_bubbles (t : TaskRef) (f : Coll → Coll) (s : State) : (modColl t f s).bubbles = s.bubbles := rfl
@[simp] theorem modColl_ctxs (t : TaskRef) (f : Coll → Coll) (s : State) : (modColl t f s).ctxs = s.ctxs := rfl
@[simp] theorem modColl_objects (t : TaskRef) (f : Coll → Coll) (s : State) : (modColl t f s).objects = s.objects := rfl
@[simp] theorem modColl_running (t : TaskRef) (f : Coll → Coll) (s : State) : (modColl t f s).running = s.running := rfl
@[simp] theorem modColl_held (t : TaskRef) (f : Coll → Coll) (s : State) : (modColl t f s).held = s.held := rfl
@[simp] theorem modColl_afterJobs (t : TaskRef) (f : Coll → Coll) (s : State) : (modColl t f s).afterJobs = s.afterJobs := rfl
@[simp] theorem modColl_tickets (t : TaskRef) (f : Coll → Coll) (s : State) : (modColl t f s).tickets = s.tickets := rfl
@[simp] theorem modColl_eth (t : TaskRef) (f : Coll → Coll) (s : State) : (modColl t f s).eth = s.eth := rfl
@[simp] theorem modColl_pass (t : TaskRef) (f : Coll → Coll) (s : State) : (modColl t f s).pass = s.pass := rfl
@[simp] theorem modColl_config (t : TaskRef) (f : Coll → Coll) (s : State) : (modColl t f s).config = s.config := rfl
@[simp] theorem modColl_glen (t : TaskRef) (f : Coll → Coll) (s : State) : (modColl t f s).glen = s.glen := rfl
@[simp] theorem modColl_fw (t : TaskRef) (f : Coll → Coll) (s : State) : (modColl t f s).fw = s.fw := rfl
@[simp] theorem modColl_lc (t : TaskRef) (f : Coll → Coll) (s : State) : (modColl t f s).lc = s.lc := rfl
@[simp] theorem modColl_ledger (t : TaskRef) (f : Coll → Coll) (s : State) : (modColl t f s).ledger = s.ledger := rfl
@[simp] theorem modColl_errors (t : TaskRef) (f : Coll → Coll) (s : State) : (modColl t f s).errors = s.errors := rfl
@[simp] theorem modColl_mgmt (t : TaskRef) (f : Coll → Coll) (s : State) : (modColl t f s).mgmt = s.mgmt := rfl
@[simp] theorem modColl_i3c (t : TaskRef) (f : Coll → Coll) (s : State) : (modColl t f s).i3c = s.i3c := rfl

@[simp] theorem modXfer_pending (t : TaskRef) (f : Xfer → Xfer) (s : State) : (modXfer t f s).pending = s.pending := rfl
@[simp] theorem modXfer_free (t : TaskRef) (f : Xfer → Xfer) (s : State) : (modXfer t f s).free = s.free := rfl
@[simp] theorem modXfer_sent (t : TaskRef) (f : Xfer → Xfer) (s : State) : (modXfer t f s).sent = s.sent := rfl
@[simp] theorem modXfer_timeNs (t : TaskRef) (f : Xfer → Xfer) (s : State) : (modXfer t f s).timeNs = s.timeNs := rfl
@[simp] theorem modXfer_boot (t : TaskRef) (f : Xfer → Xfer) (s : State) : (modXfer t f s).boot = s.boot := rfl
@[simp] theorem modXfer_start (t : TaskRef) (f : Xfer → Xfer) (s : State) : (modXfer t f s).start = s.start := rfl
@[simp] theorem modXfer_power (t : TaskRef) (f : Xfer → Xfer) (s : State) : (modXfer t f s).power = s.power := rfl
@[simp] theorem modXfer_cores (t : TaskRef) (f : Xfer → Xfer) (s : State) : (modXfer t f s).cores = s.cores := rfl
@[simp] theorem modXfer_cache (t : TaskRef) (f : Xfer → Xfer) (s : State) : (modXfer t f s).cache = s.cache := rfl
@[simp] theorem modXfer_vale (t : TaskRef) (f : Xfer → Xfer) (s : State) : (modXfer t f s).vale = s.vale := rfl
@[simp] theorem modXfer_dir (t : TaskRef) (f : Xfer → Xfer) (s : State) : (modXfer t f s).dir = s.dir := rfl
@[simp] theorem modXfer_bubbles (t : TaskRef) (f : Xfer → Xfer) (s : State) : (modXfer t f s).bubbles = s.bubbles := rfl
@[simp] theorem modXfer_ctxs (t : TaskRef) (f : Xfer → Xfer) (s : State) : (modXfer t f s).ctxs = s.ctxs := rfl
@[simp] theorem modXfer_objects (t : TaskRef) (f : Xfer → Xfer) (s : State) : (modXfer t f s).objects = s.objects := rfl
@[simp] theorem modXfer_running (t : TaskRef) (f : Xfer → Xfer) (s : State) : (modXfer t f s).running = s.running := rfl
@[simp] theorem modXfer_held (t : TaskRef) (f : Xfer → Xfer) (s : State) : (modXfer t f s).held = s.held := rfl
@[simp] theorem modXfer_afterJobs (t : TaskRef) (f : Xfer → Xfer) (s : State) : (modXfer t f s).afterJobs = s.afterJobs := rfl
@[simp] theorem modXfer_tickets (t : TaskRef) (f : Xfer → Xfer) (s : State) : (modXfer t f s).tickets = s.tickets := rfl
@[simp] theorem modXfer_eth (t : TaskRef) (f : Xfer → Xfer) (s : State) : (modXfer t f s).eth = s.eth := rfl
@[simp] theorem modXfer_pass (t : TaskRef) (f : Xfer → Xfer) (s : State) : (modXfer t f s).pass = s.pass := rfl
@[simp] theorem modXfer_config (t : TaskRef) (f : Xfer → Xfer) (s : State) : (modXfer t f s).config = s.config := rfl
@[simp] theorem modXfer_glen (t : TaskRef) (f : Xfer → Xfer) (s : State) : (modXfer t f s).glen = s.glen := rfl
@[simp] theorem modXfer_fw (t : TaskRef) (f : Xfer → Xfer) (s : State) : (modXfer t f s).fw = s.fw := rfl
@[simp] theorem modXfer_lc (t : TaskRef) (f : Xfer → Xfer) (s : State) : (modXfer t f s).lc = s.lc := rfl
@[simp] theorem modXfer_ledger (t : TaskRef) (f : Xfer → Xfer) (s : State) : (modXfer t f s).ledger = s.ledger := rfl
@[simp] theorem modXfer_errors (t : TaskRef) (f : Xfer → Xfer) (s : State) : (modXfer t f s).errors = s.errors := rfl
@[simp] theorem modXfer_mgmt (t : TaskRef) (f : Xfer → Xfer) (s : State) : (modXfer t f s).mgmt = s.mgmt := rfl
@[simp] theorem modXfer_i3c (t : TaskRef) (f : Xfer → Xfer) (s : State) : (modXfer t f s).i3c = s.i3c := rfl

@[simp] theorem modGather_pending (t : TaskRef) (master : Bool) (f : Gather → Gather) (s : State) : (modGather t master f s).pending = s.pending := rfl
@[simp] theorem modGather_free (t : TaskRef) (master : Bool) (f : Gather → Gather) (s : State) : (modGather t master f s).free = s.free := rfl
@[simp] theorem modGather_sent (t : TaskRef) (master : Bool) (f : Gather → Gather) (s : State) : (modGather t master f s).sent = s.sent := rfl
@[simp] theorem modGather_timeNs (t : TaskRef) (master : Bool) (f : Gather → Gather) (s : State) : (modGather t master f s).timeNs = s.timeNs := rfl
@[simp] theorem modGather_boot (t : TaskRef) (master : Bool) (f : Gather → Gather) (s : State) : (modGather t master f s).boot = s.boot := rfl
@[simp] theorem modGather_start (t : TaskRef) (master : Bool) (f : Gather → Gather) (s : State) : (modGather t master f s).start = s.start := rfl
@[simp] theorem modGather_power (t : TaskRef) (master : Bool) (f : Gather → Gather) (s : State) : (modGather t master f s).power = s.power := rfl
@[simp] theorem modGather_cores (t : TaskRef) (master : Bool) (f : Gather → Gather) (s : State) : (modGather t master f s).cores = s.cores := rfl
@[simp] theorem modGather_cache (t : TaskRef) (master : Bool) (f : Gather → Gather) (s : State) : (modGather t master f s).cache = s.cache := rfl
@[simp] theorem modGather_vale (t : TaskRef) (master : Bool) (f : Gather → Gather) (s : State) : (modGather t master f s).vale = s.vale := rfl
@[simp] theorem modGather_dir (t : TaskRef) (master : Bool) (f : Gather → Gather) (s : State) : (modGather t master f s).dir = s.dir := rfl
@[simp] theorem modGather_bubbles (t : TaskRef) (master : Bool) (f : Gather → Gather) (s : State) : (modGather t master f s).bubbles = s.bubbles := rfl
@[simp] theorem modGather_ctxs (t : TaskRef) (master : Bool) (f : Gather → Gather) (s : State) : (modGather t master f s).ctxs = s.ctxs := rfl
@[simp] theorem modGather_objects (t : TaskRef) (master : Bool) (f : Gather → Gather) (s : State) : (modGather t master f s).objects = s.objects := rfl
@[simp] theorem modGather_running (t : TaskRef) (master : Bool) (f : Gather → Gather) (s : State) : (modGather t master f s).running = s.running := rfl
@[simp] theorem modGather_held (t : TaskRef) (master : Bool) (f : Gather → Gather) (s : State) : (modGather t master f s).held = s.held := rfl
@[simp] theorem modGather_afterJobs (t : TaskRef) (master : Bool) (f : Gather → Gather) (s : State) : (modGather t master f s).afterJobs = s.afterJobs := rfl
@[simp] theorem modGather_tickets (t : TaskRef) (master : Bool) (f : Gather → Gather) (s : State) : (modGather t master f s).tickets = s.tickets := rfl
@[simp] theorem modGather_eth (t : TaskRef) (master : Bool) (f : Gather → Gather) (s : State) : (modGather t master f s).eth = s.eth := rfl
@[simp] theorem modGather_pass (t : TaskRef) (master : Bool) (f : Gather → Gather) (s : State) : (modGather t master f s).pass = s.pass := rfl
@[simp] theorem modGather_config (t : TaskRef) (master : Bool) (f : Gather → Gather) (s : State) : (modGather t master f s).config = s.config := rfl
@[simp] theorem modGather_glen (t : TaskRef) (master : Bool) (f : Gather → Gather) (s : State) : (modGather t master f s).glen = s.glen := rfl
@[simp] theorem modGather_fw (t : TaskRef) (master : Bool) (f : Gather → Gather) (s : State) : (modGather t master f s).fw = s.fw := rfl
@[simp] theorem modGather_lc (t : TaskRef) (master : Bool) (f : Gather → Gather) (s : State) : (modGather t master f s).lc = s.lc := rfl
@[simp] theorem modGather_ledger (t : TaskRef) (master : Bool) (f : Gather → Gather) (s : State) : (modGather t master f s).ledger = s.ledger := rfl
@[simp] theorem modGather_errors (t : TaskRef) (master : Bool) (f : Gather → Gather) (s : State) : (modGather t master f s).errors = s.errors := rfl
@[simp] theorem modGather_mgmt (t : TaskRef) (master : Bool) (f : Gather → Gather) (s : State) : (modGather t master f s).mgmt = s.mgmt := rfl
@[simp] theorem modGather_i3c (t : TaskRef) (master : Bool) (f : Gather → Gather) (s : State) : (modGather t master f s).i3c = s.i3c := rfl

@[simp] theorem modTensor_pending (j i : Nat) (f : TensorE → TensorE) (s : State) : (modTensor j i f s).pending = s.pending := rfl
@[simp] theorem modTensor_free (j i : Nat) (f : TensorE → TensorE) (s : State) : (modTensor j i f s).free = s.free := rfl
@[simp] theorem modTensor_sent (j i : Nat) (f : TensorE → TensorE) (s : State) : (modTensor j i f s).sent = s.sent := rfl
@[simp] theorem modTensor_timeNs (j i : Nat) (f : TensorE → TensorE) (s : State) : (modTensor j i f s).timeNs = s.timeNs := rfl
@[simp] theorem modTensor_boot (j i : Nat) (f : TensorE → TensorE) (s : State) : (modTensor j i f s).boot = s.boot := rfl
@[simp] theorem modTensor_start (j i : Nat) (f : TensorE → TensorE) (s : State) : (modTensor j i f s).start = s.start := rfl
@[simp] theorem modTensor_power (j i : Nat) (f : TensorE → TensorE) (s : State) : (modTensor j i f s).power = s.power := rfl
@[simp] theorem modTensor_cores (j i : Nat) (f : TensorE → TensorE) (s : State) : (modTensor j i f s).cores = s.cores := rfl
@[simp] theorem modTensor_cache (j i : Nat) (f : TensorE → TensorE) (s : State) : (modTensor j i f s).cache = s.cache := rfl
@[simp] theorem modTensor_vale (j i : Nat) (f : TensorE → TensorE) (s : State) : (modTensor j i f s).vale = s.vale := rfl
@[simp] theorem modTensor_dir (j i : Nat) (f : TensorE → TensorE) (s : State) : (modTensor j i f s).dir = s.dir := rfl
@[simp] theorem modTensor_bubbles (j i : Nat) (f : TensorE → TensorE) (s : State) : (modTensor j i f s).bubbles = s.bubbles := rfl
@[simp] theorem modTensor_ctxs (j i : Nat) (f : TensorE → TensorE) (s : State) : (modTensor j i f s).ctxs = s.ctxs := rfl
@[simp] theorem modTensor_objects (j i : Nat) (f : TensorE → TensorE) (s : State) : (modTensor j i f s).objects = s.objects := rfl
@[simp] theorem modTensor_running (j i : Nat) (f : TensorE → TensorE) (s : State) : (modTensor j i f s).running = s.running := rfl
@[simp] theorem modTensor_held (j i : Nat) (f : TensorE → TensorE) (s : State) : (modTensor j i f s).held = s.held := rfl
@[simp] theorem modTensor_afterJobs (j i : Nat) (f : TensorE → TensorE) (s : State) : (modTensor j i f s).afterJobs = s.afterJobs := rfl
@[simp] theorem modTensor_tickets (j i : Nat) (f : TensorE → TensorE) (s : State) : (modTensor j i f s).tickets = s.tickets := rfl
@[simp] theorem modTensor_eth (j i : Nat) (f : TensorE → TensorE) (s : State) : (modTensor j i f s).eth = s.eth := rfl
@[simp] theorem modTensor_pass (j i : Nat) (f : TensorE → TensorE) (s : State) : (modTensor j i f s).pass = s.pass := rfl
@[simp] theorem modTensor_config (j i : Nat) (f : TensorE → TensorE) (s : State) : (modTensor j i f s).config = s.config := rfl
@[simp] theorem modTensor_glen (j i : Nat) (f : TensorE → TensorE) (s : State) : (modTensor j i f s).glen = s.glen := rfl
@[simp] theorem modTensor_fw (j i : Nat) (f : TensorE → TensorE) (s : State) : (modTensor j i f s).fw = s.fw := rfl
@[simp] theorem modTensor_lc (j i : Nat) (f : TensorE → TensorE) (s : State) : (modTensor j i f s).lc = s.lc := rfl
@[simp] theorem modTensor_ledger (j i : Nat) (f : TensorE → TensorE) (s : State) : (modTensor j i f s).ledger = s.ledger := rfl
@[simp] theorem modTensor_errors (j i : Nat) (f : TensorE → TensorE) (s : State) : (modTensor j i f s).errors = s.errors := rfl
@[simp] theorem modTensor_mgmt (j i : Nat) (f : TensorE → TensorE) (s : State) : (modTensor j i f s).mgmt = s.mgmt := rfl
@[simp] theorem modTensor_i3c (j i : Nat) (f : TensorE → TensorE) (s : State) : (modTensor j i f s).i3c = s.i3c := rfl

@[simp] theorem bumpJob_pending (j k : Nat) (s : State) : (bumpJob j k s).pending = s.pending := rfl
@[simp] theorem bumpJob_free (j k : Nat) (s : State) : (bumpJob j k s).free = s.free := rfl
@[simp] theorem bumpJob_sent (j k : Nat) (s : State) : (bumpJob j k s).sent = s.sent := rfl
@[simp] theorem bumpJob_timeNs (j k : Nat) (s : State) : (bumpJob j k s).timeNs = s.timeNs := rfl
@[simp] theorem bumpJob_boot (j k : Nat) (s : State) : (bumpJob j k s).boot = s.boot := rfl
@[simp] theorem bumpJob_start (j k : Nat) (s : State) : (bumpJob j k s).start = s.start := rfl
@[simp] theorem bumpJob_power (j k : Nat) (s : State) : (bumpJob j k s).power = s.power := rfl
@[simp] theorem bumpJob_cores (j k : Nat) (s : State) : (bumpJob j k s).cores = s.cores := rfl
@[simp] theorem bumpJob_cache (j k : Nat) (s : State) : (bumpJob j k s).cache = s.cache := rfl
@[simp] theorem bumpJob_vale (j k : Nat) (s : State) : (bumpJob j k s).vale = s.vale := rfl
@[simp] theorem bumpJob_dir (j k : Nat) (s : State) : (bumpJob j k s).dir = s.dir := rfl
@[simp] theorem bumpJob_bubbles (j k : Nat) (s : State) : (bumpJob j k s).bubbles = s.bubbles := rfl
@[simp] theorem bumpJob_ctxs (j k : Nat) (s : State) : (bumpJob j k s).ctxs = s.ctxs := rfl
@[simp] theorem bumpJob_objects (j k : Nat) (s : State) : (bumpJob j k s).objects = s.objects := rfl
@[simp] theorem bumpJob_running (j k : Nat) (s : State) : (bumpJob j k s).running = s.running := rfl
@[simp] theorem bumpJob_held (j k : Nat) (s : State) : (bumpJob j k s).held = s.held := rfl
@[simp] theorem bumpJob_afterJobs (j k : Nat) (s : State) : (bumpJob j k s).afterJobs = s.afterJobs := rfl
@[simp] theorem bumpJob_tickets (j k : Nat) (s : State) : (bumpJob j k s).tickets = s.tickets := rfl
@[simp] theorem bumpJob_eth (j k : Nat) (s : State) : (bumpJob j k s).eth = s.eth := rfl
@[simp] theorem bumpJob_pass (j k : Nat) (s : State) : (bumpJob j k s).pass = s.pass := rfl
@[simp] theorem bumpJob_config (j k : Nat) (s : State) : (bumpJob j k s).config = s.config := rfl
@[simp] theorem bumpJob_glen (j k : Nat) (s : State) : (bumpJob j k s).glen = s.glen := rfl
@[simp] theorem bumpJob_fw (j k : Nat) (s : State) : (bumpJob j k s).fw = s.fw := rfl
@[simp] theorem bumpJob_lc (j k : Nat) (s : State) : (bumpJob j k s).lc = s.lc := rfl
@[simp] theorem bumpJob_ledger (j k : Nat) (s : State) : (bumpJob j k s).ledger = s.ledger := rfl
@[simp] theorem bumpJob_errors (j k : Nat) (s : State) : (bumpJob j k s).errors = s.errors := rfl
@[simp] theorem bumpJob_mgmt (j k : Nat) (s : State) : (bumpJob j k s).mgmt = s.mgmt := rfl
@[simp] theorem bumpJob_i3c (j k : Nat) (s : State) : (bumpJob j k s).i3c = s.i3c := rfl

@[simp] theorem modCore_pending (c : Nat) (f : CoreSt → CoreSt) (s : State) : (modCore c f s).pending = s.pending := rfl
@[simp] theorem modCore_free (c : Nat) (f : CoreSt → CoreSt) (s : State) : (modCore c f s).free = s.free := rfl
@[simp] theorem modCore_sent (c : Nat) (f : CoreSt → CoreSt) (s : State) : (modCore c f s).sent = s.sent := rfl
@[simp] theorem modCore_timeNs (c : Nat) (f : CoreSt → CoreSt) (s : State) : (modCore c f s).timeNs = s.timeNs := rfl
@[simp] theorem modCore_boot (c : Nat) (f : CoreSt → CoreSt) (s : State) : (modCore c f s).boot = s.boot := rfl
@[simp] theorem modCore_start (c : Nat) (f : CoreSt → CoreSt) (s : State) : (modCore c f s).start = s.start := rfl
@[simp] theorem modCore_power (c : Nat) (f : CoreSt → CoreSt) (s : State) : (modCore c f s).power = s.power := rfl
@[simp] theorem modCore_cache (c : Nat) (f : CoreSt → CoreSt) (s : State) : (modCore c f s).cache = s.cache := rfl
@[simp] theorem modCore_vale (c : Nat) (f : CoreSt → CoreSt) (s : State) : (modCore c f s).vale = s.vale := rfl
@[simp] theorem modCore_dir (c : Nat) (f : CoreSt → CoreSt) (s : State) : (modCore c f s).dir = s.dir := rfl
@[simp] theorem modCore_jobs (c : Nat) (f : CoreSt → CoreSt) (s : State) : (modCore c f s).jobs = s.jobs := rfl
@[simp] theorem modCore_bubbles (c : Nat) (f : CoreSt → CoreSt) (s : State) : (modCore c f s).bubbles = s.bubbles := rfl
@[simp] theorem modCore_ctxs (c : Nat) (f : CoreSt → CoreSt) (s : State) : (modCore c f s).ctxs = s.ctxs := rfl
@[simp] theorem modCore_objects (c : Nat) (f : CoreSt → CoreSt) (s : State) : (modCore c f s).objects = s.objects := rfl
@[simp] theorem modCore_running (c : Nat) (f : CoreSt → CoreSt) (s : State) : (modCore c f s).running = s.running := rfl
@[simp] theorem modCore_held (c : Nat) (f : CoreSt → CoreSt) (s : State) : (modCore c f s).held = s.held := rfl
@[simp] theorem modCore_afterJobs (c : Nat) (f : CoreSt → CoreSt) (s : State) : (modCore c f s).afterJobs = s.afterJobs := rfl
@[simp] theorem modCore_tickets (c : Nat) (f : CoreSt → CoreSt) (s : State) : (modCore c f s).tickets = s.tickets := rfl
@[simp] theorem modCore_eth (c : Nat) (f : CoreSt → CoreSt) (s : State) : (modCore c f s).eth = s.eth := rfl
@[simp] theorem modCore_pass (c : Nat) (f : CoreSt → CoreSt) (s : State) : (modCore c f s).pass = s.pass := rfl
@[simp] theorem modCore_config (c : Nat) (f : CoreSt → CoreSt) (s : State) : (modCore c f s).config = s.config := rfl
@[simp] theorem modCore_glen (c : Nat) (f : CoreSt → CoreSt) (s : State) : (modCore c f s).glen = s.glen := rfl
@[simp] theorem modCore_fw (c : Nat) (f : CoreSt → CoreSt) (s : State) : (modCore c f s).fw = s.fw := rfl
@[simp] theorem modCore_lc (c : Nat) (f : CoreSt → CoreSt) (s : State) : (modCore c f s).lc = s.lc := rfl
@[simp] theorem modCore_ledger (c : Nat) (f : CoreSt → CoreSt) (s : State) : (modCore c f s).ledger = s.ledger := rfl
@[simp] theorem modCore_errors (c : Nat) (f : CoreSt → CoreSt) (s : State) : (modCore c f s).errors = s.errors := rfl
@[simp] theorem modCore_mgmt (c : Nat) (f : CoreSt → CoreSt) (s : State) : (modCore c f s).mgmt = s.mgmt := rfl
@[simp] theorem modCore_i3c (c : Nat) (f : CoreSt → CoreSt) (s : State) : (modCore c f s).i3c = s.i3c := rfl

@[simp] theorem modDir_pending (j page : Nat) (f : DirE → DirE) (s : State) : (modDir j page f s).pending = s.pending := rfl
@[simp] theorem modDir_free (j page : Nat) (f : DirE → DirE) (s : State) : (modDir j page f s).free = s.free := rfl
@[simp] theorem modDir_sent (j page : Nat) (f : DirE → DirE) (s : State) : (modDir j page f s).sent = s.sent := rfl
@[simp] theorem modDir_timeNs (j page : Nat) (f : DirE → DirE) (s : State) : (modDir j page f s).timeNs = s.timeNs := rfl
@[simp] theorem modDir_boot (j page : Nat) (f : DirE → DirE) (s : State) : (modDir j page f s).boot = s.boot := rfl
@[simp] theorem modDir_start (j page : Nat) (f : DirE → DirE) (s : State) : (modDir j page f s).start = s.start := rfl
@[simp] theorem modDir_power (j page : Nat) (f : DirE → DirE) (s : State) : (modDir j page f s).power = s.power := rfl
@[simp] theorem modDir_cores (j page : Nat) (f : DirE → DirE) (s : State) : (modDir j page f s).cores = s.cores := rfl
@[simp] theorem modDir_cache (j page : Nat) (f : DirE → DirE) (s : State) : (modDir j page f s).cache = s.cache := rfl
@[simp] theorem modDir_vale (j page : Nat) (f : DirE → DirE) (s : State) : (modDir j page f s).vale = s.vale := rfl
@[simp] theorem modDir_jobs (j page : Nat) (f : DirE → DirE) (s : State) : (modDir j page f s).jobs = s.jobs := rfl
@[simp] theorem modDir_bubbles (j page : Nat) (f : DirE → DirE) (s : State) : (modDir j page f s).bubbles = s.bubbles := rfl
@[simp] theorem modDir_ctxs (j page : Nat) (f : DirE → DirE) (s : State) : (modDir j page f s).ctxs = s.ctxs := rfl
@[simp] theorem modDir_objects (j page : Nat) (f : DirE → DirE) (s : State) : (modDir j page f s).objects = s.objects := rfl
@[simp] theorem modDir_running (j page : Nat) (f : DirE → DirE) (s : State) : (modDir j page f s).running = s.running := rfl
@[simp] theorem modDir_held (j page : Nat) (f : DirE → DirE) (s : State) : (modDir j page f s).held = s.held := rfl
@[simp] theorem modDir_afterJobs (j page : Nat) (f : DirE → DirE) (s : State) : (modDir j page f s).afterJobs = s.afterJobs := rfl
@[simp] theorem modDir_tickets (j page : Nat) (f : DirE → DirE) (s : State) : (modDir j page f s).tickets = s.tickets := rfl
@[simp] theorem modDir_eth (j page : Nat) (f : DirE → DirE) (s : State) : (modDir j page f s).eth = s.eth := rfl
@[simp] theorem modDir_pass (j page : Nat) (f : DirE → DirE) (s : State) : (modDir j page f s).pass = s.pass := rfl
@[simp] theorem modDir_config (j page : Nat) (f : DirE → DirE) (s : State) : (modDir j page f s).config = s.config := rfl
@[simp] theorem modDir_glen (j page : Nat) (f : DirE → DirE) (s : State) : (modDir j page f s).glen = s.glen := rfl
@[simp] theorem modDir_fw (j page : Nat) (f : DirE → DirE) (s : State) : (modDir j page f s).fw = s.fw := rfl
@[simp] theorem modDir_lc (j page : Nat) (f : DirE → DirE) (s : State) : (modDir j page f s).lc = s.lc := rfl
@[simp] theorem modDir_ledger (j page : Nat) (f : DirE → DirE) (s : State) : (modDir j page f s).ledger = s.ledger := rfl
@[simp] theorem modDir_errors (j page : Nat) (f : DirE → DirE) (s : State) : (modDir j page f s).errors = s.errors := rfl
@[simp] theorem modDir_mgmt (j page : Nat) (f : DirE → DirE) (s : State) : (modDir j page f s).mgmt = s.mgmt := rfl
@[simp] theorem modDir_i3c (j page : Nat) (f : DirE → DirE) (s : State) : (modDir j page f s).i3c = s.i3c := rfl

@[simp] theorem modPort_pending (n : Nat) (f : PassPort → PassPort) (s : State) : (modPort n f s).pending = s.pending := rfl
@[simp] theorem modPort_free (n : Nat) (f : PassPort → PassPort) (s : State) : (modPort n f s).free = s.free := rfl
@[simp] theorem modPort_sent (n : Nat) (f : PassPort → PassPort) (s : State) : (modPort n f s).sent = s.sent := rfl
@[simp] theorem modPort_timeNs (n : Nat) (f : PassPort → PassPort) (s : State) : (modPort n f s).timeNs = s.timeNs := rfl
@[simp] theorem modPort_boot (n : Nat) (f : PassPort → PassPort) (s : State) : (modPort n f s).boot = s.boot := rfl
@[simp] theorem modPort_start (n : Nat) (f : PassPort → PassPort) (s : State) : (modPort n f s).start = s.start := rfl
@[simp] theorem modPort_power (n : Nat) (f : PassPort → PassPort) (s : State) : (modPort n f s).power = s.power := rfl
@[simp] theorem modPort_cores (n : Nat) (f : PassPort → PassPort) (s : State) : (modPort n f s).cores = s.cores := rfl
@[simp] theorem modPort_cache (n : Nat) (f : PassPort → PassPort) (s : State) : (modPort n f s).cache = s.cache := rfl
@[simp] theorem modPort_vale (n : Nat) (f : PassPort → PassPort) (s : State) : (modPort n f s).vale = s.vale := rfl
@[simp] theorem modPort_dir (n : Nat) (f : PassPort → PassPort) (s : State) : (modPort n f s).dir = s.dir := rfl
@[simp] theorem modPort_jobs (n : Nat) (f : PassPort → PassPort) (s : State) : (modPort n f s).jobs = s.jobs := rfl
@[simp] theorem modPort_bubbles (n : Nat) (f : PassPort → PassPort) (s : State) : (modPort n f s).bubbles = s.bubbles := rfl
@[simp] theorem modPort_ctxs (n : Nat) (f : PassPort → PassPort) (s : State) : (modPort n f s).ctxs = s.ctxs := rfl
@[simp] theorem modPort_objects (n : Nat) (f : PassPort → PassPort) (s : State) : (modPort n f s).objects = s.objects := rfl
@[simp] theorem modPort_running (n : Nat) (f : PassPort → PassPort) (s : State) : (modPort n f s).running = s.running := rfl
@[simp] theorem modPort_held (n : Nat) (f : PassPort → PassPort) (s : State) : (modPort n f s).held = s.held := rfl
@[simp] theorem modPort_afterJobs (n : Nat) (f : PassPort → PassPort) (s : State) : (modPort n f s).afterJobs = s.afterJobs := rfl
@[simp] theorem modPort_tickets (n : Nat) (f : PassPort → PassPort) (s : State) : (modPort n f s).tickets = s.tickets := rfl
@[simp] theorem modPort_eth (n : Nat) (f : PassPort → PassPort) (s : State) : (modPort n f s).eth = s.eth := rfl
@[simp] theorem modPort_config (n : Nat) (f : PassPort → PassPort) (s : State) : (modPort n f s).config = s.config := rfl
@[simp] theorem modPort_glen (n : Nat) (f : PassPort → PassPort) (s : State) : (modPort n f s).glen = s.glen := rfl
@[simp] theorem modPort_fw (n : Nat) (f : PassPort → PassPort) (s : State) : (modPort n f s).fw = s.fw := rfl
@[simp] theorem modPort_lc (n : Nat) (f : PassPort → PassPort) (s : State) : (modPort n f s).lc = s.lc := rfl
@[simp] theorem modPort_ledger (n : Nat) (f : PassPort → PassPort) (s : State) : (modPort n f s).ledger = s.ledger := rfl
@[simp] theorem modPort_errors (n : Nat) (f : PassPort → PassPort) (s : State) : (modPort n f s).errors = s.errors := rfl
@[simp] theorem modPort_mgmt (n : Nat) (f : PassPort → PassPort) (s : State) : (modPort n f s).mgmt = s.mgmt := rfl
@[simp] theorem modPort_i3c (n : Nat) (f : PassPort → PassPort) (s : State) : (modPort n f s).i3c = s.i3c := rfl

@[simp] theorem bumpPort_pending (n i : Nat) (s : State) : (bumpPort n i s).pending = s.pending := rfl
@[simp] theorem bumpPort_free (n i : Nat) (s : State) : (bumpPort n i s).free = s.free := rfl
@[simp] theorem bumpPort_sent (n i : Nat) (s : State) : (bumpPort n i s).sent = s.sent := rfl
@[simp] theorem bumpPort_timeNs (n i : Nat) (s : State) : (bumpPort n i s).timeNs = s.timeNs := rfl
@[simp] theorem bumpPort_boot (n i : Nat) (s : State) : (bumpPort n i s).boot = s.boot := rfl
@[simp] theorem bumpPort_start (n i : Nat) (s : State) : (bumpPort n i s).start = s.start := rfl
@[simp] theorem bumpPort_power (n i : Nat) (s : State) : (bumpPort n i s).power = s.power := rfl
@[simp] theorem bumpPort_cores (n i : Nat) (s : State) : (bumpPort n i s).cores = s.cores := rfl
@[simp] theorem bumpPort_cache (n i : Nat) (s : State) : (bumpPort n i s).cache = s.cache := rfl
@[simp] theorem bumpPort_vale (n i : Nat) (s : State) : (bumpPort n i s).vale = s.vale := rfl
@[simp] theorem bumpPort_dir (n i : Nat) (s : State) : (bumpPort n i s).dir = s.dir := rfl
@[simp] theorem bumpPort_jobs (n i : Nat) (s : State) : (bumpPort n i s).jobs = s.jobs := rfl
@[simp] theorem bumpPort_bubbles (n i : Nat) (s : State) : (bumpPort n i s).bubbles = s.bubbles := rfl
@[simp] theorem bumpPort_ctxs (n i : Nat) (s : State) : (bumpPort n i s).ctxs = s.ctxs := rfl
@[simp] theorem bumpPort_objects (n i : Nat) (s : State) : (bumpPort n i s).objects = s.objects := rfl
@[simp] theorem bumpPort_running (n i : Nat) (s : State) : (bumpPort n i s).running = s.running := rfl
@[simp] theorem bumpPort_held (n i : Nat) (s : State) : (bumpPort n i s).held = s.held := rfl
@[simp] theorem bumpPort_afterJobs (n i : Nat) (s : State) : (bumpPort n i s).afterJobs = s.afterJobs := rfl
@[simp] theorem bumpPort_tickets (n i : Nat) (s : State) : (bumpPort n i s).tickets = s.tickets := rfl
@[simp] theorem bumpPort_eth (n i : Nat) (s : State) : (bumpPort n i s).eth = s.eth := rfl
@[simp] theorem bumpPort_config (n i : Nat) (s : State) : (bumpPort n i s).config = s.config := rfl
@[simp] theorem bumpPort_glen (n i : Nat) (s : State) : (bumpPort n i s).glen = s.glen := rfl
@[simp] theorem bumpPort_fw (n i : Nat) (s : State) : (bumpPort n i s).fw = s.fw := rfl
@[simp] theorem bumpPort_lc (n i : Nat) (s : State) : (bumpPort n i s).lc = s.lc := rfl
@[simp] theorem bumpPort_ledger (n i : Nat) (s : State) : (bumpPort n i s).ledger = s.ledger := rfl
@[simp] theorem bumpPort_errors (n i : Nat) (s : State) : (bumpPort n i s).errors = s.errors := rfl
@[simp] theorem bumpPort_mgmt (n i : Nat) (s : State) : (bumpPort n i s).mgmt = s.mgmt := rfl
@[simp] theorem bumpPort_i3c (n i : Nat) (s : State) : (bumpPort n i s).i3c = s.i3c := rfl

@[simp] theorem modEth_pending (n : Nat) (f : EthPort → EthPort) (s : State) : (modEth n f s).pending = s.pending := rfl
@[simp] theorem modEth_free (n : Nat) (f : EthPort → EthPort) (s : State) : (modEth n f s).free = s.free := rfl
@[simp] theorem modEth_sent (n : Nat) (f : EthPort → EthPort) (s : State) : (modEth n f s).sent = s.sent := rfl
@[simp] theorem modEth_timeNs (n : Nat) (f : EthPort → EthPort) (s : State) : (modEth n f s).timeNs = s.timeNs := rfl
@[simp] theorem modEth_boot (n : Nat) (f : EthPort → EthPort) (s : State) : (modEth n f s).boot = s.boot := rfl
@[simp] theorem modEth_start (n : Nat) (f : EthPort → EthPort) (s : State) : (modEth n f s).start = s.start := rfl
@[simp] theorem modEth_power (n : Nat) (f : EthPort → EthPort) (s : State) : (modEth n f s).power = s.power := rfl
@[simp] theorem modEth_cores (n : Nat) (f : EthPort → EthPort) (s : State) : (modEth n f s).cores = s.cores := rfl
@[simp] theorem modEth_cache (n : Nat) (f : EthPort → EthPort) (s : State) : (modEth n f s).cache = s.cache := rfl
@[simp] theorem modEth_vale (n : Nat) (f : EthPort → EthPort) (s : State) : (modEth n f s).vale = s.vale := rfl
@[simp] theorem modEth_dir (n : Nat) (f : EthPort → EthPort) (s : State) : (modEth n f s).dir = s.dir := rfl
@[simp] theorem modEth_jobs (n : Nat) (f : EthPort → EthPort) (s : State) : (modEth n f s).jobs = s.jobs := rfl
@[simp] theorem modEth_bubbles (n : Nat) (f : EthPort → EthPort) (s : State) : (modEth n f s).bubbles = s.bubbles := rfl
@[simp] theorem modEth_ctxs (n : Nat) (f : EthPort → EthPort) (s : State) : (modEth n f s).ctxs = s.ctxs := rfl
@[simp] theorem modEth_objects (n : Nat) (f : EthPort → EthPort) (s : State) : (modEth n f s).objects = s.objects := rfl
@[simp] theorem modEth_running (n : Nat) (f : EthPort → EthPort) (s : State) : (modEth n f s).running = s.running := rfl
@[simp] theorem modEth_held (n : Nat) (f : EthPort → EthPort) (s : State) : (modEth n f s).held = s.held := rfl
@[simp] theorem modEth_afterJobs (n : Nat) (f : EthPort → EthPort) (s : State) : (modEth n f s).afterJobs = s.afterJobs := rfl
@[simp] theorem modEth_tickets (n : Nat) (f : EthPort → EthPort) (s : State) : (modEth n f s).tickets = s.tickets := rfl
@[simp] theorem modEth_pass (n : Nat) (f : EthPort → EthPort) (s : State) : (modEth n f s).pass = s.pass := rfl
@[simp] theorem modEth_config (n : Nat) (f : EthPort → EthPort) (s : State) : (modEth n f s).config = s.config := rfl
@[simp] theorem modEth_glen (n : Nat) (f : EthPort → EthPort) (s : State) : (modEth n f s).glen = s.glen := rfl
@[simp] theorem modEth_fw (n : Nat) (f : EthPort → EthPort) (s : State) : (modEth n f s).fw = s.fw := rfl
@[simp] theorem modEth_lc (n : Nat) (f : EthPort → EthPort) (s : State) : (modEth n f s).lc = s.lc := rfl
@[simp] theorem modEth_ledger (n : Nat) (f : EthPort → EthPort) (s : State) : (modEth n f s).ledger = s.ledger := rfl
@[simp] theorem modEth_errors (n : Nat) (f : EthPort → EthPort) (s : State) : (modEth n f s).errors = s.errors := rfl
@[simp] theorem modEth_mgmt (n : Nat) (f : EthPort → EthPort) (s : State) : (modEth n f s).mgmt = s.mgmt := rfl
@[simp] theorem modEth_i3c (n : Nat) (f : EthPort → EthPort) (s : State) : (modEth n f s).i3c = s.i3c := rfl

@[simp] theorem bumpEth_pending (n i k : Nat) (s : State) : (bumpEth n i k s).pending = s.pending := rfl
@[simp] theorem bumpEth_free (n i k : Nat) (s : State) : (bumpEth n i k s).free = s.free := rfl
@[simp] theorem bumpEth_sent (n i k : Nat) (s : State) : (bumpEth n i k s).sent = s.sent := rfl
@[simp] theorem bumpEth_timeNs (n i k : Nat) (s : State) : (bumpEth n i k s).timeNs = s.timeNs := rfl
@[simp] theorem bumpEth_boot (n i k : Nat) (s : State) : (bumpEth n i k s).boot = s.boot := rfl
@[simp] theorem bumpEth_start (n i k : Nat) (s : State) : (bumpEth n i k s).start = s.start := rfl
@[simp] theorem bumpEth_power (n i k : Nat) (s : State) : (bumpEth n i k s).power = s.power := rfl
@[simp] theorem bumpEth_cores (n i k : Nat) (s : State) : (bumpEth n i k s).cores = s.cores := rfl
@[simp] theorem bumpEth_cache (n i k : Nat) (s : State) : (bumpEth n i k s).cache = s.cache := rfl
@[simp] theorem bumpEth_vale (n i k : Nat) (s : State) : (bumpEth n i k s).vale = s.vale := rfl
@[simp] theorem bumpEth_dir (n i k : Nat) (s : State) : (bumpEth n i k s).dir = s.dir := rfl
@[simp] theorem bumpEth_jobs (n i k : Nat) (s : State) : (bumpEth n i k s).jobs = s.jobs := rfl
@[simp] theorem bumpEth_bubbles (n i k : Nat) (s : State) : (bumpEth n i k s).bubbles = s.bubbles := rfl
@[simp] theorem bumpEth_ctxs (n i k : Nat) (s : State) : (bumpEth n i k s).ctxs = s.ctxs := rfl
@[simp] theorem bumpEth_objects (n i k : Nat) (s : State) : (bumpEth n i k s).objects = s.objects := rfl
@[simp] theorem bumpEth_running (n i k : Nat) (s : State) : (bumpEth n i k s).running = s.running := rfl
@[simp] theorem bumpEth_held (n i k : Nat) (s : State) : (bumpEth n i k s).held = s.held := rfl
@[simp] theorem bumpEth_afterJobs (n i k : Nat) (s : State) : (bumpEth n i k s).afterJobs = s.afterJobs := rfl
@[simp] theorem bumpEth_tickets (n i k : Nat) (s : State) : (bumpEth n i k s).tickets = s.tickets := rfl
@[simp] theorem bumpEth_pass (n i k : Nat) (s : State) : (bumpEth n i k s).pass = s.pass := rfl
@[simp] theorem bumpEth_config (n i k : Nat) (s : State) : (bumpEth n i k s).config = s.config := rfl
@[simp] theorem bumpEth_glen (n i k : Nat) (s : State) : (bumpEth n i k s).glen = s.glen := rfl
@[simp] theorem bumpEth_fw (n i k : Nat) (s : State) : (bumpEth n i k s).fw = s.fw := rfl
@[simp] theorem bumpEth_lc (n i k : Nat) (s : State) : (bumpEth n i k s).lc = s.lc := rfl
@[simp] theorem bumpEth_ledger (n i k : Nat) (s : State) : (bumpEth n i k s).ledger = s.ledger := rfl
@[simp] theorem bumpEth_errors (n i k : Nat) (s : State) : (bumpEth n i k s).errors = s.errors := rfl
@[simp] theorem bumpEth_mgmt (n i k : Nat) (s : State) : (bumpEth n i k s).mgmt = s.mgmt := rfl
@[simp] theorem bumpEth_i3c (n i k : Nat) (s : State) : (bumpEth n i k s).i3c = s.i3c := rfl

@[simp] theorem modQp_pending (q : Nat) (f : Qp → Qp) (s : State) : (modQp q f s).pending = s.pending := rfl
@[simp] theorem modQp_free (q : Nat) (f : Qp → Qp) (s : State) : (modQp q f s).free = s.free := rfl
@[simp] theorem modQp_sent (q : Nat) (f : Qp → Qp) (s : State) : (modQp q f s).sent = s.sent := rfl
@[simp] theorem modQp_timeNs (q : Nat) (f : Qp → Qp) (s : State) : (modQp q f s).timeNs = s.timeNs := rfl
@[simp] theorem modQp_boot (q : Nat) (f : Qp → Qp) (s : State) : (modQp q f s).boot = s.boot := rfl
@[simp] theorem modQp_start (q : Nat) (f : Qp → Qp) (s : State) : (modQp q f s).start = s.start := rfl
@[simp] theorem modQp_power (q : Nat) (f : Qp → Qp) (s : State) : (modQp q f s).power = s.power := rfl
@[simp] theorem modQp_cores (q : Nat) (f : Qp → Qp) (s : State) : (modQp q f s).cores = s.cores := rfl
@[simp] theorem modQp_cache (q : Nat) (f : Qp → Qp) (s : State) : (modQp q f s).cache = s.cache := rfl
@[simp] theorem modQp_vale (q : Nat) (f : Qp → Qp) (s : State) : (modQp q f s).vale = s.vale := rfl
@[simp] theorem modQp_dir (q : Nat) (f : Qp → Qp) (s : State) : (modQp q f s).dir = s.dir := rfl
@[simp] theorem modQp_jobs (q : Nat) (f : Qp → Qp) (s : State) : (modQp q f s).jobs = s.jobs := rfl
@[simp] theorem modQp_bubbles (q : Nat) (f : Qp → Qp) (s : State) : (modQp q f s).bubbles = s.bubbles := rfl
@[simp] theorem modQp_ctxs (q : Nat) (f : Qp → Qp) (s : State) : (modQp q f s).ctxs = s.ctxs := rfl
@[simp] theorem modQp_objects (q : Nat) (f : Qp → Qp) (s : State) : (modQp q f s).objects = s.objects := rfl
@[simp] theorem modQp_running (q : Nat) (f : Qp → Qp) (s : State) : (modQp q f s).running = s.running := rfl
@[simp] theorem modQp_held (q : Nat) (f : Qp → Qp) (s : State) : (modQp q f s).held = s.held := rfl
@[simp] theorem modQp_afterJobs (q : Nat) (f : Qp → Qp) (s : State) : (modQp q f s).afterJobs = s.afterJobs := rfl
@[simp] theorem modQp_tickets (q : Nat) (f : Qp → Qp) (s : State) : (modQp q f s).tickets = s.tickets := rfl
@[simp] theorem modQp_pass (q : Nat) (f : Qp → Qp) (s : State) : (modQp q f s).pass = s.pass := rfl
@[simp] theorem modQp_config (q : Nat) (f : Qp → Qp) (s : State) : (modQp q f s).config = s.config := rfl
@[simp] theorem modQp_glen (q : Nat) (f : Qp → Qp) (s : State) : (modQp q f s).glen = s.glen := rfl
@[simp] theorem modQp_fw (q : Nat) (f : Qp → Qp) (s : State) : (modQp q f s).fw = s.fw := rfl
@[simp] theorem modQp_lc (q : Nat) (f : Qp → Qp) (s : State) : (modQp q f s).lc = s.lc := rfl
@[simp] theorem modQp_ledger (q : Nat) (f : Qp → Qp) (s : State) : (modQp q f s).ledger = s.ledger := rfl
@[simp] theorem modQp_errors (q : Nat) (f : Qp → Qp) (s : State) : (modQp q f s).errors = s.errors := rfl
@[simp] theorem modQp_mgmt (q : Nat) (f : Qp → Qp) (s : State) : (modQp q f s).mgmt = s.mgmt := rfl
@[simp] theorem modQp_i3c (q : Nat) (f : Qp → Qp) (s : State) : (modQp q f s).i3c = s.i3c := rfl

@[simp] theorem modObj_pending (i : Nat) (f : Obj → Obj) (s : State) : (modObj i f s).pending = s.pending := rfl
@[simp] theorem modObj_free (i : Nat) (f : Obj → Obj) (s : State) : (modObj i f s).free = s.free := rfl
@[simp] theorem modObj_sent (i : Nat) (f : Obj → Obj) (s : State) : (modObj i f s).sent = s.sent := rfl
@[simp] theorem modObj_timeNs (i : Nat) (f : Obj → Obj) (s : State) : (modObj i f s).timeNs = s.timeNs := rfl
@[simp] theorem modObj_boot (i : Nat) (f : Obj → Obj) (s : State) : (modObj i f s).boot = s.boot := rfl
@[simp] theorem modObj_start (i : Nat) (f : Obj → Obj) (s : State) : (modObj i f s).start = s.start := rfl
@[simp] theorem modObj_power (i : Nat) (f : Obj → Obj) (s : State) : (modObj i f s).power = s.power := rfl
@[simp] theorem modObj_cores (i : Nat) (f : Obj → Obj) (s : State) : (modObj i f s).cores = s.cores := rfl
@[simp] theorem modObj_cache (i : Nat) (f : Obj → Obj) (s : State) : (modObj i f s).cache = s.cache := rfl
@[simp] theorem modObj_vale (i : Nat) (f : Obj → Obj) (s : State) : (modObj i f s).vale = s.vale := rfl
@[simp] theorem modObj_dir (i : Nat) (f : Obj → Obj) (s : State) : (modObj i f s).dir = s.dir := rfl
@[simp] theorem modObj_jobs (i : Nat) (f : Obj → Obj) (s : State) : (modObj i f s).jobs = s.jobs := rfl
@[simp] theorem modObj_bubbles (i : Nat) (f : Obj → Obj) (s : State) : (modObj i f s).bubbles = s.bubbles := rfl
@[simp] theorem modObj_ctxs (i : Nat) (f : Obj → Obj) (s : State) : (modObj i f s).ctxs = s.ctxs := rfl
@[simp] theorem modObj_running (i : Nat) (f : Obj → Obj) (s : State) : (modObj i f s).running = s.running := rfl
@[simp] theorem modObj_held (i : Nat) (f : Obj → Obj) (s : State) : (modObj i f s).held = s.held := rfl
@[simp] theorem modObj_afterJobs (i : Nat) (f : Obj → Obj) (s : State) : (modObj i f s).afterJobs = s.afterJobs := rfl
@[simp] theorem modObj_tickets (i : Nat) (f : Obj → Obj) (s : State) : (modObj i f s).tickets = s.tickets := rfl
@[simp] theorem modObj_eth (i : Nat) (f : Obj → Obj) (s : State) : (modObj i f s).eth = s.eth := rfl
@[simp] theorem modObj_pass (i : Nat) (f : Obj → Obj) (s : State) : (modObj i f s).pass = s.pass := rfl
@[simp] theorem modObj_config (i : Nat) (f : Obj → Obj) (s : State) : (modObj i f s).config = s.config := rfl
@[simp] theorem modObj_glen (i : Nat) (f : Obj → Obj) (s : State) : (modObj i f s).glen = s.glen := rfl
@[simp] theorem modObj_fw (i : Nat) (f : Obj → Obj) (s : State) : (modObj i f s).fw = s.fw := rfl
@[simp] theorem modObj_lc (i : Nat) (f : Obj → Obj) (s : State) : (modObj i f s).lc = s.lc := rfl
@[simp] theorem modObj_ledger (i : Nat) (f : Obj → Obj) (s : State) : (modObj i f s).ledger = s.ledger := rfl
@[simp] theorem modObj_errors (i : Nat) (f : Obj → Obj) (s : State) : (modObj i f s).errors = s.errors := rfl
@[simp] theorem modObj_mgmt (i : Nat) (f : Obj → Obj) (s : State) : (modObj i f s).mgmt = s.mgmt := rfl
@[simp] theorem modObj_i3c (i : Nat) (f : Obj → Obj) (s : State) : (modObj i f s).i3c = s.i3c := rfl

@[simp] theorem touchFence_pending (i : Nat) (s : State) : (touchFence i s).pending = s.pending := rfl
@[simp] theorem touchFence_free (i : Nat) (s : State) : (touchFence i s).free = s.free := rfl
@[simp] theorem touchFence_sent (i : Nat) (s : State) : (touchFence i s).sent = s.sent := rfl
@[simp] theorem touchFence_timeNs (i : Nat) (s : State) : (touchFence i s).timeNs = s.timeNs := rfl
@[simp] theorem touchFence_boot (i : Nat) (s : State) : (touchFence i s).boot = s.boot := rfl
@[simp] theorem touchFence_start (i : Nat) (s : State) : (touchFence i s).start = s.start := rfl
@[simp] theorem touchFence_power (i : Nat) (s : State) : (touchFence i s).power = s.power := rfl
@[simp] theorem touchFence_cores (i : Nat) (s : State) : (touchFence i s).cores = s.cores := rfl
@[simp] theorem touchFence_cache (i : Nat) (s : State) : (touchFence i s).cache = s.cache := rfl
@[simp] theorem touchFence_vale (i : Nat) (s : State) : (touchFence i s).vale = s.vale := rfl
@[simp] theorem touchFence_dir (i : Nat) (s : State) : (touchFence i s).dir = s.dir := rfl
@[simp] theorem touchFence_jobs (i : Nat) (s : State) : (touchFence i s).jobs = s.jobs := rfl
@[simp] theorem touchFence_bubbles (i : Nat) (s : State) : (touchFence i s).bubbles = s.bubbles := rfl
@[simp] theorem touchFence_ctxs (i : Nat) (s : State) : (touchFence i s).ctxs = s.ctxs := rfl
@[simp] theorem touchFence_running (i : Nat) (s : State) : (touchFence i s).running = s.running := rfl
@[simp] theorem touchFence_held (i : Nat) (s : State) : (touchFence i s).held = s.held := rfl
@[simp] theorem touchFence_afterJobs (i : Nat) (s : State) : (touchFence i s).afterJobs = s.afterJobs := rfl
@[simp] theorem touchFence_tickets (i : Nat) (s : State) : (touchFence i s).tickets = s.tickets := rfl
@[simp] theorem touchFence_eth (i : Nat) (s : State) : (touchFence i s).eth = s.eth := rfl
@[simp] theorem touchFence_pass (i : Nat) (s : State) : (touchFence i s).pass = s.pass := rfl
@[simp] theorem touchFence_config (i : Nat) (s : State) : (touchFence i s).config = s.config := rfl
@[simp] theorem touchFence_glen (i : Nat) (s : State) : (touchFence i s).glen = s.glen := rfl
@[simp] theorem touchFence_fw (i : Nat) (s : State) : (touchFence i s).fw = s.fw := rfl
@[simp] theorem touchFence_lc (i : Nat) (s : State) : (touchFence i s).lc = s.lc := rfl
@[simp] theorem touchFence_ledger (i : Nat) (s : State) : (touchFence i s).ledger = s.ledger := rfl
@[simp] theorem touchFence_errors (i : Nat) (s : State) : (touchFence i s).errors = s.errors := rfl
@[simp] theorem touchFence_mgmt (i : Nat) (s : State) : (touchFence i s).mgmt = s.mgmt := rfl
@[simp] theorem touchFence_i3c (i : Nat) (s : State) : (touchFence i s).i3c = s.i3c := rfl

@[simp] theorem popInbox_pending (ctx : Nat) (s : State) : (popInbox ctx s).pending = s.pending := rfl
@[simp] theorem popInbox_free (ctx : Nat) (s : State) : (popInbox ctx s).free = s.free := rfl
@[simp] theorem popInbox_sent (ctx : Nat) (s : State) : (popInbox ctx s).sent = s.sent := rfl
@[simp] theorem popInbox_timeNs (ctx : Nat) (s : State) : (popInbox ctx s).timeNs = s.timeNs := rfl
@[simp] theorem popInbox_boot (ctx : Nat) (s : State) : (popInbox ctx s).boot = s.boot := rfl
@[simp] theorem popInbox_start (ctx : Nat) (s : State) : (popInbox ctx s).start = s.start := rfl
@[simp] theorem popInbox_power (ctx : Nat) (s : State) : (popInbox ctx s).power = s.power := rfl
@[simp] theorem popInbox_cores (ctx : Nat) (s : State) : (popInbox ctx s).cores = s.cores := rfl
@[simp] theorem popInbox_cache (ctx : Nat) (s : State) : (popInbox ctx s).cache = s.cache := rfl
@[simp] theorem popInbox_vale (ctx : Nat) (s : State) : (popInbox ctx s).vale = s.vale := rfl
@[simp] theorem popInbox_dir (ctx : Nat) (s : State) : (popInbox ctx s).dir = s.dir := rfl
@[simp] theorem popInbox_jobs (ctx : Nat) (s : State) : (popInbox ctx s).jobs = s.jobs := rfl
@[simp] theorem popInbox_bubbles (ctx : Nat) (s : State) : (popInbox ctx s).bubbles = s.bubbles := rfl
@[simp] theorem popInbox_objects (ctx : Nat) (s : State) : (popInbox ctx s).objects = s.objects := rfl
@[simp] theorem popInbox_running (ctx : Nat) (s : State) : (popInbox ctx s).running = s.running := rfl
@[simp] theorem popInbox_held (ctx : Nat) (s : State) : (popInbox ctx s).held = s.held := rfl
@[simp] theorem popInbox_afterJobs (ctx : Nat) (s : State) : (popInbox ctx s).afterJobs = s.afterJobs := rfl
@[simp] theorem popInbox_tickets (ctx : Nat) (s : State) : (popInbox ctx s).tickets = s.tickets := rfl
@[simp] theorem popInbox_eth (ctx : Nat) (s : State) : (popInbox ctx s).eth = s.eth := rfl
@[simp] theorem popInbox_pass (ctx : Nat) (s : State) : (popInbox ctx s).pass = s.pass := rfl
@[simp] theorem popInbox_config (ctx : Nat) (s : State) : (popInbox ctx s).config = s.config := rfl
@[simp] theorem popInbox_glen (ctx : Nat) (s : State) : (popInbox ctx s).glen = s.glen := rfl
@[simp] theorem popInbox_fw (ctx : Nat) (s : State) : (popInbox ctx s).fw = s.fw := rfl
@[simp] theorem popInbox_lc (ctx : Nat) (s : State) : (popInbox ctx s).lc = s.lc := rfl
@[simp] theorem popInbox_ledger (ctx : Nat) (s : State) : (popInbox ctx s).ledger = s.ledger := rfl
@[simp] theorem popInbox_errors (ctx : Nat) (s : State) : (popInbox ctx s).errors = s.errors := rfl
@[simp] theorem popInbox_mgmt (ctx : Nat) (s : State) : (popInbox ctx s).mgmt = s.mgmt := rfl
@[simp] theorem popInbox_i3c (ctx : Nat) (s : State) : (popInbox ctx s).i3c = s.i3c := rfl

@[simp] theorem modConfig_pending (i : Nat) (f : FlashSlot → FlashSlot) (s : State) : (modConfig i f s).pending = s.pending := rfl
@[simp] theorem modConfig_free (i : Nat) (f : FlashSlot → FlashSlot) (s : State) : (modConfig i f s).free = s.free := rfl
@[simp] theorem modConfig_sent (i : Nat) (f : FlashSlot → FlashSlot) (s : State) : (modConfig i f s).sent = s.sent := rfl
@[simp] theorem modConfig_timeNs (i : Nat) (f : FlashSlot → FlashSlot) (s : State) : (modConfig i f s).timeNs = s.timeNs := rfl
@[simp] theorem modConfig_boot (i : Nat) (f : FlashSlot → FlashSlot) (s : State) : (modConfig i f s).boot = s.boot := rfl
@[simp] theorem modConfig_start (i : Nat) (f : FlashSlot → FlashSlot) (s : State) : (modConfig i f s).start = s.start := rfl
@[simp] theorem modConfig_power (i : Nat) (f : FlashSlot → FlashSlot) (s : State) : (modConfig i f s).power = s.power := rfl
@[simp] theorem modConfig_cores (i : Nat) (f : FlashSlot → FlashSlot) (s : State) : (modConfig i f s).cores = s.cores := rfl
@[simp] theorem modConfig_cache (i : Nat) (f : FlashSlot → FlashSlot) (s : State) : (modConfig i f s).cache = s.cache := rfl
@[simp] theorem modConfig_vale (i : Nat) (f : FlashSlot → FlashSlot) (s : State) : (modConfig i f s).vale = s.vale := rfl
@[simp] theorem modConfig_dir (i : Nat) (f : FlashSlot → FlashSlot) (s : State) : (modConfig i f s).dir = s.dir := rfl
@[simp] theorem modConfig_jobs (i : Nat) (f : FlashSlot → FlashSlot) (s : State) : (modConfig i f s).jobs = s.jobs := rfl
@[simp] theorem modConfig_bubbles (i : Nat) (f : FlashSlot → FlashSlot) (s : State) : (modConfig i f s).bubbles = s.bubbles := rfl
@[simp] theorem modConfig_ctxs (i : Nat) (f : FlashSlot → FlashSlot) (s : State) : (modConfig i f s).ctxs = s.ctxs := rfl
@[simp] theorem modConfig_objects (i : Nat) (f : FlashSlot → FlashSlot) (s : State) : (modConfig i f s).objects = s.objects := rfl
@[simp] theorem modConfig_running (i : Nat) (f : FlashSlot → FlashSlot) (s : State) : (modConfig i f s).running = s.running := rfl
@[simp] theorem modConfig_held (i : Nat) (f : FlashSlot → FlashSlot) (s : State) : (modConfig i f s).held = s.held := rfl
@[simp] theorem modConfig_afterJobs (i : Nat) (f : FlashSlot → FlashSlot) (s : State) : (modConfig i f s).afterJobs = s.afterJobs := rfl
@[simp] theorem modConfig_tickets (i : Nat) (f : FlashSlot → FlashSlot) (s : State) : (modConfig i f s).tickets = s.tickets := rfl
@[simp] theorem modConfig_eth (i : Nat) (f : FlashSlot → FlashSlot) (s : State) : (modConfig i f s).eth = s.eth := rfl
@[simp] theorem modConfig_pass (i : Nat) (f : FlashSlot → FlashSlot) (s : State) : (modConfig i f s).pass = s.pass := rfl
@[simp] theorem modConfig_glen (i : Nat) (f : FlashSlot → FlashSlot) (s : State) : (modConfig i f s).glen = s.glen := rfl
@[simp] theorem modConfig_fw (i : Nat) (f : FlashSlot → FlashSlot) (s : State) : (modConfig i f s).fw = s.fw := rfl
@[simp] theorem modConfig_lc (i : Nat) (f : FlashSlot → FlashSlot) (s : State) : (modConfig i f s).lc = s.lc := rfl
@[simp] theorem modConfig_ledger (i : Nat) (f : FlashSlot → FlashSlot) (s : State) : (modConfig i f s).ledger = s.ledger := rfl
@[simp] theorem modConfig_errors (i : Nat) (f : FlashSlot → FlashSlot) (s : State) : (modConfig i f s).errors = s.errors := rfl
@[simp] theorem modConfig_mgmt (i : Nat) (f : FlashSlot → FlashSlot) (s : State) : (modConfig i f s).mgmt = s.mgmt := rfl
@[simp] theorem modConfig_i3c (i : Nat) (f : FlashSlot → FlashSlot) (s : State) : (modConfig i f s).i3c = s.i3c := rfl

@[simp] theorem modFw_pending (i : Nat) (f : FlashSlot → FlashSlot) (s : State) : (modFw i f s).pending = s.pending := rfl
@[simp] theorem modFw_free (i : Nat) (f : FlashSlot → FlashSlot) (s : State) : (modFw i f s).free = s.free := rfl
@[simp] theorem modFw_sent (i : Nat) (f : FlashSlot → FlashSlot) (s : State) : (modFw i f s).sent = s.sent := rfl
@[simp] theorem modFw_timeNs (i : Nat) (f : FlashSlot → FlashSlot) (s : State) : (modFw i f s).timeNs = s.timeNs := rfl
@[simp] theorem modFw_boot (i : Nat) (f : FlashSlot → FlashSlot) (s : State) : (modFw i f s).boot = s.boot := rfl
@[simp] theorem modFw_start (i : Nat) (f : FlashSlot → FlashSlot) (s : State) : (modFw i f s).start = s.start := rfl
@[simp] theorem modFw_power (i : Nat) (f : FlashSlot → FlashSlot) (s : State) : (modFw i f s).power = s.power := rfl
@[simp] theorem modFw_cores (i : Nat) (f : FlashSlot → FlashSlot) (s : State) : (modFw i f s).cores = s.cores := rfl
@[simp] theorem modFw_cache (i : Nat) (f : FlashSlot → FlashSlot) (s : State) : (modFw i f s).cache = s.cache := rfl
@[simp] theorem modFw_vale (i : Nat) (f : FlashSlot → FlashSlot) (s : State) : (modFw i f s).vale = s.vale := rfl
@[simp] theorem modFw_dir (i : Nat) (f : FlashSlot → FlashSlot) (s : State) : (modFw i f s).dir = s.dir := rfl
@[simp] theorem modFw_jobs (i : Nat) (f : FlashSlot → FlashSlot) (s : State) : (modFw i f s).jobs = s.jobs := rfl
@[simp] theorem modFw_bubbles (i : Nat) (f : FlashSlot → FlashSlot) (s : State) : (modFw i f s).bubbles = s.bubbles := rfl
@[simp] theorem modFw_ctxs (i : Nat) (f : FlashSlot → FlashSlot) (s : State) : (modFw i f s).ctxs = s.ctxs := rfl
@[simp] theorem modFw_objects (i : Nat) (f : FlashSlot → FlashSlot) (s : State) : (modFw i f s).objects = s.objects := rfl
@[simp] theorem modFw_running (i : Nat) (f : FlashSlot → FlashSlot) (s : State) : (modFw i f s).running = s.running := rfl
@[simp] theorem modFw_held (i : Nat) (f : FlashSlot → FlashSlot) (s : State) : (modFw i f s).held = s.held := rfl
@[simp] theorem modFw_afterJobs (i : Nat) (f : FlashSlot → FlashSlot) (s : State) : (modFw i f s).afterJobs = s.afterJobs := rfl
@[simp] theorem modFw_tickets (i : Nat) (f : FlashSlot → FlashSlot) (s : State) : (modFw i f s).tickets = s.tickets := rfl
@[simp] theorem modFw_eth (i : Nat) (f : FlashSlot → FlashSlot) (s : State) : (modFw i f s).eth = s.eth := rfl
@[simp] theorem modFw_pass (i : Nat) (f : FlashSlot → FlashSlot) (s : State) : (modFw i f s).pass = s.pass := rfl
@[simp] theorem modFw_config (i : Nat) (f : FlashSlot → FlashSlot) (s : State) : (modFw i f s).config = s.config := rfl
@[simp] theorem modFw_glen (i : Nat) (f : FlashSlot → FlashSlot) (s : State) : (modFw i f s).glen = s.glen := rfl
@[simp] theorem modFw_lc (i : Nat) (f : FlashSlot → FlashSlot) (s : State) : (modFw i f s).lc = s.lc := rfl
@[simp] theorem modFw_ledger (i : Nat) (f : FlashSlot → FlashSlot) (s : State) : (modFw i f s).ledger = s.ledger := rfl
@[simp] theorem modFw_errors (i : Nat) (f : FlashSlot → FlashSlot) (s : State) : (modFw i f s).errors = s.errors := rfl
@[simp] theorem modFw_mgmt (i : Nat) (f : FlashSlot → FlashSlot) (s : State) : (modFw i f s).mgmt = s.mgmt := rfl
@[simp] theorem modFw_i3c (i : Nat) (f : FlashSlot → FlashSlot) (s : State) : (modFw i f s).i3c = s.i3c := rfl

@[simp] theorem modMiss_pending (slice j line : Nat) (f : MissReg → Option MissReg) (s : State) : (modMiss slice j line f s).pending = s.pending := rfl
@[simp] theorem modMiss_free (slice j line : Nat) (f : MissReg → Option MissReg) (s : State) : (modMiss slice j line f s).free = s.free := rfl
@[simp] theorem modMiss_sent (slice j line : Nat) (f : MissReg → Option MissReg) (s : State) : (modMiss slice j line f s).sent = s.sent := rfl
@[simp] theorem modMiss_timeNs (slice j line : Nat) (f : MissReg → Option MissReg) (s : State) : (modMiss slice j line f s).timeNs = s.timeNs := rfl
@[simp] theorem modMiss_boot (slice j line : Nat) (f : MissReg → Option MissReg) (s : State) : (modMiss slice j line f s).boot = s.boot := rfl
@[simp] theorem modMiss_start (slice j line : Nat) (f : MissReg → Option MissReg) (s : State) : (modMiss slice j line f s).start = s.start := rfl
@[simp] theorem modMiss_power (slice j line : Nat) (f : MissReg → Option MissReg) (s : State) : (modMiss slice j line f s).power = s.power := rfl
@[simp] theorem modMiss_cores (slice j line : Nat) (f : MissReg → Option MissReg) (s : State) : (modMiss slice j line f s).cores = s.cores := rfl
@[simp] theorem modMiss_vale (slice j line : Nat) (f : MissReg → Option MissReg) (s : State) : (modMiss slice j line f s).vale = s.vale := rfl
@[simp] theorem modMiss_dir (slice j line : Nat) (f : MissReg → Option MissReg) (s : State) : (modMiss slice j line f s).dir = s.dir := rfl
@[simp] theorem modMiss_jobs (slice j line : Nat) (f : MissReg → Option MissReg) (s : State) : (modMiss slice j line f s).jobs = s.jobs := rfl
@[simp] theorem modMiss_bubbles (slice j line : Nat) (f : MissReg → Option MissReg) (s : State) : (modMiss slice j line f s).bubbles = s.bubbles := rfl
@[simp] theorem modMiss_ctxs (slice j line : Nat) (f : MissReg → Option MissReg) (s : State) : (modMiss slice j line f s).ctxs = s.ctxs := rfl
@[simp] theorem modMiss_objects (slice j line : Nat) (f : MissReg → Option MissReg) (s : State) : (modMiss slice j line f s).objects = s.objects := rfl
@[simp] theorem modMiss_running (slice j line : Nat) (f : MissReg → Option MissReg) (s : State) : (modMiss slice j line f s).running = s.running := rfl
@[simp] theorem modMiss_held (slice j line : Nat) (f : MissReg → Option MissReg) (s : State) : (modMiss slice j line f s).held = s.held := rfl
@[simp] theorem modMiss_afterJobs (slice j line : Nat) (f : MissReg → Option MissReg) (s : State) : (modMiss slice j line f s).afterJobs = s.afterJobs := rfl
@[simp] theorem modMiss_tickets (slice j line : Nat) (f : MissReg → Option MissReg) (s : State) : (modMiss slice j line f s).tickets = s.tickets := rfl
@[simp] theorem modMiss_eth (slice j line : Nat) (f : MissReg → Option MissReg) (s : State) : (modMiss slice j line f s).eth = s.eth := rfl
@[simp] theorem modMiss_pass (slice j line : Nat) (f : MissReg → Option MissReg) (s : State) : (modMiss slice j line f s).pass = s.pass := rfl
@[simp] theorem modMiss_config (slice j line : Nat) (f : MissReg → Option MissReg) (s : State) : (modMiss slice j line f s).config = s.config := rfl
@[simp] theorem modMiss_glen (slice j line : Nat) (f : MissReg → Option MissReg) (s : State) : (modMiss slice j line f s).glen = s.glen := rfl
@[simp] theorem modMiss_fw (slice j line : Nat) (f : MissReg → Option MissReg) (s : State) : (modMiss slice j line f s).fw = s.fw := rfl
@[simp] theorem modMiss_lc (slice j line : Nat) (f : MissReg → Option MissReg) (s : State) : (modMiss slice j line f s).lc = s.lc := rfl
@[simp] theorem modMiss_ledger (slice j line : Nat) (f : MissReg → Option MissReg) (s : State) : (modMiss slice j line f s).ledger = s.ledger := rfl
@[simp] theorem modMiss_errors (slice j line : Nat) (f : MissReg → Option MissReg) (s : State) : (modMiss slice j line f s).errors = s.errors := rfl
@[simp] theorem modMiss_mgmt (slice j line : Nat) (f : MissReg → Option MissReg) (s : State) : (modMiss slice j line f s).mgmt = s.mgmt := rfl
@[simp] theorem modMiss_i3c (slice j line : Nat) (f : MissReg → Option MissReg) (s : State) : (modMiss slice j line f s).i3c = s.i3c := rfl

@[simp] theorem setMiss_pending (slice : Nat) (l : List MissReg) (s : State) : (setMiss slice l s).pending = s.pending := rfl
@[simp] theorem setMiss_free (slice : Nat) (l : List MissReg) (s : State) : (setMiss slice l s).free = s.free := rfl
@[simp] theorem setMiss_sent (slice : Nat) (l : List MissReg) (s : State) : (setMiss slice l s).sent = s.sent := rfl
@[simp] theorem setMiss_timeNs (slice : Nat) (l : List MissReg) (s : State) : (setMiss slice l s).timeNs = s.timeNs := rfl
@[simp] theorem setMiss_boot (slice : Nat) (l : List MissReg) (s : State) : (setMiss slice l s).boot = s.boot := rfl
@[simp] theorem setMiss_start (slice : Nat) (l : List MissReg) (s : State) : (setMiss slice l s).start = s.start := rfl
@[simp] theorem setMiss_power (slice : Nat) (l : List MissReg) (s : State) : (setMiss slice l s).power = s.power := rfl
@[simp] theorem setMiss_cores (slice : Nat) (l : List MissReg) (s : State) : (setMiss slice l s).cores = s.cores := rfl
@[simp] theorem setMiss_vale (slice : Nat) (l : List MissReg) (s : State) : (setMiss slice l s).vale = s.vale := rfl
@[simp] theorem setMiss_dir (slice : Nat) (l : List MissReg) (s : State) : (setMiss slice l s).dir = s.dir := rfl
@[simp] theorem setMiss_jobs (slice : Nat) (l : List MissReg) (s : State) : (setMiss slice l s).jobs = s.jobs := rfl
@[simp] theorem setMiss_bubbles (slice : Nat) (l : List MissReg) (s : State) : (setMiss slice l s).bubbles = s.bubbles := rfl
@[simp] theorem setMiss_ctxs (slice : Nat) (l : List MissReg) (s : State) : (setMiss slice l s).ctxs = s.ctxs := rfl
@[simp] theorem setMiss_objects (slice : Nat) (l : List MissReg) (s : State) : (setMiss slice l s).objects = s.objects := rfl
@[simp] theorem setMiss_running (slice : Nat) (l : List MissReg) (s : State) : (setMiss slice l s).running = s.running := rfl
@[simp] theorem setMiss_held (slice : Nat) (l : List MissReg) (s : State) : (setMiss slice l s).held = s.held := rfl
@[simp] theorem setMiss_afterJobs (slice : Nat) (l : List MissReg) (s : State) : (setMiss slice l s).afterJobs = s.afterJobs := rfl
@[simp] theorem setMiss_tickets (slice : Nat) (l : List MissReg) (s : State) : (setMiss slice l s).tickets = s.tickets := rfl
@[simp] theorem setMiss_eth (slice : Nat) (l : List MissReg) (s : State) : (setMiss slice l s).eth = s.eth := rfl
@[simp] theorem setMiss_pass (slice : Nat) (l : List MissReg) (s : State) : (setMiss slice l s).pass = s.pass := rfl
@[simp] theorem setMiss_config (slice : Nat) (l : List MissReg) (s : State) : (setMiss slice l s).config = s.config := rfl
@[simp] theorem setMiss_glen (slice : Nat) (l : List MissReg) (s : State) : (setMiss slice l s).glen = s.glen := rfl
@[simp] theorem setMiss_fw (slice : Nat) (l : List MissReg) (s : State) : (setMiss slice l s).fw = s.fw := rfl
@[simp] theorem setMiss_lc (slice : Nat) (l : List MissReg) (s : State) : (setMiss slice l s).lc = s.lc := rfl
@[simp] theorem setMiss_ledger (slice : Nat) (l : List MissReg) (s : State) : (setMiss slice l s).ledger = s.ledger := rfl
@[simp] theorem setMiss_errors (slice : Nat) (l : List MissReg) (s : State) : (setMiss slice l s).errors = s.errors := rfl
@[simp] theorem setMiss_mgmt (slice : Nat) (l : List MissReg) (s : State) : (setMiss slice l s).mgmt = s.mgmt := rfl
@[simp] theorem setMiss_i3c (slice : Nat) (l : List MissReg) (s : State) : (setMiss slice l s).i3c = s.i3c := rfl

@[simp] theorem setWay_pending (key : Nat) (x : Option CLine) (s : State) : (setWay key x s).pending = s.pending := rfl
@[simp] theorem setWay_free (key : Nat) (x : Option CLine) (s : State) : (setWay key x s).free = s.free := rfl
@[simp] theorem setWay_sent (key : Nat) (x : Option CLine) (s : State) : (setWay key x s).sent = s.sent := rfl
@[simp] theorem setWay_timeNs (key : Nat) (x : Option CLine) (s : State) : (setWay key x s).timeNs = s.timeNs := rfl
@[simp] theorem setWay_boot (key : Nat) (x : Option CLine) (s : State) : (setWay key x s).boot = s.boot := rfl
@[simp] theorem setWay_start (key : Nat) (x : Option CLine) (s : State) : (setWay key x s).start = s.start := rfl
@[simp] theorem setWay_power (key : Nat) (x : Option CLine) (s : State) : (setWay key x s).power = s.power := rfl
@[simp] theorem setWay_cores (key : Nat) (x : Option CLine) (s : State) : (setWay key x s).cores = s.cores := rfl
@[simp] theorem setWay_vale (key : Nat) (x : Option CLine) (s : State) : (setWay key x s).vale = s.vale := rfl
@[simp] theorem setWay_dir (key : Nat) (x : Option CLine) (s : State) : (setWay key x s).dir = s.dir := rfl
@[simp] theorem setWay_jobs (key : Nat) (x : Option CLine) (s : State) : (setWay key x s).jobs = s.jobs := rfl
@[simp] theorem setWay_bubbles (key : Nat) (x : Option CLine) (s : State) : (setWay key x s).bubbles = s.bubbles := rfl
@[simp] theorem setWay_ctxs (key : Nat) (x : Option CLine) (s : State) : (setWay key x s).ctxs = s.ctxs := rfl
@[simp] theorem setWay_objects (key : Nat) (x : Option CLine) (s : State) : (setWay key x s).objects = s.objects := rfl
@[simp] theorem setWay_running (key : Nat) (x : Option CLine) (s : State) : (setWay key x s).running = s.running := rfl
@[simp] theorem setWay_held (key : Nat) (x : Option CLine) (s : State) : (setWay key x s).held = s.held := rfl
@[simp] theorem setWay_afterJobs (key : Nat) (x : Option CLine) (s : State) : (setWay key x s).afterJobs = s.afterJobs := rfl
@[simp] theorem setWay_tickets (key : Nat) (x : Option CLine) (s : State) : (setWay key x s).tickets = s.tickets := rfl
@[simp] theorem setWay_eth (key : Nat) (x : Option CLine) (s : State) : (setWay key x s).eth = s.eth := rfl
@[simp] theorem setWay_pass (key : Nat) (x : Option CLine) (s : State) : (setWay key x s).pass = s.pass := rfl
@[simp] theorem setWay_config (key : Nat) (x : Option CLine) (s : State) : (setWay key x s).config = s.config := rfl
@[simp] theorem setWay_glen (key : Nat) (x : Option CLine) (s : State) : (setWay key x s).glen = s.glen := rfl
@[simp] theorem setWay_fw (key : Nat) (x : Option CLine) (s : State) : (setWay key x s).fw = s.fw := rfl
@[simp] theorem setWay_lc (key : Nat) (x : Option CLine) (s : State) : (setWay key x s).lc = s.lc := rfl
@[simp] theorem setWay_ledger (key : Nat) (x : Option CLine) (s : State) : (setWay key x s).ledger = s.ledger := rfl
@[simp] theorem setWay_errors (key : Nat) (x : Option CLine) (s : State) : (setWay key x s).errors = s.errors := rfl
@[simp] theorem setWay_mgmt (key : Nat) (x : Option CLine) (s : State) : (setWay key x s).mgmt = s.mgmt := rfl
@[simp] theorem setWay_i3c (key : Nat) (x : Option CLine) (s : State) : (setWay key x s).i3c = s.i3c := rfl

@[simp] theorem modPchan_pending (p : Nat) (f : Pchan → Pchan) (s : State) : (modPchan p f s).pending = s.pending := rfl
@[simp] theorem modPchan_free (p : Nat) (f : Pchan → Pchan) (s : State) : (modPchan p f s).free = s.free := rfl
@[simp] theorem modPchan_sent (p : Nat) (f : Pchan → Pchan) (s : State) : (modPchan p f s).sent = s.sent := rfl
@[simp] theorem modPchan_timeNs (p : Nat) (f : Pchan → Pchan) (s : State) : (modPchan p f s).timeNs = s.timeNs := rfl
@[simp] theorem modPchan_boot (p : Nat) (f : Pchan → Pchan) (s : State) : (modPchan p f s).boot = s.boot := rfl
@[simp] theorem modPchan_start (p : Nat) (f : Pchan → Pchan) (s : State) : (modPchan p f s).start = s.start := rfl
@[simp] theorem modPchan_power (p : Nat) (f : Pchan → Pchan) (s : State) : (modPchan p f s).power = s.power := rfl
@[simp] theorem modPchan_cores (p : Nat) (f : Pchan → Pchan) (s : State) : (modPchan p f s).cores = s.cores := rfl
@[simp] theorem modPchan_cache (p : Nat) (f : Pchan → Pchan) (s : State) : (modPchan p f s).cache = s.cache := rfl
@[simp] theorem modPchan_dir (p : Nat) (f : Pchan → Pchan) (s : State) : (modPchan p f s).dir = s.dir := rfl
@[simp] theorem modPchan_jobs (p : Nat) (f : Pchan → Pchan) (s : State) : (modPchan p f s).jobs = s.jobs := rfl
@[simp] theorem modPchan_bubbles (p : Nat) (f : Pchan → Pchan) (s : State) : (modPchan p f s).bubbles = s.bubbles := rfl
@[simp] theorem modPchan_ctxs (p : Nat) (f : Pchan → Pchan) (s : State) : (modPchan p f s).ctxs = s.ctxs := rfl
@[simp] theorem modPchan_objects (p : Nat) (f : Pchan → Pchan) (s : State) : (modPchan p f s).objects = s.objects := rfl
@[simp] theorem modPchan_running (p : Nat) (f : Pchan → Pchan) (s : State) : (modPchan p f s).running = s.running := rfl
@[simp] theorem modPchan_held (p : Nat) (f : Pchan → Pchan) (s : State) : (modPchan p f s).held = s.held := rfl
@[simp] theorem modPchan_afterJobs (p : Nat) (f : Pchan → Pchan) (s : State) : (modPchan p f s).afterJobs = s.afterJobs := rfl
@[simp] theorem modPchan_tickets (p : Nat) (f : Pchan → Pchan) (s : State) : (modPchan p f s).tickets = s.tickets := rfl
@[simp] theorem modPchan_eth (p : Nat) (f : Pchan → Pchan) (s : State) : (modPchan p f s).eth = s.eth := rfl
@[simp] theorem modPchan_pass (p : Nat) (f : Pchan → Pchan) (s : State) : (modPchan p f s).pass = s.pass := rfl
@[simp] theorem modPchan_config (p : Nat) (f : Pchan → Pchan) (s : State) : (modPchan p f s).config = s.config := rfl
@[simp] theorem modPchan_glen (p : Nat) (f : Pchan → Pchan) (s : State) : (modPchan p f s).glen = s.glen := rfl
@[simp] theorem modPchan_fw (p : Nat) (f : Pchan → Pchan) (s : State) : (modPchan p f s).fw = s.fw := rfl
@[simp] theorem modPchan_lc (p : Nat) (f : Pchan → Pchan) (s : State) : (modPchan p f s).lc = s.lc := rfl
@[simp] theorem modPchan_ledger (p : Nat) (f : Pchan → Pchan) (s : State) : (modPchan p f s).ledger = s.ledger := rfl
@[simp] theorem modPchan_errors (p : Nat) (f : Pchan → Pchan) (s : State) : (modPchan p f s).errors = s.errors := rfl
@[simp] theorem modPchan_mgmt (p : Nat) (f : Pchan → Pchan) (s : State) : (modPchan p f s).mgmt = s.mgmt := rfl
@[simp] theorem modPchan_i3c (p : Nat) (f : Pchan → Pchan) (s : State) : (modPchan p f s).i3c = s.i3c := rfl

@[simp] theorem modRegion_pending (r : Nat) (f : Region → Region) (s : State) : (modRegion r f s).pending = s.pending := rfl
@[simp] theorem modRegion_free (r : Nat) (f : Region → Region) (s : State) : (modRegion r f s).free = s.free := rfl
@[simp] theorem modRegion_sent (r : Nat) (f : Region → Region) (s : State) : (modRegion r f s).sent = s.sent := rfl
@[simp] theorem modRegion_timeNs (r : Nat) (f : Region → Region) (s : State) : (modRegion r f s).timeNs = s.timeNs := rfl
@[simp] theorem modRegion_boot (r : Nat) (f : Region → Region) (s : State) : (modRegion r f s).boot = s.boot := rfl
@[simp] theorem modRegion_start (r : Nat) (f : Region → Region) (s : State) : (modRegion r f s).start = s.start := rfl
@[simp] theorem modRegion_power (r : Nat) (f : Region → Region) (s : State) : (modRegion r f s).power = s.power := rfl
@[simp] theorem modRegion_cores (r : Nat) (f : Region → Region) (s : State) : (modRegion r f s).cores = s.cores := rfl
@[simp] theorem modRegion_cache (r : Nat) (f : Region → Region) (s : State) : (modRegion r f s).cache = s.cache := rfl
@[simp] theorem modRegion_dir (r : Nat) (f : Region → Region) (s : State) : (modRegion r f s).dir = s.dir := rfl
@[simp] theorem modRegion_jobs (r : Nat) (f : Region → Region) (s : State) : (modRegion r f s).jobs = s.jobs := rfl
@[simp] theorem modRegion_bubbles (r : Nat) (f : Region → Region) (s : State) : (modRegion r f s).bubbles = s.bubbles := rfl
@[simp] theorem modRegion_ctxs (r : Nat) (f : Region → Region) (s : State) : (modRegion r f s).ctxs = s.ctxs := rfl
@[simp] theorem modRegion_objects (r : Nat) (f : Region → Region) (s : State) : (modRegion r f s).objects = s.objects := rfl
@[simp] theorem modRegion_running (r : Nat) (f : Region → Region) (s : State) : (modRegion r f s).running = s.running := rfl
@[simp] theorem modRegion_held (r : Nat) (f : Region → Region) (s : State) : (modRegion r f s).held = s.held := rfl
@[simp] theorem modRegion_afterJobs (r : Nat) (f : Region → Region) (s : State) : (modRegion r f s).afterJobs = s.afterJobs := rfl
@[simp] theorem modRegion_tickets (r : Nat) (f : Region → Region) (s : State) : (modRegion r f s).tickets = s.tickets := rfl
@[simp] theorem modRegion_eth (r : Nat) (f : Region → Region) (s : State) : (modRegion r f s).eth = s.eth := rfl
@[simp] theorem modRegion_pass (r : Nat) (f : Region → Region) (s : State) : (modRegion r f s).pass = s.pass := rfl
@[simp] theorem modRegion_config (r : Nat) (f : Region → Region) (s : State) : (modRegion r f s).config = s.config := rfl
@[simp] theorem modRegion_glen (r : Nat) (f : Region → Region) (s : State) : (modRegion r f s).glen = s.glen := rfl
@[simp] theorem modRegion_fw (r : Nat) (f : Region → Region) (s : State) : (modRegion r f s).fw = s.fw := rfl
@[simp] theorem modRegion_lc (r : Nat) (f : Region → Region) (s : State) : (modRegion r f s).lc = s.lc := rfl
@[simp] theorem modRegion_ledger (r : Nat) (f : Region → Region) (s : State) : (modRegion r f s).ledger = s.ledger := rfl
@[simp] theorem modRegion_errors (r : Nat) (f : Region → Region) (s : State) : (modRegion r f s).errors = s.errors := rfl
@[simp] theorem modRegion_mgmt (r : Nat) (f : Region → Region) (s : State) : (modRegion r f s).mgmt = s.mgmt := rfl
@[simp] theorem modRegion_i3c (r : Nat) (f : Region → Region) (s : State) : (modRegion r f s).i3c = s.i3c := rfl

@[simp] theorem modBubbles_pending (p : Nat) (f : Bubbles → Bubbles) (s : State) : (modBubbles p f s).pending = s.pending := rfl
@[simp] theorem modBubbles_free (p : Nat) (f : Bubbles → Bubbles) (s : State) : (modBubbles p f s).free = s.free := rfl
@[simp] theorem modBubbles_sent (p : Nat) (f : Bubbles → Bubbles) (s : State) : (modBubbles p f s).sent = s.sent := rfl
@[simp] theorem modBubbles_timeNs (p : Nat) (f : Bubbles → Bubbles) (s : State) : (modBubbles p f s).timeNs = s.timeNs := rfl
@[simp] theorem modBubbles_boot (p : Nat) (f : Bubbles → Bubbles) (s : State) : (modBubbles p f s).boot = s.boot := rfl
@[simp] theorem modBubbles_start (p : Nat) (f : Bubbles → Bubbles) (s : State) : (modBubbles p f s).start = s.start := rfl
@[simp] theorem modBubbles_power (p : Nat) (f : Bubbles → Bubbles) (s : State) : (modBubbles p f s).power = s.power := rfl
@[simp] theorem modBubbles_cores (p : Nat) (f : Bubbles → Bubbles) (s : State) : (modBubbles p f s).cores = s.cores := rfl
@[simp] theorem modBubbles_cache (p : Nat) (f : Bubbles → Bubbles) (s : State) : (modBubbles p f s).cache = s.cache := rfl
@[simp] theorem modBubbles_vale (p : Nat) (f : Bubbles → Bubbles) (s : State) : (modBubbles p f s).vale = s.vale := rfl
@[simp] theorem modBubbles_dir (p : Nat) (f : Bubbles → Bubbles) (s : State) : (modBubbles p f s).dir = s.dir := rfl
@[simp] theorem modBubbles_jobs (p : Nat) (f : Bubbles → Bubbles) (s : State) : (modBubbles p f s).jobs = s.jobs := rfl
@[simp] theorem modBubbles_ctxs (p : Nat) (f : Bubbles → Bubbles) (s : State) : (modBubbles p f s).ctxs = s.ctxs := rfl
@[simp] theorem modBubbles_objects (p : Nat) (f : Bubbles → Bubbles) (s : State) : (modBubbles p f s).objects = s.objects := rfl
@[simp] theorem modBubbles_running (p : Nat) (f : Bubbles → Bubbles) (s : State) : (modBubbles p f s).running = s.running := rfl
@[simp] theorem modBubbles_held (p : Nat) (f : Bubbles → Bubbles) (s : State) : (modBubbles p f s).held = s.held := rfl
@[simp] theorem modBubbles_afterJobs (p : Nat) (f : Bubbles → Bubbles) (s : State) : (modBubbles p f s).afterJobs = s.afterJobs := rfl
@[simp] theorem modBubbles_tickets (p : Nat) (f : Bubbles → Bubbles) (s : State) : (modBubbles p f s).tickets = s.tickets := rfl
@[simp] theorem modBubbles_eth (p : Nat) (f : Bubbles → Bubbles) (s : State) : (modBubbles p f s).eth = s.eth := rfl
@[simp] theorem modBubbles_pass (p : Nat) (f : Bubbles → Bubbles) (s : State) : (modBubbles p f s).pass = s.pass := rfl
@[simp] theorem modBubbles_config (p : Nat) (f : Bubbles → Bubbles) (s : State) : (modBubbles p f s).config = s.config := rfl
@[simp] theorem modBubbles_glen (p : Nat) (f : Bubbles → Bubbles) (s : State) : (modBubbles p f s).glen = s.glen := rfl
@[simp] theorem modBubbles_fw (p : Nat) (f : Bubbles → Bubbles) (s : State) : (modBubbles p f s).fw = s.fw := rfl
@[simp] theorem modBubbles_lc (p : Nat) (f : Bubbles → Bubbles) (s : State) : (modBubbles p f s).lc = s.lc := rfl
@[simp] theorem modBubbles_ledger (p : Nat) (f : Bubbles → Bubbles) (s : State) : (modBubbles p f s).ledger = s.ledger := rfl
@[simp] theorem modBubbles_errors (p : Nat) (f : Bubbles → Bubbles) (s : State) : (modBubbles p f s).errors = s.errors := rfl
@[simp] theorem modBubbles_mgmt (p : Nat) (f : Bubbles → Bubbles) (s : State) : (modBubbles p f s).mgmt = s.mgmt := rfl
@[simp] theorem modBubbles_i3c (p : Nat) (f : Bubbles → Bubbles) (s : State) : (modBubbles p f s).i3c = s.i3c := rfl

end Sys2Proof.Laws
end

