-- ==== Sys2Proof/Tests/Slice0.lean ====
section
/-! SUPPORT. Tests: well-formedness, the manual's worked examples, and for each statement of Certificates/Slice0 a state
and operands that meet the hypotheses of each of its clauses. -/

namespace Sys2Proof.Tests

set_option Elab.async false

open Sys2Proof.Machine Sys2Proof.Laws

/-! ### Well-formedness -/

def env0 : BootEnv := ⟨true, true, true, true, true, true, []⟩
def meas0 : PowerMeas := ⟨0, 0, 0, 0, [], [], [], [], 0⟩
def vreq0 : ValeReq := ⟨0, 0, 0, .ingress, none⟩
def creq0 : CoreReq := ⟨0, 0, 0, .read64, 0, 0, 0, [], none, 0⟩

/-! One term for each check of each command, with the operand at its limit. -/

theorem test_illFormed_0 : (([
  .hello 4096,
  .qpCreate 4096,
  .windowOpen 4096,
  .groupCreate 4096,
  .steppeAttach 4096,
  .tierMoveFetch 4096,
  .tierMoveEvict 4096,
  .jobCreate 4096,
  .jobDestroy 4096,
  .teardownStepDone 32,
  .attest 4096,
  .keyDeliver 4096,
  .ingress 4096,
  .ingressComplete 32 0,
  .ingressComplete 0 65535,
  .tensorDefine 4096,
  .tensorRelease 4096,
  .programCreate 4096,
  .programSubmit 4096,
  .programAbort 4096,
  .fenceCreate 4096,
  .fenceImport 4096,
  .fenceSignal 4096,
  .fenceWait 4096,
  .fenceQuery 4096,
  .objectDestroy 4096,
  .objectFree (.object 65536),
  .objectFree (.tensor 32 0),
  .objectFree (.tensor 0 65535),
  .messageWaitRelease 4096,
  .ckptSetup 4096,
  .ckptTrigger 4096,
  .ckptStatus 4096,
  .restore 4096 .failed .failed,
  .stateImport 4096 .failed .failed .failed,
  .stateImportComplete 32 .failed,
  .configErase (.inbox 4096),
  .configWrite (.inbox 4096),
  .configCommit (.inbox 4096),
  .configSelect (.inbox 4096)] : List Instr).all fun i => !i.wf) = true := by decide

theorem test_illFormed_1 : (([
  .configActivate (.inbox 4096),
  .ledgerAnchor 4096,
  .ledgerStream 4096,
  .ledgerStop 4096,
  .certRead 4096,
  .jobKeySeal 4096,
  .jobKeyUnseal 4096,
  .fwErase (.inbox 4096),
  .fwWrite (.inbox 4096),
  .fwCommit (.inbox 4096),
  .fwActivate (.inbox 4096),
  .fwRatchet (.inbox 4096),
  .reqWrite (.inbox 4096),
  .lcTransition (.inbox 4096),
  .debugOpen 4096,
  .debugClose 4096,
  .functionReset (.inbox 4096),
  .warmReset (.inbox 4096),
  .coldReset (.inbox 4096) env0,
  .nop ⟨32, 0, 0⟩,
  .nop ⟨0, 0, 65535⟩,
  .spanBegin ⟨32, 0, 0⟩,
  .spanBegin ⟨0, 0, 65535⟩,
  .spanEnd ⟨32, 0, 0⟩,
  .spanEnd ⟨0, 0, 65535⟩,
  .spanCommit 32 0 0,
  .spanCommit 0 0 65535,
  .spanDiscard 32 0 0,
  .spanDiscard 0 0 65535,
  .spanRerun 32 0 0,
  .spanRerun 0 0 65535,
  .fenceWaitDescriptor ⟨32, 0, 0⟩,
  .fenceWaitDescriptor ⟨0, 0, 65535⟩,
  .fenceSignalDescriptor ⟨32, 0, 0⟩,
  .fenceSignalDescriptor ⟨0, 0, 65535⟩,
  .phaseHint ⟨32, 0, 0⟩,
  .phaseHint ⟨0, 0, 65535⟩,
  .bubbleOpen ⟨32, 0, 0⟩,
  .bubbleOpen ⟨0, 0, 65535⟩,
  .blockLend 16 0] : List Instr).all fun i => !i.wf) = true := by decide

theorem test_illFormed_2 : (([
  .blockLend 0 1000,
  .bubbleWindowClose 16 0,
  .blockReturn 16 0,
  .blockReturn 0 1000,
  .matmul ⟨32, 0, 0⟩ [],
  .matmul ⟨0, 0, 65535⟩ [],
  .matmulDx ⟨32, 0, 0⟩,
  .matmulDx ⟨0, 0, 65535⟩,
  .matmulDw ⟨32, 0, 0⟩,
  .matmulDw ⟨0, 0, 65535⟩,
  .matmulAlt ⟨32, 0, 0⟩,
  .matmulAlt ⟨0, 0, 65535⟩,
  .attentionFwd ⟨32, 0, 0⟩,
  .attentionFwd ⟨0, 0, 65535⟩,
  .attentionBwd ⟨32, 0, 0⟩,
  .attentionBwd ⟨0, 0, 65535⟩,
  .norm ⟨32, 0, 0⟩,
  .norm ⟨0, 0, 65535⟩,
  .normBwd ⟨32, 0, 0⟩,
  .normBwd ⟨0, 0, 65535⟩,
  .softmax ⟨32, 0, 0⟩,
  .softmax ⟨0, 0, 65535⟩,
  .elementwise ⟨32, 0, 0⟩,
  .elementwise ⟨0, 0, 65535⟩,
  .reduce ⟨32, 0, 0⟩,
  .reduce ⟨0, 0, 65535⟩,
  .cast ⟨32, 0, 0⟩,
  .cast ⟨0, 0, 65535⟩,
  .transposeCopy ⟨32, 0, 0⟩,
  .transposeCopy ⟨0, 0, 65535⟩,
  .copy ⟨32, 0, 0⟩,
  .copy ⟨0, 0, 65535⟩,
  .fill ⟨32, 0, 0⟩,
  .fill ⟨0, 0, 65535⟩,
  .scatterReduce ⟨32, 0, 0⟩,
  .scatterReduce ⟨0, 0, 65535⟩,
  .saddleGather ⟨32, 0, 0⟩,
  .saddleGather ⟨0, 0, 65535⟩,
  .saddleStagingResume 1000 0,
  .saddleStagingResume 0 64] : List Instr).all fun i => !i.wf) = true := by decide

theorem test_illFormed_3 : (([
  .allGather ⟨32, 0, 0⟩,
  .allGather ⟨0, 0, 65535⟩,
  .reduceScatter ⟨32, 0, 0⟩,
  .reduceScatter ⟨0, 0, 65535⟩,
  .allReduce ⟨32, 0, 0⟩,
  .allReduce ⟨0, 0, 65535⟩,
  .send ⟨32, 0, 0⟩,
  .send ⟨0, 0, 65535⟩,
  .receive ⟨32, 0, 0⟩,
  .receive ⟨0, 0, 65535⟩,
  .verdict ⟨32, 0, 0⟩,
  .verdict ⟨0, 0, 65535⟩,
  .verdictComplete 32 0,
  .stash ⟨32, 0, 0⟩,
  .stash ⟨0, 0, 65535⟩,
  .unstash ⟨32, 0, 0⟩,
  .unstash ⟨0, 0, 65535⟩,
  .optimiserStep ⟨32, 0, 0⟩,
  .optimiserStep ⟨0, 0, 65535⟩,
  .momentTask ⟨32, 0, 0⟩ 0,
  .momentTask ⟨0, 0, 65535⟩ 0,
  .weightTask ⟨32, 0, 0⟩ 0,
  .weightTask ⟨0, 0, 65535⟩ 0,
  .digest ⟨32, 0, 0⟩,
  .digest ⟨0, 0, 65535⟩,
  .statistics ⟨32, 0, 0⟩,
  .statistics ⟨0, 0, 65535⟩,
  .release ⟨32, 0, 0⟩,
  .release ⟨0, 0, 65535⟩,
  .releaseComplete 32 0 false,
  .ingressWait ⟨32, 0, 0⟩,
  .ingressWait ⟨0, 0, 65535⟩,
  .taskBoundary ⟨32, 0, 0⟩ 0,
  .taskBoundary ⟨0, 0, 65535⟩ 0,
  .fenceWaitTimeout (.host 4096 0),
  .fenceWaitTimeout (.program ⟨32, 0, 0⟩),
  .collectiveTimeout ⟨32, 0, 0⟩,
  .collectiveTimeout ⟨0, 0, 65535⟩,
  .transferTimeout ⟨32, 0, 0⟩,
  .transferTimeout ⟨0, 0, 65535⟩] : List Instr).all fun i => !i.wf) = true := by decide

theorem test_illFormed_4 : (([
  .fenceEvictionDone 65536,
  .plainCacheAccess ⟨0, 0, 0, .read64, 32, 0, 0, [], none, 0⟩ [],
  .plainCacheAccess ⟨80000, 0, 0, .read64, 0, 0, 0, [], none, 0⟩ [],
  .plainCacheAccess ⟨0, 4, 0, .read64, 0, 0, 0, [], none, 0⟩ [],
  .plainCacheAccess ⟨0, 0, 0, .read64, 0, (2 ^ 40), 0, [], none, 0⟩ [],
  .plainCacheAccess ⟨0, 0, 0, .reserved 16, 0, 0, 0, [], none, 0⟩ [],
  .plainCacheAccess ⟨0, 0, 0, .reserved 6, 0, 0, 0, [], none, 0⟩ [],
  .missQueueDequeue 1000,
  .lineFill 1000 0 .good .good [],
  .valeRequestAccept 384,
  .valeRead ⟨540 * 2 ^ 30, 0, 0, .ingress, none⟩ .good .good,
  .valeFullLineWrite ⟨540 * 2 ^ 30, 0, 0, .ingress, none⟩ [],
  .valePartialWrite ⟨540 * 2 ^ 30, 0, 0, .ingress, none⟩ 0 [] .good .good,
  .keyIdRetire 256,
  .keyIdFree 256,
  .fetchFrameResume 32,
  .steppeChunkArrival 32 0 0 [],
  .steppeChunkArrival 0 524288 0 [],
  .steppeChunkArrival 0 0 256 [],
  .evictionComplete 32 0,
  .evictionComplete 0 524288,
  .basinFold 32 0,
  .basinFold 0 65536,
  .plpHello 32 [],
  .creditInit 32 [],
  .creditReturn 32 [],
  .ack 32 [],
  .nak 32 [],
  .idle 32 [],
  .ackTimer 32,
  .creditReturnTimer 32,
  .idleTimer 32,
  .uncorrectableCodeword 32 0 0 none,
  .uncorrectableCodeword 0 8 0 none,
  .abortMarker 32 0 0,
  .abortMarker 0 8 0,
  .transitForward 32 [] [],
  .plp1Forward 32 [],
  .data 32 [] [],
  .clearToSend 32 [],
  .placementAck 32 [],
  .readRequest 32 []] : List Instr).all fun i => !i.wf) = true := by decide

theorem test_illFormed_5 : (([
  .readData 32 [],
  .fenceSignalPacket 32 [],
  .keyRetirement 32 [],
  .jobFaultNotice 32 [],
  .errorPacket 32 [],
  .barrierRequest 32 [],
  .barrierEnter 32 [],
  .memberArrived 32 false,
  .barrierReport 32 [],
  .barrierConfirm 32 [],
  .barrierRelease 32 [],
  .barrierTimeout 32,
  .shardWriteComplete 32 false,
  .shardDone 32 [],
  .manifestWriteComplete 32 false,
  .manifestWritten 32 [],
  .abandon 32 [],
  .restoreCheck 32 [],
  .restoreGo 32 [],
  .restoreRefuse 32 [],
  .restoreLoadComplete 32 .failed,
  .restoreDone 32 [],
  .keyingReportRequest 1048576 0,
  .leadReport 1048576 0 [],
  .memberReport 1048576 0 [],
  .jobKeyDelivery 1048576 0 [],
  .keyingRefusal 1048576 0 0,
  .keyingRetryTimer 32,
  .portTraining 32,
  .trainingStepDone 32 false,
  .clockLockTimeout 32,
  .fastRetrain 32,
  .lightAbsent 32 0,
  .lightAbsent 0 8,
  .noValidPacket 32,
  .fullTrainingRetry 32,
  .rdmaWrite 4096 0 0 [] [] [],
  .rdmaWriteWithImmediate 4096 0 0 [] [] [],
  .rdmaRead 4096,
  .atomic 4096] : List Instr).all fun i => !i.wf) = true := by decide

theorem test_illFormed_6 : (([
  .rdmaAck 4096 0 [],
  .rcNak 4096,
  .rcAckTimeout 4096,
  .congestionExperienced 4096,
  .congestionNotification 4096,
  .ratePeriod 4096,
  .pause 4 0,
  .pause 0 8,
  .resume 4 0,
  .resume 0 8,
  .ethLinkLoss 4,
  .ethLinkReturn 4,
  .blockRailTimeout 1000,
  .checkpointTimer 32,
  .microcodeReloadDone 4,
  .flagsWrite 32 0,
  .counterLowRead 65536,
  .registerWrite 65536 0,
  .entdaa 128,
  .setdasa 128,
  .rdmaSend 4096 [],
  .rnrNak 4096,
  .trainingStepTimeout 32] : List Instr).all fun i => !i.wf) = true := by decide

/-! One term for each command, with every operand at its lowest. -/

theorem test_wellFormed_0 : (([
  .hello 0,
  .qpCreate 0,
  .windowOpen 0,
  .groupCreate 0,
  .steppeAttach 0,
  .tierMoveFetch 0,
  .tierMoveEvict 0,
  .jobCreate 0,
  .jobDestroy 0,
  .teardownStepDone 0,
  .attest 0,
  .keyDeliver 0,
  .ingress 0,
  .ingressComplete 0 0,
  .tensorDefine 0,
  .tensorRelease 0,
  .programCreate 0,
  .programSubmit 0,
  .programAbort 0,
  .fenceCreate 0,
  .fenceImport 0,
  .fenceSignal 0,
  .fenceWait 0,
  .fenceQuery 0,
  .objectDestroy 0,
  .objectFree (.object 0),
  .messageWaitRelease 0,
  .ckptSetup 0,
  .ckptTrigger 0,
  .ckptStatus 0,
  .restore 0 .failed .failed,
  .stateImport 0 .failed .failed .failed,
  .stateImportComplete 0 .failed,
  .configErase (.inbox 0),
  .configWrite (.inbox 0),
  .configCommit (.inbox 0),
  .configSelect (.inbox 0),
  .configActivate (.inbox 0),
  .ledgerAnchor 0,
  .ledgerStream 0] : List Instr).all fun i => i.wf) = true := by decide

theorem test_wellFormed_1 : (([
  .ledgerStop 0,
  .certRead 0,
  .jobKeySeal 0,
  .jobKeyUnseal 0,
  .fwErase (.inbox 0),
  .fwWrite (.inbox 0),
  .fwCommit (.inbox 0),
  .fwActivate (.inbox 0),
  .fwRatchet (.inbox 0),
  .reqWrite (.inbox 0),
  .lcTransition (.inbox 0),
  .lcReset env0,
  .debugOpen 0,
  .debugClose 0,
  .functionReset (.inbox 0),
  .warmReset (.inbox 0),
  .coldReset (.inbox 0) env0,
  .nop ⟨0, 0, 0⟩,
  .spanBegin ⟨0, 0, 0⟩,
  .spanEnd ⟨0, 0, 0⟩,
  .spanCommit 0 0 0,
  .spanDiscard 0 0 0,
  .spanRerun 0 0 0,
  .fenceWaitDescriptor ⟨0, 0, 0⟩,
  .fenceSignalDescriptor ⟨0, 0, 0⟩,
  .phaseHint ⟨0, 0, 0⟩,
  .bubbleOpen ⟨0, 0, 0⟩,
  .blockLend 0 0,
  .bubbleWindowClose 0 0,
  .blockReturn 0 0,
  .matmul ⟨0, 0, 0⟩ [],
  .matmulDx ⟨0, 0, 0⟩,
  .matmulDw ⟨0, 0, 0⟩,
  .matmulAlt ⟨0, 0, 0⟩,
  .attentionFwd ⟨0, 0, 0⟩,
  .attentionBwd ⟨0, 0, 0⟩,
  .norm ⟨0, 0, 0⟩,
  .normBwd ⟨0, 0, 0⟩,
  .softmax ⟨0, 0, 0⟩,
  .elementwise ⟨0, 0, 0⟩] : List Instr).all fun i => i.wf) = true := by decide

theorem test_wellFormed_2 : (([
  .reduce ⟨0, 0, 0⟩,
  .cast ⟨0, 0, 0⟩,
  .transposeCopy ⟨0, 0, 0⟩,
  .copy ⟨0, 0, 0⟩,
  .fill ⟨0, 0, 0⟩,
  .scatterReduce ⟨0, 0, 0⟩,
  .saddleGather ⟨0, 0, 0⟩,
  .saddleStagingResume 0 0,
  .allGather ⟨0, 0, 0⟩,
  .reduceScatter ⟨0, 0, 0⟩,
  .allReduce ⟨0, 0, 0⟩,
  .send ⟨0, 0, 0⟩,
  .receive ⟨0, 0, 0⟩,
  .verdict ⟨0, 0, 0⟩,
  .verdictComplete 0 0,
  .stash ⟨0, 0, 0⟩,
  .unstash ⟨0, 0, 0⟩,
  .optimiserStep ⟨0, 0, 0⟩,
  .momentTask ⟨0, 0, 0⟩ 0,
  .weightTask ⟨0, 0, 0⟩ 0,
  .digest ⟨0, 0, 0⟩,
  .statistics ⟨0, 0, 0⟩,
  .release ⟨0, 0, 0⟩,
  .releaseComplete 0 0 false,
  .ingressWait ⟨0, 0, 0⟩,
  .taskBoundary ⟨0, 0, 0⟩ 0,
  .fenceWaitTimeout (.host 0 0),
  .collectiveTimeout ⟨0, 0, 0⟩,
  .transferTimeout ⟨0, 0, 0⟩,
  .fenceEvictionDone 0,
  .plainCacheAccess creq0 [],
  .missQueueDequeue 0,
  .lineFill 0 0 .good .good [],
  .valeRequestAccept 0,
  .valeRead vreq0 .good .good,
  .valeFullLineWrite vreq0 [],
  .valePartialWrite vreq0 0 [] .good .good,
  .sweepStart,
  .sweepStep .good .good,
  .blockedWriteResume] : List Instr).all fun i => i.wf) = true := by decide

theorem test_wellFormed_3 : (([
  .keyIdRetire 0,
  .keyIdFree 0,
  .fetchFrameResume 0,
  .steppeChunkArrival 0 0 0 [],
  .evictionComplete 0 0,
  .basinFold 0 0,
  .plpHello 0 [],
  .creditInit 0 [],
  .creditReturn 0 [],
  .ack 0 [],
  .nak 0 [],
  .idle 0 [],
  .ackTimer 0,
  .creditReturnTimer 0,
  .idleTimer 0,
  .uncorrectableCodeword 0 0 0 none,
  .abortMarker 0 0 0,
  .transitForward 0 [] [],
  .plp1Forward 0 [],
  .data 0 [] [],
  .clearToSend 0 [],
  .placementAck 0 [],
  .readRequest 0 [],
  .readData 0 [],
  .fenceSignalPacket 0 [],
  .keyRetirement 0 [],
  .jobFaultNotice 0 [],
  .errorPacket 0 [],
  .barrierRequest 0 [],
  .barrierEnter 0 [],
  .memberArrived 0 false,
  .barrierReport 0 [],
  .barrierConfirm 0 [],
  .barrierRelease 0 [],
  .barrierTimeout 0,
  .shardWriteComplete 0 false,
  .shardDone 0 [],
  .manifestWriteComplete 0 false,
  .manifestWritten 0 [],
  .abandon 0 []] : List Instr).all fun i => i.wf) = true := by decide

theorem test_wellFormed_4 : (([
  .restoreCheck 0 [],
  .restoreGo 0 [],
  .restoreRefuse 0 [],
  .restoreLoadComplete 0 .failed,
  .restoreDone 0 [],
  .keyingReportRequest 0 0,
  .leadReport 0 0 [],
  .memberReport 0 0 [],
  .jobKeyDelivery 0 0 [],
  .keyingRefusal 0 0 0,
  .keyingRetryTimer 0,
  .portTraining 0,
  .trainingStepDone 0 false,
  .clockLockTimeout 0,
  .fastRetrain 0,
  .lightAbsent 0 0,
  .noValidPacket 0,
  .fullTrainingRetry 0,
  .rdmaWrite 0 0 0 [] [] [],
  .rdmaWriteWithImmediate 0 0 0 [] [] [],
  .rdmaRead 0,
  .atomic 0,
  .rdmaAck 0 0 [],
  .rcNak 0,
  .rcAckTimeout 0,
  .congestionExperienced 0,
  .congestionNotification 0,
  .ratePeriod 0,
  .pause 0 0,
  .resume 0 0,
  .ethLinkLoss 0,
  .ethLinkReturn 0,
  .powerInterval meas0,
  .railDroop [],
  .droopRevocationEnd,
  .inputDroop 0,
  .inputUndervoltage 0,
  .inputOvervoltage 0,
  .inputOvervoltageTrip 0,
  .thermtrip 0 0] : List Instr).all fun i => i.wf) = true := by decide

theorem test_wellFormed_5 : (([
  .inletOvertemp 0,
  .powerEnable,
  .startStepDone ⟨env0, []⟩,
  .blockGroupStart,
  .blockRailTimeout 0,
  .laserStep [],
  .powerLoss,
  .boardReset,
  .resetLRelease,
  .sysclkLoss,
  .netclkLoss,
  .tamperTrip .light,
  .tamperSample false false,
  .ceilingDerate [],
  .checkpointTimer 0,
  .accountingAudit,
  .microcodeReloadDone 0,
  .ledgerMirrorWrite false,
  .glenResponseDone,
  .ledgerSelectDone,
  .shScanDone,
  .alertStatusWrite 0,
  .failwarnWrite 0,
  .accessErrWrite 0,
  .flagsWrite 0 0,
  .pwrCapWrite 0,
  .currentLimitWrite 0,
  .throttleTempWrite 0,
  .sweepRateWrite 0,
  .nlogSelectWrite 0,
  .errSelectWrite 0,
  .ledgerSelectWrite 0,
  .shPageWrite 0,
  .shScan 0,
  .glenChalWrite 0,
  .counterLowRead 0,
  .ledgerSeqLoRead,
  .registerWrite 0 0,
  .sidebandResult,
  .entdaa 0] : List Instr).all fun i => i.wf) = true := by decide

theorem test_wellFormed_6 : (([
  .setdasa 0,
  .rstdaa,
  .enec,
  .disec,
  .getpid,
  .getbcr,
  .getdcr,
  .getstatus,
  .rdmaSend 0 [],
  .rnrNak 0,
  .netclkReturn,
  .vbatRemoval,
  .trainingStepTimeout 0,
  .glenOperationComplete,
  .firmwareActivationDone false,
  .clockStretchEnd] : List Instr).all fun i => i.wf) = true := by decide


/-! ### Helpers -/

/-- The machine as a ready Proend: started, its rails on. -/
def live : State := { State.reset with start := { step := 7, ready := true }, power := { railsOn := true } }

/-- A message as bytes: its type, flags, context, job, object, generation, args and body. -/
def note (typ flags ctx job obj gen : Nat) (args body : Bytes) : Bytes :=
  [0, 3, BitVec.ofNat 8 typ, BitVec.ofNat 8 flags] ++ leBytes 2 ctx ++ leBytes 2 body.length ++ zeros 8 ++ leBytes 4 job ++
    leBytes 2 obj ++ leBytes 1 gen ++ zeros 25 ++ args ++ zeros (16 - args.length) ++ body

/-- A state with a message at the front of an open context of partition 0, bound to a job. -/
def talk (ctx bound : Nat) (b : Bytes) (s : State) : State :=
  { s with ctxs := tset s.ctxs ctx { version := 3, jobId := bound, inbox := [b] } }

/-- What Front asks, as a check that runs. -/
def frontB (s : State) (ctx typ : Nat) (m : Msg) : Bool :=
  alive s && m.ctx == some ctx && (((tget s.ctxs ctx).map (·.inbox)).getD []).head? == some m.bytes &&
    msgType m.bytes == typ && waitState s m.bytes == .go && (startCheck s ctx m.bytes).isNone

theorem front_of {s : State} {ctx typ : Nat} {m : Msg} (h : frontB s ctx typ m = true) : Front s ctx typ m := by
  simp only [frontB, Bool.and_eq_true, beq_iff_eq, Option.isNone_iff_eq_none] at h
  obtain ⟨⟨⟨⟨⟨a, c⟩, f⟩, t⟩, w⟩, k⟩ := h
  refine ⟨a, c, ?_, t, w, k⟩
  generalize ((tget s.ctxs ctx).map (·.inbox)).getD [] = l at f
  cases l with
  | nil => simp at f
  | cons x r => exact ⟨r, by simp_all⟩

theorem arrives_of {s : State} {ctx typ : Nat} {m : Msg} (h : frontB s ctx typ m = true) : Arrives s typ (.inbox ctx) m (popInbox ctx s) :=
  .inbox ctx m (front_of h)

/-- A message of the sideband arrives. -/
theorem sideband_of {s : State} {typ : Nat} {b : Bytes}
    (h : (s.power.mainPower && !s.power.resetHeld && !s.mgmt.busy && decide (64 ≤ b.length) && decide (b.length ≤ 1024) &&
      b.length - 64 == rd b 6 2 && sidebandType typ && msgType b == typ && headerClean b && rd b 4 2 == 0) = true) :
    Arrives s typ (.sideband b) ⟨none, b⟩ { s with mgmt := { s.mgmt with busy := true } } := by
  simp only [Bool.and_eq_true, beq_iff_eq, decide_eq_true_eq, Bool.not_eq_true'] at h
  obtain ⟨⟨⟨⟨⟨⟨⟨⟨⟨a, c⟩, f⟩, t⟩, w⟩, k⟩, g⟩, i⟩, j⟩, l⟩ := h
  exact .sideband b ⟨⟨a, c⟩, f, ⟨t, w, k⟩, g, i, j, l⟩

/-- A descriptor of the opcode starts, and what is then is as the check says. -/
theorem starts_of {s : State} {t : TaskRef} {op : Nat} {p : Ref → State → Bool}
    (h : (match refOf s t with
      | none => false
      | some r0 => dOp r0.d == op && mayStart s r0 && (match refOf (enterSpan t r0 s) t with
        | none => false
        | some r => dOp r.d == op && p r (enterSpan t r0 s))) = true) :
    ∃ r u, Starts s t op r u ∧ p r u = true := by
  split at h
  · simp at h
  · next r0 h0 =>
    simp only [Bool.and_eq_true, beq_iff_eq] at h
    obtain ⟨⟨a, c⟩, h⟩ := h
    split at h
    · simp at h
    · next r hr =>
      simp only [Bool.and_eq_true, beq_iff_eq] at h
      exact ⟨r, _, ⟨⟨r0, h0, a, c, rfl⟩, hr, h.1⟩, h.2⟩

/-- A carve-out of 24 regions, the last of them the state pool, with a window of 512 pages. -/
def carve0 : Carve := { regions := List.range 24, regionMap := (List.range 23).map fun i => (i, i), dirCount := 512, controlGib := 4
                        basinSlot := 4, spillSlot := 12, promotionSlot := 20 }

/-- A keyed job of partition 0 under the id 7. -/
def work : Job := { id := 7, phase := .keyed, carve := carve0, mbSlots := List.range 20 }

/-- A ready Proend that holds a job. -/
def desk (b : Job) : State := { live with jobs := [(0, b)] }

/-- A message of the job 7 on its context 20. -/
def jobM (typ obj : Nat) (args body : Bytes) : Msg := ⟨some 20, note typ 0 20 7 obj 0 args body⟩

/-- The Proend with that message at the front. -/
def sends (m : Msg) (s : State) : State := talk 20 7 m.bytes s

/-- An object under index 0. -/
def holds (d : ObjData) (s : State) : State := { s with objects := { objs := [(0, { job := some 0, ctx := 20, data := d })], nextFresh := 1 } }

theorem ok_of {ε α : Type} {x : Except ε α} {q : α → Bool} (h : (match x with | .ok p => q p | .error _ => false) = true) :
    ∃ p, x = .ok p ∧ q p = true := by
  cases x with
  | error e => simp at h
  | ok p => exact ⟨p, rfl, h⟩

theorem some_of {α : Type} {x : Option α} {q : α → Bool} (h : (match x with | some p => q p | none => false) = true) :
    ∃ p, x = some p ∧ q p = true := by
  cases x with
  | none => simp at h
  | some p => exact ⟨p, rfl, h⟩

theorem pair_of {α : Type} {x : State × α} {a : α} (h : x.2 = a) : ∃ w, x = (w, a) := ⟨x.1, by rw [← h]⟩

/-- A one-dimensional tensor of n elements in a format code, with its logical_id. -/
def flat (base fmt n logical : Nat) : Bytes :=
  leBytes 5 base ++ [BitVec.ofNat 8 (fmt + 16)] ++ zeros 8 ++ [0xFF, 0xFF] ++ leBytes 3 n ++ zeros 29 ++ leBytes 4 0x3F800000 ++
    [0xFF, 0xFF, 0xFF, 0xFF] ++ leBytes 4 logical ++ zeros 4

/-- A descriptor: opcode, tile map, tensor slots, and the bytes from 28 on. -/
def desc (op map : Nat) (slots : List Nat) (rest : Bytes) : Bytes :=
  leBytes 2 op ++ zeros 10 ++ leBytes 2 map ++ [0xFF, 0xFF] ++ slots.flatMap (leBytes 2) ++ (List.range (6 - slots.length)).flatMap (fun _ => [0xFF, 0xFF]) ++
    rest ++ zeros (36 - rest.length)

/-- A tile map of one unit in block 0 of the partition. -/
def oneTile : Bytes := [0, 0, 1, 1] ++ leBytes 4 1 ++ leBytes 4 1 ++ leBytes 2 1 ++ [0, 1, 1] ++ zeros 15

/-- A program's header: one descriptor at 64, and its tile maps after it. -/
def header : Bytes := leBytes 2 0x0301 ++ [0, 0xFF] ++ leBytes 2 1 ++ leBytes 2 1 ++ leBytes 8 64 ++ leBytes 8 128 ++ zeros 40

def sub0 (descs : List Bytes) : Sub := { prog := 0, generation := 0, hdr := header, descs, maps := [oneTile] }

/-- A job whose tensors 0 to 5 are FP32, of one element each, and whose submission 0 has the descriptors. -/
def runs (descs : List Bytes) : Job :=
  { work with tensors := (List.range 6).map (fun i => (i, { raw := flat (2 ^ 32 + 64 * i) 4 1 0 })), subs := [(0, sub0 descs)] }

def t0 : TaskRef := ⟨0, 0, 0⟩

theorem error_of {ε α : Type} {x : Except ε α} {q : ε → Bool} (h : (match x with | .ok _ => false | .error e => q e) = true) :
    ∃ e, x = .error e ∧ q e = true := by
  cases x with
  | error e => exact ⟨e, rfl, h⟩
  | ok p => simp at h

theorem sub_left {a b : Bytes} {n : Nat} (h : a.length = n) : sub (a ++ b) 0 n = a := by
  subst h; simp [sub, zeros]

theorem sub_right {a b : Bytes} {n k : Nat} (h : a.length = n) (l : b.length = k) : sub (a ++ b) n k = b := by
  subst h l; simp [sub, zeros]

theorem two_of {α β : Type} {a : Option α} {b : Option β} (q : α → β → Bool) (h : (match a, b with | some x, some y => q x y | _, _ => false) = true) :
    ∃ x y, a = some x ∧ b = some y ∧ q x y = true := by
  cases a <;> cases b <;> simp_all

theorem aes_length {rks : List Bytes} (b : Bytes) (h : (rks.getD 14 []).length = 16) : (aesEncrypt rks b).length = 16 := by
  simp only [aesEncrypt, xorBytes, permute, shiftRows, List.length_map, List.length_zip, h]; rfl

theorem stream_length {rks : List Bytes} (iv : Bytes) (h : (rks.getD 14 []).length = 16) (n i : Nat) : (gcmStream rks iv n i).length = 16 * n := by
  induction n generalizing i with
  | zero => rfl
  | succ n ih => simp only [gcmStream, List.length_append, aes_length _ h, ih]; omega

theorem crypt_length {key : Bytes} (iv x : Bytes) (h : ((roundKeys key).getD 14 []).length = 16) : (gcmCrypt key iv x).length = x.length := by
  simp only [gcmCrypt, xorBytes, List.length_map, List.length_zip, stream_length _ h, ceilDiv]; omega

/-- A message of the management context 0, and of the sideband. -/
def mg (typ : Nat) (args body : Bytes) : Msg := ⟨some 0, note typ 0 0 0 0 0 args body⟩
def sb (typ : Nat) (args body : Bytes) : Bytes := note typ 0 0 0 0 0 args body
def manages (m : Msg) (s : State) : State := talk 0 0 m.bytes s
/-- The sideband at work. -/
def taken0 (s : State) : State := { s with mgmt := { s.mgmt with busy := true } }

/-! ### The machine -/

theorem test_idle : State.reset.pending = [] ∧ State.reset.power.mainPower = true ∧ State.reset.power.sysclk = true := by decide +kernel

theorem test_step_completes : ∃ t, memoriesWf State.reset ∧ step { State.reset with pending := [.startStepDone ⟨env0, []⟩] } = .next t :=
  ⟨_, ⟨by decide +kernel, by decide +kernel⟩, rfl⟩

/-- A Ledger of one record. -/
def oneRecord : Ledger := { ring := [(0, zeros 128)], next := 1, headDigest := sha256 (zeros 128) }

theorem oneRecord_chained : Chained oneRecord where
  one := by intro n r r' h k; simp [holdsRecord, oneRecord] at h k; rw [h.2, k.2]
  below := by intro n r h; simp [holdsRecord, oneRecord] at h; simp [h.1, oneRecord]
  mirrorBelow := by intro n r h; simp [oneRecord] at h
  mirroredLe := by decide +kernel
  head := by
    intro n r h _
    have e : r = zeros 128 := by simpa [holdsRecord, oneRecord] using And.right (by simpa [holdsRecord, oneRecord] using h)
    rw [e, oneRecord]
  link := by intro n r r' h k; simp [holdsRecord, oneRecord] at h k

theorem test_chained_steps : Chained oneRecord ∧ ∃ t, step { live with ledger := oneRecord, pending := [.accountingAudit] } = .next t :=
  ⟨oneRecord_chained, _, rfl⟩

theorem test_commands_complete : ∃ t, exec .droopRevocationEnd State.reset = .next t := ⟨_, rfl⟩

theorem test_supply_at_limit : ¬ 45000 < ({ meas0 with vinMv := 45000 } : PowerMeas).vinMv ∧
    exec (.inputOvervoltage 45001) live = .fault .beyondAbsoluteMaximum ∧
    exec (.inputOvervoltageTrip 45001) live = .fault .beyondAbsoluteMaximum ∧
    exec (.powerInterval { meas0 with vinMv := 45001 }) live = .fault .beyondAbsoluteMaximum :=
  ⟨by decide +kernel, rfl, rfl, rfl⟩

/-! ### Messages about contexts and objects -/

def helloM (ctx mask : Nat) : Msg := ⟨some ctx, note 0x01 0 ctx 0 0 0 [BitVec.ofNat 8 mask] []⟩

/-- Contexts that have no version yet. -/
def newborn : State := { live with ctxs := [20, 21, 22].map fun c => (c, { inbox := [(helloM c (if c = 20 then 8 else if c = 21 then 4 else 0xF3)).bytes] }) }

theorem test_hello : alive newborn = true ∧
    (∀ m ∈ [helloM 20 8, helloM 21 4, helloM 22 0xF3], ((tget newborn.ctxs (m.ctx.getD 0)).map (·.inbox)).getD [] = [m.bytes] ∧
      msgType m.bytes = 0x01 ∧ waitState newborn m.bytes = .go ∧ headerClean m.bytes = true) ∧
    bit (arg (helloM 20 8).bytes 0 1) 3 = true ∧
    bit (arg (helloM 21 4).bytes 0 1) 3 = false ∧ bit (arg (helloM 21 4).bytes 0 1) 2 = true ∧
    bit (arg (helloM 22 0xF3).bytes 0 1) 3 = false ∧ bit (arg (helloM 22 0xF3).bytes 0 1) 2 = false := by decide +kernel

def programM : Msg := jobM 0x30 0 (leBytes 5 (2 ^ 32) ++ leBytes 4 1) []
def fenceM : Msg := jobM 0x40 0 (leBytes 8 5 ++ [3, 7]) []
def importM : Msg := jobM 0x41 0 (leBytes 3 (2 ^ 20 - 1) ++ leBytes 2 9 ++ [4, 7]) []

theorem test_objects_created :
    (∀ m ∈ [programM, fenceM, importM], liveJob (popInbox 20 (sends m (desk work))) m = some 0 ∧ freeEntry (sends m (desk work)) = some 0) ∧
    (Front (sends programM (desk work)) 20 0x30 programM ∧ arg programM.bytes 5 4 ≠ 0 ∧
      rangeOk (popInbox 20 (sends programM (desk work))) 0 (arg programM.bytes 0 5) (arg programM.bytes 5 4) = true) ∧
    (Front (sends fenceM (desk work)) 20 0x40 fenceM ∧ arg fenceM.bytes 8 1 < 4 ∧ arg fenceM.bytes 9 1 < 8 ∧
      fenceRoom (popInbox 20 (sends fenceM (desk work))) 0 = true) ∧
    (Front (sends importM (desk work)) 20 0x41 importM ∧ arg importM.bytes 0 3 < 2 ^ 20 ∧ arg importM.bytes 6 1 < 8 ∧
      fenceRoom (popInbox 20 (sends importM (desk work))) 0 = true) :=
  ⟨by decide +kernel, ⟨front_of (by decide +kernel), by decide +kernel⟩, ⟨front_of (by decide +kernel), by decide +kernel⟩, ⟨front_of (by decide +kernel), by decide +kernel⟩⟩

/-- A queue pair of partition 0 in class 3. -/
def qp3 : Qp := { cls := 3 }
def windowM : Msg := jobM 0x03 0 (leBytes 5 (2 ^ 32) ++ leBytes 5 1 ++ leBytes 2 0 ++ [0]) []
def groupM : Msg := jobM 0x04 0 (leBytes 5 (2 ^ 32) ++ leBytes 3 1 ++ [0, 0, 0] ++ leBytes 4 10000000) []
def qpBody : Bytes := [3, 0, 0, 2, 20, 7] ++ leBytes 2 16 ++ leBytes 3 9 ++ [0] ++ leBytes 4 7 ++ zeros 48
def qpM : Msg := ⟨some 0, note 0x02 0 0 0 0 0 [] qpBody⟩
/-- A port of partition 0 with a source address of its own. -/
def port0 : EthCfg := { mask := 1, sources := [(0, zeros 16 ++ [1])] }
def wired (s : State) : State := { s with config := { s.config with image := { s.config.image with eth := [port0, {}, {}, {}] } } }
def qpState : State := wired { (talk 0 0 qpM.bytes (desk work)) with objects := {} }
def windowState : State := sends windowM { holds (.queuePair 64) (desk work) with eth := { qps := [(64, qp3)] } }
def groupState : State := sends groupM (desk work)

theorem test_window_created : Front windowState 20 0x03 windowM ∧ msgJob windowM.bytes ≠ 0 ∧
    liveJob (popInbox 20 windowState) windowM = some 0 ∧ genOf (popInbox 20 windowState) (arg windowM.bytes 10 2) = arg windowM.bytes 12 1 ∧
    (∃ o, objAt (popInbox 20 windowState) (arg windowM.bytes 10 2) = some o ∧ o.data = .queuePair 64 ∧ o.destroying = false) ∧
    (tget (popInbox 20 windowState).eth.qps 64).map (·.partition) = some (partOf 0) ∧ arg windowM.bytes 5 5 ≠ 0 ∧
    rangeIn (carveOf (popInbox 20 windowState) 0) (arg windowM.bytes 0 5) (arg windowM.bytes 5 5) = true :=
  ⟨front_of (by decide +kernel), by decide +kernel, by decide +kernel, by decide +kernel, ⟨_, rfl, rfl, rfl⟩, by decide +kernel, by decide +kernel, by decide +kernel⟩

theorem test_group_created : let t := popInbox 20 groupState
    let radices := [arg groupM.bytes 8 1 + 1, arg groupM.bytes 9 1 + 1, arg groupM.bytes 10 1 + 1]
    let members := (List.range 1).map fun i => leNat (peekN t 0 (arg groupM.bytes 0 5 + 4 * i) 4)
    Front groupState 20 0x04 groupM ∧ liveJob t groupM = some 0 ∧ tget t.jobs 0 = some work ∧ arg groupM.bytes 5 3 = 1 ∧
    rangeOk t 0 (arg groupM.bytes 0 5) 4 = true ∧ product radices = 1 ∧ groupRank t 1 (arg groupM.bytes 11 4) radices members = some 0 ∧
    poolUsed t 0 + 1 + ceilDiv 4 64 ≤ poolSize work :=
  ⟨front_of (by decide +kernel), by decide +kernel, by decide +kernel, by decide +kernel, by decide +kernel, by decide +kernel, by decide +kernel, by decide +kernel⟩

theorem test_queue_pair_created : let t := popInbox 0 qpState
    let b := msgBody qpM.bytes
    Front qpState 0 0x02 qpM ∧ ctxPart t 0 = 0 ∧ b.length = 64 ∧ rd b 0 1 < 4 ∧ rd b 1 1 < 4 ∧ rd b 3 1 < 3 ∧ 10 ≤ rd b 4 1 ∧ rd b 4 1 ≤ 20 ∧
    rd b 5 1 < 8 ∧ 16 ≤ rd b 6 2 ∧ rd b 6 2 < 4096 ∧ rd b 11 1 = 0 ∧ allZero (b.drop 44) = true ∧
    bit (t.config.image.eth.getD (rd b 1 1) {}).mask 0 = true ∧ sourceOwner t (rd b 1 1) (rd b 2 1) = some 0 ∧
    jobIndex t (rd b 12 4) = some 0 ∧ (some 0).map partOf = some 0 ∧ ((tget t.jobs 0).map (·.phase)) ≠ some .closing ∧
    tget t.ctxs (rd b 6 2) = none ∧ freeQp t = some 64 ∧ freeEntry t = some 0 :=
  ⟨front_of (by decide +kernel), by decide +kernel⟩

def signalM : Msg := jobM 0x42 0 (leBytes 8 6) []
def waitM : Msg := jobM 0x43 0 (leBytes 8 6 ++ leBytes 4 1) []
def queryM : Msg := jobM 0x44 0 [] []
def aFence : Fence := { value := 5, sharedContexts := false, sharedDevices := true, vc := 0 }
def aProxy : Proxy := { peer := 9, index := 1, generation := 2, vc := 0 }
def fenceState (m : Msg) : State := sends m (holds (.fence aFence) (desk work))
/-- The same where every slot holds another fence. -/
def noSlot (m : Msg) : State := let s := fenceState m; { s with objects := { s.objects with resident := (List.range 64).map (· + 1) } }
def proxyState (m : Msg) : State := sends m (holds (.proxy aProxy) (desk work))
def fenceObj : Obj := { job := some 0, ctx := 20, data := .fence aFence }
def proxyObj : Obj := { job := some 0, ctx := 20, data := .proxy aProxy }

theorem test_fences_used :
    (Front (fenceState signalM) 20 0x42 signalM ∧
      headerObject (popInbox 20 (fenceState signalM)) signalM isFenceOrProxy = .ok fenceObj ∧ fenceObj.data = .fence aFence ∧
      (fenceState signalM).objects.resident.length < 64) ∧
    (Front (noSlot signalM) 20 0x42 signalM ∧ headerObject (popInbox 20 (noSlot signalM)) signalM isFenceOrProxy = .ok fenceObj ∧
      0 ∉ (noSlot signalM).objects.resident ∧ 64 ≤ (noSlot signalM).objects.resident.length) ∧
    (Front (proxyState signalM) 20 0x42 signalM ∧
      headerObject (popInbox 20 (proxyState signalM)) signalM isFenceOrProxy = .ok proxyObj ∧ proxyObj.data = .proxy aProxy ∧
      proxyObj.destroying = false) ∧
    (Front (fenceState waitM) 20 0x43 waitM ∧
      headerObject (popInbox 20 (fenceState waitM)) waitM isFence = .ok fenceObj ∧ fenceObj.destroying = false) ∧
    (Front (fenceState queryM) 20 0x44 queryM ∧
      headerObject (popInbox 20 (fenceState queryM)) queryM isFence = .ok fenceObj ∧ fenceObj.destroying = false ∧
      fenceObj.data = .fence aFence) :=
  ⟨⟨front_of (by decide +kernel), by rfl, rfl, by decide +kernel⟩, ⟨front_of (by decide +kernel), by rfl, by decide +kernel⟩,
    ⟨front_of (by decide +kernel), by rfl, rfl, rfl⟩, ⟨front_of (by decide +kernel), by rfl, rfl⟩, ⟨front_of (by decide +kernel), by rfl, rfl, rfl⟩⟩

/-- The regions of R450 at their ends, and R449 where it turns. -/
theorem test_signal_regions : (signalFence { aFence with value := 2 ^ 64 - 1 } (2 ^ 62 - 1)).1.value = 2 ^ 62 - 1 ∧
    (signalFence { aFence with value := 2 ^ 64 - 1 } (2 ^ 62)).2 = true ∧ (signalFence { aFence with value := 1 } (2 ^ 63)).2 = true ∧
    (signalFence { aFence with value := 0 } (2 ^ 63)).1.ignored = 1 ∧ (signalFence aFence 5).1.ignored = 1 ∧
    (signalFence { aFence with faulted := true } 6).1.value = 5 ∧ reached 0 (2 ^ 63) = false ∧ reached 0 (2 ^ 63 + 1) = true := by decide +kernel

/-- The example after R452: a fence at 0xFFFF_FFFF_FFFF_FFF0. -/
theorem test_signal_example : let f : Fence := { aFence with value := 0xFFFFFFFFFFFFFFF0 }
    let g := (signalFence f 5).1
    g.value = 5 ∧ g.faulted = false ∧ reached g.value 0xFFFFFFFFFFFFFFF8 = true ∧ (signalFence g 0xFFFFFFFFFFFFFFFA).1 = { g with ignored := 1 } ∧
    reached g.value 9 = false ∧ (signalFence g 0x4000000000000010).1.faulted = true := by decide +kernel

def destroyM : Msg := jobM 0x4F 0 [] []
def dying : State := { (holds (.fence aFence) (desk work)) with objects := { objs := [(0, { fenceObj with destroying := true })] } }
def loose : State := { desk work with running := [⟨jobM 0x21 0xFFFF [] [], .tensorRelease 0 3⟩] }
def leaving : State := { live with objects := { evicting := [4], resident := [4] } }
/-- A wait of a program for at most 1 μs, begun. -/
def waitsOne : State := desk { runs [desc 3 0xFFFF [0] (zeros 4 ++ leBytes 4 1)] with
  subs := [(0, { sub0 [desc 3 0xFFFF [0] (zeros 4 ++ leBytes 4 1)] with state := [(0, { units := 1 })] })] }
def waiter : Running := ⟨waitM, .fenceWait 0 6⟩
def heldM : Bytes := note 0x42 2 20 7 0 0 [] []

theorem test_objects_end :
    (Front (fenceState destroyM) 20 0x4F destroyM ∧
      headerObject (popInbox 20 (fenceState destroyM)) destroyM (fun _ => true) = .ok fenceObj ∧ fenceObj.destroying = false) ∧
    (objIdle dying 0 = true ∧ objAt dying 0 = some { fenceObj with destroying := true }) ∧
    ((loose.running.any fun r => r.kind == .tensorRelease 0 3) = true ∧ tensorNamed loose 0 3 = false) ∧
    (4 ∈ leaving.objects.evicting ∧ leaving.objects.loads = []) ∧
    hostWait { live with running := [waiter] } 20 0 = some waiter ∧
    (∃ r, refOf waitsOne t0 = some r ∧ dOp r.d = 3 ∧ begun r.u t0.desc = true ∧ (descAt r.u t0.desc).retired = false ∧ rd r.d 32 4 ≠ 0) :=
  ⟨⟨front_of (by decide +kernel), rfl, rfl⟩, by decide +kernel, by decide +kernel, by decide +kernel, by decide +kernel, ⟨_, rfl, by decide +kernel⟩⟩

/-- A message that waits for the fence it names to reach 5, and does. -/
theorem test_message_wait_release : let b := overlay heldM 24 (leBytes 2 0 ++ [0, 0] ++ leBytes 8 5)
    let s := talk 20 7 b (holds (.fence aFence) (desk work))
    alive s = true ∧ ((tget s.ctxs 20).map (·.inbox)).getD [] = [b] ∧ bit (msgFlags b) 1 = true ∧ waitState s b = .go := by decide +kernel
/-! ### Tensors, programs and descriptors -/

def defineM : Msg := jobM 0x20 0 (leBytes 2 0) (flat (2 ^ 32) 4 1 0)
def define63M : Msg := jobM 0x20 0 (leBytes 2 0) (zeros 63)
def defineFFM : Msg := jobM 0x20 0 (leBytes 2 0xFFFF) (flat (2 ^ 32) 4 1 0)
def releaseM : Msg := jobM 0x21 0 (leBytes 2 5) []
def tensors : State := desk (runs [])

theorem test_tensors_defined :
    (∀ m ∈ [defineM, define63M, defineFFM, releaseM], liveJob (popInbox 20 (sends m tensors)) m = some 0 ∧
      tget (popInbox 20 (sends m tensors)).jobs 0 = some (runs [])) ∧
    (Front (sends defineM tensors) 20 0x20 defineM ∧ (msgBody defineM.bytes).length = 64 ∧
      defineCheck (popInbox 20 (sends defineM tensors)) 0 (runs []) (arg defineM.bytes 0 2) (msgBody defineM.bytes) = none) ∧
    (Front (sends define63M tensors) 20 0x20 define63M ∧ (msgBody define63M.bytes).length ≠ 64) ∧
    (Front (sends defineFFM tensors) 20 0x20 defineFFM ∧ (msgBody defineFFM.bytes).length = 64 ∧
      defineCheck (popInbox 20 (sends defineFFM tensors)) 0 (runs []) (arg defineFFM.bytes 0 2) (msgBody defineFFM.bytes) = some 0x12) ∧
    (Front (sends releaseM tensors) 20 0x21 releaseM ∧ arg releaseM.bytes 0 2 ≠ 0xFFFF ∧ (tget (runs []).tensors 5).isSome = true ∧
      ((popInbox 20 (sends releaseM tensors)).running.any fun r => r.kind == .tensorRelease 0 5) = false) :=
  ⟨by decide +kernel, ⟨front_of (by decide +kernel), by decide +kernel⟩, ⟨front_of (by decide +kernel), by decide +kernel⟩,
    ⟨front_of (by decide +kernel), by decide +kernel⟩, ⟨front_of (by decide +kernel), by decide +kernel⟩⟩

/-- A program of one NOP, in memory at 4 GiB of the job. -/
def nopProgram : Bytes := header ++ zeros 12 ++ [0xFF, 0xFF, 0xFF, 0xFF] ++ zeros 48 ++ oneTile
def programState (b : Job) (p : Bytes) (m : Msg) : State :=
  sends m { holds (.program (2 ^ 32) 160) (desk b) with
    vale := { mem := p.zipIdx.filterMap fun x => if x.1 = 0 then none else some (2 ^ 32 + x.2, x.1) } }
def programObj : Obj := { job := some 0, ctx := 20, data := .program (2 ^ 32) 160 }
def submitM : Msg := jobM 0x31 0 [] []
def abortM : Msg := jobM 0x32 0 [] []
def good : State := programState work nopProgram submitM
def wrong : State := programState work [] submitM
def faulty : Job := { work with fault := some 0x60 }

theorem test_programs_submitted :
    (∀ x ∈ [(good, work), (wrong, work), (programState faulty [] submitM, faulty)],
      headerObject (popInbox 20 x.1) submitM isProgram = .ok programObj ∧ tget (popInbox 20 x.1).jobs 0 = some x.2) ∧
    (Front good 20 0x31 submitM ∧ programObj.destroying = false ∧ work.fault = none ∧ awaitsRestore work = false ∧
      ∃ p, submitCheck (popInbox 20 good) 0 (2 ^ 32) 160 = .ok p ∧
        (p.ds.any fun d => (opNames d).any fun i => (popInbox 20 good).running.any fun r => r.kind == .tensorRelease 0 i) = false) ∧
    (Front wrong 20 0x31 submitM ∧ ∃ x, submitCheck (popInbox 20 wrong) 0 (2 ^ 32) 160 = .error x ∧ (x.status == 0x40) = true) ∧
    (Front (programState faulty [] submitM) 20 0x31 submitM ∧ faulty.fault ≠ none) ∧
    (headerObject (popInbox 20 (programState work [] abortM)) abortM isProgram = .ok programObj ∧
      Front (programState work [] abortM) 20 0x32 abortM) := by
  refine ⟨?_, ⟨front_of (by decide +kernel), rfl, rfl, rfl, ?_⟩, ⟨front_of (by decide +kernel), error_of (q := fun (x : Refused) => x.status == 0x40) (by decide +kernel)⟩,
    ⟨front_of (by decide +kernel), by decide +kernel⟩, rfl, front_of (by decide +kernel)⟩
  · intro x h
    simp only [List.mem_cons, List.not_mem_nil, or_false] at h
    obtain rfl | rfl | rfl := h <;> exact ⟨rfl, rfl⟩
  · have h := ok_of (x := submitCheck (popInbox 20 good) 0 (2 ^ 32) 160) (q := fun p =>
      !(p.ds.any fun d => (opNames d).any fun i => (popInbox 20 good).running.any fun r => r.kind == .tensorRelease 0 i)) (by decide +kernel)
    simpa using h

/-- The state in which descriptor 0 is a control descriptor, outside a span. -/
def control (op : Nat) : State := desk (runs [desc op 0xFFFF [] []])
/-- The same at the end of a span. -/
def spanJob (committed : Bool) : Job := { runs [desc 1 0xFFFF [] [], desc 2 0xFFFF [] []] with
  subs := [(0, { sub0 [desc 1 0xFFFF [] [], desc 2 0xFFFF [] []] with
    spans := [{ id := 9, first := 0, last := 1, base := 0, rung := 0, committed }], state := [(0, { retired := true })] })] }
def t1 : TaskRef := ⟨0, 0, 1⟩

theorem test_control_starts :
    (∀ op ∈ [0, 1, 3, 4, 5, 6], ∃ r u, Starts (control op) t0 op r u ∧ (spanPos r.u 0).isNone = true) ∧
    (∀ c, ∃ r u, Starts (desk (spanJob c)) t1 2 r u ∧ (match spanPos r.u 1 with | some 0 => true | _ => false) = true) := by
  refine ⟨?_, ?_⟩
  · intro op h
    simp only [List.mem_cons, List.not_mem_nil, or_false] at h
    obtain rfl | rfl | rfl | rfl | rfl | rfl := h <;> exact starts_of (p := fun r _ => (spanPos r.u 0).isNone) (by decide +kernel)
  · intro c
    cases c <;> exact starts_of (p := fun r _ => match spanPos r.u 1 with | some 0 => true | _ => false) (by decide +kernel)

theorem test_retire_marks : ∃ r, refOf (control 0) t0 = some r := ⟨_, rfl⟩

/-! Spans of submission 0: one may commit, with or without room in its slot's log; one has failed; one is discarded. -/
def spanSub (x : SpanSt) (slot : Byte) : Sub := { sub0 [desc 1 0xFFFF [] [], desc 2 0xFFFF [] []] with
  hdr := header.take 3 ++ [slot] ++ header.drop 4, spans := [x], state := [(0, { retired := true })] }
def spanBase : SpanSt := { id := 9, first := 0, last := 1, base := 0, rung := 0 }
def spanJobOf (x : SpanSt) (slot : Byte) (n : NumState) : Job := { work with num := n, subs := [(0, spanSub x slot)] }
def failure : Failure := { tensor := 0, cause := 0, core := 0, calibration := false }
def failed : SpanSt := { spanBase with failures := [failure] }
def discarded : SpanSt := { spanBase with failures := [failure], discarded := true }
/-- A log that holds span 9 already. -/
def fullLog : NumState := { commits := [(4, [⟨9, 0, false, 0⟩])] }

theorem test_spans :
    (∀ x ∈ [spanBase, failed, discarded], posOfSpan (spanSub x 4) 9 = some 0 ∧ spanAt (spanSub x 4) 0 = some x) ∧
    (maySpanCommit (spanSub spanBase 4) 0 spanBase = true ∧
      ∃ n, commitLog (spanJobOf spanBase 4 {}) (spanSub spanBase 4) spanBase = some n) ∧
    (maySpanCommit (spanSub spanBase 4) 0 spanBase = true ∧ commitLog (spanJobOf spanBase 4 fullLog) (spanSub spanBase 4) spanBase = none) ∧
    (maySpanCommit (spanSub failed 4) 0 failed = false) ∧
    (failed.failures ≠ [] ∧ failed.committed = false ∧ failed.discarded = false ∧ spanIdle (desk (spanJobOf failed 4 {})) 0 0 (spanSub failed 4) 0 = true) ∧
    (discarded.discarded = true ∧ discarded.failures ≠ [] ∧ (spanJobOf discarded 4 {}).capture.phase ≠ .entered ∧
      (spanSub discarded 4).stop = none ∧ promotionUsed (spanJobOf discarded 4 {}) 0 0 = 0) :=
  ⟨by decide +kernel, ⟨by decide +kernel, _, rfl⟩, by decide +kernel, by decide +kernel, by decide +kernel, by decide +kernel⟩

/-- A fill at work on unit 0, on thread 0 of core 0; late where blocks of its map were not lent when it began. -/
def fillJob (late : Bool) : Job := { runs [desc 0x1E 0 [0] []] with
  subs := [(0, { sub0 [desc 0x1E 0 [0] []] with state := [(0, { units := 1, late })] })] }
def atWork (late : Bool) : State := { desk (fillJob late) with cores := [(0, { threads := [(0, (t0, 0))] })] }
/-- A block of an open window, and a lent block whose window has closed. -/
def window0 : Bubble := { number := 0, task := t0, blocks := [3] }
def opened : State := { desk work with bubbles := [(0, { windows := [window0] })] }
def lentOut : State := { desk work with bubbles := [(0, { lent := [3] })] }

theorem test_fill_steps (s : State) (r : Ref) (unit : Nat) (h : dOp r.d = 0x1E) : ∃ c, cellSteps (unitSteps r s unit) (coreAt s 0) = some c := by
  refine ⟨{ coreAt s 0 with tile := (coreAt s 0).tile.writeN 0 ((Config.tileLeft r.t unit).take 0x6000) }, ?_⟩
  simp [unitSteps, h, cellSteps, cellStep] <;> omega

theorem test_tasks_end :
    (∀ late, ∃ r, refOf (atWork late) t0 = some r ∧ begun r.u 0 = true ∧ (descAt r.u 0).retired = false ∧ 0 < (descAt r.u 0).units ∧
      0 ∉ (descAt r.u 0).ended ∧ unitRuns (atWork late) r 0 = true ∧ unitCore r.part r.map 0 = 0 ∧
      ((descAt r.u 0).late = true ↔ late = true) ∧ (descAt r.u 0).ended.length + 1 = (descAt r.u 0).units ∧
      (∃ c, cellSteps (unitSteps r (atWork late) 0) (coreAt (atWork late) 0) = some c) ∧ (ensurePages r (atWork late)).2 = true ∧
      ∃ r', refOf (effectOf r (ensurePages r (atWork late)).1
        (modDesc t0 (fun d => { d with late := false }) (ensurePages r (atWork late)).1)) t0 = some r') ∧
    (3 ∉ (tgetD opened.bubbles 0 {}).lent ∧ blockBusy opened 0 3 = false ∧
      ((tgetD opened.bubbles 0 {}).windows.find? fun w => w.blocks.contains 3) = some window0) ∧
    (3 ∈ (tgetD lentOut.bubbles 0 {}).lent ∧ ((tgetD lentOut.bubbles 0 {}).windows.any fun w => w.blocks.contains 3) = false ∧
      blockBusy lentOut 1 3 = false) := by
  refine ⟨fun late => ?_, by decide +kernel, by decide +kernel⟩
  cases late <;>
  exact ⟨_, rfl, by decide +kernel, by decide +kernel, by decide +kernel, by decide +kernel, by decide +kernel, by decide +kernel, by decide +kernel, by decide +kernel,
    test_fill_steps _ _ _ (by decide +kernel), by decide +kernel, some_of (q := fun _ => true) (by decide +kernel) |>.imp fun _ h => h.1⟩

/-! The example of spec/05: one 8-bit instruction, and one in binary16 on binary32 data. -/
def exampleTile : Memory := [(0, 0x78), (32, 0x78), (1, 0x18), (33, 0x18), (48, 0x18), (80, 0x18), (384, 0x3C), (416, 0x40), (385, 0x01), (417, 0x38),
  (1920, 0x83), (1936, 0x7F), (1968, 0x83), (1976, 0x7F)].foldl (fun t x => t.writeN x.1 [x.2]) []

/-- The worked example of section 05: the element (0, 0) of A2 is 0x4B800003. -/
theorem test_array_example : let i : ArrayInstr := { cls := .c8, aFmt := .e4m3, bFmt := .e4m3, k := 32, aRow := 0, bRow := 0, block := 16, aScaleRow := 40
                                                     bScaleRow := 41, acc := 2, init := .zero }
    ((arrayInstr i { tile := exampleTile }).map fun c => (tgetD c.acc 2 []).getD 0 0) = some 0x4B800003 := by decide +kernel

/-- A B stream from row 510 fits with 4 values of an 8-bit class, and not with 5. -/
theorem test_stream_fits : let i : Nat → ArrayInstr := fun k => { cls := .c8, aFmt := .e4m3, bFmt := .e4m3, k, aRow := 0, bRow := 510, acc := 2, init := .zero }
    (i 4).fits = true ∧ (i 5).fits = false := by decide +kernel

/-! ### The Steppe tier -/

/-- An extent record: object 0 under generation 0, address, key, length in 4,096 bytes. -/
def extent0 : Bytes := zeros 20 ++ leBytes 4 (2 ^ 32 - 1)
def attachM : Msg := jobM 0x05 0 [] extent0
def moveM (kind : Byte) : Msg := jobM 0x06 0 (leBytes 4 511 ++ leBytes 4 1 ++ [kind]) []
def attachState : State := sends attachM { holds (.queuePair 64) (desk work) with eth := { qps := [(64, { cls := 2 })] } }
def waits : Job := { work with tier := { frameWaits := [5] } }

theorem test_steppe_attached : let t := popInbox 20 attachState
    liveJob t attachM = some 0 ∧ tget t.jobs 0 = some work ∧ Front attachState 20 0x05 attachM ∧ (msgBody attachM.bytes).length % 24 = 0 ∧
    extentRecords attachM ≠ [] ∧ (extentRecords attachM).length ≤ 16 ∧ ((extentRecords attachM).all fun e => allZero (sub e 3 5)) = true ∧
    work.tier.extents = [] ∧ (∀ e ∈ extentRecords attachM, extentStatus t 0 2 (xQp e) (rd e 2 1) = none) ∧
    (∀ e ∈ extentRecords attachM, ceilDiv work.carve.dirCount (extentRecords attachM).length * 1056768 ≤ xLen e) :=
  ⟨by decide +kernel, by decide +kernel, front_of (by decide +kernel), by decide +kernel⟩

theorem test_tier_moved :
    (∀ k ∈ [(0 : Byte), 1], liveJob (popInbox 20 (sends (moveM k) (desk work))) (moveM k) = some 0 ∧
      arg (moveM k).bytes 0 4 + arg (moveM k).bytes 4 4 ≤ (carveOf (popInbox 20 (sends (moveM k) (desk work))) 0).dirCount) ∧
    (Front (sends (moveM 0) (desk work)) 20 0x06 (moveM 0) ∧ arg (moveM 0).bytes 8 1 = 0) ∧
    (Front (sends (moveM 1) (desk work)) 20 0x06 (moveM 1) ∧ arg (moveM 1).bytes 8 1 = 1) ∧
    (alive (desk waits) = true ∧ tget (desk waits).jobs 0 = some waits ∧ waits.tier.frameWaits = 5 :: []) :=
  ⟨by decide +kernel, ⟨front_of (by decide +kernel), by decide +kernel⟩, ⟨front_of (by decide +kernel), by decide +kernel⟩, by decide +kernel⟩

/-- A fetch of page 5 into frame 0 with so many of its chunks there. -/
def fetching (n : Nat) : Job := { work with tier := { fetches := [(5, { frame := 0, chunks := List.range n })] } }
def coming (n : Nat) : State := { desk (fetching n) with dir := [(5, { st := .fetching })] }
def chunkOf (tag : Bytes) : Bytes := zeros 4096 ++ tag

/-- Whatever tag AES gives a chunk of zeros, that record verifies: for the last chunk but one and for the last. -/
theorem test_chunk_arrives (tag : Bytes) (l : tag.length = 16)
    (h : gcmTag (steppeKey (fetching 254)) (chunkIv 5 0 254) [] (zeros 4096) = tag) :
    alive (coming 254) = true ∧ tget (coming 254).jobs 0 = some (fetching 254) ∧
    tget (fetching 254).tier.fetches 5 = some ⟨0, List.range 254⟩ ∧ 254 < 256 ∧ 254 ∉ List.range 254 ∧
    (frameAddress (fetching 254).carve 0).isSome = true ∧ (chunkOf tag).length = 4112 ∧
    (∃ data, gcmOpen (steppeKey (fetching 254)) (chunkIv 5 (dirAt (coming 254) 0 5).version 254) [] (sub (chunkOf tag) 0 4096)
      (sub (chunkOf tag) 4096 16) = some data) ∧ (List.range 254).length < 255 := by
  have z : (zeros 4096).length = 4096 := List.length_replicate
  have a : sub (chunkOf tag) 0 4096 = zeros 4096 := sub_left z
  have c : sub (chunkOf tag) 4096 16 = tag := sub_right z l
  have v : (dirAt (coming 254) 0 5).version = 0 := by decide +kernel
  refine ⟨by decide +kernel, by rfl, by rfl, by decide, by decide +kernel, by decide +kernel, by rw [chunkOf, List.length_append, z, l], ?_, by decide +kernel⟩
  rw [a, c, v, gcmOpen, if_pos h]
  exact ⟨_, rfl⟩

theorem test_last_chunk : (coming 255).dir = (coming 254).dir ∧ tget (fetching 255).tier.fetches 5 = some ⟨0, List.range 255⟩ ∧
    255 ∉ List.range 255 ∧ (List.range 255).length = 255 ∧ ([] : Bytes).length ≠ 4112 :=
  ⟨rfl, rfl, by decide +kernel, by decide +kernel, by decide⟩

theorem test_eviction_ends : let s : State := { desk work with dir := [(5, { st := .evicting })] }
    alive s = true ∧ tget s.jobs 0 = some work ∧ (dirAt s 0 5).st = .evicting ∧ work.tier.thenFetch = [] ∧ work.tier.frameWaits = [] :=
  ⟨by decide +kernel, by rfl, by decide +kernel, rfl, rfl⟩
/-! ### Jobs and keys -/

/-- JOB_CREATE of the job 7 on the management context of partition 0: policy at 4 GiB, lead, gap byte, event context, await. -/
def createM (lead : Nat) : Msg := ⟨some 0, note 0x10 0 0 7 0 0 (leBytes 5 (2 ^ 32) ++ leBytes 4 477984 ++ leBytes 3 lead ++ [0] ++ leBytes 2 4095 ++ [0]) []⟩
/-- A policy of 16 owners, without an entry, for the measurement 0, in memory. -/
def policyMem : Memory := [(0, 1), (2, 16), (3, 1), (4, 7), (0x12, 8)].map fun x => (2 ^ 32 + x.1, x.2)
def creating (lead : Nat) (measured : Byte) : State :=
  talk 0 0 (createM lead).bytes { live with vale := { mem := policyMem }, config := { image := { factoryImage with carves := [(0, carve0)] } }, glen := { measurement := List.replicate 32 measured } }

/-- A slice of what a range of memory holds is what the slice's range holds. -/
theorem peekN_slice (s : State) (j off n : Nat) {a k : Nat} (h : a + k ≤ n) :
    ((peekN s j off n).drop a).take k = peekN s j (off + a) k := by
  apply List.ext_getElem
  · simp [peekN]; omega
  · intro i p q
    simp [peekN, Nat.add_assoc]

theorem peekN_length (s : State) (j off n : Nat) : (peekN s j off n).length = n := by simp [peekN]

def policy0 : Bytes := peekN (creating 0 0) 0 (2 ^ 32) 477984

theorem rd_peekN (s : State) (j off n : Nat) {a k : Nat} (h : a + k ≤ n) : rd (peekN s j off n) a k = leNat (peekN s j (off + a) k) := by
  rw [rd, peekN_slice _ _ _ _ h]
theorem sub_peekN (s : State) (j off n : Nat) {a k : Nat} (h : a + k ≤ n) : sub (peekN s j off n) a k = peekN s j (off + a) k := by
  simp only [sub, peekN_slice s j off n h, peekN_length, Nat.sub_self]
  exact List.append_nil _

theorem rd_policy {a k : Nat} (h : a + k ≤ 477984) : rd policy0 a k = leNat (peekN (creating 0 0) 0 (2 ^ 32 + a) k) := rd_peekN _ _ _ _ h
theorem sub_policy {a k : Nat} (h : a + k ≤ 477984) : sub policy0 a k = peekN (creating 0 0) 0 (2 ^ 32 + a) k := sub_peekN _ _ _ _ h

/-- What memory holds depends on the jobs, the image, the directory, the cache and Vale alone. -/
theorem peekN_same {s t : State} (h : s.jobs = t.jobs ∧ s.config = t.config ∧ s.dir = t.dir ∧ s.cache = t.cache ∧ s.vale = t.vale) :
    peekN s = peekN t := by
  cases s; cases t; dsimp only at h
  obtain ⟨rfl, rfl, rfl, rfl, rfl⟩ := h
  rfl

theorem peekN_args {s : State} {j a b c d : Nat} (h : a = c) (k : b = d) : peekN s j a b = peekN s j c d := by rw [h, k]

theorem policy0_is (l : Nat) (b : Byte) : peekN (popInbox 0 (creating l b)) 0 (2 ^ 32) 477984 = policy0 := by
  have h : peekN (popInbox 0 (creating l b)) = peekN (creating 0 0) := peekN_same ⟨rfl, rfl, rfl, rfl, rfl⟩
  rw [h, policy0]

theorem policy0_ok (hv : ∀ k m g, Config.slh256Verify k m g = true) : policyOk policy0 false = true := by
  have n : polOwners policy0 = 16 := (rd_policy (by decide)).trans (by decide +kernel)
  have e : polEntries policy0 = 0 := (rd_policy (by decide)).trans (by decide +kernel)
  have c : rd policy0 0x12 1 = 8 := (rd_policy (by decide)).trans (by decide +kernel)
  have l : policy0.length = 477984 := peekN_length ..
  have a : rd policy0 0 2 = 1 := (rd_policy (by decide)).trans (by decide +kernel)
  have d : rd policy0 3 1 = 1 := (rd_policy (by decide)).trans (by decide +kernel)
  have f : rd policy0 4 4 = 7 := (rd_policy (by decide)).trans (by decide +kernel)
  have g : rd policy0 0x13 1 = 0 := (rd_policy (by decide)).trans (by decide +kernel)
  have x : sub policy0 0x14 12 = zeros 12 := (sub_policy (by decide)).trans (by decide +kernel)
  have y : sub policy0 (0x20 + 64 * 16) (64 * (16 - 16)) = zeros 0 := (sub_policy (by decide)).trans (by decide +kernel)
  have z : sub policy0 (0x420 + 32 * 8) (32 * (8 - 8)) = zeros 0 := (sub_policy (by decide)).trans (by decide +kernel)
  simp only [policyOk, hv, n, e, c, l, polThreshold, a, d, f, g, x, y, z]
  decide +kernel

theorem policy0_accepts (b : Byte) (h : b = 0 ∨ b = 1) : accepts policy0 (List.replicate 32 b) = (b == 0) := by
  have c : rd policy0 0x12 1 = 8 := (rd_policy (by decide)).trans (by decide +kernel)
  have q : ∀ i, i < 8 → sub policy0 (0x420 + 32 * i) 32 = zeros 32 := by
    intro i h
    rw [sub_policy (by omega)]
    have k : ∀ i : Fin 8, peekN (creating 0 0) 0 (2 ^ 32 + (0x420 + 32 * i.val)) 32 = zeros 32 := by decide +kernel
    exact k ⟨i, h⟩
  have e : ((List.range 8).any fun i => sub policy0 (0x420 + 32 * i) 32 == List.replicate 32 b) =
      (List.range 8).any fun _ => zeros 32 == List.replicate 32 b := by
    rw [Bool.eq_iff_iff, List.any_eq_true, List.any_eq_true]
    exact ⟨fun ⟨i, h, k⟩ => ⟨i, h, by rwa [q i (List.mem_range.1 h)] at k⟩, fun ⟨i, h, k⟩ => ⟨i, h, by rwa [q i (List.mem_range.1 h)]⟩⟩
  simp only [accepts, c, e]
  obtain rfl | rfl := h <;> decide +kernel

/-- Where the owner's signature verifies (it is one of the functions of log 6): the job's own lead, another lead, and a
measurement that the policy does not list. -/
theorem test_job_created (hv : ∀ k m g, Config.slh256Verify k m g = true) : ∀ x ∈ [((0 : Nat), (0 : Byte)), (2 ^ 20 - 1, 0), (0, 1)],
    let s := creating x.1 x.2
    let m := createM x.1
    let t := popInbox 0 s
    let p := policy0
    (peekN t 0 (arg m.bytes 0 5) (arg m.bytes 5 4) = p ∧ policyOk p false = true ∧ rd p 4 4 = msgJob m.bytes ∧
      accepts p s.glen.measurement = (x.2 == 0)) ∧
    Front s 0 0x10 m ∧ s.glen.current = none ∧ configBusy t = false ∧ arg m.bytes 12 1 = 0 ∧ arg m.bytes 15 1 = 0 ∧ arg m.bytes 9 3 = x.1 ∧
    arg m.bytes 9 3 < 2 ^ 20 ∧ arg m.bytes 13 2 < 4096 ∧ rootAlive s = true ∧ s.ledger.mirrorFault = false ∧ createBarred t = false ∧
    partHeld t 0 = false ∧ (tget s.config.image.carves 0).isSome = true ∧ (s.config.image.parts.getD 0 {}).enabled = true ∧
    tget s.jobs 0 = none ∧ jobIndex s (msgJob m.bytes) = none ∧ Machine.creating s 0 (msgJob m.bytes) = false ∧
    rangeIn (carveOf t 0) (arg m.bytes 0 5) (arg m.bytes 5 4) = true ∧ assigned s.config.image.policySlots 0 ≠ [] ∧
    freeKeyId t = some 1 ∧ deviceAddress t = 0 ∧ 4 ≤ (freeSlots t).length := by
  intro x h
  simp only [List.mem_cons, List.not_mem_nil, or_false] at h
  obtain rfl | rfl | rfl := h <;>
    exact ⟨⟨(peekN_args (c := 2 ^ 32) (d := 477984) (by decide +kernel) (by decide +kernel)).trans (policy0_is _ _), policy0_ok hv,
      (rd_policy (by decide)).trans (by decide +kernel), policy0_accepts _ (by decide)⟩, front_of (by decide +kernel), by decide +kernel⟩
def jobDestroyM : Msg := jobM 0x11 0 [] []
def tearing (n : Nat) : Job := { work with phase := .closing, teardown := some (n, 1) }

theorem test_job_goes :
    (Front (sends jobDestroyM (desk work)) 20 0x11 jobDestroyM ∧ (sends jobDestroyM (desk work)).glen.current = none ∧
      liveJob (popInbox 20 (sends jobDestroyM (desk work))) jobDestroyM = some 0 ∧ tget (desk work).jobs 0 = some work) ∧
    (∀ n ∈ [3, 4, 5, 6, 7, 8], alive (desk (tearing n)) = true ∧ tget (desk (tearing n)).jobs 0 = some (tearing n) ∧
      (tearing n).teardown = some (n, 1) ∧ (tearing n).subs = [] ∧ (tearing n).narrows.releases = [] ∧
      ((desk (tearing n)).pass.ports.any fun p => p.queues.any fun q => q.2.any fun x => pJob x.1 == (tearing n).id && x.2.isNone) = false) :=
  ⟨⟨front_of (by decide +kernel), rfl, by decide +kernel, by decide +kernel⟩, by decide +kernel⟩

/-! ### Glen -/

def attestM : Msg := jobM 0x12 0 (leBytes 5 (2 ^ 32)) []
def sealM : Msg := jobM 0x81 0 (leBytes 5 (2 ^ 32)) []
def certM : Msg := jobM 0x80 0 (leBytes 5 (2 ^ 32)) []
def secretJob : Job := { work with keys := { secret := zeros 32 } }
def busyGlen (s : State) : State := { s with glen := { s.glen with current := some .challenge } }

theorem test_glen_messages :
    (let s := sends attestM (desk work)
     Front s 20 0x12 attestM ∧ s.glen.current = none ∧ carveIndex (popInbox 20 s) attestM = some 0 ∧ rootAlive s = true ∧
      rangeIn (carveOf (popInbox 20 s) 0) (arg attestM.bytes 0 5) 48864 = true) ∧
    (let s := sends sealM (desk secretJob)
     Front s 20 0x81 sealM ∧ s.glen.current = none ∧ liveJob (popInbox 20 s) sealM = some 0 ∧ tget s.jobs 0 = some secretJob ∧
      secretJob.keys.secret ≠ [] ∧ rangeOk (popInbox 20 s) 0 (arg sealM.bytes 0 5) 376 = true) ∧
    (let s := sends certM (desk work)
     Front s 20 0x80 certM ∧ carveIndex (popInbox 20 s) certM = some 0 ∧
      rangeIn (carveOf (popInbox 20 s) 0) (arg certM.bytes 0 5) 29920 = true) ∧
    (Front (busyGlen (sends attestM (desk work))) 20 0x12 attestM) :=
  ⟨⟨front_of (by decide +kernel), rfl, by decide +kernel, by decide +kernel, by decide +kernel⟩,
    ⟨front_of (by decide +kernel), rfl, by decide +kernel, by decide +kernel, by decide +kernel, by decide +kernel⟩,
    ⟨front_of (by decide +kernel), by decide +kernel, by decide +kernel⟩, front_of (by decide +kernel)⟩

/-- A key delivery record of owner 0 in memory: serial 1, everything else zero. -/
def deliverM : Msg := jobM 0x13 0 (leBytes 5 (2 ^ 32) ++ [0]) []
def ownerJob : Job := { work with policy := [1, 0, 1, 1], digest := zeros 32 }
def delivering : State := { sends deliverM (desk ownerJob) with vale := { mem := [(2 ^ 32, 1), (2 ^ 32 + 4, 7), (2 ^ 32 + 8, 1)] } }
def recordD : Bytes := peekN (popInbox 20 delivering) 0 (2 ^ 32) 31536

theorem sub_recordD {a k : Nat} (h : a + k ≤ 31536) : sub recordD a k = peekN (popInbox 20 delivering) 0 (2 ^ 32 + a) k := sub_peekN _ _ _ _ h
theorem rd_recordD {a k : Nat} (h : a + k ≤ 31536) : rd recordD a k = leNat (peekN (popInbox 20 delivering) 0 (2 ^ 32 + a) k) := rd_peekN _ _ _ _ h

/-- Where the functions of log 6 and the unit's identifier are such that the record fits them. -/
theorem test_key_delivered (hv : ∀ k m g, Config.slh256Verify k m g = true) (hu : sub Config.unitId 0 32 = zeros 32)
    (hp : sha256 (sub (Config.kemPublic (slotMaterial (popInbox 20 delivering) 1)) 0 1568) = zeros 32)
    (hk : gcmTag (derive ownerJob.digest (Config.kemDecap (slotMaterial (popInbox 20 delivering) 1) (sub recordD 0x80 1568)) "mutrum datakey"
      (sub recordD 0 0x80) 32) (zeros 12) (sub recordD 0 0x80) (sub recordD 0x6A0 32) = zeros 16) :
    let t := popInbox 20 delivering
    Front delivering 20 0x13 deliverM ∧ delivering.glen.current = none ∧ liveJob t deliverM = some 0 ∧ tget delivering.jobs 0 = some ownerJob ∧
    rootAlive delivering = true ∧ delivering.ledger.mirrorFault = false ∧ arg deliverM.bytes 0 5 = 2 ^ 32 ∧ rangeOk t 0 (2 ^ 32) 31536 = true ∧
    rd recordD 0 2 = 1 ∧ rd recordD 2 1 = arg deliverM.bytes 5 1 ∧ rd recordD 3 1 = 0 ∧ rd recordD 4 4 = ownerJob.id ∧
    allZero (sub recordD 0x70 16) = true ∧ (∃ k, openDelivery t ownerJob recordD = .ok k) ∧ (freeSlots t).head? = some 79 := by
  refine ⟨front_of (by decide +kernel), rfl, by decide +kernel, by decide +kernel, by decide +kernel, rfl, by decide +kernel, by decide +kernel,
    (rd_recordD (by decide)).trans (by decide +kernel), (rd_recordD (by decide)).trans (by decide +kernel),
    (rd_recordD (by decide)).trans (by decide +kernel), (rd_recordD (by decide)).trans (by decide +kernel), ?_, ?_, by decide +kernel⟩
  · rw [sub_recordD (by decide)]; decide +kernel
  · have o : rd recordD 2 1 = 0 := (rd_recordD (by decide)).trans (by decide +kernel)
    have n : rd recordD 8 8 = 1 := (rd_recordD (by decide)).trans (by decide +kernel)
    have u : sub recordD 0x10 32 = zeros 32 := (sub_recordD (by decide)).trans (by decide +kernel)
    have d : sub recordD 0x30 32 = zeros 32 := (sub_recordD (by decide)).trans (by decide +kernel)
    have e : sub recordD 0x50 32 = zeros 32 := (sub_recordD (by decide)).trans (by decide +kernel)
    have g : sub recordD 0x6C0 16 = zeros 16 := (sub_recordD (by decide)).trans (by decide +kernel)
    have b : ¬ polOwners ownerJob.policy ≤ 0 := by decide
    simp only [openDelivery, o, n, u, d, e, g, hv, hu, hp, hk, gcmOpen, if_neg b]
    exact ⟨_, rfl⟩

/-- A policy without an owner opens no delivery: cause 3. -/
def ownerless : Job := { work with policy := [1, 0, 0, 1], digest := zeros 32 }
def unopened : State := { delivering with jobs := [(0, ownerless)] }

theorem test_key_not_delivered :
    let t := popInbox 20 unopened
    let r := peekN t 0 (2 ^ 32) 31536
    Front unopened 20 0x13 deliverM ∧ unopened.glen.current = none ∧ liveJob t deliverM = some 0 ∧ tget unopened.jobs 0 = some ownerless ∧
    rootAlive unopened = true ∧ unopened.ledger.mirrorFault = false ∧ arg deliverM.bytes 0 5 = 2 ^ 32 ∧ rangeOk t 0 (2 ^ 32) 31536 = true ∧
    rd r 0 2 = 1 ∧ rd r 2 1 = arg deliverM.bytes 5 1 ∧ rd r 3 1 = 0 ∧ rd r 4 4 = ownerless.id ∧ allZero (sub r 0x70 16) = true ∧
    openDelivery t ownerless r = .error 3 := by
  have o : rd (peekN (popInbox 20 unopened) 0 (2 ^ 32) 31536) 2 1 = 0 := (rd_peekN _ _ _ _ (by decide)).trans (by decide +kernel)
  refine ⟨front_of (by decide +kernel), rfl, by decide +kernel, by decide +kernel, by decide +kernel, rfl, by decide +kernel, by decide +kernel,
    (rd_peekN _ _ _ _ (by decide)).trans (by decide +kernel), o.trans (by decide +kernel), (rd_peekN _ _ _ _ (by decide)).trans (by decide +kernel),
    (rd_peekN _ _ _ _ (by decide)).trans (by decide +kernel), ?_, ?_⟩
  · rw [sub_peekN _ _ _ _ (by decide)]; decide +kernel
  · simp only [openDelivery, o, if_pos (show polOwners ownerless.policy ≤ 0 by decide)]

theorem startKeying_free {s : State} (j : Nat) (b : Job) (k : Bytes) (h : ¬ ((freeSlots s).length < 4 ∨ s.ledger.mirrorFault = true)) :
    ∃ c, startKeying j b k s = some c := ⟨_, if_neg h⟩

/-- A sealed blob of the job 7 in memory, for the measurement 0. -/
def unsealM : Msg := jobM 0x82 0 (leBytes 5 (2 ^ 32)) []
def leadJob : Job := { work with phase := .created, isLead := true, awaitUnseal := true, digest := zeros 32 }
def unsealing : State := { sends unsealM (desk leadJob) with vale := { mem := [(2 ^ 32, 1), (2 ^ 32 + 2, 8), (2 ^ 32 + 4, 7)] } }

theorem test_key_unsealed (hu : sub Config.unitId 0 32 = zeros 32) (hk : let r := peekN (popInbox 20 unsealing) 0 (2 ^ 32) 376
      gcmTag (sealKey (popInbox 20 unsealing) (sub r 0x48 256) leadJob.id) (zeros 12) (sub r 0 0x148) (sub r 0x148 32) = zeros 16) :
    let t := popInbox 20 unsealing
    Front unsealing 20 0x82 unsealM ∧ unsealing.glen.current = none ∧ liveJob t unsealM = some 0 ∧ tget unsealing.jobs 0 = some leadJob ∧
    leadJob.isLead = true ∧ leadJob.awaitUnseal = true ∧ leadJob.phase = .created ∧ leadJob.keys.secret = [] ∧ keyComing t 0 = false ∧
    arg unsealM.bytes 0 5 = 2 ^ 32 ∧ rangeOk t 0 (2 ^ 32) 376 = true ∧
    ∃ k c, openBlob t leadJob (peekN t 0 (2 ^ 32) 376) = some k ∧ startKeying 0 leadJob k t = some c := by
  refine ⟨front_of (by decide +kernel), rfl, by decide +kernel, by decide +kernel, rfl, rfl, rfl, rfl, by decide +kernel, by decide +kernel,
    by decide +kernel, ?_⟩
  have u : sub (peekN (popInbox 20 unsealing) 0 (2 ^ 32) 376) 8 32 = zeros 32 := by decide +kernel
  have a : rd (peekN (popInbox 20 unsealing) 0 (2 ^ 32) 376) 0 2 = 1 := by decide +kernel
  have b : rd (peekN (popInbox 20 unsealing) 0 (2 ^ 32) 376) 4 4 = leadJob.id := by decide +kernel
  have d : sub (peekN (popInbox 20 unsealing) 0 (2 ^ 32) 376) 0x28 32 = leadJob.digest := by decide +kernel
  have e : ((List.range (min 8 (rd (peekN (popInbox 20 unsealing) 0 (2 ^ 32) 376) 2 1))).any fun i =>
    sub (sub (peekN (popInbox 20 unsealing) 0 (2 ^ 32) 376) 0x48 256) (32 * i) 32 == (popInbox 20 unsealing).glen.measurement) = true := by decide +kernel
  have g : sub (peekN (popInbox 20 unsealing) 0 (2 ^ 32) 376) 0x168 16 = zeros 16 := by decide +kernel
  have f : ¬ ((freeSlots (popInbox 20 unsealing)).length < 4 ∨ (popInbox 20 unsealing).ledger.mirrorFault = true) := by decide +kernel
  obtain ⟨c, h⟩ := startKeying_free 0 leadJob _ f
  exact ⟨_, c, (if_pos ⟨a, u.trans hu.symm, b, d, e⟩).trans (if_pos (hk.trans g.symm)), h⟩

/-- A lead that serves, a member that asks, and Glen at work. -/
def lead7 : Job := { secretJob with isLead := true }
def member7 : Job := { work with phase := .created, lead := 5 }

theorem test_keying :
    (alive (desk lead7) = true ∧ jobIndex (desk lead7) 7 = some 0 ∧ tget (desk lead7).jobs 0 = some lead7 ∧ lead7.isLead = true ∧
      lead7.phase ≠ .closing ∧ (desk lead7).glen.current = none ∧ rootAlive (desk lead7) = true ∧ lead7.keys.secret ≠ []) ∧
    (alive (desk member7) = true ∧ jobIndex (desk member7) 7 = some 0 ∧ tget (desk member7).jobs 0 = some member7 ∧
      (desk member7).glen.current = none ∧ rootAlive (desk member7) = true ∧ member7.isLead = false ∧ 5 = member7.lead ∧
      member7.phase = .created ∧ member7.keying.refusedHere = false ∧ keyComing (desk member7) 0 = false) ∧
    (alive (busyGlen (desk lead7)) = true ∧ jobIndex (busyGlen (desk lead7)) 7 = some 0 ∧ (busyGlen (desk lead7)).glen.current = some .challenge) :=
  ⟨by decide +kernel, by decide +kernel, by decide +kernel⟩
/-! ### Ingress and release -/

/-- INGRESS of one chunk at 5 GiB, owner 0, into tensor 0. -/
def ingressM (seq : Nat) : Msg := jobM 0x14 0 (leBytes 5 (5 * 2 ^ 30) ++ leBytes 4 1 ++ leBytes 2 0 ++ [0] ++ leBytes 4 seq) []
/-- A job of one owner, whose data key is there or not, with a sequence number taken. -/
def owned (phase : Phase) (key : Bool) : Job := { runs [] with
  phase, policy := [1, 0, 1, 1], keys := { owners := if key then [(0, zeros 32)] else [] }, narrows := { ingressSeq := [(0, 4)] } }
def chunkWindow : Window := { job := 0, offset := 5 * 2 ^ 30, length := 4128, qp := 0, random := 0 }
def ingressState (phase : Phase) (key : Bool) (seq : Nat) : State := sends (ingressM seq) (holds (.window chunkWindow) (desk (owned phase key)))

theorem test_ingress_begins : ∀ x ∈ [(Phase.keyed, true, 5), (Phase.created, true, 5), (Phase.keyed, false, 5), (Phase.keyed, true, 4)],
    let s := ingressState x.1 x.2.1 x.2.2
    let m := ingressM x.2.2
    let b := owned x.1 x.2.1
    let t := popInbox 20 s
    Front s 20 0x14 m ∧ liveJob t m = some 0 ∧ tget s.jobs 0 = some b ∧ arg m.bytes 5 4 ≠ 0 ∧ (tget b.tensors (arg m.bytes 9 2)).isSome = true ∧
    inOneWindow t 0 (arg m.bytes 0 5) (4128 * arg m.bytes 5 4) = true ∧ arg m.bytes 11 1 < polOwners b.policy ∧
    (b.phase, (tget b.keys.owners (arg m.bytes 11 1)).isSome, arg m.bytes 12 4) = x ∧ tgetD b.narrows.ingressSeq 0 0 = 4 := by
  intro x h
  simp only [List.mem_cons, List.not_mem_nil, or_false] at h
  obtain rfl | rfl | rfl | rfl := h <;>
    exact ⟨front_of (by decide +kernel), by decide +kernel, rfl, by decide +kernel, by decide +kernel, by decide +kernel, by decide +kernel, rfl, rfl⟩

def ingressRun (mem : Memory) : State := { desk (owned .keyed true) with running := [⟨ingressM 5, .ingress 0 0⟩], vale := { mem } }
/-- One chunk of so many bytes in memory, its tag zero. -/
def chunkMem (k : Byte) : Memory := [(0, 1), (3, 1), (4, 5), (12, k)].map fun x => (5 * 2 ^ 30 + x.1, x.2)
def gone (mem : Memory) : State := { ingressRun mem with running := [] }
/-- The same, its destination held no more by the command. -/
def ended (mem : Memory) : State := modTensor 0 (rootOf (owned .keyed true).tensors 0) (fun e => { e with ingress := e.ingress.erase ⟨0, false⟩ }) (gone mem)
def chunkC (k : Byte) : Bytes := peekN (ended (chunkMem k)) 0 (5 * 2 ^ 30) 4128
theorem rd_chunkC {b : Byte} {a k : Nat} (h : a + k ≤ 4128) : rd (chunkC b) a k = leNat (peekN (ended (chunkMem b)) 0 (5 * 2 ^ 30 + a) k) := rd_peekN _ _ _ _ h

theorem take_first (m : Msg) (k : RunKind) (s : State) :
    takeRunning k { s with running := [⟨m, k⟩] } = (some m, { s with running := [] }) := by simp [takeRunning]

/-- Where the tags are those of AES: one byte fits the tensor of four, five do not. -/
theorem test_ingress_ends_whole : ∀ k ∈ [(1 : Byte), 5],
    gcmTag (zeros 32) (leBytes 4 7 ++ leBytes 4 5 ++ leBytes 4 0) (sub (chunkC k) 0 16) (sub (chunkC k) 16 4096) = sub (chunkC k) 4112 16 →
    alive (ingressRun (chunkMem k)) = true ∧ takeRunning (.ingress 0 0) (ingressRun (chunkMem k)) = (some (ingressM 5), gone (chunkMem k)) ∧
    tgetD (owned .keyed true).narrows.ingressSeq 0 0 < 5 ∧
    ∃ p v, openChunks (fun i => openChunk ((tget (owned .keyed true).keys.owners 0).getD []) 7 0 5 1 i
        (peekN (ended (chunkMem k)) 0 (5 * 2 ^ 30 + 4128 * i) 4128)) 1 0 = .ok p ∧
      viewOf (owned .keyed true) 0 0 none 0 = some v ∧ (p.length ≤ tensorBytes v ↔ k = 1) := by
  intro k hk0 hk
  have o : openChunk (zeros 32) 7 0 5 1 0 (chunkC k) = some ((gcmCrypt (zeros 32) (leBytes 4 7 ++ leBytes 4 5 ++ leBytes 4 0) (sub (chunkC k) 16 4096)).take k.toNat) := by
    have e : ∀ k ∈ [(1 : Byte), 5], ((peekN (ended (chunkMem k)) 0 (5 * 2 ^ 30) 2, peekN (ended (chunkMem k)) 0 (5 * 2 ^ 30 + 2) 1, peekN (ended (chunkMem k)) 0 (5 * 2 ^ 30 + 3) 1,
        peekN (ended (chunkMem k)) 0 (5 * 2 ^ 30 + 4) 4, peekN (ended (chunkMem k)) 0 (5 * 2 ^ 30 + 8) 4, peekN (ended (chunkMem k)) 0 (5 * 2 ^ 30 + 12) 4) =
        (leBytes 2 1, leBytes 1 0, leBytes 1 1, leBytes 4 5, leBytes 4 0, leBytes 4 k.toNat)) ∧ leNat (leBytes 4 k.toNat) = k.toNat ∧ 1 ≤ k.toNat ∧ k.toNat ≤ 4096 := by decide +kernel
    have e := e k hk0
    simp only [Prod.mk.injEq] at e
    obtain ⟨⟨a, b, c, d, f, g⟩, l, h1, h2⟩ := e
    have x : leNat (leBytes 2 1) = 1 ∧ leNat (leBytes 1 0) = 0 ∧ leNat (leBytes 1 1) = 1 ∧ leNat (leBytes 4 5) = 5 ∧ leNat (leBytes 4 0) = 0 := by decide +kernel
    simp only [openChunk, rd_chunkC (b := k) (a := 0) (k := 2) (by decide), rd_chunkC (b := k) (a := 2) (k := 1) (by decide), rd_chunkC (b := k) (a := 3) (k := 1) (by decide),
      rd_chunkC (b := k) (a := 4) (k := 4) (by decide), rd_chunkC (b := k) (a := 8) (k := 4) (by decide), rd_chunkC (b := k) (a := 12) (k := 4) (by decide),
      Nat.add_zero, a, b, c, d, f, g, l, x.1, x.2.1, x.2.2.1, x.2.2.2.1, x.2.2.2.2, gcmOpen, hk, if_true]
    simp [h1, h2]
  obtain ⟨v, hv, hl⟩ := some_of (x := viewOf (owned .keyed true) 0 0 none 0) (q := fun v => tensorBytes v == 4) (by decide +kernel)
  refine ⟨(by decide +kernel : ∀ k ∈ [(1 : Byte), 5], alive (ingressRun (chunkMem k)) = true) k hk0, take_first _ _ { desk (owned .keyed true) with vale := { mem := chunkMem k } }, by decide,
    (gcmCrypt (zeros 32) (leBytes 4 7 ++ leBytes 4 5 ++ leBytes 4 0) (sub (chunkC k) 16 4096)).take k.toNat ++ [], v, ?_, hv, ?_⟩
  · have z : 5 * 2 ^ 30 + 4128 * 0 = 5 * 2 ^ 30 := rfl
    have g : (tget (owned .keyed true).keys.owners 0).getD [] = zeros 32 := rfl
    simp only [openChunks, g, z]
    rw [chunkC] at o ⊢
    rw [o]
  · rw [List.append_nil, List.length_take, crypt_length _ _ (by decide +kernel), chunkC, sub_peekN _ _ _ _ (by decide), peekN_length]
    rw [beq_iff_eq] at hl
    rw [hl]
    simp only [List.mem_cons, List.not_mem_nil, or_false] at hk0
    obtain rfl | rfl := hk0 <;> decide

theorem test_ingress_fails : takeRunning (.ingress 0 0) (ingressRun []) = (some (ingressM 5), gone []) ∧
    (match openChunks (fun i => openChunk ((tget (owned .keyed true).keys.owners 0).getD []) 7 0 5 1 i
      (peekN (ended []) 0 (5 * 2 ^ 30 + 4128 * i) 4128)) 1 0 with | .error i => i == 0 | .ok _ => false) = true :=
  ⟨take_first _ _ (desk (owned .keyed true)), by decide +kernel⟩

theorem test_ingress_wait : ∃ r u, Starts (desk (runs [desc 0x2D 0 [0, 1] []])) t0 0x2D r u ∧ true = true :=
  starts_of (p := fun _ _ => true) (by decide +kernel)

/-! A release of tensor 1 on queue pair 5, to a host or to owner 0, under a policy with one entry: tag 1, owner 0, both
recipients, 128 bytes; or under none. -/
def releaseD (recipient : Byte) : Bytes := desc 0x2C 0 [0xFFFF, 1] ([recipient, 0] ++ leBytes 2 5)
def gate (entry : Bool) (recipient : Byte) : Job := { runs [releaseD recipient] with
  tensors := [(1, { raw := overlay (flat (2 ^ 32) 4 1 0) 10 [1, 0] })]
  policy := [1, 0, 1, 0] ++ zeros 12 ++ leBytes 2 entry.toNat ++ zeros (0x520 - 18) ++ [1, 0, 1, 0, 3, 0, 0, 0] ++ leBytes 4 128 ++ zeros 4
  keys := { owners := [(0, zeros 32)] } }
def gated (entry : Bool) (recipient : Byte) : State := { desk (gate entry recipient) with eth := { qps := [(5, { cls := 1 })] } }

theorem test_releases : ∀ x ∈ [(false, (0 : Byte)), (true, 0), (true, 1)], ∃ r u, Starts (gated x.1 x.2) t0 0x2C r u ∧
    (let w := (ensurePages r u).1
     let mask := ownerMask w 0 (dT r.d 1)
     (ensurePages r u).2 && ((narrowsStatus r.b (tTag (((tget r.b.tensors (dT r.d 1)).map (·.raw)).getD [])) (rd r.d 28 1) (rd r.d 29 1)
        (releasePayload w r mask).length mask == 0) == x.1) &&
      ((tget w.eth.qps (rd r.d 30 2)).any fun y => y.cls == 1 && !y.error && y.partition == partOf 0) && rd r.d 28 1 == x.2.toNat) = true := by
  intro x h
  simp only [List.mem_cons, List.not_mem_nil, or_false] at h
  obtain rfl | rfl | rfl := h <;> exact starts_of (by decide +kernel)

def releasing : Job := { gate true 0 with narrows := { releases := [⟨3, t0, 5, 68, 0⟩] } }
theorem test_release_completes : alive (desk releasing) = true ∧ tget (desk releasing).jobs 0 = some releasing ∧
    (releasing.narrows.releases.find? fun x => x.number == 3) = some ⟨3, t0, 5, 68, 0⟩ ∧
    ∃ r, refOf (dropFlight (.release 0 3) (modNarrows 0 (fun y => { y with releases := y.releases.filter fun z => z.number != 3 }) (desk releasing))) t0 = some r :=
  ⟨by decide +kernel, rfl, rfl, _, rfl⟩
/-! ### Checkpoints -/

/-- A setup record of a member: object 0, one member of index 0, lead address 0. -/
def setupR : Bytes := zeros 8 ++ leBytes 4 1 ++ zeros 100
/-- A lead's, with one blob at 4 GiB. -/
def setupL : Bytes := zeros 8 ++ leBytes 4 1 ++ zeros 84 ++ leBytes 5 (2 ^ 32) ++ [1] ++ zeros 10
def setupM (lead : Bool) : Msg := jobM 0x60 0 [] (if lead then setupL else setupR)
def capJob (lead : Bool) : Job := { work with isLead := lead, digest := zeros 32, keying := { units := [(5, zeros 32)] } }
def capState (lead : Bool) (m : Msg) : State := sends m { holds (.queuePair 64) (desk (capJob lead)) with
  eth := { qps := [(64, { cls := 3 })] }, vale := { mem := [(2 ^ 32 + 4, 7)] } }

theorem blobOk_of {b : Job} {x : Bytes} (h : (rd x 4 4 == b.id && sub x 0x28 32 == sub b.digest 0 32 &&
    b.keying.units.any fun u => !(b.keying.refusedMembers.contains u.1) && sub u.2 0 32 == sub x 8 32) = true) : blobOk b x = true := by
  simp only [blobOk, Bool.and_eq_true, Bool.or_eq_true] at h ⊢
  exact ⟨h.1, .inr h.2⟩

theorem test_capture_set_up : ∀ lead : Bool,
    let s := capState lead (setupM lead)
    let t := popInbox 20 s
    let r := msgBody (setupM lead).bytes
    (match boundJob t (setupM lead) with | .ok j => j == 0 | .error _ => false) = true ∧ tget s.jobs 0 = some (capJob lead) ∧
    Front s 20 0x60 (setupM lead) ∧ (capJob lead).capture.phase = .none ∧ setupFieldsOk (capJob lead) r = true ∧
    extentStatus t (partOf 0) 3 (rd r 0 2) (rd r 2 1) = none ∧
    (lead = true → rangeOk t 0 (rd r 96 5) (376 * rd r 101 1) = true ∧ (setupBlobs t 0 r).all (blobOk (capJob lead)) = true) := by
  intro lead
  cases lead <;> refine ⟨by decide +kernel, rfl, front_of (by decide +kernel), rfl, by decide +kernel, by decide +kernel, ?_⟩
  · intro h; exact absurd h (by decide)
  · intro _
    refine ⟨by decide +kernel, ?_⟩
    have n : rd (msgBody (setupM true).bytes) 101 1 = 1 := by decide +kernel
    rw [setupBlobs, n]
    change (blobOk _ _ && true) = true
    rw [Bool.and_true]
    exact blobOk_of (by decide +kernel)

def triggerM : Msg := jobM 0x61 0 [] []
def statusM : Msg := jobM 0x62 0 [] []

theorem test_capture_messages : ∀ x ∈ [(triggerM, 0x61), (statusM, 0x62)],
    (match boundJob (popInbox 20 (capState true x.1)) x.1 with | .ok j => j == 0 | .error _ => false) = true ∧
    tget (capState true x.1).jobs 0 = some (capJob true) ∧ Front (capState true x.1) 20 x.2 x.1 ∧ (capJob true).phase = .keyed := by
  intro x h
  simp only [List.mem_cons, List.not_mem_nil, or_false] at h
  obtain rfl | rfl := h <;> exact ⟨by decide +kernel, rfl, front_of (by decide +kernel), rfl⟩

/-- A timer of one unit. -/
def timed1 (b : Job) : State := { desk b with config := { image := { factoryImage with triggers := [(0, { timer := 1 })] } } }
def readyLead : Job := { capJob true with capture := { setup := setupL } }
def enteredLead : Job := { capJob true with capture := { setup := setupL, phase := .entered } }

theorem test_capture_timers :
    (∀ b ∈ [readyLead, capJob true, enteredLead], alive (timed1 b) = true ∧ b.isLead = true ∧ b.phase = .keyed ∧ (trigCfg (timed1 b) 0).timer ≠ 0) ∧
    (readyLead.capture.phase = .none ∧ readyLead.capture.setup ≠ []) ∧ (capJob true).capture.setup = [] ∧
    (enteredLead.capture.phase ≠ .none ∧ enteredLead.capture.phase = .entered) :=
  ⟨by decide +kernel, by decide +kernel, rfl, by decide +kernel⟩

def entered (a : Bool) : Job := { runs [desc 0x10 0 [0, 1, 2] []] with
  subs := if a then [] else [(0, { sub0 [desc 0x10 0 [0, 1, 2] []] with state := [(0, { units := 1 })] })], capture := { phase := .entered, arrived := !a } }

/-- The task of the job at work on a core, or none. -/
def busyCore (a : Bool) : State := { desk (entered a) with cores := if a then [] else [(0, { threads := [(0, (t0, 0))] })] }

theorem test_member_arrives : ∀ a : Bool, alive (busyCore a) = true ∧ tget (busyCore a).jobs 0 = some (entered a) ∧
    (entered a).capture.phase = .entered ∧ (entered a).capture.arrived = !a ∧ (tasksQuiet (busyCore a) 0 (entered a) && commQuiet (entered a)) = a := by decide +kernel

/-- A released capture without sections, with so much room for its shard. -/
def released (room : Nat) : Job := { work with capture := { phase := .released, setup := zeros 56 ++ leBytes 8 room ++ zeros 48 } }
def writing : Job := { capJob true with capture := { lead := { manifestWriting := true } } }

/-- Its queue pair of the checkpoint class. -/
def shardState (b : Job) : State := { holds (.queuePair 64) (desk b) with eth := { qps := [(64, { cls := 3 })] } }

theorem test_shard_written :
    (∀ n ∈ [0, 4112], alive (shardState (released n)) = true ∧ tget (shardState (released n)).jobs 0 = some (released n) ∧
      (released n).capture.phase = .released ∧ rd (released n).capture.setup (shardSet (released n).capture.serial + 16) 8 = n ∧
      (let w := dropFlight (.shard 0) (shardState (released n))
       ((qpOfObj w (rd (released n).capture.setup 0 2)).map (carries w)).getD false = true ∧
        ((shardBytes (released n) w).1.length ≤ n ↔ n = 4112))) ∧
    (alive (desk writing) = true ∧ tget (desk writing).jobs 0 = some writing ∧ writing.capture.lead.manifestWriting = true) := by
  decide +kernel
def restoreM : Msg := jobM 0x63 0 [] (zeros 64)
/-- A lead and a member, with a checkpoint extent, and no manifest or an empty one read. -/
def restoreState (lead : Bool) : State := capState lead restoreM

theorem test_restore_begins : ∀ lead : Bool, ∀ read ∈ [ReadResult.failed, .bytes []],
    let s := restoreState lead
    let t := popInbox 20 s
    let r := msgBody restoreM.bytes
    let c := restoreCause t 0 (capJob lead) r read .failed
    Front s 20 0x63 restoreM ∧ (match boundJob t restoreM with | .ok j => j == 0 | .error _ => false) = true ∧ tget s.jobs 0 = some (capJob lead) ∧
    r.length = 64 ∧ allZero (sub r 45 19) = true ∧ (capJob lead).phase = .keyed ∧ (capJob lead).restore = none ∧
    (capJob lead).capture.phase = .none ∧ extentStatus t (partOf 0) 3 (rd r 0 2) (rd r 2 1) = none ∧
    rangeOk t 0 (rd r 40 5) (4 * rd c.2.2.1 0x18 4) = true ∧ rangeOk t 0 (rd r 3 5) (16 * rd c.2.2.1 0x18 4) = true := by
  intro lead read h
  simp only [List.mem_cons, List.not_mem_nil, or_false] at h
  cases lead <;> obtain rfl | rfl := h <;>
    exact ⟨front_of (by decide +kernel), by decide +kernel, rfl, by decide +kernel, by decide +kernel, rfl, rfl, rfl, by decide +kernel,
      by decide +kernel, by decide +kernel⟩

/-- A restore that goes on, whose shard is of no byte by its manifest. -/
def going : RestoreSt := { msg := restoreM, record := zeros 64, manifest := zeros 144 ++ sha256 [], going := true }
def restoring : Job := { capJob true with restore := some going }

theorem test_restore_loads : alive (shardState restoring) = true ∧ tget (shardState restoring).jobs 0 = some restoring ∧ restoring.restore = some going ∧
    going.imported = false ∧ going.going = true ∧ going.loaded = false ∧
    ((qpOfObj (shardState restoring) (rd going.record 0 2)).map (carries (shardState restoring))).getD false = true ∧
    (let e := manifestEntry going.manifest (rd going.record 36 4)
     ([] : Bytes).length = rd e 8 8 ∧ sha256 [] = sub e 16 32 ∧ ([0] : Bytes).length ≠ rd e 8 8) :=
  ⟨by decide +kernel, rfl, rfl, rfl, rfl, rfl, by decide +kernel, by decide +kernel⟩

/-! STATE_IMPORT of the source's first tensor, logical_id 17, from a manifest of one member with a control area (flag 0). -/
def importR : Bytes := zeros 42 ++ leBytes 2 0 ++ zeros 20
def stateImportM : Msg := jobM 0x64 0 [] importR
def importE (logical : Nat) : TensorE := { raw := flat (2 ^ 32) 4 1 logical }
def importJob (logical : Nat) : Job := { capJob false with tensors := [(0, importE logical)], keys := { secret := Config.root } }
def importState : State := { sends stateImportM { holds (.queuePair 64) (desk (importJob 17)) with eth := { qps := [(64, { cls := 3 })] } } with tickets := 0 }
def importMan : Bytes := [1, 0, 1, 0] ++ leBytes 4 7 ++ zeros 16 ++ leBytes 4 1 ++ zeros 196 ++ [1]

theorem test_import_begins (hv : ∀ k m g, Config.slh256Verify k m g = true) (hw : ∀ k m g, Config.slh128Verify k m g = true)
    (hm : gcmTag (sub (ckptKey (importJob 17)) 32 32) (leBytes 8 0 ++ leBytes 4 7) (importMan.take 208) [] = zeros 16) (tag : Bytes) (l : tag.length = 16)
    (hk : gcmTag (sub (ckptKey (importJob 17)) 0 32) (shardIv 0 0 0) [] (zeros 4096) = tag) :
    let t := popInbox 20 importState
    let r := msgBody stateImportM.bytes
    Front importState 20 0x64 stateImportM ∧ (match boundJob t stateImportM with | .ok j => j == 0 | .error _ => false) = true ∧
    tget importState.jobs 0 = some (importJob 17) ∧ r = importR ∧ r.length = 64 ∧ allZero (sub r 3 5) = true ∧ rd r 36 4 < 2 ^ 20 ∧ rd r 40 1 < 2 ∧
    rd r 41 1 = 0 ∧ allZero (sub r 44 20) = true ∧ (importJob 17).phase = .keyed ∧ (importJob 17).restore = none ∧
    extentStatus t (partOf 0) 3 (rd r 0 2) (rd r 2 1) = none ∧ tget (importJob 17).tensors (rd r 42 2) = some (importE 17) ∧
    manifestCause (importJob 17) importMan = 0 ∧ bit (rd importMan 2 1) 0 = true ∧ rd r 36 4 < rd importMan 0x18 4 ∧
    (∃ h, shardChunk (ckptKey (importJob 17)) (rd importMan 8 8) (rd r 36 4) (zeros 4096 ++ tag) 0 = some h) ∧
    sourceTensor (tLogical (importE 17).raw) (indexEntries (flat (2 ^ 33) 4 1 17)) = some (flat (2 ^ 33) 4 1 17, []) ∧
    ∃ dv sv, viewOf (importJob 17) 0 0 none (rd r 42 2) = some dv ∧ sourceView (flat (2 ^ 33) 4 1 17) [] (importJob 17).cfg.block = some sv ∧
      importOk (flat (2 ^ 33) 4 1 17) (importE 17).raw sv dv = true := by
  have z : (zeros 4096).length = 4096 := List.length_replicate
  refine ⟨front_of (by decide +kernel), by decide +kernel, rfl, by decide +kernel, by decide +kernel, by decide +kernel, by decide +kernel,
    by decide +kernel, by decide +kernel, by decide +kernel, rfl, rfl, by decide +kernel, by rfl, ?_, by decide +kernel, by decide +kernel, ?_,
    by decide +kernel, ?_⟩
  · have a : rd importMan 0 2 = 1 := by decide +kernel
    have b : manifestTagAt importMan = 208 := by decide +kernel
    have c : rd (sub importMan (208 + 16) 29920) 0 2 = 1 := by
      rw [rd, sub]; decide +kernel
    have d : rd importMan 8 8 = 0 := by decide +kernel
    have e : rd importMan 4 4 = 7 := by decide +kernel
    have f : sub importMan 208 16 = zeros 16 := by decide +kernel
    have g : sub importMan 0x20 32 = sub (importJob 17).digest 0 32 := by decide +kernel
    have i : (importJob 17).id = 7 := rfl
    simp only [manifestCause, a, b, c, hv, hw, d, e, f, g, hm, i]
    decide
  · have m : rd importMan 8 8 = 0 := by decide +kernel
    have n : rd (msgBody stateImportM.bytes) 36 4 = 0 := by decide +kernel
    have k : ((zeros 4096 ++ tag).drop (4112 * 0)).take 4112 = zeros 4096 ++ tag := by
      rw [Nat.mul_zero, List.drop_zero, List.take_of_length_le (Nat.le_of_eq (show (zeros 4096 ++ tag).length = 4112 by rw [List.length_append, z, l]))]
    have o : (zeros 4096 ++ tag).length = 4112 := by rw [List.length_append, z, l]
    rw [m, n]
    simp only [shardChunk, k, o, if_true, sub_left z, sub_right z l, gcmOpen, hk]
    exact ⟨_, rfl⟩
  · exact two_of (fun dv sv => importOk (flat (2 ^ 33) 4 1 17) (importE 17).raw sv dv) (by decide +kernel)

/-- An import whose bytes are all asked for: of a master (logical_id 18) where the shard is empty, and of a moment (19, nothing to copy). -/
def importing (logical : Nat) : RestoreSt := { msg := stateImportM, record := importR, imported := true, index := flat (2 ^ 33) 4 1 logical }
def importDone (logical : Nat) : Job := { importJob logical with restore := some (importing logical) }

theorem test_import_ends : ∀ n ∈ [17, 19],
    alive (desk (importDone n)) = true ∧ tget (desk (importDone n)).jobs 0 = some (importDone n) ∧ (importDone n).restore = some (importing n) ∧
    (importing n).imported = true ∧ tget (importDone n).tensors (rd (importing n).record 42 2) = some (importE n) ∧
    sourceTensor (tLogical (importE n).raw) (indexEntries (importing n).index) = some (flat (2 ^ 33) 4 1 n, []) ∧
    (∀ p ∈ (byteRange (importDone n).tensors 0 0 (rd (importing n).record 42 2)).flatMap pagesOf, (dirAt (desk (importDone n)) 0 p).st = .resident) ∧
    ∃ dv sv, viewOf (importDone n) 0 0 none (rd (importing n).record 42 2) = some dv ∧
      sourceView (flat (2 ^ 33) 4 1 n) [] (importDone n).cfg.block = some sv ∧
      ((importBytes (importDone n) (importing n) [] (importE n) (flat (2 ^ 33) 4 1 n) dv sv).all fun c => c.2.isSome) = (n == 19) := by
  intro n h
  simp only [List.mem_cons, List.not_mem_nil, or_false] at h
  obtain rfl | rfl := h <;>
    refine ⟨by decide +kernel, rfl, rfl, rfl, rfl, by decide +kernel, by decide +kernel, ?_⟩
  · obtain ⟨dv, sv, h, k, e⟩ := two_of (a := viewOf (importDone 17) 0 0 none (rd (importing 17).record 42 2))
      (b := sourceView (flat (2 ^ 33) 4 1 17) [] (importDone 17).cfg.block)
      (fun dv sv => !((importBytes (importDone 17) (importing 17) [] (importE 17) (flat (2 ^ 33) 4 1 17) dv sv).all fun c => c.2.isSome)) (by decide +kernel)
    exact ⟨dv, sv, h, k, by rw [Bool.not_eq_true'] at e; rw [e]; rfl⟩
  · exact two_of (fun dv sv => (importBytes (importDone 19) (importing 19) [] (importE 19) (flat (2 ^ 33) 4 1 19) dv sv).all fun c => c.2.isSome) (by decide +kernel)
/-! ### Flash, the Ledger's commands, firmware -/

def withSlot (f : FlashSlot) (s : State) : State := { s with config := { s.config with slots := [{}, f] } }
def eraseC : Msg := mg 0x70 [1] []
def writeC : Msg := mg 0x71 (leBytes 4 (2 ^ 20 - 1) ++ [1]) [5]

/-- Slot 1 of the configuration: erased over the sideband and from context 0, the last byte of the slot written by its writer and by another. -/
theorem test_config_written :
    (isManagement ⟨none, sb 0x70 [1] []⟩ = true ∧ arg (sb 0x70 [1] []) 0 1 ≤ 1 ∧
      Arrives State.reset 0x70 (.sideband (sb 0x70 [1] [])) ⟨none, sb 0x70 [1] []⟩ (taken0 State.reset)) ∧
    (isManagement eraseC = true ∧ arg eraseC.bytes 0 1 ≤ 1 ∧ Arrives (manages eraseC live) 0x70 (.inbox 0) eraseC (popInbox 0 (manages eraseC live))) ∧
    (∀ w ∈ [some 0, none], isManagement writeC = true ∧ arg writeC.bytes 4 1 ≤ 1 ∧
      Arrives (withSlot { writer := w } (manages writeC live)) 0x71 (.inbox 0) writeC (popInbox 0 (withSlot { writer := w } (manages writeC live))) ∧
      (writeStatus writeC { writer := w } (2 ^ 20)).isSome = w.isNone) := by
  refine ⟨⟨rfl, by decide +kernel, sideband_of (by decide +kernel)⟩, ⟨rfl, by decide +kernel, arrives_of (by decide +kernel)⟩, ?_⟩
  intro w h
  simp only [List.mem_cons, List.not_mem_nil, or_false] at h
  obtain rfl | rfl := h <;> exact ⟨rfl, by decide +kernel, arrives_of (by decide +kernel), by decide +kernel⟩

/-- COMMIT, SELECT and ACTIVATE of slot 1. -/
def slotM (typ : Nat) : Msg := mg typ [1] []
def slotState (typ : Nat) (f : FlashSlot) : State := withSlot f (manages (slotM typ) live)

theorem slot_arrives : ∀ typ ∈ [0x72, 0x73, 0x74], ∀ f : FlashSlot, isManagement (slotM typ) = true ∧ arg (slotM typ).bytes 0 1 ≤ 1 ∧
    Arrives (slotState typ f) typ (.inbox 0) (slotM typ) (popInbox 0 (slotState typ f)) ∧
    slotOf (popInbox 0 (slotState typ f)).config.slots (arg (slotM typ).bytes 0 1) = f ∧ (popInbox 0 (slotState typ f)).ledger.mirrorFault = false ∧
    configBusy (popInbox 0 (slotState typ f)) = false := by
  intro typ h f
  have front : ∀ typ, frontB (slotState typ f) 0 typ (slotM typ) = frontB (slotState typ {}) 0 typ (slotM typ) := fun _ => rfl
  simp only [List.mem_cons, List.not_mem_nil, or_false] at h
  obtain rfl | rfl | rfl := h <;>
    exact ⟨rfl, by decide +kernel, arrives_of ((front _).trans (by decide +kernel)), rfl, rfl, rfl⟩

/-- A slot that holds any image that passes, or none, for a commit; any valid slot for a selection; a valid one that bars nothing for an activation. -/
theorem test_config_settled :
    (∀ f : FlashSlot, f.writer = some 0 → imageFault (slotImage f) = none → f.writer = some (senderId (slotM 0x72))) ∧
    (({ writer := some 0 } : FlashSlot).writer = some (senderId (slotM 0x72)) ∧ (imageFault (slotImage { writer := some 0 })).isSome = true) ∧
    ({ valid := true } : FlashSlot).valid = true ∧ activationBarred (popInbox 0 (slotState 0x74 { valid := true })) (readImage (slotImage { valid := true })) = false  := by
  refine ⟨fun _ h _ => h, by decide +kernel, rfl, ?_⟩
  have h : ((List.range 16).filter fun p => taken (popInbox 0 (slotState 0x74 { valid := true })) p) = [] := by decide +kernel
  simp [activationBarred, h]

def anchorM : Msg := mg 0x78 (leBytes 8 (2 ^ 64 - 1)) []
def streamM (n : Nat) : Msg := mg 0x79 (leBytes 8 n) []
def stopM : Msg := mg 0x7A [] []
/-- Record 0 is gone from the mirror and the ring. -/
def later : Ledger := { ring := [(1, zeros 128)], next := 2, mirror := [(1, zeros 128)], mirrored := 2 }
def streaming (n : Nat) : State := { manages (streamM n) live with ledger := later }

theorem test_ledger_messages :
    (isManagement anchorM = true ∧ Front (manages anchorM live) 0 0x78 anchorM) ∧
    (∀ n ∈ [0, 1], isManagement (streamM n) = true ∧ Front (streaming n) 0 0x79 (streamM n) ∧ (terase (streaming n).ledger.streams 0).length < 4 ∧
      let u := complete (streamM n) 0x00 (ledgerNote 2 (arg (streamM n).bytes 0 8) (popInbox 0 (streaming n)))
      (oldestRecord u = 1 ∧ (recordAt u 1).isSome = true ∧ arg (streamM n).bytes 0 8 = n)) ∧
    (isManagement stopM = true ∧ Front (manages stopM live) 0 0x7A stopM) := by
  refine ⟨⟨rfl, front_of (by decide +kernel)⟩, ?_, rfl, front_of (by decide +kernel)⟩
  intro n h
  simp only [List.mem_cons, List.not_mem_nil, or_false] at h
  obtain rfl | rfl := h <;> exact ⟨rfl, front_of (by decide +kernel), by decide +kernel, by decide +kernel⟩

def reqM : Msg := mg 0x88 (leBytes 4 65535) [7]
theorem test_request_written : Arrives (manages reqM live) 0x88 (.inbox 0) reqM (popInbox 0 (manages reqM live)) ∧ isManagement reqM = true ∧
    msgBody reqM.bytes ≠ [] ∧ (msgBody reqM.bytes).length ≤ 960 ∧ arg reqM.bytes 0 4 + (msgBody reqM.bytes).length ≤ 65536 :=
  ⟨arrives_of (by decide +kernel), rfl, by decide +kernel, by decide +kernel, by decide +kernel⟩

/-! Firmware slot 1: erased, written, committed, activated; the recovery set is in effect. -/
def fwM (typ : Nat) : Msg := mg typ (if typ = 0x84 then leBytes 4 (fwSlotSize - 1) ++ [1] else [1]) (if typ = 0x84 then [5] else [])
def fwState (typ : Nat) (f : FlashSlot) (busy : Option (Nat × FwEffect)) : State :=
  { manages (fwM typ) live with fw := { slots := [{}, f], effect := some ⟨2, []⟩, activating := busy } }
def fwSlot : FlashSlot := { writer := some 0, valid := true }

theorem test_firmware_messages :
    (∀ typ ∈ [0x83, 0x84, 0x85, 0x86], isManagement (fwM typ) = true ∧
      Arrives (fwState typ fwSlot none) typ (.inbox 0) (fwM typ) (popInbox 0 (fwState typ fwSlot none))) ∧
    ((fwState 0x83 fwSlot none).fw.effect.map (·.slot) ≠ some 1) ∧
    (arg (fwM 0x84).bytes 4 1 ≤ 1 ∧ writeStatus (fwM 0x84) fwSlot fwSlotSize = none) ∧
    (fwSlot.writer = some (senderId (fwM 0x85)) ∧ (slotFault (popInbox 0 (fwState 0x85 fwSlot none)) 1).isSome = true) ∧
    (isManagement (fwM 0x86) = true ∧ Arrives (fwState 0x86 fwSlot (some (3, ⟨0, []⟩))) 0x86 (.inbox 0) (fwM 0x86)
      (popInbox 0 (fwState 0x86 fwSlot (some (3, ⟨0, []⟩)))) ∧ fwWaits (popInbox 0 (fwState 0x86 fwSlot (some (3, ⟨0, []⟩)))) = true) ∧
    (fwSlot.valid = true ∧ fwWaits (popInbox 0 (fwState 0x86 fwSlot none)) = false ∧ (popInbox 0 (fwState 0x86 fwSlot none)).jobs = []) := by
  refine ⟨?_, by decide +kernel, by decide +kernel, by decide +kernel, ⟨rfl, arrives_of (by decide +kernel), by decide +kernel⟩, by decide +kernel⟩
  intro typ h
  simp only [List.mem_cons, List.not_mem_nil, or_false] at h
  obtain rfl | rfl | rfl | rfl := h <;> exact ⟨rfl, arrives_of (by decide +kernel)⟩

/-- A job whose policy lists no measurement bars the set, one set with no job is listed. -/
theorem test_firmware_listed : let s : State := { fwState 0x86 fwSlot none with jobs := [(0, work)] }
    (isManagement (fwM 0x86) = true ∧ arg (fwM 0x86).bytes 0 1 ≤ 1 ∧ Arrives s 0x86 (.inbox 0) (fwM 0x86) (popInbox 0 s)) ∧
    ((slotOf (popInbox 0 s).fw.slots 1).valid = true ∧ fwUnlisted (popInbox 0 s) (slotManifest (popInbox 0 s) 1) = true ∧
      (popInbox 0 s).ledger.mirrorFault = false) ∧
    ∀ busy m, fwUnlisted (popInbox 0 (fwState 0x86 fwSlot busy)) m = false := by
  refine ⟨⟨rfl, by decide +kernel, arrives_of (by decide +kernel)⟩, ?_, fun _ _ => by rfl⟩
  refine ⟨rfl, ?_, rfl⟩
  have c : ∀ m, accepts work.policy m = false := fun m => by rfl
  simp [fwUnlisted, popInbox, fwState, manages, talk, c]

def ratchetM : Msg := mg 0x87 [] []
def ratchetState : State := { manages ratchetM live with fw := { effect := some ⟨2, []⟩ } }
theorem test_ratchet : isManagement ratchetM = true ∧ Arrives ratchetState 0x87 (.inbox 0) ratchetM (popInbox 0 ratchetState) ∧
    (popInbox 0 ratchetState).fw.effect = some ⟨2, []⟩ ∧ olderSet (popInbox 0 ratchetState) ⟨2, []⟩ = false ∧
    (popInbox 0 ratchetState).ledger.mirrorFault = false :=
  ⟨rfl, arrives_of (by decide +kernel), rfl, by decide +kernel, rfl⟩

/-- A set that passes its checks, whatever it is, is one that a commit and an activation take. -/
theorem test_firmware_set (f : FlashSlot) (h : setFault (flashRead f) (heldKey live) live.lc.security = none) :
    slotFault (popInbox 0 (fwState 0x86 f none)) 1 = none ∧ slotFault (popInbox 0 (fwState 0x85 f none)) 1 = none := ⟨h, h⟩

theorem test_activation_done : ({ live with fw := { activating := some (3, ⟨0, []⟩) } } : State).fw.activating = some (3, ⟨0, []⟩) := rfl
/-! ### Life cycle and resets -/

def lcM : Msg := mg 0x89 [] []
/-- A request from Production to End-of-life, or of zeros, in the buffer. -/
def lcState (r : Bytes) : State := { manages lcM live with glen := { requestBuffer := [(0, r)] } }
def requestOf (r : Bytes) : Bytes := bufferRead (popInbox 0 (lcState r)) 0 requestLength

/-- A buffer that holds short bytes reads as those, and zeros. -/
theorem buffer_short (s : State) (r : Bytes) (n : Nat) (h : s.glen.requestBuffer = [(0, r)]) (k : r.length < n) :
    bufferRead s 0 n = r ++ zeros (n - r.length) := by
  simp only [bufferRead, h, List.foldl_cons, List.foldl_nil, patch]
  have z : (zeros n).length = n := List.length_replicate
  split
  · next c =>
    have e : r.length = 0 := by omega
    rw [List.eq_nil_of_length_eq_zero e]; rfl
  · have m : ((r.drop (0 - 0)).take (zeros n).length) = r := by rw [z, Nat.sub_self, List.drop_zero, List.take_of_length_le (by omega)]
    simp only [Nat.zero_le, if_true, m]
    simp [zeros]

/-- Where the signature of the request verifies and the unit's identifier is the request's (log 6, log 5). -/
theorem test_transition (hv : ∀ k m g, Config.slh256Verify k m g = true) (hu : sub Config.unitId 0 32 = zeros 32) :
    (∀ r, isManagement lcM = true ∧ Arrives (lcState r) 0x89 (.inbox 0) lcM (popInbox 0 (lcState r)) ∧ (popInbox 0 (lcState r)).glen.current = none ∧
      (popInbox 0 (lcState r)).lc.ticket = none ∧ (popInbox 0 (lcState r)).lc.resetDue = false ∧ (popInbox 0 (lcState r)).ledger.mirrorFault = false) ∧
    lcCause (popInbox 0 (lcState [0, 0, 2, 3])) (requestOf [0, 0, 2, 3]) = none ∧ lcCause (popInbox 0 (lcState [])) (requestOf []) = some 3 := by
  refine ⟨fun r => ⟨rfl, arrives_of (Eq.trans (b := frontB (lcState []) 0 0x89 lcM) rfl (by decide +kernel)), rfl, rfl, rfl, rfl⟩, ?_, ?_⟩
  · have e : requestOf [0, 0, 2, 3] = [0, 0, 2, 3] ++ zeros (requestLength - 4) := buffer_short _ _ _ rfl (by decide)
    rw [e]
    have a : sub ([0, 0, 2, 3] ++ zeros (requestLength - 4)) 0x10 32 = zeros 32 := by decide +kernel
    have b : reqFrom ([0, 0, 2, 3] ++ zeros (requestLength - 4)) = 2 := by decide +kernel
    have c : reqTo ([0, 0, 2, 3] ++ zeros (requestLength - 4)) = 3 := by decide +kernel
    simp only [lcCause, hv, hu, a, b, c]
    decide +kernel
  · have e : requestOf [] = [] ++ zeros (requestLength - 0) := buffer_short _ _ _ rfl (by decide)
    rw [e]
    have a : sub ([] ++ zeros (requestLength - 0)) 0x10 32 = zeros 32 := by decide +kernel
    have b : reqFrom ([] ++ zeros (requestLength - 0)) = 0 := by decide +kernel
    simp only [lcCause, hv, hu, a, b]
    decide +kernel

theorem test_reset_due : ({ live with lc := { resetDue := true } } : State).lc.resetDue = true := rfl

def openM : Msg := mg 0x8A [] []
def closeM : Msg := mg 0x8B [] []
/-- A token for boot 1 in the buffer. -/
def tokenState : State := { manages openM live with glen := { requestBuffer := [(0, [0, 0, 0, 0, 1])] } }
def tokenOf : Bytes := bufferRead (popInbox 0 tokenState) 0 (0x40 + 29792)
theorem tokenOf_is : tokenOf = [0, 0, 0, 0, 1] ++ zeros (0x40 + 29792 - 5) := buffer_short _ _ _ rfl (by decide)

theorem test_debug (hv : Config.slh256Verify (sub (Config.romKey 3) 0 64) (sub tokenOf 0 0x40) (sub tokenOf 0x40 29792) = true)
    (hu : sub Config.unitId 0 32 = zeros 32) :
    isManagement openM = true ∧ tokenState.ledger.mirrorFault = false ∧ Front tokenState 0 0x8A openM ∧ tokenState.glen.current = none ∧
    Config.slh256Verify (sub (Config.romKey 3) 0 64) (sub tokenOf 0 0x40) (sub tokenOf 0x40 29792) = true ∧
    sub tokenOf 8 32 = sub Config.unitId 0 32 ∧ rd tokenOf 4 4 = tokenState.boot ∧
    isManagement closeM = true ∧ Front (manages closeM live) 0 0x8B closeM :=
  ⟨rfl, rfl, front_of (by decide +kernel), rfl, hv, (by rw [tokenOf_is]; decide +kernel : sub tokenOf 8 32 = zeros 32).trans hu.symm, by rw [tokenOf_is]; decide +kernel, rfl, front_of (by decide +kernel)⟩

def resetM (kind part : Byte) : Msg := mg 0x8C [kind, part] []
def closing : State := desk { work with phase := .closing }

theorem test_resets :
    ([((1 : Byte), (15 : Byte)), (1, 0xFF), (2, 0), (3, 0)].all fun x => isManagement (resetM x.1 x.2) && (resetM x.1 x.2).ctx == some 0 &&
      arg (resetM x.1 x.2).bytes 0 1 == x.1.toNat && arg (resetM x.1 x.2).bytes 1 1 == x.2.toNat &&
      frontB (manages (resetM x.1 x.2) live) 0 0x8C (resetM x.1 x.2)) = true ∧
    ([(15 : Byte), 255].all fun p => !resetWaits (popInbox 0 (manages (resetM 1 p) live)) &&
      !((resetParts p.toNat).any (partCloses (popInbox 0 (manages (resetM 1 p) live))))) = true ∧
    (popInbox 0 (manages (resetM 2 0) live)).jobs.isEmpty = true ∧ resetWaits (popInbox 0 (manages (resetM 2 0) live)) = false ∧
    (popInbox 0 (manages (resetM 2 0) (desk work))).jobs.isEmpty = false ∧ resetWaits (popInbox 0 (manages (resetM 2 0) (desk work))) = false ∧
    resetWaits (popInbox 0 (manages (resetM 2 0) { live with fw := { activating := some (1, ⟨0, []⟩) } })) = true := by decide +kernel

theorem test_cold_reset_chained : Chained ({ live with ledger := oneRecord } : State).ledger := oneRecord_chained

/-! ### The start order -/

def atStep (n : Nat) (p : Power) (x : Start) : State := { State.reset with power := p, start := { x with step := n } }

theorem test_start_order :
    ((atStep 7 { mainPower := false } {}).power.mainPower = false) ∧
    (∀ n ∈ [0, 1, 2, 3, 4, 5, 6], (atStep n {} {}).power.mainPower = true ∧ (atStep n {} {}).power.resetHeld = false ∧
      (atStep n {} {}).start.step = n ∧ (atStep n {} {}).start.selfTestFailed = false ∧ (atStep n {} {}).start.bootHold = false ∧
      (atStep n {} {}).power.shut = false ∧ (atStep n {} {}).power.tripped = false ∧ (atStep n {} {}).start.stackFailed = []) ∧
    (([12, 13] : List Nat).filter fun k => decide (k < 12)) = [] ∧
    (atStep 4 {} { groups := 100 }).start.groups = 100 ∧ (atStep 5 {} { lasers := 16 }).start.lasers = 16 ∧
    (∀ s ∈ [atStep 4 { railsOn := true } { groups := 99 }, atStep 5 { railsOn := true } { lasers := 15 }, atStep 7 { railsOn := true } { toStart := [3] }],
      s.power.mainPower = true ∧ s.power.railsOn = true ∧ s.start.groups < 100 ∧ s.start.lasers < 16) ∧
    tget (atStep 4 { railsOn := true, blockStarted := [(999, 0)] } {}).power.blockStarted 999 = some 0 := by decide +kernel
/-! ### Operations of programs -/

/-- The state in which descriptor 0 is an operation on the tensors 0 to 5. -/
def oper (op : Nat) (rest : Bytes) : State := desk (runs [desc op 0 [0, 1, 2, 3, 4, 5] rest])

/-- An operation's pages are there, and no line of its reads fails. -/
def paged (r : Ref) (u : State) : Bool := (ensurePages r u).2 && (badRead r (ensurePages r u).1).isNone

theorem test_operations_start : ∀ op ∈ [0x11, 0x12, 0x13, 0x14, 0x15, 0x16, 0x17, 0x19, 0x1A, 0x1B, 0x1C, 0x1D, 0x1E, 0x1F, 0x27, 0x28],
    ∃ r u, Starts (oper op []) t0 op r u ∧ paged r u = true := by
  intro op h
  simp only [List.mem_cons, List.not_mem_nil, or_false] at h
  obtain rfl | rfl | rfl | rfl | rfl | rfl | rfl | rfl | rfl | rfl | rfl | rfl | rfl | rfl | rfl | rfl := h <;>
    exact starts_of (p := paged) (by decide +kernel)

theorem test_softmax_starts : ∀ mode ∈ [(0 : Byte), 1], ∃ r u, Starts (oper 0x18 [mode]) t0 0x18 r u ∧
    (paged r u && rd r.d 28 1 == mode.toNat) = true := by
  intro mode h
  simp only [List.mem_cons, List.not_mem_nil, or_false] at h
  obtain rfl | rfl := h <;> exact starts_of (by decide +kernel)

/-- A digest or statistics without a reference and without statistics. -/
theorem test_digest_starts : ∀ op ∈ [0x2A, 0x2B], ∃ r u, Starts (desk (runs [desc op 0 [0, 1] []])) t0 op r u ∧
    (paged r u && dStats r.d == 0xFFFF && (r.optView 2).isNone) = true := by
  intro op h
  simp only [List.mem_cons, List.not_mem_nil, or_false] at h
  obtain rfl | rfl := h <;> exact starts_of (p := fun r u => paged r u && dStats r.d == 0xFFFF && (r.optView 2).isNone) (by decide +kernel)

/-- A digest with a reference, tensor 2, from which the digest differs; outside a span and as the one descriptor of one. -/
def digestJob (spanned : Bool) : Job := { runs [] with subs := [(0, { sub0 [desc 0x2A 0 [0, 1, 2] []] with
  spans := if spanned then [{ id := 1, first := 0, last := 0, base := 0, rung := 0, started := true }] else [] })] }
theorem test_digest_differs : ∀ spanned : Bool, ∃ r u, Starts (desk (digestJob spanned)) t0 0x2A r u ∧
    (paged r u && dStats r.d == 0xFFFF && (spanPos r.u 0).isSome == spanned &&
      (let m := srcOf (ensurePages r u).1 0
       let h := sha256 (storedBytes m (r.slotView 1) ++ (if bit (rd r.d 28 1) 0 then scaleBytes m (r.slotView 1) else []))
       (r.optView 2).any fun v => storedBytes m v != h)) = true := by
  intro spanned
  cases spanned <;> exact starts_of (by decide +kernel)

/-- An operation on a page of the window whose fetch is in progress. -/
def onItsWay (op : Nat) : State := desk { runs [desc op 0 [0, 1, 2, 3, 4, 5] []] with tensors := (List.range 6).map fun i => (i, { raw := flat (2 ^ 39) 4 1 0 }) }
  |> fun s => { s with dir := [(0, { st := .fetching })] }
/-- One whose operands lie in a damaged line. -/
def onBadLine (op : Nat) : State := { oper op [] with vale := { damaged := [2 ^ 24] } }
theorem test_operation_waits : ∀ op ∈ [0x11, 0x12, 0x13, 0x14, 0x15],
    (∃ r u, Starts (onItsWay op) t0 op r u ∧ (!(ensurePages r u).2) = true) ∧
    (∃ r u, Starts (onBadLine op) t0 op r u ∧ ((ensurePages r u).2 && badRead r (ensurePages r u).1 == some (2 ^ 24)) = true) := by
  intro op h
  simp only [List.mem_cons, List.not_mem_nil, or_false] at h
  obtain rfl | rfl | rfl | rfl | rfl := h <;>
    exact ⟨starts_of (p := fun r u => !(ensurePages r u).2) (by decide +kernel),
      starts_of (p := fun r u => (ensurePages r u).2 && badRead r (ensurePages r u).1 == some (2 ^ 24)) (by decide +kernel)⟩

/-- A span of which descriptor 0 is the one operation, at a rung. -/
def inSpan (rung : Nat) : State := desk { runs [] with subs := [(0, { sub0 [desc 0x10 0 [0, 1, 2] []] with
  spans := [{ id := 1, first := 0, last := 0, base := 0, rung, started := true }] })] }
theorem test_matmul_starts : ∀ rung ∈ [0, 1], ∃ r u, Starts (inSpan rung) t0 0x10 r u ∧
    ((meetWords { task := some t0 } [] u).2 && r.promoted.isSome == decide (rung = 1) &&
      (let x := (meetWords { task := some t0 } [] u).1
       let y := promotedValues r (r.slotView 1) x
       let z := promotedValues r (r.slotView 2) y.1
       y.2.isSome && z.2.isSome && paged r (if rung = 0 then x else
         orMasks 0 (weightMask z.1 r (r.slotView 1) ||| weightMask z.1 r (r.slotView 2)) (opWrites r.d) z.1))) = true := by
  intro rung h
  simp only [List.mem_cons, List.not_mem_nil, or_false] at h
  obtain rfl | rfl := h <;> exact starts_of (by decide +kernel)

/-! A group of this Proend alone is object 0. -/
def alone : Group := { members := [0], rank := 0, radices := [1, 1, 1], timeout := 1 }
def lonely : Group := { alone with members := [9] }
def grouped (b : Job) : State := holds (.group alone) (desk b)
def begunWell (r : Ref) (u : State) : Bool :=
  (groupOf u r.d).isSome && (bringPages 0 (r.pages (opReads r.d)) u).2 && (badRead r (bringPages 0 (r.pages (opReads r.d)) u).1).isNone
def gatherD (op : Nat) : Bytes := desc op 0 [0, 1] []

theorem test_gather_starts :
    (∃ r u, Starts (grouped (runs [gatherD 0x20])) t0 0x20 r u ∧
      ((groupOf u r.d).isSome && paged r u && decide (gathersInFlight u < 64)) = true) ∧
    (∀ op ∈ [0x20, 0x21, 0x22, 0x23], ∃ r u, Starts (desk (runs [gatherD op])) t0 op r u ∧ (groupOf u r.d).isNone = true) ∧
    (∀ op ∈ [0x21, 0x22, 0x23], ∃ r u, Starts (grouped (runs [gatherD op])) t0 op r u ∧
      (begunWell r u) = true) ∧
    (alive live = true ∧ stagedWays live 0 0 < 8) := by
  refine ⟨starts_of (by decide +kernel), ?_, ?_, by decide +kernel⟩ <;> intro op h <;> simp only [List.mem_cons, List.not_mem_nil, or_false] at h
  · obtain rfl | rfl | rfl | rfl := h <;> exact starts_of (p := fun r u => (groupOf u r.d).isNone) (by decide +kernel)
  · obtain rfl | rfl | rfl := h <;>
      exact starts_of (p := begunWell) (by decide +kernel)

/-- A send or a receive of tag 9 with device 5, with a timeout. -/
def xferD (op : Nat) : Bytes := desc op 0 [0, 1] (leBytes 4 5 ++ [0, 0] ++ leBytes 2 9 ++ leBytes 4 1)
def cleared (b : Job) : Job := { b with clears := [(5, 9, 4)] }

theorem test_transfers_start :
    (∀ op ∈ [0x24, 0x25], ∃ r u, Starts (desk (runs [xferD op])) t0 op r u ∧
      ((ensurePages r u).2 && (r.b.clears.find? fun c => c.1 == xferPeer r.d && c.2.1 == rd r.d 34 2).isNone) = true) ∧
    (∃ r u, Starts (desk (cleared (runs [xferD 0x24]))) t0 0x24 r u ∧
      ((ensurePages r u).2 && (r.b.clears.find? fun c => c.1 == xferPeer r.d && c.2.1 == rd r.d 34 2).isSome) = true) := by
  refine ⟨?_, starts_of (by decide +kernel)⟩
  intro op h
  simp only [List.mem_cons, List.not_mem_nil, or_false] at h
  obtain rfl | rfl := h <;>
    refine starts_of (p := fun r u => (ensurePages r u).2 && (r.b.clears.find? fun c => c.1 == xferPeer r.d && c.2.1 == rd r.d 34 2).isNone) ?_ <;>
    decide +kernel

def aColl : Coll := { task := t0, kind := 0x26, vc := 0, tag := 0, members := [0], rank := 0, radices := [1, 1, 1], own := leBytes 8 5 }
def verdictD (step : Nat) : Bytes := desc 0x26 0 [0] (zeros 4 ++ leBytes 8 step)
def collJob : Job := { runs [verdictD 0] with colls := [aColl], xfers := [{ task := t0, peer := 5, tag := 9, vc := 0, isSend := true }] }
def xferJob : Job := { runs [xferD 0x24] with xfers := [{ task := t0, peer := 5, tag := 9, vc := 0, isSend := true }] }

theorem test_transfers_time_out :
    (alive (desk collJob) = true ∧ (∃ r, refOf (desk collJob) t0 = some r) ∧ (collAt (desk collJob) t0).isSome = true) ∧
    (alive (desk xferJob) = true ∧ ∃ r, refOf (desk xferJob) t0 = some r ∧ (r.b.xfers.any fun x => x.task == t0) = true ∧ rd r.d 36 4 ≠ 0) :=
  ⟨⟨by decide +kernel, ⟨_, rfl⟩, by decide +kernel⟩, by decide +kernel, _, rfl, by decide +kernel, by decide +kernel⟩

/-- A verdict of a step, beside another or not, on a group that has every known Proend or omits this one. -/
theorem test_verdicts :
    (∀ x ∈ [((0 : Nat), ([] : List Coll), alone), (1, [], alone), (0, [{ aColl with task := ⟨0, 1, 0⟩ }], alone), (0, [], lonely)], ∃ r u,
      Starts (holds (.group x.2.2) (desk { runs [verdictD x.1] with colls := x.2.1 })) t0 0x26 r u ∧ (groupOf u r.d == some x.2.2 &&
      (rd r.d 32 8 == r.b.num.verdicts) == (x.1 == 0) && (r.b.colls.any fun c => c.kind == 0x26) == !x.2.1.isEmpty &&
      ((knownMembers u 0).all x.2.2.members.contains) == (x.2.2.members == [0])) = true) ∧
    (alive (desk collJob) = true ∧ tget (desk collJob).jobs 0 = some collJob ∧ (collJob.colls.find? fun c => c.kind == 0x26) = some aColl ∧
      ∃ r, refOf (desk collJob) aColl.task = some r ∧ r.b.fault = none ∧ verdictWhole aColl = true ∧ verdictWord aColl = (5 : BitVec 64).toNat ∧
        (ensureOutputs r (desk collJob)).2 = true) := by
  refine ⟨?_, by decide +kernel, rfl, by decide +kernel, _, rfl, by decide +kernel⟩
  intro x h
  simp only [List.mem_cons, List.not_mem_nil, or_false] at h
  obtain rfl | rfl | rfl | rfl := h <;> exact starts_of (by decide +kernel)

/-! An optimiser_step over one page of 128 by 32 elements. -/
def page1 (fmt : Nat) (base : Nat) (headers : Tab (Nat × Nat)) : TensorE := {
  headers
  raw := leBytes 5 base ++ [BitVec.ofNat 8 (fmt + 32)] ++ zeros 8 ++ [0xFF, 0xFF] ++ leBytes 3 128 ++ leBytes 3 32 ++ zeros 9 ++ leBytes 4 12 ++ zeros 13 ++
    leBytes 4 0x3F800000 ++ [0xFF, 0xFF, 0xFF, 0xFF] ++ zeros 8 }
def optD (complete : Byte) (step : Nat) : Bytes := desc 0x29 0 [0, 1, 2, 3] ([0, complete] ++ zeros 26 ++ leBytes 8 step)
def optJob (complete : Byte) (step verdicts : Nat) (last : Option Verdict) (headers : Tab (Nat × Nat)) (state : Tab DescSt) : Job :=
  { runs [] with subs := [(0, { sub0 [optD complete step] with state })], num := { verdicts, last },
                 tensors := (0, page1 5 (2 ^ 32) headers) :: (List.range 3).map fun i => (i + 1, page1 4 (2 ^ 32 + 2 ^ 20 * (i + 1)) []) }

theorem test_optimiser_starts : ∀ x ∈ [((0 : Nat), (1 : Nat), false), (0, 1, true), (0, 2, false), (1, 1, false)],
    ∃ r u, Starts (desk (optJob 0 x.1 x.2.1 (some ⟨0, 0, x.2.2⟩) [] [])) t0 0x29 r u ∧
      (optStep r.d == x.1 && r.b.num.verdicts == x.2.1 && (r.b.num.last.map (·.skipped)).getD false == x.2.2 && r.optPages == 1) = true := by
  intro x h
  simp only [List.mem_cons, List.not_mem_nil, or_false] at h
  obtain rfl | rfl | rfl | rfl := h <;> exact starts_of (by decide +kernel)

/-- The page tasks of an optimiser_step over one element, by its page's header: complete mode, moments run, header. -/
def pageState (x : Byte × Bool × (Nat × Nat)) : State :=
  desk { optJob x.1 0 1 (some ⟨0, 0, false⟩) [] [(0, { units := 1, moments := if x.2.1 then [0] else [] })] with
    tensors := (0, { raw := flat (2 ^ 32) 4 1 0, headers := [(0, x.2.2)] }) :: (List.range 3).map fun i => (i + 1, { raw := flat (2 ^ 32 + 64 * (i + 1)) 4 1 0 }) }
def pageCheck (x : Byte × Bool × (Nat × Nat)) (r : Ref) : Bool :=
  dOp r.d == 0x29 && mayTask (pageState x) r 0 && decide (0 < r.optPages) &&
      !((descAt r.u 0).ended.contains 0) && (residentPage r 0 (pageState x)).2 && optComplete r.d == (x.1 == 1) && optStep r.d == 0 &&
      (descAt r.u 0).moments.contains 0 == x.2.1 && headerAt r.b (headerOf r 0) == x.2.2 &&
      (badPage (momentReads r) r 0 (residentPage r 0 (pageState x)).1).isNone &&
      (badPage (weightReads r 0 (residentPage r 0 (pageState x)).1) r 0 (residentPage r 0 (pageState x)).1).isNone
def pageCases : List (Byte × Bool × (Nat × Nat)) :=
  [(0, false, 0, 0), (0, false, 1, 1), (0, true, 1, 0), (1, false, 1, 0), (1, false, 1, 1), (1, false, 0, 0), (1, false, 2, 0), (0, true, 0, 0)]
theorem test_pages : pageCases.all (fun x => match refOf (pageState x) t0 with | some r => pageCheck x r | none => false) = true := by
  decide +kernel

/-! ### The Plain cache and Vale -/

/-- A request of core 0 for the job, and its home slice with a queue. -/
def req (kind : ReqKind) (offset : Nat) : CoreReq := ⟨0, 0, 0, kind, 0, offset, 1, [5], some t0, 0⟩
def slice0 : Nat := sliceOf (desk work) 0 0
def queued (q : List CoreReq) : State := { desk work with cache := { queue := [(slice0, q)] } }

/-- What the statement asks of a request: outside, registers busy, nothing at the input, a hit, a register, room in the queue. -/
def cacheCase (r : CoreReq) (s : State) : List Bool :=
  let slice := sliceOf s 0 (reqLine r * 256)
  let w := threadWaits r (cacheDir slice r s)
  let q := tgetD w.cache.queue slice []
  let h := tryHit slice r w
  [(r.kind == .read256 && decide (0x5FFF < r.tile + 255)) || !(reqAllowed work r), registersBusy s r, (inputAt w (inputOf slice r.core)).isEmpty,
    h.2, (takeMiss slice q.isEmpty r h.1).2, decide (q.length < 32)]

/-- A reserved opcode, outside the carve-out, past the tile store (by one byte, and not), with all registers of the L1 busy, behind another
at its input, a hit, a miss with nothing, 1, 31 and 32 before it, and one that joins a register behind 32. -/
theorem test_cache_requests :
    ∀ x ∈ [(req (.reserved 7) 0, queued [], []), (req .read64 (23 * 2 ^ 30), queued [], [true]),
        ({ req .read256 0 with tile := 0x5F01 }, queued [], [true]), ({ req .read256 0 with tile := 0x5F00 }, queued [], [false, false, true, false, true]),
        (req .read64 0, { queued [] with cores := [(0, { l1Misses := 8 })] }, [false, true]),
        (req .read64 0, setInput (inputOf slice0 0) [req .read64 0] (queued []), [false, false, false]),
        (req .writeMask 0, queued [], [false, false, true, true]), (req .read64 0, queued [], [false, false, true, false, true]),
        (req .read64 0, queued [req .read64 512], [false, false, true, false, false, true]),
        (req .read64 0, queued (List.replicate 31 (req .read64 512)), [false, false, true, false, false, true]),
        (req .read64 0, queued (List.replicate 32 (req .read64 512)), [false, false, true, false, false, false]),
        (req .read64 0, setMiss slice0 [{ job := 0, line := 0, reqs := [] }] (queued (List.replicate 32 (req .read64 512))), [false, false, true, false, true])],
      (alive x.2.1 && (meetWords { task := x.1.task, job := some 0 } [] (dropDamaged x.1 [] x.2.1)).2 && tget x.2.1.jobs 0 == some work &&
        sliceOf x.2.1 0 (reqLine x.1 * 256) == slice0 || !reqAllowed work x.1) && (cacheCase x.1 x.2.1).take x.2.2.length == x.2.2 := by
  decide +kernel

/-- The oldest of a queue hits, gets a register, or gets none where all 96 are taken. -/
theorem test_miss_queue : ∀ x ∈ [(ReqKind.writeMask, (0 : Nat), true, true), (.read64, 0, false, true), (.read64, 96, false, false)],
    let r := req x.1 0
    let s : State := { queued [r] with cache := { queue := [(slice0, [r])], miss := [(slice0, (List.range x.2.1).map fun i => ⟨0, i + 1, [], none, 0⟩)] } }
    (alive s && tgetD s.cache.queue slice0 [] == [r] && (tryHit slice0 r s).2 == x.2.2.1 &&
      (x.2.2.1 || (takeMiss slice0 true r (tryHit slice0 r s).1).2 == x.2.2.2)) = true := by
  decide +kernel

/-- A register whose line comes from Vale through channel 3, and a read that waits for a tag there; line 0 is in a region of the job. -/
def valeJob : Job := { work with keys := { anchor := 1, newest := 1 } }
def valeDesk : State := { desk valeJob with vale := { regions := [(0, { owner := some 0, key := 1 })], keyIds := [(1, { job := 0 })], tags := [(3, { waiting := [(1, 2)] })] } }
def awaitedLine : State := { valeDesk with cache := { miss := [(slice0, [⟨0, 0, [req .read64 0], some 3, 0⟩])] } }

/-- A word with two flipped bits. -/
def twoFlips : EccReport := ⟨0x06, 0, 3, BitVec.ofNat 8 (checkByte 0), true, true, 0, 7, 0, 0⟩
/-- The line's region belongs to no job. -/
def unowned : State := { awaitedLine with vale := { awaitedLine.vale with regions := [(0, { key := 1 })] } }

theorem test_line_fills :
    (∀ s ∈ [awaitedLine, unowned], (alive s && ((missRegs s slice0).find? fun m => m.line == 0 && m.pchan.isSome) == some ⟨0, 0, [req .read64 0], some 3, 0⟩ &&
      !((pchanAt s 3).waiting.contains (slice0, 0)) && !(heldBefore s 0 0) && translate (freeTagOf 3 s) 0 0 == some 0 &&
      anchorOk (freeTagOf 3 s) 0 0 == (s.vale.regions == awaitedLine.vale.regions)) = true) ∧
    (let f := readLine 0 .good .good (freeTagOf 3 awaitedLine)
     (f.2 && (meetWords { task := some t0, job := some 0 } [] f.1).2 && !(meetWords { task := some t0, job := some 0 } [twoFlips] f.1).2 &&
      !(readLine 0 .bad .bad (freeTagOf 3 awaitedLine)).2) = true) ∧
    (decide ((pchanAt awaitedLine 3).held < 256) && (pchanAt awaitedLine 3).waiting != []) = true := by
  decide +kernel

/-- A request of another key id, one that must wait, for its line or for a tag, and one that need not. -/
def lineHeld : State := { valeDesk with vale := { valeDesk.vale with blocked := [writeOf 1 fullMask (zeros 256)] } }
def tagless : State := { valeDesk with vale := { valeDesk.vale with tags := [(pchanOf 1, { held := 256 })] } }
theorem test_vale_requests : ∀ agent ∈ [ValeAgent.slice 0, .sweep, .tier, .capture, .ingress, .dma 0],
    (!(ownedReq valeDesk ⟨256, 256, 2, agent, none⟩) && ([valeDesk, lineHeld, tagless].all fun s => ownedReq s ⟨256, 256, 1, agent, none⟩) &&
      mustWait 1 lineHeld && mustWait 1 tagless && !(mustWait 1 valeDesk) && (readLine 1 .good .good valeDesk).2 && !(readLine 1 .bad .bad valeDesk).2 &&
      (0xFF : BitVec 256).toNat != fullMask && (BitVec.allOnes 256).toNat == fullMask) = true := by
  decide +kernel

/-- A line of the region whose counter steps, and one under the region's last key id, which changes it. -/
theorem test_line_writes : ∀ m ∈ [((7 : Nat), (1 : Nat)), (0xFFFFFFFF, 2)],
    let s : State := { valeDesk with vale := { valeDesk.vale with regions := [(0, { owner := some 0, key := 1, previous := some 2 })], lineMeta := [(0, m)] } }
    (s.vale.mem.wf && (zeros 256).length == 256 && !(mustWait 0 s) && !(lineBad s 0) && (regionOf s (lineRegion 0)).key != 0 &&
      !((metaOf s 0).2 == (regionOf s (lineRegion 0)).key && (metaOf s 0).1 == 0xFFFFFFFF) && (spillUnit 0 s).2) = true := by
  decide +kernel

/-- A region that is first in the sweep queue. -/
def sweeps (newest : Nat) : State := { desk { work with keys := { newest } } with vale := { regions := [(0, { owner := some 0, key := 1 })], sweepQueue := [0] } }
theorem test_sweeps_start : alive (sweeps 2) = true ∧ (sweeps 2).fw.activating = none ∧ (sweeps 2).vale.sweep = none ∧
    (regionOf (sweeps 2) 0).owner = some 0 ∧ tget (sweeps 2).jobs 0 = some { work with keys := { newest := 2 } } ∧
    (regionOf (sweeps 2) 0).key = 1 ∧ sweepKeyComing (sweeps 1) 0 = false ∧ (sweeps 1).ledger.mirrorFault = false ∧ freeKeyId (sweeps 1) = some 1 := by
  decide +kernel

/-- A sweep over its first and its last line, a write that may go on, a key id that nothing uses and one that retires. -/
def sweeping (next : Nat) : State := { valeDesk with vale := { valeDesk.vale with sweep := some { region := 0, next } } }
def heldWrite (tag : Bool) : Blocked := { writeOf 0 1 (zeros 256) with tag }
def valeEnds (tag : Bool) : State := { valeDesk with vale := { valeDesk.vale with blocked := [heldWrite tag], keyIds := [(2, { job := 0 }), (3, { job := 0, retiring := true })] } }
/-- A line of the region under its target already. -/
def swept : State := { sweeping 0 with vale := { (sweeping 0).vale with lineMeta := [(0, (3, 1))] } }
theorem test_sweeps_go_on :
    (∀ n ∈ [0, 2 ^ 22 - 1], (sweeping n).fw.activating = none ∧ (sweeping n).vale.sweep = some { region := 0, next := n } ∧ tagFree (sweeping n) n = true ∧
      (metaOf (sweeping n) n).2 ≠ (regionOf (sweeping n) 0).key ∧ (readLine n .good .good (sweeping n)).2 = true ∧ (readLine n .bad .bad (sweeping n)).2 = false) ∧
    (tagFree swept 0 = true ∧ (metaOf swept 0).2 = (regionOf swept 0).key) ∧
    (∀ tag, ((valeEnds tag).vale.blocked.find? fun x => mayResume (valeEnds tag) x) = some (heldWrite tag) ∧ keyUnused (valeEnds tag) 2 = true ∧
      tget (valeEnds tag).vale.keyIds 2 = some { job := 0 } ∧ tget (valeEnds tag).vale.keyIds 3 = some { job := 0, retiring := true }) := by
  decide +kernel

/-! ### Pass ports and packets -/

/-- Routes by destination: this Proend is 3; 9 lies behind port 4, 10 nowhere, 11 behind port 5. -/
def aRoute (dst rest : Nat) : Nat := dst * 2 ^ 44 + 20 * 2 ^ 39 + rest + 1
def toPort (k : Nat) : Nat := k * 2 ^ 34
/-- Port 4 is a mixed port and up, port 5 is as given; the other ports are dark. -/
def net (b : Job) (port : PassPort) : State :=
  let s := desk b
  { s with config := { s.config with image := { s.config.image with pass := { s.config.image.pass with
             address := 3, ports := List.replicate 32 2, routes := [aRoute 3 (2 ^ 31), aRoute 9 (toPort 4), aRoute 10 (2 ^ 30), aRoute 11 (toPort 5)] } } }
           pass := { ports := setAt (setAt (List.replicate 32 {}) 4 { st := .up, plp := 1, lit := true }) 5 port, linkKeys := [(0, ⟨0, 7, [], false⟩)] } }

/-- A link-control packet: kind, a word, and the peer's address. -/
def linkP (kind x peer : Nat) : Bytes := [0, BitVec.ofNat 8 kind] ++ leBytes 2 x ++ leBytes 3 peer ++ zeros 25
def atHello (half : Bool) : PassPort := { st := .training, step := 5, half, lit := true }

/-- A HELLO with both versions, with PLP 1 alone, with none, on a half-rate link, and from this Proend's own address. -/
theorem test_link_hello : ∀ x ∈ [(((4 : Nat), (9 : Nat)), false), ((2, 9), false), ((0, 9), false), ((4, 9), true), ((4, 3), false)],
    let s := net work (atHello x.2)
    let b := linkP 1 x.1.1 x.1.2
    (s.power.mainPower && s.power.railsOn && b.length == 32 && rd b 0 1 == 0 && rd b 1 1 == 1 && portRole s 5 == 2 && (portAt s 5).st == .training &&
      (portAt s 5).step == 5 && !(portAt s 5).helloSeen && (portAt s 5).half == x.2 && bit (rd b 2 1) 2 == (x.1.1 == 4) &&
      bit (rd b 2 1) 1 == (x.1.1 == 2) && (rd b 4 3 % 2 ^ 20 == deviceAddress s) == (x.1.2 == 3)) = true := by
  decide +kernel

theorem test_link_control :
    (∀ kind ∈ [3, 4, 5, 6], (linkP kind 0 0).length = 32 ∧ rd (linkP kind 0 0) 0 1 = 0 ∧ rd (linkP kind 0 0) 1 1 = kind ∧ (portAt (net work {}) 4).st = .up) ∧
    (rd (linkP 2 0 0) 1 1 = 2 ∧ (portAt (net work { st := .training, step := 6 }) 5).st = .training ∧ (portAt (net work { st := .training, step := 6 }) 5).step = 6 ∧
      (portAt (net work { st := .training, step := 6 }) 5).initSeen = false) := by
  decide +kernel

/-- A port that has credits to return, or none; with nothing queued, or a packet. -/
theorem test_link_timers :
    (portAt (net work { st := .up, toReturn := [(0, 2)] }) 5).toReturn ≠ [] ∧ (portAt (net work { st := .up }) 5).toReturn = [] ∧
    ((portAt (net work { st := .up }) 5).queues.all fun q => q.2.isEmpty) = true ∧
    ((portAt (net work { st := .up, queues := [(0, [([], none)])] }) 5).queues.all fun q => q.2.isEmpty) = false ∧
    (let s := net work { st := .up }
     let noted := sendControl 5 5 (leBytes 2 0) (modPort 5 (fun p => { p with second := 0, codewords := 1, nakSent := true }) (bumpPort 5 0 s))
     s.timeNs / 1000000000 = 0 ∧ (portAt s 5).inSeq = 0 ∧ (portAt noted 4).st = .up ∧ (portAt noted 6).st ≠ .up) := by
  decide +kernel

/-- A port in training, at each of its steps and in each of the ways that they end. -/
theorem test_port_trains :
    (portAt (net work { lit := true }) 5).st = .dark ∧ portRole (net work {}) 5 = 2 ∧ (portAt (net work { lit := true, st := .down }) 5).lit = true ∧
    (∀ k ∈ [1, 2, 3, 4, 5, 6], ∀ fast ∈ [true, false], ∀ lost ∈ [true, false],
      let p := portAt (net work { st := .training, step := k, fast, lost, helloSeen := true, initSeen := true }) 5
      p.st = .training ∧ p.step = k ∧ p.fast = fast ∧ p.lost = lost ∧ p.half = false ∧ p.helloSeen = true ∧ p.initSeen = true) ∧
    (∀ n ∈ [0, 1, 2], (portAt (net work { st := .training, step := 3, fullFails := n }) 5).fullFails = n) ∧
    (∀ l ∈ [[], [0, 0]], ((portAt (net work { st := .training, step := 2, fast := true, fastFails := l }) 5).fastFails.filter fun t =>
      decide ((net work {}).timeNs < t + 1000000000)).length = l.length) := by
  decide +kernel

/-! A packet of the job's link key, as its peer seals it. -/
theorem xor_xor (x k : Bytes) (h : x.length ≤ k.length) : xorBytes (xorBytes x k) k = x := by
  induction x generalizing k with
  | nil => rfl
  | cons a x ih =>
    cases k with
    | nil => simp at h
    | cons c k =>
      simp only [List.length_cons, Nat.add_le_add_iff_right] at h
      have r : a ^^^ c ^^^ c = a := by rw [BitVec.xor_assoc, BitVec.xor_self, BitVec.xor_zero]
      simpa [xorBytes, r] using ih k h

/-- What AES in GCM hides it shows again. -/
theorem crypt_crypt {key : Bytes} (iv x : Bytes) (h : ((roundKeys key).getD 14 []).length = 16) : gcmCrypt key iv (gcmCrypt key iv x) = x := by
  have l := crypt_length iv x h
  have e : gcmCrypt key iv (gcmCrypt key iv x) = xorBytes (gcmCrypt key iv x) (gcmStream (roundKeys key) (sub iv 0 12) (ceilDiv x.length 16) 2) := by
    rw [gcmCrypt, l]
  rw [e]
  exact xor_xor x _ (by rw [stream_length _ h, ceilDiv]; omega)

/-- The packet of a header and a payload in plain, with the link's prefix of sequence 1. -/
def tagOf (h ct : Bytes) : Bytes := gcmTag (linkKey work) (pIv h) (aadOf h) ct
def hidden (h pt : Bytes) : Bytes := gcmCrypt (linkKey work) (pIv h) pt
def packet (h pt : Bytes) : Bytes := [1, 0, 0, 0] ++ (h ++ (hidden h pt ++ tagOf h (hidden h pt)))

theorem key_length : ((roundKeys (linkKey work)).getD 14 []).length = 16 := by decide +kernel
theorem tag_length (h ct : Bytes) : (tagOf h ct).length = 16 := by
  have a := aes_length (rks := roundKeys (linkKey work)) (sub (pIv h) 0 12 ++ beBytes 4 1) key_length
  have c : ∀ v, (beBytes 16 v).length = 16 := fun v => by simp [beBytes, leBytes]
  simp only [tagOf, gcmTag, xorBytes, List.length_map, List.length_zip, a, c]; rfl

/-- The state in which a packet acts that its port took: its sequence noted, and where the link's prefix is that of sequence 1. -/
def acted (s : State) (n : Nat) (h pt : Bytes) : State :=
  let b := (packet h pt).drop 4
  modJob 0 (fun b' => { b' with replay := tset b'.replay (replayKey b) (pSeq b) }) ((linkTake n (packet h pt) (pVc b) (creditUnits b) s).getD s)

/-- What a packet must meet that its bytes and the state show: its route, its sequence on the link, its header, its job. -/
def passes (s : State) (n k : Nat) (h pt : Bytes) (job : Job) : Bool :=
  let b := (packet h pt).drop 4
  match linkTake n (packet h pt) (pVc b) (creditUnits b) s with
  | none => false
  | some u =>
    isLocal s n b && pType b == k && h.length == 32 && pLength b == pt.length && pIv b == pIv h && aadOf b == aadOf h && typeDefined b &&
      linkOf u (pJob b) == some ⟨0, 7, [], false⟩ && decide (tget u.jobs 0 = some job) && (tget job.replay (replayKey b)).isNone && decide (job.replay.length < 65536)

theorem opens_of {h pt : Bytes} {job : Job} (hk : linkKey job = linkKey work) (l : h.length = 32) (p : pLength (h ++ (hidden h pt ++ tagOf h (hidden h pt))) = pt.length)
    (i : pIv (h ++ (hidden h pt ++ tagOf h (hidden h pt))) = pIv h) (a : aadOf (h ++ (hidden h pt ++ tagOf h (hidden h pt))) = aadOf h) :
    openPacket job (h ++ (hidden h pt ++ tagOf h (hidden h pt))) = some (h ++ pt) := by
  have c : (hidden h pt).length = pt.length := crypt_length _ _ key_length
  have y : pPayload (h ++ (hidden h pt ++ tagOf h (hidden h pt))) = hidden h pt := by
    simp [pPayload, p, sub, zeros, ← l, c]
  have t : (h ++ (hidden h pt ++ tagOf h (hidden h pt))).drop (32 + pt.length) = tagOf h (hidden h pt) := by
    rw [← l, ← c]; simp
  have d : (h ++ (hidden h pt ++ tagOf h (hidden h pt))).take 32 = h := by rw [← l]; simp
  rw [openPacket, hk, p, i, a, y, t, gcmOpen, if_pos (show gcmTag (linkKey work) (pIv h) (aadOf h) (hidden h pt) = tagOf h (hidden h pt) from rfl), Option.map_some, d]
  exact congrArg (fun x => some (h ++ x)) (crypt_crypt _ pt key_length)

theorem delivered_of {s : State} {n k : Nat} {h pt : Bytes} {job : Job} (hk : linkKey job = linkKey work) (c : passes s n k h pt job = true) :
    Delivered s n (packet h pt) [] k 0 (h ++ pt) (acted s n h pt) := by
  simp only [passes] at c
  split at c
  · simp at c
  · next u hu =>
    simp only [Bool.and_eq_true, beq_iff_eq, decide_eq_true_eq, Option.isNone_iff_eq_none] at c
    obtain ⟨⟨⟨⟨⟨⟨⟨⟨⟨⟨here, type⟩, l⟩, p⟩, i⟩, a⟩, d⟩, link⟩, jb⟩, r⟩, full⟩ := c
    have o := opens_of hk l p i a
    refine ⟨type, u, ⟨here, u, hu, rfl⟩, ?_⟩
    have e : (packet h pt).drop 4 = h ++ (hidden h pt ++ tagOf h (hidden h pt)) := rfl
    rw [acted, hu, e]
    rw [e] at d link r
    simp [checkPacket, d, link, jb, r, o, Nat.not_le.mpr full]

/-- A packet of device 5 for the job, as its peer sends it. -/
def fromPeer (typ tag : Nat) (payload : Bytes) (typByte : Nat := typ + 32) : Bytes :=
  BitVec.ofNat 8 typByte :: (Sys2Proof.Machine.header { typ, vc := 0, dst := 3, tag, payload } 5 7 9).drop 1
def upNet (b : Job) : State := net b { st := .up, plp := 2, lit := true }

theorem accepted_of {s : State} {n : Nat} {bytes : Bytes} {q : State → Bool}
    (h : (match linkTake n bytes (pVc (bytes.drop 4)) (creditUnits (bytes.drop 4)) s with
      | none => false | some u => isLocal s n (bytes.drop 4) && q u) = true) : ∃ w, Accepted s n bytes [] w ∧ q w = true := by
  split at h
  · simp at h
  · next u hu =>
    rw [Bool.and_eq_true] at h
    exact ⟨u, ⟨h.1, u, hu, rfl⟩, h.2⟩

/-- Of a type that is not defined, of another version, with another length, and of a job that is not there. -/
theorem test_packets_malformed :
    (∀ t ∈ [0, 10], ∃ w, Accepted (upNet work) 5 (packet (fromPeer t 0 []) []) [] w ∧ decide (pType ((packet (fromPeer t 0 []) []).drop 4) = t) = true) ∧
    (∃ w, Accepted (upNet work) 5 (packet (fromPeer 1 0 [] 0x31) []) [] w ∧ (pType ((packet (fromPeer 1 0 [] 0x31) []).drop 4) == 1 &&
      pVersion ((packet (fromPeer 1 0 [] 0x31) []).drop 4) != 2) = true) ∧
    (∃ w, Accepted (upNet work) 5 (packet (fromPeer 1 0 [1]) []) [] w ∧ (pType ((packet (fromPeer 1 0 [1]) []).drop 4) == 1 &&
      !headerWhole ((packet (fromPeer 1 0 [1]) []).drop 4)) = true) ∧
    (∃ w, Accepted { upNet work with pass := { (upNet work).pass with linkKeys := [] } } 5 (packet (fromPeer 1 0 []) []) [] w ∧
      (headerWhole ((packet (fromPeer 1 0 []) []).drop 4) && w.pass.linkKeys.all fun l => l.2.jobId != pJob ((packet (fromPeer 1 0 []) []).drop 4)) = true) ∧
    (∃ w, Accepted { upNet work with pass := { (upNet work).pass with linkKeys := [(0, ⟨0, 7, [], true⟩)] } } 5 (packet (fromPeer 1 0 []) []) [] w ∧
      (w.pass.linkKeys.all fun l => l.2.jobId == pJob ((packet (fromPeer 1 0 []) []).drop 4) && l.2.cleared) = true) := by
  refine ⟨?_, accepted_of (q := fun _ => pType ((packet (fromPeer 1 0 [] 0x31) []).drop 4) == 1 && pVersion ((packet (fromPeer 1 0 [] 0x31) []).drop 4) != 2) (by decide +kernel),
    accepted_of (q := fun _ => pType ((packet (fromPeer 1 0 [1]) []).drop 4) == 1 && !headerWhole ((packet (fromPeer 1 0 [1]) []).drop 4)) (by decide +kernel),
    accepted_of (by decide +kernel), accepted_of (by decide +kernel)⟩
  intro t h
  simp only [List.mem_cons, List.not_mem_nil, or_false] at h
  obtain rfl | rfl := h
  · exact accepted_of (q := fun _ => decide (pType ((packet (fromPeer 0 0 []) []).drop 4) = 0)) (by decide +kernel)
  · exact accepted_of (q := fun _ => decide (pType ((packet (fromPeer 10 0 []) []).drop 4) = 10)) (by decide +kernel)

/-- Over a retired link, with a sequence that is not new, and with no room in a full replay state. -/
def pkt0 : Bytes := packet (fromPeer 1 0 []) []
def late (retired : List Nat) (replay : Tab Nat) : State :=
  { upNet { work with replay } with pass := { (upNet work).pass with linkKeys := [(0, ⟨0, 7, retired, false⟩)] } }
theorem test_packets_late : ∀ x ∈ [([(5 : Nat)], ([] : Tab Nat)), ([], [(20, 9)])], ∃ w, Accepted (late x.1 x.2) 5 pkt0 [] w ∧
    (linkOf w (pJob (pkt0.drop 4)) == some ⟨0, 7, x.1, false⟩ && decide (tget w.jobs 0 = some { work with replay := x.2 }) && pVersion (pkt0.drop 4) == 2 &&
      headerWhole (pkt0.drop 4) && x.1.contains 5 == x.2.isEmpty &&
      (x.2.isEmpty || tget x.2 (4 * pSrc (pkt0.drop 4) + pVc (pkt0.drop 4) / 2) == some (pSeq (pkt0.drop 4)))) = true := by
  intro x h
  simp only [List.mem_cons, List.not_mem_nil, or_false] at h
  obtain rfl | rfl := h <;> exact accepted_of (by decide +kernel)

/-- A full replay state in which the source is not. -/
def fullReplay : Tab Nat := (List.replicate 65536 1).map fun x => (x, 0)
theorem get_repeated (n k v : Nat) (h : k ≠ 1) : tget ((List.replicate n 1).map fun x => (x, v)) k = none := by
  induction n with
  | zero => rfl
  | succ n ih => simp_all [List.replicate_succ, tget, Ne.symm h]
theorem test_replay_full : 65536 ≤ fullReplay.length ∧ tget fullReplay (4 * pSrc (pkt0.drop 4) + pVc (pkt0.drop 4) / 2) = none ∧
    ∃ w, Accepted (late [] fullReplay) 5 pkt0 [] w ∧ (linkOf w (pJob (pkt0.drop 4)) == some ⟨0, 7, [], false⟩ &&
      ((tget w.jobs 0).map fun b => b.replay.head?) == some (some (1, 0))) = true :=
  ⟨Nat.le_of_eq (show 65536 = fullReplay.length by rw [fullReplay, List.length_map, List.length_replicate]), get_repeated _ _ _ (by decide +kernel), accepted_of (by decide +kernel)⟩

/-- One whose tag does not verify. -/
def forged : Bytes := [1, 0, 0, 0] ++ (fromPeer 1 0 [] ++ (tagOf (fromPeer 1 0 []) []).map (· ^^^ 1))
theorem turned (l : Bytes) (h : l.length = 16) : l ≠ l.map (· ^^^ 1) := by
  cases l with
  | nil => simp at h
  | cons a l =>
    intro e
    have c : ∀ a : Byte, a ≠ a ^^^ 1 := by decide
    exact c a (List.cons.inj e).1
theorem after_header (h x : Bytes) (l : h.length = 32) : (([1, 0, 0, 0] ++ (h ++ x)).drop 4).drop 32 = x := List.drop_left' l
theorem test_tag_fails : (∃ w, Accepted (upNet work) 5 forged [] w ∧ (pVersion (forged.drop 4) == 2 && headerWhole (forged.drop 4) && pType (forged.drop 4) == 1 &&
      decide (tget w.jobs 0 = some work)) = true) ∧ work.replay.length < 65536 ∧
    gcmOpen (linkKey work) (pIv (forged.drop 4)) (aadOf (forged.drop 4)) (pPayload (forged.drop 4)) ((forged.drop 4).drop (32 + pLength (forged.drop 4))) = none := by
  refine ⟨accepted_of (by decide +kernel), by decide, ?_⟩
  have i : pIv (forged.drop 4) = pIv (fromPeer 1 0 []) := by decide +kernel
  have a : aadOf (forged.drop 4) = aadOf (fromPeer 1 0 []) := by decide +kernel
  have p : pPayload (forged.drop 4) = [] := by decide +kernel
  have n : pLength (forged.drop 4) = 0 := by decide +kernel
  have d : (forged.drop 4).drop (32 + 0) = (tagOf (fromPeer 1 0 []) []).map (· ^^^ 1) :=
    after_header (fromPeer 1 0 []) _ (by decide +kernel)
  rw [i, a, p, n, d, gcmOpen]
  exact if_neg (turned _ (tag_length _ _))

/-! Packets that pass: data for an open receive, a read request, a fence signal, data before their operation, and data behind another. -/
def byPeer (k tag : Nat) (pt : Bytes) : Bytes := fromPeer k tag pt ++ pt
def receiving : Job := { work with xfers := [{ task := t0, peer := 5, tag := 0, vc := 0, isSend := false }] }
theorem test_requests_act :
    (∀ x ∈ [((1 : Nat), ([] : Bytes)), (4, zeros 16), (6, zeros 16)], Delivered (upNet receiving) 5 (packet (fromPeer x.1 0 x.2) x.2) [] x.1 0 (byPeer x.1 0 x.2) (acted (upNet receiving) 5 (fromPeer x.1 0 x.2) x.2) ∧
      let t := acted (upNet receiving) 5 (fromPeer x.1 0 x.2) x.2
      stalled t 5 (pVc (byPeer x.1 0 x.2)) = false ∧ (takeRequest 0 (byPeer x.1 0 x.2) t).2 = .used) := by
  intro x h
  simp only [List.mem_cons, List.not_mem_nil, or_false] at h
  obtain rfl | rfl | rfl := h <;> exact ⟨delivered_of (job := receiving) rfl (by decide +kernel), by decide +kernel⟩

def expecting : State := { upNet work with objects := { objs := [(0, { job := some 0, ctx := 20, data := .group { members := [5, 3], rank := 1, radices := [2, 1, 1], timeout := 1 } })] } }
def behind : State := { upNet work with pass := { (upNet work).pass with ports := setAt (upNet work).pass.ports 5 { st := .up, waiting := [(some 0, byPeer 1 0 [])] } } }
theorem test_requests_wait :
    (Delivered expecting 5 pkt0 [] 1 0 (byPeer 1 0 []) (acted expecting 5 (fromPeer 1 0 []) []) ∧
      stalled (acted expecting 5 (fromPeer 1 0 []) []) 5 (pVc (byPeer 1 0 [])) = false ∧
      (takeRequest 0 (byPeer 1 0 []) (acted expecting 5 (fromPeer 1 0 []) [])).2 = .held) ∧
    (Delivered behind 5 pkt0 [] 1 0 (byPeer 1 0 []) (acted behind 5 (fromPeer 1 0 []) []) ∧
      stalled (acted behind 5 (fromPeer 1 0 []) []) 5 (pVc (byPeer 1 0 [])) = true) :=
  ⟨⟨delivered_of (job := work) rfl (by decide +kernel), by decide +kernel⟩, delivered_of (job := work) rfl (by decide +kernel), by decide +kernel⟩

/-- Responses by type, tag and payload: clear-to-send, placement acknowledgement, read data, errors, and the job-control packets by their phases. -/
def responses : List (Nat × Bytes) :=
  [(2, zeros 8), (3, zeros 8), (5, []), (8, [0x67]), (8, [0x61]), (8, [0x66]), (8, [0x10]), (7, [1, 0]), (7, [2, 0x60])] ++
    ((List.range 12).map fun i => (7, [3, BitVec.ofNat 8 (i + 1)] ++ zeros 14))
def awaited : Job := { work with xfers := [{ task := t0, peer := 5, tag := 0, vc := 0, isSend := true }] }
theorem test_responses_pass : ∀ x ∈ responses, passes (upNet awaited) 5 x.1 (fromPeer x.1 0 x.2) x.2 awaited = true := by decide +kernel
theorem test_responses_arrive : ∀ x ∈ responses, Delivered (upNet awaited) 5 (packet (fromPeer x.1 0 x.2) x.2) [] x.1 0 (byPeer x.1 0 x.2)
    (acted (upNet awaited) 5 (fromPeer x.1 0 x.2) x.2) := fun x h => delivered_of (job := awaited) rfl (test_responses_pass x h)
theorem test_responses_say : ∀ x ∈ responses,
    let p := byPeer x.1 0 x.2
    let t := freeBuffer 5 (pVc p) (unitsBy p) (acted (upNet awaited) 5 (fromPeer x.1 0 x.2) x.2)
    (rd (pPayload p) 0 2 == rd x.2 0 2 && (x.1 != 7 || rd p 32 1 == rd x.2 0 1 && rd p 33 1 == rd x.2 1 1) &&
      tagTask t 0 (pSrc p) (rd (pPayload p) 2 2) == some t0 && decide (((tget t.jobs 0).map fun b => b.capture.serial % 2 ^ 32) = some (rd (pPayload p) 4 4))) = true := by
  decide +kernel

/-- Packets for others: to the port beyond, to a port that is down, to nowhere, and after 63 hops; in a channel where a packet waits. -/
def onward (dst hops : Nat) : Bytes := [1, 0, 0, 0] ++ setHops hops (Sys2Proof.Machine.header { typ := 1, vc := 0, dst } 5 7 9) ++ zeros 16
def away : State := { upNet work with pass := { (upNet work).pass with ports := setAt (upNet work).pass.ports 4 { st := .up, plp := 2 } } }
theorem test_transit : ∀ x ∈ [((9 : Nat), (0 : Nat), Route.out 4 0), (10, 0, .noRoute), (12, 0, .noRoute), (9, 63, .hopLimit)],
    let b := (onward x.1 x.2.1).drop 4
    (!isLocal away 5 b && (match linkTake 5 (onward x.1 x.2.1) (pVc b) (creditUnits b) away with
      | none => false
      | some w => !stalled w 5 (pVc b) && decide (route w (pDst b) (pSrc b) (pVc b) (pHops b) (some 5) = x.2.2))) = true := by
  decide +kernel

theorem test_transit_waits : (isLocal behind 5 ((onward 9 0).drop 4) = false ∧ ∃ u, linkTake 5 (onward 9 0) 0 1 behind = some u ∧
    (stalled u 5 0 && !isResponse (pType ((onward 9 0).drop 4)) && pVc ((onward 9 0).drop 4) == 0 && creditUnits ((onward 9 0).drop 4) == 1) = true) :=
  ⟨by decide +kernel, some_of (by decide +kernel)⟩

/-! PLP 1 packets: on to the other PLP 1 port, to a PLP 2 port, to this Proend, to nowhere, and after 63 hops. -/
def oldP (dst hops : Nat) : Bytes := [1, 0, 0, 0] ++ [0x11, 0, 0, 0] ++ leBytes 2 dst ++ leBytes 2 0 ++ [BitVec.ofNat 8 hops] ++ zeros 55
def oldNet (plp4 : Nat) : State :=
  let s := net work { st := .up, plp := 1, lit := true }
  { s with pass := { s.pass with ports := setAt s.pass.ports 4 { st := .up, plp := plp4, lit := true } } }
theorem test_plp1 : ∀ vc ∈ [0, 1, 2, 3], ∀ x ∈ [((9 : Nat), (0 : Nat), (1 : Nat)), (9, 0, 2), (3, 0, 1), (10, 0, 1), (9, 63, 1), (9, 0, 0)],
    let s : State := if x.2.2 = 0 then net work { st := .up, plp := 1 } else oldNet x.2.2
    let s := if x.2.2 = 0 then { s with pass := { s.pass with ports := setAt s.pass.ports 4 {} } } else s
    let b := (oldP x.1 x.2.1).drop 4
    ((portAt s 5).plp == 1 && rd b 0 1 / 16 == 1 && (match linkTake 5 (oldP x.1 x.2.1) vc (creditUnits b) s, lookup s.config.image.pass.routes (rd b 4 2) with
      | some u, some e =>
        let live := ((List.range (rCount e)).map (· + rBase e)).filter fun k => (portAt u k).st == .up
        rDrop e == (x.1 == 10) && rLocal e == (x.1 == 3) && (rd b 8 1 == x.2.1) && (x.1 != 9 || live == (if x.2.2 = 0 then [] else [4]))
      | _, _ => false)) = true := by
  decide +kernel

/-! ### Ethernet, power and the sideband -/

/-- A queue pair with a message in flight, or none; with retries left, or none; with a notification before. -/
def lane (flights retriesLeft : Nat) (lastNote : Option Nat) : Qp := { flights := (List.replicate flights { kind := .send, segments := 1 }), retriesLeft, lastNote }
def paired (q : Qp) : State := { live with eth := { live.eth with qps := [(1, q)] }, timeNs := 60000 }

theorem test_ethernet : ∀ x ∈ [((0 : Nat), (7 : Nat), (none : Option Nat)), (1, 0, some 10000), (1, 7, some 20000)],
    let s := paired (lane x.1 x.2.1 x.2.2)
    alive s = true ∧ tget s.eth.qps 1 = some (lane x.1 x.2.1 x.2.2) ∧ (lane x.1 x.2.1 x.2.2).error = false ∧
      ((lane x.1 x.2.1 x.2.2).flights = [] ↔ x.1 = 0) ∧ (x.2.2 = some 10000 → 10000 + 50000 ≤ s.timeNs) ∧ (x.2.2 = some 20000 → s.timeNs < 20000 + 50000) := by
  decide +kernel

/-- A word that is lost, and one that is not. -/
theorem test_segments : segmentLost [⟨0, 0, 3, 0, false, true, 0, 0, 0, 0⟩] = true ∧ segmentLost [] = false := by decide +kernel

def pausing : State := { live with config := { live.config with image := { live.config.image with eth := [{ pfc := 8 }] } }, eth := { live.eth with ports := List.replicate 4 { dark := false } } }
theorem test_flow_control : alive pausing = true ∧ bit (pausing.config.image.eth.getD 0 {}).pfc 3 = true ∧ pausing.power.railsOn = true ∧
    (pausing.eth.ports.getD 0 {}).dark = false := by
  decide +kernel

/-- What a queue pair would send on a paused priority waits, and goes out once the peer resumes (R421). -/
def paused : State := { pausing with config := { pausing.config with image := { pausing.config.image with eth := [{ pfc := 8, pcp := 3 }] } }, eth := { qps := [(1, {})], ports := List.replicate 4 { dark := false, paused := [3] } } }
theorem test_paused :
    (match exec (.rdmaRead 1) paused with
    | .next s => (s.sent, match exec (.resume 0 3) s with | .next t => t.sent | _ => [])
    | _ => ([], [])) = ([], [.nak 1 .remoteAccess]) := by
  decide +kernel

/-- A Proend that is up, one that has tripped nothing, and one whose NETCLK is away. -/
theorem test_power : (live.power.mainPower && !live.power.resetHeld && decide (1 ≤ live.start.step) && live.power.railsOn && !live.power.tripped &&
    !{ live.power with netclk := false }.netclk) = true := by
  decide +kernel

/-- Main power is gone while VBAT is there. -/
theorem test_vbat : ({ live.power with mainPower := false } : Power).vbat = true := by decide +kernel

/-- A record that is not in the mirror; with failures before it. -/
def unmirrored (failures : Nat) : State := { live with ledger := { live.ledger with mirrored := 0, mirror := [], failures } }
theorem test_mirror : ∀ k ∈ [0, 1, 2], ((unmirrored k).ledger.ring.find? fun r => decide ((unmirrored k).ledger.mirrored ≤ r.1)).isSome = true ∧
    (unmirrored k).ledger.mirrorFault = false ∧ (unmirrored k).ledger.failures = k ∧ (unmirrored k).power.resetHeld = false := by
  decide +kernel

def attesting : State := { live with glen := { live.glen with current := some (.attest 0 0 0 []) } }
def challenged : State := { live with glen := { live.glen with busy := true, lastResponse := some 0, slots := [(2, ⟨zeros 32, 0⟩)] }, timeNs := 1000000 }
theorem test_glen_goes_on : alive attesting = true ∧ attesting.glen.current = some (.attest 0 0 0 []) ∧ challenged.glen.busy = true ∧
    (.challenge : GlenOp) ∉ challenged.glen.queue ∧ 0 + 1000000 ≤ challenged.timeNs ∧ tget challenged.glen.slots 2 = some ⟨zeros 32, 0⟩ ∧
    rootAlive { challenged with glen := { challenged.glen with rootLost := true } } = false := by
  decide +kernel

/-- Each register is there, but one that is not aligned, one that does not exist and one while RESET_L is held. -/
theorem test_registers :
    (∀ a ∈ [0x1004, 0x100C, 0x1010, 0x100000, 0x2000, 0x2004, 0x2008, 0x12500C, 0x120008, 0x121010, 0x12204C, 0x123008, 0x12302C, 0x12403C],
      accessStatus live a = 0) ∧
    accessStatus live 0x1001 = 4 ∧ accessStatus live 0x4000000 = 2 ∧ accessStatus { live with power := { live.power with resetHeld := true } } 0x12204C = 3 ∧
    configBusy live = false ∧ live.config.locked = false ∧ bit live.mgmt.shStatus 1 = false ∧ live.glen.busy = false ∧
    (∀ n ∈ [800, 4400], 800 ≤ n % 2 ^ 13 ∧ n % 2 ^ 13 ≤ 4400) ∧ (799 % 2 ^ 13 < 800) ∧ (4400 < 4401 % 2 ^ 13) := by
  decide +kernel

/-- A counter of 64 bits with the word after it. -/
theorem test_counters : ∃ a c, counterAt live a = some c ∧ accessStatus live a = 0 ∧ accessStatus live (a + 4) = 0 ∧ a ≠ 0x122000 := ⟨0x121008, 0, by decide +kernel⟩

/-- Messages that wait, that are of another type, whose fence is gone, and that a check finds wrong; with the Proend ready and not. -/
def waiting (flags value : Nat) : Bytes :=
  let m := note 0x44 flags 20 7 0 0 [] []
  overlay m 28 (leBytes 8 value)
def fenced (faulted : Bool) : State := holds (.fence { value := 5, faulted, sharedContexts := false, sharedDevices := false, vc := 0 }) (desk work)
theorem test_waits : mailbox (.fenceQuery 20) = some (.inbox 20, 0x44) ∧ msgType (waiting 2 9) = 0x44 ∧ bit (msgFlags (waiting 2 9)) 1 = true ∧
    bit (msgFlags (waiting 0 9)) 1 = false ∧ waitState (fenced false) (waiting 2 9) = .hold ∧ waitState (fenced false) (waiting 2 5) = .go ∧
    waitState (fenced true) (waiting 2 9) = .dead ∧ waitState (desk work) (waiting 2 9) = .dead ∧
    (((tget (talk 20 7 (waiting 2 9) (fenced true)).ctxs 20).map (·.inbox)).getD [] = [waiting 2 9]) ∧
    startCheck (talk 20 8 (waiting 0 0) (desk work)) 20 (waiting 0 0) ≠ none ∧ alive (desk work) = true ∧ alive State.reset = false := by
  decide +kernel

/-- On the sideband: lengths, and a type that may not be sent there. -/
theorem test_sideband_waits : mailbox (.fwErase (.sideband (zeros 63))) = some (.sideband (zeros 63), 0x83) ∧ live.power.mainPower = true ∧
    live.power.resetHeld = false ∧ live.mgmt.busy = false ∧ sidebandType (msgType (zeros 64)) = false ∧ (zeros 64).length = 64 ∧
    mailbox (.fwErase (.sideband (zeros 64))) = some (.sideband (zeros 64), 0x83) := by
  decide +kernel

/-- A descriptor that is not there, one of another opcode, and a state in which nothing is held. -/
theorem test_descriptors_wait : descriptorOf (.nop t0) = some (t0, 0) ∧ refOf live t0 = none ∧
    (∃ r, refOf (desk (runs [desc 5 0 [] []])) t0 = some r ∧ (dOp r.d != 0) = true) ∧ openTasks live = [] ∧ live.vale.failing = [] ∧ live.running = [] ∧ live.eth.qps = [] :=
  ⟨by decide +kernel, by decide +kernel, some_of (by decide +kernel), by decide +kernel, by decide +kernel, by decide +kernel, by decide +kernel⟩

/-! ### The manual's worked examples -/

/-- The core at c = 173, r = 131 (scope, Plain). -/
theorem test_core_index : coreBlock (131 * 320 + 173) = 530 ∧ 131 * 320 + 173 = 42093 ∧ blockQuarter 530 = 3 ∧
    (blockCores 530)[29]? = some 42093 ∧ 0x80000 + 512 * 530 + 4 * 29 = 0xC2474 := by decide +kernel

/-- FP32 0x402DF854 chopped and rounded to F19 (text after R106), and 1 + 2^-30 in M48. -/
theorem test_f19 : narrowF19 true 0x402DF854 = 0x402DE000 ∧ narrowF19 false 0x402DF854 = 0x402E0000 := by decide +kernel
theorem test_m48 : (convert .m48 (.num (1 + 1 / 2 ^ 30))).bits = 0x3F8000000200 ∧ decodeBits .m48 0x3F8000000200 = .num (1 + 1 / 2 ^ 30) := by decide +kernel

/-- An E4M3 block of largest magnitude 1,000 (text after R150): its scale, and four of its values. -/
theorem test_block_scale : chooseE8m0 .e4m3 1 1000 = 0x81 ∧ (convert .e4m3 (.num 250)).bits = 0x78 ∧ (convert .e4m3 (.num (-33 / 40))).bits = 0xB5 ∧
    (convert .e4m3 (.num (1 / 400))).bits = 0x01 ∧ (convert .e4m3 (.num (1 / 4000))).bits = 0 := by decide +kernel
theorem test_block_flags : (convert .e4m3 (.num 250)).flags = ⟨false, false, true, false⟩ ∧ (convert .e4m3 (.num (1 / 400))).flags = ⟨false, true, true, false⟩ := by
  decide +kernel

/-- One output element, bit for bit: each chunk is summed exactly and rounded once. -/
def cellA : List Val := [.num (2 ^ 12), .num 1, .num 1] ++ List.replicate 13 (.zero false) ++ [.num (3 / 2), .num (1 / 512)] ++ List.replicate 14 (.zero false)
def cellB : List Val := [.num (2 ^ 12), .num 1, .num 1] ++ List.replicate 13 (.zero false) ++ [.num 2, .num 1] ++ List.replicate 14 (.zero false)
theorem test_cell : (arrayRun (.zero false) cellA cellB).v = .num 16777222 ∧ (convert .fp32 (.num 16777222)).bits = 0x4B800003 ∧
    (convert .bf16 (.num (16777222 / 2))).bits = 0x4B00 := by decide +kernel

/-- The scale after 180,000 was written in FP16 with a margin of 1, and the loss scale's growth and fall. -/
theorem test_scale_grows : freshScale .fp16 1 180000 = 8 ∧ (convert .fp16 (.num (180000 / 8))).flags.overflow = false := by decide +kernel
theorem test_loss_scale : lossScale {} { exponent := 16, clean := 1999 } true = (17, 0, 0) ∧ lossScale {} { exponent := 17, clean := 400 } false = (16, 0, 1) := by
  decide +kernel

/-- Tokens of a block at 700, 535 and 540 MHz with a = 1, and at 700 and 805 with a = 0.502 (text after R553). -/
theorem test_demand : demand 700 1 = 640 ∧ demand 535 1 = 490 ∧ demand 540 1 = 494 := by decide +kernel
theorem test_light_demand : demand 700 (502 / 1000) = 332 ∧ demand 805 (502 / 1000) = 487 := by decide +kernel

/-- A word under ECC (text after R591). -/
theorem test_check_byte : checkByte 1 = 7 ∧ readWord 0x21 7 = some (1, 0x15) ∧ readWord 1 0x87 = some (1, 0x80) := by decide +kernel

/-- The route of the 8 by 8 by 8 by 8 torus toward d3 = 6: four ports from 24 on, by a count field of 2 (R374). -/
theorem test_route : lookup [0x00C005E200000001] 0xC05 = some 0x00C005E200000001 ∧ rBase 0x00C005E200000001 = 24 ∧ rCount 0x00C005E200000001 = 4 ∧
    rLength 0x00C005E200000001 = 11 := by decide +kernel

/-- The tweak of the line at Vale address 0x4200700100 with counter 41 and key id 5 (R318). -/
theorem test_tweak : lineTweak (0x4200700100 / 256) 41 5 = [1, 0x70, 0, 0x42, 0x29, 0, 0, 0, 5, 0, 0, 0, 0, 0, 0, 0] := by decide +kernel

/-- The element of an Adam step: its update and its master weight. -/
def anAdam : OptP := { adam := true, lr := 1 / 2 ^ 10, beta1 := 7 / 8, beta2 := 63 / 64, eps := 1 / 2 ^ 30, wd := 1 / 16, mult := 1 / 2 ^ 9 }
theorem test_update : (updateOf anAdam (biasCorr (7 / 8) 0).1 (biasCorr (63 / 64) 0).1 (.num (1 / 2 ^ 18)) (.num (1 / 2 ^ 36))).1 = decodeBits .fp32 0x3F7FFE00 := by
  decide +kernel
theorem test_master : (convert .m48 (.num (1 - 1 / 2 ^ 10 - 1 / 2 ^ 14 + 1 / 2 ^ 25))).bits = 0x3F7FBC008000 ∧
    leBytes 6 (0x3F7FBC008000) = [0, 0x80, 0, 0xBC, 0x7F, 0x3F] := by decide +kernel

/-- The loss of three classes (text after R235): gradients in FP16. -/
theorem test_loss : (roundReal .fp16 0 (.iv fun p => ivScale (-16) (ivMul (expSumIv p [2, 0, -1] (some 0)) (ivInv (expSumIv p [2, 0, -1] none))))).bits = 0xC100 ∧
    (roundReal .fp16 0 (scaleReal 16 (probOf [2, 0, -1] 1))).bits = 0x3F4F ∧ (roundReal .fp16 0 (scaleReal 16 (probOf [2, 0, -1] 2))).bits = 0x3961 := by
  decide +kernel

/-- A block that begins 3.0, 0xAE66 and 2^-12 in T12 and in T8 (text after R399). -/
def aBlock : List Val := [.num 3, decodeBits .fp16 0xAE66, .num (1 / 4096)]
theorem test_t12 : sub (t12Block aBlock) 0 4 = [0x80, 0x00, 0x36, 0x83] ∧ (t12Values (t12Block aBlock)).take 3 = [.num 3, .num (-51 / 512), .zero false] := by decide +kernel
theorem test_t8 : sub (t8Block aBlock) 0 4 = [0x71, 0x7A, 0xE6, 0x44] ∧ (t8Values (t8Block aBlock)).take 3 = [.num 3, .num (-3 / 32), .num (1 / 4096)] := by decide +kernel
end Sys2Proof.Tests
end

/-! SUPPORT. Writes of management registers over the sideband: what each shared step of a write answers (reaching the register, the
lock and the range, the wait for an activation, a window whose scan runs), one equation per case, and O57 assembled from them. -/

namespace Sys2Proof.Proofs

open Sys2Proof Sys2Proof.Machine

variable {s : State}

/-! ### Reaching a register -/

/-- A write of one word that reaches its register has its effect. -/
theorem writeAt_reached {a : Nat} (f : State → State) (hp : s.power.mainPower = true) (ok : accessStatus s a = 0) :
    writeAt a f s = f s := by
  simp only [writeAt, hp, ok, not_true, if_false, if_true]

/-- One that cannot reach it sets write_discarded. -/
theorem writeAt_discarded {a : Nat} (f : State → State) (hp : s.power.mainPower = true) (bad : accessStatus s a ≠ 0) :
    writeAt a f s = accessErr 4 s := by
  simp only [writeAt, hp, bad, not_true, if_false]

/-- A command that is a write of one word over the sideband, at a register that is there, does what the write does. -/
theorem exec_write {c : Instr} {a : Nat} {f : State → State} {t : State} (hp : s.power.mainPower = true) (ok : accessStatus s a = 0)
    (write : exec c s = .next (writeAt a f s)) (effect : f s = t) : exec c s = .next t := by
  rw [write, writeAt_reached f hp ok, effect]

/-! ### Each command is a write of one word at its register -/

theorem exec_registerWrite (a : Nat) (v : BitVec 32) :
    exec (.registerWrite a v) s = .next (writeAt a (registerPut a v.toNat) s) := rfl
theorem exec_alertStatusWrite (v : BitVec 32) : exec (.alertStatusWrite v) s = .next (writeAt 0x1004 (alertClear v.toNat) s) := rfl
theorem exec_failwarnWrite (v : BitVec 32) : exec (.failwarnWrite v) s = .next (writeAt 0x100C (failwarnClear v.toNat) s) := rfl
theorem exec_accessErrWrite (v : BitVec 32) : exec (.accessErrWrite v) s = .next (writeAt 0x1010 (accessErrClear v.toNat) s) := rfl
theorem exec_pwrCapWrite (v : BitVec 32) : exec (.pwrCapWrite v) s = .next (writeAt 0x2000 (powerWrite 0 v.toNat) s) := rfl
theorem exec_currentLimitWrite (v : BitVec 32) : exec (.currentLimitWrite v) s = .next (writeAt 0x2004 (powerWrite 4 v.toNat) s) := rfl
theorem exec_throttleTempWrite (v : BitVec 32) : exec (.throttleTempWrite v) s = .next (writeAt 0x2008 (powerWrite 8 v.toNat) s) := rfl
theorem exec_sweepRateWrite (v : BitVec 32) : exec (.sweepRateWrite v) s = .next (writeAt 0x12500C (sweepRateSet v.toNat) s) := rfl
theorem exec_nlogSelectWrite (v : BitVec 32) : exec (.nlogSelectWrite v) s = .next (writeAt 0x120008 (nlogPick v.toNat) s) := rfl
theorem exec_errSelectWrite (v : BitVec 32) : exec (.errSelectWrite v) s = .next (writeAt 0x121010 (errPick v.toNat) s) := rfl
theorem exec_ledgerSelectWrite (v : BitVec 32) : exec (.ledgerSelectWrite v) s = .next (writeAt 0x12204C (ledgerPick v.toNat) s) := rfl
theorem exec_shPageWrite (v : BitVec 32) : exec (.shPageWrite v) s = .next (writeAt 0x123008 (pagePick v.toNat) s) := rfl
theorem exec_shScan (v : BitVec 32) : exec (.shScan v) s = .next (writeAt 0x12302C (scanBegin v.toNat) s) := rfl
theorem exec_glenChalWrite (v : BitVec 32) : exec (.glenChalWrite v) s = .next (writeAt 0x12403C (challengeWrite 7 v.toNat) s) := rfl

/-- FLAGS_WRITE of one of the 32 jobs is a write of one word. -/
theorem exec_flagsWrite_of_lt {j : Nat} (v : BitVec 32) (h : j < 32) :
    exec (.flagsWrite j v) s = .next (writeAt (0x100000 + 4 * j) (flagsClear j v.toNat) s) :=
  congrArg Host.Outcome.next (if_pos h)

/-! ### RL fields -/

theorem rlWrite_locked (lo hi v : Nat) (f : State → State) (h : s.config.locked = true) : rlWrite lo hi v f s = accessErr 1 s := by
  simp only [rlWrite, h, if_true]

theorem rlWrite_out_of_range {lo hi v : Nat} (f : State → State) (h : s.config.locked = false) (out : v < lo ∨ hi < v) :
    rlWrite lo hi v f s = accessErr 2 s := by
  simp only [rlWrite, h, Bool.false_eq_true, if_false, if_pos out]

theorem rlWrite_in_range {lo hi v : Nat} (f : State → State) (h : s.config.locked = false) (above : lo ≤ v) (below : v ≤ hi) :
    rlWrite lo hi v f s = f s := by
  have inside : ¬ (v < lo ∨ hi < v) := by omega
  simp only [rlWrite, h, Bool.false_eq_true, if_false, if_neg inside]

/-! ### Power limits -/

theorem powerWrite_idle (off v : Nat) (h : configBusy s = false) : powerWrite off v s = powerApply off v s := by
  simp only [powerWrite, h, Bool.false_eq_true, if_false]

/-- Each of the three registers is an RL field with its own range and width. -/
theorem powerApply_cap (v : Nat) :
    powerApply 0 v s = rlWrite 800 4400 (v % 2 ^ 13) (powerSet fun p => { p with cap := v % 2 ^ 13 }) s := rfl
theorem powerApply_current (v : Nat) :
    powerApply 4 v s = rlWrite 40 140 (v % 2 ^ 8) (powerSet fun p => { p with current := v % 2 ^ 8 }) s := rfl
theorem powerApply_throttle (v : Nat) :
    powerApply 8 v s = rlWrite 85 105 (v % 2 ^ 7) (powerSet fun p => { p with throttle := v % 2 ^ 7 }) s := rfl

/-- After the lock a write of any of them only sets the flag. -/
theorem powerApply_locked (off v : Nat) (h : s.config.locked = true) : powerApply off v s = accessErr 1 s := by
  simp only [powerApply, rlWrite_locked _ _ _ _ h, ite_self]

/-- A write of a power limit after the lock, during an activation or not. -/
theorem powerWrite_locked (off v : Nat) (h : s.config.locked = true) :
    powerWrite off v s = if configBusy s then { s with held := s.held ++ [.power off v] } else accessErr 1 s := by
  simp only [powerWrite, powerApply_locked off v h]

/-- A command that writes a power limit as an RL field, with no lock and no activation: a value out of range sets the flag, one in
range goes into the register and is recorded. -/
theorem exec_powerWrite {c : Instr} {a off v lo hi x : Nat} {f : Power → Power} (hp : s.power.mainPower = true)
    (write : exec c s = .next (writeAt a (powerWrite off v) s)) (field : powerApply off v s = rlWrite lo hi x (powerSet f) s)
    (ok : accessStatus s a = 0) (unlocked : s.config.locked = false) (idle : configBusy s = false) :
    (x < lo ∨ hi < x → exec c s = .next (accessErr 2 s)) ∧ (lo ≤ x → x ≤ hi → exec c s = .next (powerSet f s)) := by
  have judged : powerWrite off v s = rlWrite lo hi x (powerSet f) s := (powerWrite_idle off v idle).trans field
  exact ⟨fun out => exec_write hp ok write (judged.trans (rlWrite_out_of_range _ unlocked out)),
    fun above below => exec_write hp ok write (judged.trans (rlWrite_in_range _ unlocked above below))⟩

/-! ### The sweep rate -/

/-- The five bits written hold no 32, so that only a 0 is out of range. -/
theorem sweepRateSet_zero {v : Nat} (unlocked : s.config.locked = false) (h : v % 2 ^ 5 = 0) : sweepRateSet v s = accessErr 2 s :=
  rlWrite_out_of_range _ unlocked (by omega)

theorem sweepRateSet_nonzero {v : Nat} (unlocked : s.config.locked = false) (h : v % 2 ^ 5 ≠ 0) :
    sweepRateSet v s = { s with vale := { s.vale with rate := v % 2 ^ 5 } } :=
  rlWrite_in_range _ unlocked (by omega) (by omega)

/-! ### Flags of a job -/

theorem flagsClear_of_held {j : Nat} {b : Job} (v : Nat) (h : tget s.jobs j = some b) : flagsClear j v s = clearFlags j v s := by
  simp only [flagsClear, h, Option.isSome_some, if_true]

/-! ### The Ledger's selection -/

/-- The number that a write of the high word selects. -/
def ledgerSelected (v : Nat) (s : State) : Nat := v * 2 ^ 32 + s.mgmt.ledgerSelect % 2 ^ 32

/-- The window's registers once a record is selected, before one is served. -/
def ledgerSelecting (v : Nat) (s : State) : Mgmt := { s.mgmt with ledgerSelect := ledgerSelected v s, ledgerFetch := none, ledgerStatus := 0 }

theorem ledgerPick_from_ring {v : Nat} {b : Bytes} (ring : tget s.ledger.ring (ledgerSelected v s) = some b) :
    ledgerPick v s = { s with mgmt := { ledgerSelecting v s with ledgerStatus := 1, ledgerData := b } } := by
  unfold ledgerSelected at ring
  simp only [ledgerPick, ring, ledgerSelecting, ledgerSelected]

theorem ledgerPick_from_mirror {v : Nat} {b : Bytes} (ring : tget s.ledger.ring (ledgerSelected v s) = none)
    (mirror : tget s.ledger.mirror (ledgerSelected v s) = some b) :
    ledgerPick v s = { s with mgmt := { ledgerSelecting v s with ledgerFetch := some (ledgerSelected v s) } } := by
  unfold ledgerSelected at ring mirror
  simp only [ledgerPick, ring, mirror, Option.isSome_some, if_true, ledgerSelecting, ledgerSelected]

theorem ledgerPick_nothing {v : Nat} (ring : tget s.ledger.ring (ledgerSelected v s) = none)
    (mirror : tget s.ledger.mirror (ledgerSelected v s) = none) :
    ledgerPick v s = { s with mgmt := { ledgerSelecting v s with ledgerData := zeros 128 } } := by
  unfold ledgerSelected at ring mirror
  simp only [ledgerPick, ring, mirror, Option.isSome_none, Bool.false_eq_true, if_false, ledgerSelecting, ledgerSelected]

/-! ### The state-header window -/

theorem windowWrite_scanning (f : Mgmt → Mgmt) (h : bit s.mgmt.shStatus 1 = true) : windowWrite f s = accessErr 4 s :=
  if_pos h

theorem windowWrite_idle (f : Mgmt → Mgmt) (h : bit s.mgmt.shStatus 1 = false) : windowWrite f s = { s with mgmt := f s.mgmt } := by
  simp only [windowWrite, scanning, h, Bool.false_eq_true, if_false]

theorem pagePick_scanning (v : Nat) (h : bit s.mgmt.shStatus 1 = true) : pagePick v s = accessErr 4 s := by
  simp only [pagePick, windowWrite_scanning _ h]

theorem pagePick_idle (v : Nat) (h : bit s.mgmt.shStatus 1 = false) : pagePick v s = { s with mgmt := { s.mgmt with
    shPage := v, shStatus := (selectedEntry s v).isSome.toNat
    shMoment := ((selectedEntry s v).map (·.1)).getD 0, shWeight := ((selectedEntry s v).map (·.2)).getD 0 } } := by
  simp only [pagePick, windowWrite_idle _ h]

theorem scanBegin_idle (v : Nat) (h : bit s.mgmt.shStatus 1 = false) :
    scanBegin v s = { s with mgmt := { s.mgmt with shStart := v, shStatus := s.mgmt.shStatus % 2 + 2 } } :=
  windowWrite_idle _ h

/-! ### Glen's challenge -/

theorem challengeWrite_busy (i v : Nat) (h : s.glen.busy = true) : challengeWrite i v s = accessErr 4 s := if_pos h

/-- The last word of a challenge starts Glen's response. -/
theorem challengeWrite_last (v : Nat) (h : s.glen.busy = false) : challengeWrite 7 v s = { s with glen := { s.glen with
    challenge := setAt s.glen.challenge 7 v, busy := true, ready := false
    queue := if s.glen.current.isSome then s.glen.queue ++ [.challenge] else s.glen.queue } } := by
  simp only [challengeWrite, h, Bool.false_eq_true, if_false, ne_eq, not_true]

/-! ### Every write -/

/-- Settles O57: each command is a write of one word at its register, whose effect is that of the lemma on its case. -/
theorem registersAreWritten : Obligations.RegistersAreWritten := by
  unfold Obligations.RegistersAreWritten
  intro s v hp
  refine ⟨?unreached, ?reached, ?alert, ?failwarn, ?accessErr, ?flags, ?capLocked, ?cap, ?current, ?throttle, ?sweepRate, ?nlog,
    ?err, ?ledger, ?pageScanning, ?page, ?scan, ?challengeBusy, ?challenge⟩
  case unreached => exact fun a bad => (exec_registerWrite a v).trans (congrArg _ (writeAt_discarded _ hp bad))
  case reached => exact fun a ok => exec_write hp ok (exec_registerWrite a v) rfl
  case alert => exact fun ok => exec_write hp ok (exec_alertStatusWrite v) rfl
  case failwarn => exact fun ok => exec_write hp ok (exec_failwarnWrite v) rfl
  case accessErr => exact fun ok => exec_write hp ok (exec_accessErrWrite v) rfl
  case flags => exact fun j b hj ok held => exec_write hp ok (exec_flagsWrite_of_lt v hj) (flagsClear_of_held _ held)
  case capLocked => exact fun ok locked => exec_write hp ok (exec_pwrCapWrite v) (powerWrite_locked _ _ locked)
  case cap => exact (exec_powerWrite hp (exec_pwrCapWrite v) (powerApply_cap _) :)
  case current => exact (exec_powerWrite hp (exec_currentLimitWrite v) (powerApply_current _) :)
  case throttle => exact (exec_powerWrite hp (exec_throttleTempWrite v) (powerApply_throttle _) :)
  case sweepRate =>
    exact fun ok unlocked => ⟨fun zero => exec_write hp ok (exec_sweepRateWrite v) (sweepRateSet_zero unlocked zero),
      fun nonzero => exec_write hp ok (exec_sweepRateWrite v) (sweepRateSet_nonzero unlocked nonzero)⟩
  case nlog => exact fun ok => exec_write hp ok (exec_nlogSelectWrite v) rfl
  case err => exact fun ok => exec_write hp ok (exec_errSelectWrite v) rfl
  case ledger =>
    intro ok k picked
    exact ⟨fun b ring => exec_write hp ok (exec_ledgerSelectWrite v) (ledgerPick_from_ring ring),
      fun b ring mirror => exec_write hp ok (exec_ledgerSelectWrite v) (ledgerPick_from_mirror ring mirror),
      fun ring mirror => exec_write hp ok (exec_ledgerSelectWrite v) (ledgerPick_nothing ring mirror)⟩
  case pageScanning => exact fun ok scans => exec_write hp ok (exec_shPageWrite v) (pagePick_scanning _ scans)
  case page => exact fun ok idle => exec_write hp ok (exec_shPageWrite v) (pagePick_idle _ idle)
  case scan => exact fun ok idle => exec_write hp ok (exec_shScan v) (scanBegin_idle _ idle)
  case challengeBusy => exact fun ok busy => exec_write hp ok (exec_glenChalWrite v) (challengeWrite_busy _ _ busy)
  case challenge => exact fun ok idle => exec_write hp ok (exec_glenChalWrite v) (challengeWrite_last _ idle)

end Sys2Proof.Proofs

/-! SUPPORT. How a command whose checks find nothing reaches its effect: a message from its inbox, a descriptor that may start, and
what only asks that the Proend is at work. -/

namespace Sys2Proof.Proofs

open Sys2Proof Sys2Proof.Machine Sys2Proof.Laws

variable {s : State} {c : Instr}

/-- A command that starts a message has the effect of the message's body. -/
theorem exec_of_front {ctx typ : Nat} {m : Msg} {body : Msg → State → State}
    (row : exec c s = .next (settle (withMessage ctx typ body s))) (h : Front s ctx typ m) :
    exec c s = .next (settle (body m (popInbox ctx s))) := by
  rw [row, withMessage_front body h]

/-- A command that starts a descriptor has the effect of the descriptor's body. -/
theorem exec_of_starts {u : State} {t : TaskRef} {op : Nat} {r : Ref} {body : Ref → State → State}
    (row : exec c s = .next (settle (withDesc t op body s))) (h : Starts s t op r u) :
    exec c s = .next (settle (body r u)) := by
  rw [row, withDesc_starts body h]

/-- A command that only a Proend at work takes has its effect there. -/
theorem exec_of_alive {x : State} (row : exec c s = .next (if alive s then x else s)) (h : alive s = true) :
    exec c s = .next x := by
  rw [row, if_pos h]

end Sys2Proof.Proofs

/-! SUPPORT. Ingress: what its start, its end and its failure do, one equation per case of R16, R17 and R37 to R42, and O25 assembled
from them. -/

namespace Sys2Proof.Proofs

open Sys2Proof Sys2Proof.Machine Sys2Proof.Laws

variable {s u : State} {j dst : Nat} {b : Job} {m : Msg}

/-! ### The start -/

/-- What INGRESS finds in order before it judges its owner's key: a live job, a destination that is there, chunks in one window, and an
owner of the policy (R38, R42). -/
structure IngressFits (s : State) (j : Nat) (b : Job) (m : Msg) : Prop where
  live : liveJob s m = some j
  job : tget s.jobs j = some b
  chunks : arg m.bytes 5 4 ≠ 0
  destination : (tget b.tensors (arg m.bytes 9 2)).isSome = true
  window : inOneWindow s j (arg m.bytes 0 5) (4128 * arg m.bytes 5 4) = true
  owner : arg m.bytes 11 1 < polOwners b.policy

/-- Past those checks, the owner's key and then the sequence number decide. -/
theorem ingressBody_fits (h : IngressFits s j b m) : ingressBody m s =
    if b.phase ≠ .keyed ∨ (tget b.keys.owners (arg m.bytes 11 1)).isNone then
      ingressFails j (arg m.bytes 9 2) (arg m.bytes 11 1) (arg m.bytes 12 4) 0x20 0xFFFFFFFF m s
    else if arg m.bytes 12 4 ≤ tgetD b.narrows.ingressSeq (arg m.bytes 11 1) 0 then
      ingressFails j (arg m.bytes 9 2) (arg m.bytes 11 1) (arg m.bytes 12 4) 0x22 0xFFFFFFFF m s
    else keepRunning m (.ingress j (arg m.bytes 9 2)) (modTensor j (rootOf b.tensors (arg m.bytes 9 2))
      (fun e => { e with ingress := e.ingress.erase ⟨arg m.bytes 9 2, true⟩ ++ [⟨arg m.bytes 9 2, false⟩] }) s) := by
  have there : ¬ (arg m.bytes 5 4 = 0 ∨ (tget b.tensors (arg m.bytes 9 2)).isNone = true) :=
    not_or.2 ⟨h.chunks, by simpa [Option.isSome_iff_ne_none] using h.destination⟩
  unfold ingressBody
  simp only [h.live, h.job, Option.getD_some, if_neg there, h.window, not_true, if_false, if_neg (Nat.not_le.2 h.owner)]

theorem owner_key_held {own : Nat} (keyed : b.phase = .keyed) (key : (tget b.keys.owners own).isSome = true) :
    ¬ (b.phase ≠ .keyed ∨ (tget b.keys.owners own).isNone = true) :=
  not_or.2 ⟨fun unkeyed => unkeyed keyed, by simpa [Option.isSome_iff_ne_none] using key⟩

theorem exec_ingress {ctx : Nat} (h : Front s ctx 0x14 m) : exec (.ingress ctx) s = .next (settle (ingressBody m (popInbox ctx s))) :=
  exec_of_front rfl h

/-! ### The end -/

/-- The destination that an ingress holds no more. -/
def ingressLifted (j dst : Nat) (b : Job) (u : State) : State :=
  modTensor j (rootOf b.tensors dst) (fun e => { e with ingress := e.ingress.erase ⟨dst, false⟩ }) u

/-- The plaintext of a chunk of an ingress message, read from its staging area. -/
def ingressSlot (j : Nat) (b : Job) (m : Msg) (w : State) (i : Nat) : Option Bytes :=
  openChunk ((tget b.keys.owners (arg m.bytes 11 1)).getD []) b.id (arg m.bytes 11 1) (arg m.bytes 12 4) (arg m.bytes 5 4) i
    (peekN w j (arg m.bytes 0 5 + 4128 * i) 4128)

/-- A whole plaintext in its destination: the bytes, the owner's bit and the sequence number (R40, R41). -/
def ingressPlaced (j dst : Nat) (b : Job) (m : Msg) (v : TV) (p : Bytes) (w : State) : State :=
  modJob j (fun b' => { b' with narrows := { b'.narrows with
      ingressSeq := tset b'.narrows.ingressSeq (arg m.bytes 11 1) (arg m.bytes 12 4) } })
    (modTensor j (rootOf b.tensors dst) (fun e => { e with mask := e.mask ||| 2 ^ arg m.bytes 11 1 })
      ((coalesce (p.zipIdx.map fun x => (byteAddr v x.2, x.1))).foldl (fun t x => engineWrite j x.1 x.2 t) w))

section

variable (job : tget s.jobs j = some b) (taken : takeRunning (.ingress j dst) s = (some m, u))
  (fresh : tgetD b.narrows.ingressSeq (arg m.bytes 11 1) 0 < arg m.bytes 12 4)

include job taken fresh

theorem ingressDone_whole {p : Bytes} {v : TV}
    (opened : openChunks (ingressSlot j b m (ingressLifted j dst b u)) (arg m.bytes 5 4) 0 = .ok p)
    (view : viewOf b 0 0 none dst = some v) (room : p.length ≤ tensorBytes v) :
    ingressDone j dst s = complete m 0x00 (ingressPlaced j dst b m v p (ingressLifted j dst b u)) := by
  unfold ingressSlot ingressLifted at opened
  unfold ingressDone
  simp only [job, taken, if_neg (Nat.not_le.2 fresh), opened, view, if_neg (Nat.not_lt.2 room)]
  rfl

theorem ingressDone_too_long {p : Bytes} {v : TV}
    (opened : openChunks (ingressSlot j b m (ingressLifted j dst b u)) (arg m.bytes 5 4) 0 = .ok p)
    (view : viewOf b 0 0 none dst = some v) (long : tensorBytes v < p.length) :
    ingressDone j dst s =
      ingressFails j dst (arg m.bytes 11 1) (arg m.bytes 12 4) 0x24 0xFFFFFFFF m (ingressLifted j dst b u) := by
  unfold ingressSlot ingressLifted at opened
  unfold ingressDone
  simp only [job, taken, if_neg (Nat.not_le.2 fresh), opened, view, if_pos long]
  rfl

theorem ingressDone_bad_chunk {i : Nat}
    (bad : openChunks (ingressSlot j b m (ingressLifted j dst b u)) (arg m.bytes 5 4) 0 = .error i) :
    ingressDone j dst s =
      ingressFails j dst (arg m.bytes 11 1) (arg m.bytes 12 4) 0x23 i m (ingressLifted j dst b u) := by
  unfold ingressSlot ingressLifted at bad
  unfold ingressDone
  simp only [job, taken, if_neg (Nat.not_le.2 fresh), bad]
  rfl

end

theorem exec_ingressComplete (ready : alive s = true) :
    exec (.ingressComplete j dst) s = .next (settle (ingressDone j dst s)) :=
  exec_of_alive rfl ready

/-! ### A failure -/

theorem ingressFails_held (own seq status first : Nat) (job : tget s.jobs j = some b) :
    ingressFails j dst own seq status first m s = complete m status (jobEvent j 0x07
      (timed s (leBytes 1 status ++ leBytes 1 own ++ leBytes 2 dst ++ leBytes 4 seq ++ leBytes 4 first))
      (modTensor j (rootOf b.tensors dst) (fun e => { e with ingress := e.ingress.erase ⟨dst, true⟩ ++ [⟨dst, true⟩] }) s)) := by
  unfold ingressFails
  simp only [job, Option.map_some, Option.getD_some]
  rfl

/-! ### The descriptor that waits -/

/-- INGRESS_WAIT runs on until its destination is readable, and retires then (R260). -/
theorem exec_ingressWait {t : TaskRef} {r : Ref} (h : Starts s t 0x2D r u) :
    exec (.ingressWait t) s = .next (settle (if readsBlocked r then setRunning r 0 u else retire t u)) := by
  rw [exec_of_starts (c := .ingressWait t) rfl h, ingressWaitRun, refOf_task h.now]

/-- Settles O25, by the cases of an ingress's start, its end, its failure and the wait for it. -/
theorem ingressWritesWholeOrNothing : Obligations.IngressWritesWholeOrNothing := by
  unfold Obligations.IngressWritesWholeOrNothing
  refine ⟨?start, ?done, ?failed, ?wait⟩
  case start =>
    intro s ctx m j b t n dst own seq front live job chunks there window owner
    have fits : IngressFits t j b m := ⟨live, job, chunks, there, window, owner⟩
    refine ⟨?_, ?_, ?_⟩
    · intro keyed key fresh
      rw [exec_ingress front, ingressBody_fits fits, if_neg (owner_key_held keyed key), if_neg (Nat.not_le.2 fresh)]
    · intro missing
      rw [exec_ingress front, ingressBody_fits fits, if_pos (missing.imp_right Option.isNone_iff_eq_none.2)]
    · intro keyed key replay
      rw [exec_ingress front, ingressBody_fits fits, if_neg (owner_key_held keyed key), if_pos replay]
  case done =>
    intro s u j dst b m ready job taken n own seq w slot fresh
    rw [exec_ingressComplete ready]
    refine ⟨?_, ?_, ?_⟩
    · intro p v opened view room
      rw [ingressDone_whole job taken fresh opened view room]
      rfl
    · intro p v opened view long
      rw [ingressDone_too_long job taken fresh opened view long]
      rfl
    · intro i bad
      rw [ingressDone_bad_chunk job taken fresh bad]
      rfl
  case failed => exact fun s j dst own seq status first b m job => ingressFails_held own seq status first job
  case wait => exact fun s u t r start => exec_ingressWait start

end Sys2Proof.Proofs

/-! SUPPORT. The end of a unit at its boundary, late or not, and the lending and return of a block, one equation per case; O20 is
assembled from them. -/

namespace Sys2Proof.Proofs

open Sys2Proof Sys2Proof.Machine Sys2Proof.Laws

variable {s : State} {t : TaskRef} {unit : Nat} {r : Ref}

/-! ### A unit reaches its boundary -/

/-- A unit of a running descriptor that is on its thread and has not ended (R190). -/
structure AtBoundary (s : State) (t : TaskRef) (unit : Nat) (r : Ref) : Prop where
  task : refOf s t = some r
  begun : begun r.u t.desc = true
  going : (descAt r.u t.desc).retired = false
  isUnit : unit < (descAt r.u t.desc).units
  left : unit ∉ (descAt r.u t.desc).ended
  runs : unitRuns s r unit = true

theorem taskBoundary_at (h : AtBoundary s t unit r) : taskBoundary t unit s = endLate t unit r s := by
  simp only [taskBoundary, h.task]
  exact if_pos ⟨h.begun, by simp [h.going], h.isUnit, by simpa using h.left, h.runs⟩

/-- Only the last unit of a late descriptor has more to do than to end. -/
theorem endLate_now (h : ¬ ((descAt r.u t.desc).late = true ∧ (descAt r.u t.desc).ended.length + 1 = (descAt r.u t.desc).units)) :
    endLate t unit r s = endUnit t unit r s :=
  if_neg h

/-- The last unit of a late descriptor ends in the state that its effect leaves, once its pages are there (R211). -/
theorem endLate_written {r' : Ref} (late : (descAt r.u t.desc).late = true)
    (last : (descAt r.u t.desc).ended.length + 1 = (descAt r.u t.desc).units) (pages : (ensurePages r s).2 = true)
    (again : refOf (effectOf r (ensurePages r s).1 (modDesc t (fun d => { d with late := false }) (ensurePages r s).1)) t = some r') :
    endLate t unit r s =
      endUnit t unit r' (effectOf r (ensurePages r s).1 (modDesc t (fun d => { d with late := false }) (ensurePages r s).1)) := by
  simp only [endLate, late, last, and_self, if_true, pages, again]

/-! ### What the end leaves -/

/-- The state in which a unit has left its core, whose steps ended in `c`. -/
def unitLeft (t : TaskRef) (unit : Nat) (r : Ref) (s : State) (c : CoreSt) : State :=
  modSub t.job t.sub
    (fun u => { u with state := tset u.state t.desc { descAt r.u t.desc with ended := (descAt r.u t.desc).ended ++ [unit] } })
    (modCore (unitCore r.part r.map unit) (fun _ => endTask (unitThread r.part r.map unit)
      (traceCore (s.fw.microcode.getD (blockQuarter (coreBlock (unitCore r.part r.map unit))) []) (Config.branchTrace t unit)
        (unitThread r.part r.map unit) c)) s)

/-- A unit without an access error leaves its core, and the last one retires its descriptor. -/
theorem endUnit_stepped {c : CoreSt} (steps : cellSteps (unitSteps r s unit) (coreAt s (unitCore r.part r.map unit)) = some c) :
    endUnit t unit r s = if (descAt r.u t.desc).ended.length + 1 = (descAt r.u t.desc).units then retire t (unitLeft t unit r s c)
      else unitLeft t unit r s c := by
  simp only [endUnit, steps]
  rfl

theorem exec_taskBoundary (ready : alive s = true) (h : AtBoundary s t unit r) :
    exec (.taskBoundary t unit) s = .next (settle (endLate t unit r s)) := by
  rw [← taskBoundary_at h]
  exact exec_of_alive rfl ready

/-! ### Access errors -/

/-- An array instruction that runs past row 511 has an access error (R133). -/
theorem arrayInstr_past_end {i : ArrayInstr} (c : CoreSt) (h : i.fits = false) : arrayInstr i c = none :=
  if_pos (by simp [h])

/-! ### Blocks of a window -/

variable {p block : Nat}

/-- The books of a partition once a block of a window is lent. -/
def lentBooks (block : Nat) (w : Bubble) (x : Bubbles) : Bubbles :=
  { x with
    lent := x.lent ++ [block]
    opened := if w.lentAny then x.opened else x.opened + 1
    windows := x.windows.map fun v => if v.number = w.number then { v with lentAny := true } else v }

theorem blockLend_free {w : Bubble} (kept : block ∉ (tgetD s.bubbles p {}).lent) (free : blockBusy s (2 * p) block = false)
    (window : ((tgetD s.bubbles p {}).windows.find? fun w => w.blocks.contains block) = some w) :
    blockLend p block s = blockSwitch block (2 * p + 1) (modBubbles p (lentBooks block w) s) := by
  have may : ¬ ((tgetD s.bubbles p {}).lent.contains block = true ∨ blockBusy s (2 * p) block = true) := by simp [kept, free]
  simp only [blockLend, if_neg may, window]
  rfl

theorem blockReturn_uncovered (lent : block ∈ (tgetD s.bubbles p {}).lent)
    (uncovered : ((tgetD s.bubbles p {}).windows.any fun w => w.blocks.contains block) = false)
    (free : blockBusy s (2 * p + 1) block = false) :
    blockReturn p block s =
      blockSwitch block (2 * p) (modBubbles p (fun x => { x with lent := x.lent.filter (· != block) }) s) :=
  if_neg (by simp only [uncovered, free, List.contains_iff_mem, lent, not_true, Bool.false_eq_true, or_self, not_false_eq_true])

/-- Settles O20, by the cases of a boundary and of a block's way to the gap job and back. -/
theorem tasksEndAtBoundaries : Obligations.TasksEndAtBoundaries := by
  unfold Obligations.TasksEndAtBoundaries
  refine ⟨fun i c h => arrayInstr_past_end c h, fun s ready => ⟨?boundary, ?lend, ?close, ?giveBack⟩⟩
  case boundary =>
    intro t unit r task begun going isUnit left runs core thread last leave
    rw [exec_taskBoundary ready ⟨task, begun, going, isUnit, left, runs⟩]
    refine ⟨fun now c steps => ?_, fun late last pages r' again => ?_⟩
    · rw [endLate_now now, endUnit_stepped steps]
      rfl
    · rw [endLate_written late last pages again]
  case lend =>
    intro p block w kept free window
    rw [exec_of_alive (c := .blockLend p block) rfl ready, blockLend_free kept free window]
    rfl
  case close => exact fun p n => exec_of_alive rfl ready
  case giveBack =>
    intro p block lent uncovered free
    rw [exec_of_alive (c := .blockReturn p block) rfl ready, blockReturn_uncovered lent uncovered free]

end Sys2Proof.Proofs

/-! SUPPORT. Checkpoint captures: what the messages, the lead's timers, a member's arrival and the ends of the writes do, one equation
per case; O27 is assembled from them. -/

namespace Sys2Proof.Proofs

open Sys2Proof Sys2Proof.Machine Sys2Proof.Laws

variable {s : State} {j : Nat} {b : Job}

/-! ### The messages (R517 to R520) -/

section

variable {m : Msg} (bound : boundJob s m = .ok j) (job : tget s.jobs j = some b)

include bound job

/-- CKPT_SETUP of a record in which nothing is wrong keeps it, and the sealed blobs of a lead (R518, R519). -/
theorem ckptSetupBody_kept (idle : b.capture.phase = .none) (fields : setupFieldsOk b (msgBody m.bytes) = true)
    (extent : extentStatus s (partOf j) 3 (rd (msgBody m.bytes) 0 2) (rd (msgBody m.bytes) 2 1) = none)
    (lead : b.isLead = true → rangeOk s j (rd (msgBody m.bytes) 96 5) (376 * rd (msgBody m.bytes) 101 1) = true ∧
      (setupBlobs s j (msgBody m.bytes)).all (blobOk b) = true) :
    ckptSetupBody m s = complete m 0x00 (modCapture j (fun c => { c with
      setup := msgBody m.bytes, blobs := if b.isLead then setupBlobs s j (msgBody m.bytes) else [] }) s) := by
  have range : ¬ (b.isLead = true ∧ ¬ rangeOk s j (rd (msgBody m.bytes) 96 5) (376 * rd (msgBody m.bytes) 101 1) = true) :=
    fun h => h.2 (lead h.1).1
  have blobs : ¬ (b.isLead = true ∧ ¬ (setupBlobs s j (msgBody m.bytes)).all (blobOk b) = true) := fun h => h.2 (lead h.1).2
  unfold ckptSetupBody
  simp only [bound, job, Option.getD_some, idle, ne_eq, not_true, if_false, fields, extent, if_neg range, if_neg blobs]

theorem ckptTriggerBody_keyed (keyed : b.phase = .keyed) :
    ckptTriggerBody m s = fireTrigger j 0x03 (modCapture j (fun c => { c with trigger := c.trigger ++ [m] }) s) := by
  simp only [ckptTriggerBody, bound, job, Option.map_some, keyed, ne_eq, not_true, if_false]

theorem ckptStatusBody_bound : ckptStatusBody m s = completeResult m 0x00 (statusResult b.capture) s := by
  simp only [ckptStatusBody, bound, job, Option.getD_some]

end

section

variable (job : tget s.jobs j = some b)

include job

/-! ### The lead's timers (R28, R520, R525) -/

/-- A timer that is set and runs out on a Keyed lead starts a capture, or is counted. -/
theorem checkpointTimer_keyed (lead : b.isLead = true) (keyed : b.phase = .keyed) (timer : (trigCfg s j).timer ≠ 0) :
    checkpointTimer j s = if b.capture.phase ≠ .none ∨ b.capture.setup.isEmpty then
      modCapture j (fun c => { c with counted := c.counted + 1 }) s else startCapture j 0x01 s := by
  have trigger : ¬ (¬ b.isLead = true ∨ b.phase ≠ .keyed) := by simp [lead, keyed]
  simp only [checkpointTimer, leadTrigger, job, if_pos (And.intro lead timer), if_neg trigger]

/-- The lead that abandons a capture in progress ends it and tells every member (R527). -/
theorem abandonCapture_lead (cause : Nat) (lead : b.isLead = true) (going : b.capture.phase ≠ .none) :
    abandonCapture j cause s = endCapture j cause (toMembers j (barrierPayload 7 0 b.capture.serial cause) s) := by
  simp only [abandonCapture, job, if_neg going, if_pos lead]

theorem barrierTimeout_entered (lead : b.isLead = true) (entered : b.capture.phase = .entered) :
    barrierTimeout j s = endCapture j 1 (toMembers j (barrierPayload 7 0 b.capture.serial 1) s) := by
  rw [← abandonCapture_lead job 1 lead (by simp [entered])]
  simp only [barrierTimeout, job, if_pos (And.intro lead entered)]

/-! ### A member's arrival (R524) -/

theorem memberArrived_turns {a : Bool} (entered : b.capture.phase = .entered) (before : b.capture.arrived = !a)
    (quiet : (tasksQuiet s j b && commQuiet b) = a) :
    memberArrived j a s = sendReport j (modCapture j (fun c => { c with arrived := a }) (if a then writeDirty j s else s)) := by
  have turns : ¬ (b.capture.phase ≠ .entered ∨ b.capture.arrived = a ∨ (tasksQuiet s j b && commQuiet b) ≠ a) := by
    simp [entered, before, quiet]
  simp only [memberArrived, job, if_neg turns]

/-! ### A shard and the manifest (R527, R529, R535) -/

/-- The queue pair of a setup carries operations. -/
def shardQueueCarries (b : Job) (w : State) : Prop := ((qpOfObj w (rd b.capture.setup 0 2)).map (carries w)).getD false = true

/-- A shard that its queue pair has written is sent where it fits its extent, and else fails the capture. -/
theorem shardWritten_carried (released : b.capture.phase = .released) (carried : shardQueueCarries b (dropFlight (.shard j) s)) :
    shardWritten j true s =
      if rd b.capture.setup (shardSet b.capture.serial + 16) 8 < (shardBytes b (dropFlight (.shard j) s)).1.length then
        captureFails j (shardBytes b (dropFlight (.shard j) s)).2
      else shardSent j b (shardBytes b (dropFlight (.shard j) s)).1 (shardBytes b (dropFlight (.shard j) s)).2 := by
  unfold shardQueueCarries at carried
  simp only [shardWritten, job, released, ne_eq, not_true, if_false, carried, or_self]

theorem shardWritten_failed (released : b.capture.phase = .released) :
    shardWritten j false s = captureFails j (dropFlight (.shard j) s) := by
  simp only [shardWritten, job, released, ne_eq, not_true, if_false, Bool.false_eq_true, not_false_eq_true, true_or, if_true]

theorem manifestDone_writing (ok : Bool) (writing : b.capture.lead.manifestWriting = true) :
    manifestDone j ok s =
      if ok then endCapture j 0 (toMembers j (barrierPayload 8 0 b.capture.serial 0) (dropFlight (.manifest j) s))
      else abandonCapture j 4 (dropFlight (.manifest j) s) := by
  simp only [manifestDone, job, writing, not_true, if_false]

end

/-! ### The commands -/

theorem exec_shardWriteComplete (ok : Bool) (ready : alive s = true) :
    exec (.shardWriteComplete j ok) s = .next (settle (shardWritten j ok s)) := exec_of_alive rfl ready

theorem exec_manifestWriteComplete (ok : Bool) (ready : alive s = true) :
    exec (.manifestWriteComplete j ok) s = .next (settle (manifestDone j ok s)) := exec_of_alive rfl ready

theorem exec_checkpointTimer (ready : alive s = true) :
    exec (.checkpointTimer j) s = .next (settle (checkpointTimer j s)) := exec_of_alive rfl ready

/-- Settles O27, by the cases of the messages, the timers, the arrival and the writes. -/
theorem capturesRun : Obligations.CapturesRun := by
  unfold Obligations.CapturesRun
  refine ⟨?messages, ?timers, ?arrival, ?writes⟩
  case messages =>
    intro s ctx m j b t r bound job
    refine ⟨fun front idle fields extent lead => ?_, fun front keyed => ?_, fun front => ?_⟩
    · rw [exec_of_front (c := .ckptSetup ctx) rfl front, ckptSetupBody_kept bound job idle fields extent lead]
    · rw [exec_of_front (c := .ckptTrigger ctx) rfl front, ckptTriggerBody_keyed bound job keyed]
    · rw [exec_of_front (c := .ckptStatus ctx) rfl front, ckptStatusBody_bound bound job]
  case timers =>
    intro s j b ready job lead
    refine ⟨fun keyed idle setup timer => ?_, fun keyed busy timer => ?_, fun entered => ?_⟩
    · rw [exec_checkpointTimer ready, checkpointTimer_keyed job lead keyed timer, if_neg (by simp [idle, setup])]
    · rw [exec_checkpointTimer ready, checkpointTimer_keyed job lead keyed timer, if_pos (busy.imp_right List.isEmpty_iff.2)]
    · rw [exec_of_alive (c := .barrierTimeout j) rfl ready, barrierTimeout_entered job lead entered]
  case arrival =>
    intro s j b a ready job entered before quiet
    rw [exec_of_alive (c := .memberArrived j a) rfl ready, memberArrived_turns job entered before quiet]
  case writes =>
    intro s j b ready job
    refine ⟨fun released => ?shard, fun writing => ⟨?_, ?_⟩⟩
    case shard =>
      intro w r
      refine ⟨fun carried => ⟨fun fits => ?_, fun long => ?_⟩, ?_⟩
      · rw [exec_shardWriteComplete true ready, shardWritten_carried job released carried, if_neg (Nat.not_lt.2 fits)]
      · rw [exec_shardWriteComplete true ready, shardWritten_carried job released carried, if_pos long]
      · rw [exec_shardWriteComplete false ready, shardWritten_failed job released]
    · rw [exec_manifestWriteComplete true ready, manifestDone_writing job true writing, if_pos rfl]
    · rw [exec_manifestWriteComplete false ready, manifestDone_writing job false writing, if_neg Bool.false_ne_true]

end Sys2Proof.Proofs

/-! SUPPORT. A job's start and its end: JOB_CREATE past its checks, JOB_DESTROY, and the end of each step of a teardown, one equation per
case; O22 is assembled from them. -/

namespace Sys2Proof.Proofs

open Sys2Proof Sys2Proof.Machine Sys2Proof.Laws

variable {s : State} {ctx j c : Nat} {m : Msg} {b : Job}

/-- Where Glen is not at work, a message that needs it runs. -/
theorem withGlen_idle (body : Msg → State → State) (idle : s.glen.current = none) : withGlen m body s = body m s := by
  simp only [withGlen, idle, Option.isSome_none, Bool.false_eq_true, if_false]

/-! ### Creation -/

/-- The partition in which a JOB_CREATE makes its job. -/
def createPart (s : State) (m : Msg) : Nat := ctxPart s (m.ctx.getD 0)

/-- The index of the job that it makes. -/
def createIndex (s : State) (m : Msg) : Nat := 2 * createPart s m + arg m.bytes 12 1

/-- The policy that it brings. -/
def createPolicy (s : State) (m : Msg) : Bytes := peekN s (createIndex s m) (arg m.bytes 0 5) (arg m.bytes 5 4)

/-- What a JOB_CREATE finds in order before the Proend judges whether the policy names its measurement: nothing bars it, and its policy is
accepted (R50, R329, R496). -/
structure CreateFits (s : State) (m : Msg) : Prop where
  idle : configBusy s = false
  kind : arg m.bytes 12 1 ≤ 1
  await : arg m.bytes 15 1 ≤ 1
  lead : arg m.bytes 9 3 < 2 ^ 20
  context : arg m.bytes 13 2 < 4096
  unseals : arg m.bytes 15 1 = 1 → arg m.bytes 9 3 = deviceAddress s
  root : rootAlive s = true
  mirror : s.ledger.mirrorFault = false
  permitted : createBarred s = false
  blocks : partHeld s (createPart s m) = false
  carve : (tget s.config.image.carves (createIndex s m)).isSome = true
  enabled : (s.config.image.parts.getD (createPart s m) {}).enabled = true
  place : tget s.jobs (createIndex s m) = none
  id : jobIndex s (msgJob m.bytes) = none
  coming : creating s (createIndex s m) (msgJob m.bytes) = false
  range : rangeIn (carveOf s (createIndex s m)) (arg m.bytes 0 5) (arg m.bytes 5 4) = true
  policy : policyOk (createPolicy s m) (arg m.bytes 12 1 == 1) = true
  slots : assigned s.config.image.policySlots (createIndex s m) ≠ []
  names : rd (createPolicy s m) 4 4 = msgJob m.bytes

/-- The refusal of a policy that does not name the measurement, with its record. -/
def createRefused (m : Msg) (s : State) : State :=
  complete m 0x29 (ledgerFor m 0x06 2 (createPart s m) false (rd (createPolicy s m) 4 4)
    (jobDetail (sha256 (signedPart (createPolicy s m))) (rd (createPolicy s m) 8 8) (deviceAddress s) 2) s)

/-- The job that a JOB_CREATE makes under a memory key id, before it has a job key. -/
def createdJob (s : State) (m : Msg) (k : Nat) : Job :=
  newJob s (createIndex s m) (createPolicy s m) (arg m.bytes 9 3) (arg m.bytes 13 2) k (arg m.bytes 15 1 == 1)

/-- What waits for the records of a creation: the job with its key, and the slots that the key fills. -/
def createDeferred (m : Msg) (b : Job) (slots : List (Nat × KeySlot)) (s t : State) : State :=
  deferChange m (.createJob (createIndex s m) b slots)
    (slotRecords b.id slots (ledgerFor m 0x06 1 (createPart s m) true b.id (detailOf b 0 0) t))

theorem slotRecords_nil (jobId : Nat) : slotRecords jobId [] s = s := rfl

/-- A job with a job key. -/
def withSecret (secret : Bytes) (b : Job) : Job := { b with keys := { b.keys with secret } }

@[simp] theorem withSecret_id (secret : Bytes) : (withSecret secret b).id = b.id := rfl
@[simp] theorem detailOf_withSecret (secret : Bytes) (address last : Nat) :
    detailOf (withSecret secret b) address last = detailOf b address last := rfl

/-- A creation under a memory key id: a lead that is not to unseal takes a fresh job key and the slots that it fills, where there are
enough, and any other job waits without one. -/
def createWith (m : Msg) (s : State) (k : Nat) : State :=
  let b := createdJob s m k
  let await := arg m.bytes 15 1 == 1
  if b.isLead ∧ ¬ await ∧ (freeSlots s).length < 4 then complete m 0x1A s
  else
    let r := if b.isLead ∧ ¬ await then freshBytes 32 s else ([], s)
    createDeferred m (withSecret r.1 b)
      (if r.1.isEmpty then [] else jobSlots s (createIndex s m) (withSecret r.1 b) (freeLink s) (freeSlots s)) s r.2

theorem freshBytes_not_empty {n : Nat} (pos : 0 < n) : (freshBytes n s).1.isEmpty = false := by
  rw [← Bool.not_eq_true, List.isEmpty_iff_length_eq_zero, freshBytes, sub_length]
  omega

/-- Past its checks a JOB_CREATE is judged by its policy's measurements, and then needs a free key id. -/
theorem jobCreateRun_fits (h : CreateFits s m) : jobCreateRun m s =
    if ¬ accepts (createPolicy s m) s.glen.measurement then createRefused m s
    else (freeKeyId s).elim (complete m 0x2A s) (createWith m s) := by
  have shape : ¬ (1 < arg m.bytes 12 1 ∨ 1 < arg m.bytes 15 1 ∨ 2 ^ 20 ≤ arg m.bytes 9 3 ∨ 4096 ≤ arg m.bytes 13 2) := by
    have := h.kind; have := h.await; have := h.lead; have := h.context
    omega
  have unseals : ¬ ((arg m.bytes 15 1 == 1) = true ∧ arg m.bytes 9 3 ≠ deviceAddress s) := fun x => x.2 (h.unseals (by simpa using x.1))
  have recorded : ¬ (¬ rootAlive s = true ∨ s.ledger.mirrorFault = true) := by simp [h.root, h.mirror]
  have permitted : ¬ (createBarred s = true ∨ partHeld s (createPart s m) = true) := by simp [h.permitted, h.blocks]
  have room : ¬ ((tget s.config.image.carves (createIndex s m)).isNone = true ∨
      ¬ (s.config.image.parts.getD (createPart s m) {}).enabled = true ∨ (tget s.jobs (createIndex s m)).isSome = true ∨
      (jobIndex s (msgJob m.bytes)).isSome = true ∨ creating s (createIndex s m) (msgJob m.bytes) = true) := by
    simp only [h.enabled, h.place, h.id, h.coming, Option.isNone_iff_eq_none, Option.isSome_iff_ne_none.1 h.carve, not_true,
      Option.isSome_none, Bool.false_eq_true, or_self, not_false_eq_true]
  have policy : ¬ (¬ policyOk (createPolicy s m) (arg m.bytes 12 1 == 1) = true ∨
      (assigned s.config.image.policySlots (createIndex s m)).isEmpty = true) := by simp [h.policy, h.slots]
  refine (if_neg (by simp [h.idle])).trans <| (if_neg shape).trans <| (if_neg unseals).trans <| (if_neg recorded).trans <|
    (if_neg permitted).trans <| (if_neg room).trans <| (if_neg (not_not_intro h.range)).trans <| (if_neg policy).trans <|
    (if_neg (not_not_intro h.names)).trans ?_
  cases free : freeKeyId s with
  | none => rfl
  | some k => rfl

theorem jobCreateRun_refused (h : CreateFits s m) (refused : accepts (createPolicy s m) s.glen.measurement = false) :
    jobCreateRun m s = createRefused m s := by
  rw [jobCreateRun_fits h, if_pos (Bool.not_eq_true _ ▸ refused)]

theorem jobCreateRun_accepted {k : Nat} (h : CreateFits s m) (accepted : accepts (createPolicy s m) s.glen.measurement = true)
    (free : freeKeyId s = some k) : jobCreateRun m s = createWith m s k := by
  rw [jobCreateRun_fits h, if_neg (not_not_intro accepted), free, Option.elim_some]

/-- A member, or a lead that is to unseal, waits without a job key. -/
theorem createWith_keyless {k : Nat} (keyless : arg m.bytes 9 3 ≠ deviceAddress s ∨ arg m.bytes 15 1 = 1) :
    createWith m s k = createDeferred m (withSecret [] (createdJob s m k)) [] s s := by
  have other : ¬ ((createdJob s m k).isLead = true ∧ ¬ (arg m.bytes 15 1 == 1) = true) := by
    simp only [createdJob, newJob, beq_iff_eq]
    exact fun ⟨lead, fresh⟩ => keyless.elim (fun other => other lead) fresh
  simp only [createWith, ← and_assoc, other, false_and, if_false, List.isEmpty_nil, if_true]

/-- Any other lead waits with a fresh job key and the slots that it fills. -/
theorem createWith_keyed {k : Nat} (lead : arg m.bytes 9 3 = deviceAddress s) (fresh : arg m.bytes 15 1 = 0)
    (room : 4 ≤ (freeSlots s).length) :
    createWith m s k = createDeferred m (withSecret (freshBytes 32 s).1 (createdJob s m k))
      (jobSlots s (createIndex s m) (withSecret (freshBytes 32 s).1 (createdJob s m k)) (freeLink s) (freeSlots s)) s
      (freshBytes 32 s).2 := by
  have keyed : (createdJob s m k).isLead = true ∧ ¬ (arg m.bytes 15 1 == 1) = true := by simp [createdJob, newJob, lead, fresh]
  simp only [createWith, keyed, not_false_eq_true, and_self, true_and, if_neg (Nat.not_lt.2 room), if_true,
    freshBytes_not_empty (by decide : 0 < 32), Bool.false_eq_true, if_false]

/-! ### Destruction -/

/-- While no report is in progress, JOB_DESTROY begins the teardown of its live job, with cause 2 where the lead refused this member. -/
theorem jobDestroyRun_live (idle : s.glen.current = none) (live : liveJob s m = some j) (job : tget s.jobs j = some b) :
    jobDestroyRun m s = keepRunning m (.jobDestroy j) (beginTeardown j (if b.keying.refusedHere then 2 else 1) s) := by
  simp only [jobDestroyRun, idle, jobDestroyBody, live, job, Option.getD_some]

/-! ### The steps of a teardown -/

/-- A job whose teardown is at a step. -/
def atStep (j n c : Nat) (s : State) : State := modJob j (fun b => { b with teardown := some (n, c) }) s

/-- A packet of the job that this Proend sends itself, as the announcement is, still waits in an egress queue (R57, R382). -/
def announcing (b : Job) (s : State) : Bool :=
  s.pass.ports.any fun p => p.queues.any fun q => q.2.any fun x => pJob x.1 == b.id && x.2.isNone

section

variable (job : tget s.jobs j = some b)

include job

theorem stepDone_stopped (step : b.teardown = some (3, c)) (stopped : b.subs = []) : stepDone j s = atStep j 4 c s := by
  simp only [stepDone, job, step, stopped, List.isEmpty_nil, if_true, atStep]

theorem stepDone_flights_ended (step : b.teardown = some (4, c)) (ended : b.narrows.releases = []) :
    stepDone j s = atStep j 5 c (if b.passSeq = 0 then retryHeld j (dropWaiting j (cancelFlights j s))
      else controlAll j [1] (retryHeld j (dropWaiting j (cancelFlights j s)))) := by
  simp only [stepDone, job, step, ended, List.isEmpty_nil, not_true, if_false, atStep]

theorem stepDone_announced (step : b.teardown = some (5, c)) (left : announcing b s = false) : stepDone j s = atStep j 6 c s := by
  unfold announcing at left
  simp only [stepDone, job, step, left, Bool.false_eq_true, if_false, atStep]

theorem stepDone_keys_retired (step : b.teardown = some (6, c)) : stepDone j s = atStep j 7 c (retireIds j s) := by
  simp only [stepDone, job, step, atStep]

theorem stepDone_cleared (step : b.teardown = some (7, c)) : stepDone j s = atStep j 8 c (clearRegions b.carve.regions s) := by
  simp only [stepDone, job, step, atStep]

theorem stepDone_slots_destroyed (step : b.teardown = some (8, c)) : stepDone j s = jobGone j c (destroyJobSlots j s) := by
  simp only [stepDone, job, step]

end

/-! ### The commands -/

theorem exec_teardownStepDone (ready : alive s = true) :
    exec (.teardownStepDone j) s = .next (settle (releaseHeld (afterTeardown (stepDone j s)))) := exec_of_alive rfl ready

theorem exec_jobCreate (front : Front s ctx 0x10 m) (idle : s.glen.current = none) :
    exec (.jobCreate ctx) s = .next (settle (jobCreateRun m (popInbox ctx s))) := by
  rw [exec_of_front (c := .jobCreate ctx) rfl front, withGlen_idle (s := popInbox ctx s) jobCreateRun idle]

/-- Settles O22, by the cases of a creation, of a destruction and of the step of a teardown that ends. -/
theorem jobsComeAndGo : Obligations.JobsComeAndGo := by
  unfold Obligations.JobsComeAndGo
  refine ⟨?create, ?destroy, ?steps⟩
  case create =>
    intro s ctx m t off len lead kind await part j p front idle busy hkind hawait hlead hctx unseals root mirror barred blocks carve enabled
      place id coming range policy slots names
    obtain ⟨_, bytes⟩ := m
    obtain rfl := front.context
    have fits : CreateFits t ⟨some ctx, bytes⟩ := ⟨busy, hkind, hawait, hlead, hctx, unseals, root, mirror, barred, blocks, carve, enabled,
      place, id, coming, range, policy, slots, names⟩
    rw [exec_jobCreate front idle]
    refine ⟨fun refused => ?_, fun k accepted free keyless => ?_, fun k accepted free isLead fresh room => ?_⟩
    · rw [jobCreateRun_refused fits refused]
      rfl
    · intro b
      have made : createdJob t ⟨some ctx, bytes⟩ k = b := rfl
      rw [jobCreateRun_accepted fits accepted free, createWith_keyless keyless, made]
      simp only [createDeferred, slotRecords_nil, withSecret_id, detailOf_withSecret]
      rfl
    · intro b r keyed filled
      have made : createdJob t ⟨some ctx, bytes⟩ k = b := congrArg (newJob t j p lead _ k) (beq_false_of_ne (by omega))
      rw [jobCreateRun_accepted fits accepted free, createWith_keyed isLead fresh room, made]
      rfl
  case destroy =>
    intro s ctx m j b front idle live job
    rw [exec_of_front (c := .jobDestroy ctx) rfl front, jobDestroyRun_live (s := popInbox ctx s) idle live job]
  case steps =>
    intro s j c b ready job enter on
    rw [exec_teardownStepDone ready]
    refine ⟨fun step stopped => ?_, fun step ended => ?_, fun step left => ?_, fun step => ?_, fun step => ?_, fun step => ?_⟩
    · rw [stepDone_stopped job step stopped]
      rfl
    · rw [stepDone_flights_ended job step ended]
      rfl
    · rw [stepDone_announced job step left]
      rfl
    · rw [stepDone_keys_retired job step]
      rfl
    · rw [stepDone_cleared job step]
      rfl
    · rw [stepDone_slots_destroyed job step]

end Sys2Proof.Proofs

/-! SUPPORT. Keying records between Proends: which records wait for Glen and what each does on the job that it names, one equation per
kind; O24 is assembled from them. -/

namespace Sys2Proof.Proofs

open Sys2Proof Sys2Proof.Machine Sys2Proof.Laws

variable {s : State} {sender jobId j : Nat} {record : Bytes} {b : Job}

/-! ### The way to the job -/

/-- The records that Glen opens: reports and deliveries (R506, R507). -/
def needsGlen : KeyingKind → Bool
  | .leadReport | .memberReport | .jobKeyDelivery => true
  | _ => false

theorem keyingArrives_eq (kind : KeyingKind) : keyingArrives sender jobId kind record s =
    if ¬ alive s then s
    else if needsGlen kind ∧ s.glen.current.isSome then
      { s with glen := { s.glen with queue := s.glen.queue ++ [.record sender jobId kind record] } }
    else if needsGlen kind ∧ ¬ rootAlive s then s
    else keyingRun sender jobId kind record s := by
  cases kind <;> rfl

/-- A record that Glen need not open acts at once. -/
theorem keyingArrives_direct {kind : KeyingKind} (ready : alive s = true) (direct : needsGlen kind = false) :
    keyingArrives sender jobId kind record s = keyingRun sender jobId kind record s := by
  simp only [keyingArrives_eq, ready, direct, not_true, Bool.false_eq_true, false_and, if_false]

/-- One that Glen opens acts while Glen is not at work and has its root. -/
theorem keyingArrives_idle {kind : KeyingKind} (ready : alive s = true) (idle : s.glen.current = none) (root : rootAlive s = true) :
    keyingArrives sender jobId kind record s = keyingRun sender jobId kind record s := by
  simp only [keyingArrives_eq, ready, idle, root, not_true, Option.isSome_none, Bool.false_eq_true, and_false, if_false]

/-- One that Glen opens waits behind the operation in progress (R481). -/
theorem keyingArrives_busy {kind : KeyingKind} {g : GlenOp} (ready : alive s = true) (opened : needsGlen kind = true)
    (busy : s.glen.current = some g) : keyingArrives sender jobId kind record s =
      { s with glen := { s.glen with queue := s.glen.queue ++ [.record sender jobId kind record] } } := by
  simp only [keyingArrives_eq, ready, opened, busy, not_true, if_false, Option.isSome_some, and_self, if_true]

/-! ### On the job -/

/-- A member that still takes records of its lead: it is Created, was not refused, and no key has come yet (R506, R508). -/
structure TakesKeying (s : State) (sender j : Nat) (b : Job) : Prop where
  member : b.isLead = false
  fromLead : sender = b.lead
  created : b.phase = .created
  unrefused : b.keying.refusedHere = false
  keyless : keyComing s j = false

theorem TakesKeying.takes (h : TakesKeying s sender j b) :
    ¬ b.isLead ∧ sender = b.lead ∧ b.phase = .created ∧ ¬ b.keying.refusedHere ∧ ¬ keyComing s j :=
  ⟨by simp [h.member], h.fromLead, h.created, by simp [h.unrefused], by simp [h.keyless]⟩

section

variable (index : jobIndex s jobId = some j) (job : tget s.jobs j = some b)

include index job

theorem keyingRun_reportRequest (lead : b.isLead = true) (unclosed : b.phase ≠ .closing) :
    keyingRun sender jobId .reportRequest record s = sendKeying sender b.id .leadReport (b.keying.report ++ certBytes)
      (modJob j (fun b => { b with keying := { b.keying with members := (b.keying.members.filter (· != sender)) ++ [sender] } }) s) := by
  simp only [keyingRun, index, job, lead, unclosed, ne_eq, not_false_eq_true, and_self, if_true]

theorem keyingRun_memberReport (lead : b.isLead = true) (unclosed : b.phase ≠ .closing) (keyed : b.keys.secret ≠ []) :
    keyingRun sender jobId .memberReport record s = serveMember sender j b record s := by
  simp only [keyingRun, index, job, lead, unclosed, List.isEmpty_iff, keyed, ne_eq, not_false_eq_true, and_self, if_true]

theorem keyingRun_leadReport (h : TakesKeying s sender j b) :
    keyingRun sender jobId .leadReport record s = takeLeadReport j b record s := by
  simp only [keyingRun, index, job, if_pos h.takes]

theorem keyingRun_jobKeyDelivery (h : TakesKeying s sender j b) :
    keyingRun sender jobId .jobKeyDelivery record s = takeDelivery j b record s := by
  simp only [keyingRun, index, job, if_pos h.takes]

theorem keyingRun_refusal (h : TakesKeying s sender j b) :
    keyingRun sender jobId .refusal record s = modJob j (fun b => { b with keying := { b.keying with refusedHere := true } }) s := by
  simp only [keyingRun, index, job, if_pos h.takes]

end

/-- A member whose lead is silent asks again. -/
theorem keyingRetry_takes (job : tget s.jobs j = some b) (h : TakesKeying s b.lead j b) :
    keyingRetry j s = sendKeying b.lead b.id .reportRequest [] s := by
  obtain ⟨member, -, rest⟩ := h.takes
  simp only [keyingRetry, job, if_pos (And.intro member rest)]

/-! ### The commands -/

theorem exec_keyingReportRequest :
    exec (.keyingReportRequest sender jobId) s = .next (keyingArrives sender jobId .reportRequest [] s) := rfl
theorem exec_leadReport : exec (.leadReport sender jobId record) s = .next (keyingArrives sender jobId .leadReport record s) := rfl
theorem exec_memberReport : exec (.memberReport sender jobId record) s = .next (keyingArrives sender jobId .memberReport record s) := rfl
theorem exec_jobKeyDelivery :
    exec (.jobKeyDelivery sender jobId record) s = .next (keyingArrives sender jobId .jobKeyDelivery record s) := rfl
theorem exec_keyingRefusal (cause : Nat) :
    exec (.keyingRefusal sender jobId cause) s = .next (keyingArrives sender jobId .refusal [BitVec.ofNat 8 cause] s) := rfl

/-- Settles O24, by the kinds of record, and by whether Glen is at work. -/
theorem keyingRecordsAct : Obligations.KeyingRecordsAct := by
  unfold Obligations.KeyingRecordsAct
  intro s sender jobId j record b ready index job
  refine ⟨?request, ?memberReport, ?fromLead, ?refusal, ?busy, ?retry⟩
  case request =>
    intro lead unclosed
    rw [exec_keyingReportRequest, keyingArrives_direct ready rfl, keyingRun_reportRequest index job lead unclosed]
  case memberReport =>
    intro idle root lead unclosed keyed
    rw [exec_memberReport, keyingArrives_idle ready idle root, keyingRun_memberReport index job lead unclosed keyed]
  case fromLead =>
    intro idle root member fromLead created unrefused keyless
    have takes : TakesKeying s sender j b := ⟨member, fromLead, created, unrefused, keyless⟩
    constructor
    · rw [exec_leadReport, keyingArrives_idle ready idle root, keyingRun_leadReport index job takes]
    · rw [exec_jobKeyDelivery, keyingArrives_idle ready idle root, keyingRun_jobKeyDelivery index job takes]
  case refusal =>
    intro cause member fromLead created unrefused keyless
    rw [exec_keyingRefusal, keyingArrives_direct ready rfl, keyingRun_refusal index job ⟨member, fromLead, created, unrefused, keyless⟩]
  case busy =>
    intro g busy wait
    refine ⟨?_, ?_, ?_⟩
    · rw [exec_memberReport, keyingArrives_busy ready rfl busy]
    · rw [exec_leadReport, keyingArrives_busy ready rfl busy]
    · rw [exec_jobKeyDelivery, keyingArrives_busy ready rfl busy]
  case retry =>
    intro member created unrefused keyless
    rw [exec_of_alive (c := .keyingRetryTimer j) rfl ready, keyingRetry_takes job ⟨member, rfl, created, unrefused, keyless⟩]

end Sys2Proof.Proofs

/-! SUPPORT. Releases: what the Narrows' judgement does with one whose pages are there, and what its end does, one equation per case of
R54, R55, R258 and R259; O26 is assembled from them. -/

namespace Sys2Proof.Proofs

open Sys2Proof Sys2Proof.Machine Sys2Proof.Laws

variable {s w : State} {r : Ref} {j n : Nat} {b : Job}

/-! ### The judgement -/

/-- The owners whose data a release carries. -/
def releaseMask (r : Ref) (w : State) : Nat := ownerMask w r.t.job (dT r.d 1)

/-- The tag of its tensor. -/
def releaseTag (r : Ref) : Nat := tTag (((tget r.b.tensors (dT r.d 1)).map (·.raw)).getD [])

/-- What the Narrows answers it (R54). -/
def releaseStatus (r : Ref) (w : State) : Nat :=
  narrowsStatus r.b (releaseTag r) (rd r.d 28 1) (rd r.d 29 1) (releasePayload w r (releaseMask r w)).length (releaseMask r w)

/-- The state in which an allowed release is counted in its step (R55). -/
def releaseCounted (r : Ref) (w : State) : State :=
  modNarrows r.t.job (fun n => { n with allowed := n.allowed + 1
                                        perStep := tset n.perStep (releaseTag r) (tgetD n.perStep (releaseTag r) 0 + 1) }) w

/-- An allowed release on its way: its data go out on its queue pair, and the descriptor waits for the end (R258). -/
def releaseSent (r : Ref) (w : State) (data : Bytes) (s : State) : State :=
  let q := rd r.d 30 2
  let n := r.b.narrows.nextRelease
  addFlight q (.release r.t.job n) (ceilDiv data.length 4096)
    (putOut q (.rdmaWrite (0x1000 + q) (rd r.d 32 8) (rd r.d 40 4) data (some (releaseTag r))) (setRunning r 0
      (modNarrows r.t.job (fun x => { x with
        nextRelease := n + 1
        releases := x.releases ++ [⟨n, r.t, q, (releasePayload w r (releaseMask r w)).length, releaseMask r w⟩] }) s)))

section

variable {u : State} (pages : ensurePages r u = (w, true))

include pages

theorem releaseStart_refused (refused : releaseStatus r w ≠ 0) : releaseStart r u =
    retire r.t (releaseEvent r (releaseStatus r w) (releaseMask r w) (releasePayload w r (releaseMask r w)).length
      (modNarrows r.t.job (fun n => { n with
        refused := tset n.refused (releaseStatus r w) (tgetD n.refused (releaseStatus r w) 0 + 1) }) w)) := by
  unfold releaseStatus releaseTag releaseMask at *
  simp only [releaseStart, pages, not_true, if_false, if_pos refused]

/-- A live queue pair of the data class and the partition sends what the Narrows allows: the payload to the host, and the owner's chunks
under the next sequence number to an owner. -/
theorem releaseStart_allowed {y : Qp} (allowed : releaseStatus r w = 0) (pair : tget w.eth.qps (rd r.d 30 2) = some y) (data : y.cls = 1)
    (live : y.error = false) (part : y.partition = partOf r.t.job) : releaseStart r u =
    if rd r.d 28 1 = 0 then releaseSent r w (releasePayload w r (releaseMask r w)) (releaseCounted r w)
    else releaseSent r w
      (ownerChunks ((tget r.b.keys.owners (rd r.d 29 1)).getD []) r.b.id (rd r.d 29 1) r.b.narrows.releaseSeq
        (releasePayload w r (releaseMask r w)))
      (modNarrows r.t.job (fun n => { n with releaseSeq := n.releaseSeq + 1 }) (releaseCounted r w)) := by
  unfold releaseStatus releaseTag releaseMask at allowed
  unfold releaseSent releaseCounted releaseTag releaseMask
  simp only [releaseStart, pages, not_true, if_false, allowed, ne_eq]
  by_cases host : rd r.d 28 1 = 0 <;>
    simp only [host, if_true, if_false, modNarrows_eth, pair, data, live, part, beq_self_eq_true, Bool.not_false, Bool.and_true, not_true]

end

/-! ### The end -/

/-- The state in which an operation has left its queue pair and its job's list. -/
def releaseTaken (j n : Nat) (s : State) : State :=
  dropFlight (.release j n) (modNarrows j (fun y => { y with releases := y.releases.filter fun z => z.number != n }) s)

theorem releaseDone_of_task {x : ReleaseSt} (ok : Bool) (job : tget s.jobs j = some b)
    (found : (b.narrows.releases.find? fun x => x.number == n) = some x) (task : refOf (releaseTaken j n s) x.task = some r) :
    releaseDone j n ok s =
      if ok then retire x.task (releaseEvent r 0x00 x.mask x.bytes (releaseTaken j n s))
      else programFault x.task 0x69 (releaseEvent r 0x69 x.mask x.bytes (releaseTaken j n s)) := by
  unfold releaseTaken at *
  cases ok <;> simp only [releaseDone, job, found, task, if_true, if_false, Bool.false_eq_true]

theorem exec_releaseComplete (ok : Bool) (ready : alive s = true) :
    exec (.releaseComplete j n ok) s = .next (settle (releaseDone j n ok s)) := exec_of_alive rfl ready

/-- Settles O26, by the Narrows' answer, by the recipient and by the transfer's end. -/
theorem narrowsJudgesReleases : Obligations.NarrowsJudgesReleases := by
  unfold Obligations.NarrowsJudgesReleases
  refine ⟨?start, ?done⟩
  case start =>
    intro s u w t r start pages j mask p own tag st n q counted sent
    obtain rfl := refOf_task start.now
    rw [exec_of_starts (c := .release r.t) rfl start]
    refine ⟨fun refused => ?_, fun y allowed pair data live part => ⟨fun host => ?_, fun owner => ?_⟩⟩
    · rw [releaseStart_refused pages refused]
      rfl
    · rw [releaseStart_allowed pages allowed pair data live part, if_pos host]
      rfl
    · rw [releaseStart_allowed pages allowed pair data live part, if_neg owner]
      rfl
  case done =>
    intro s j n b x ready job found u r task
    constructor
    · rw [exec_releaseComplete true ready, releaseDone_of_task true job found task, if_pos rfl]
      rfl
    · rw [exec_releaseComplete false ready, releaseDone_of_task false job found task, if_neg Bool.false_ne_true]
      rfl

end Sys2Proof.Proofs

/-! SUPPORT. Saddle gathers and collectives: how one whose group is live and whose input is there starts, what one without its group does,
and how what staging ways held back goes on, one equation per case; O38 is assembled from them. -/

namespace Sys2Proof.Proofs

open Sys2Proof Sys2Proof.Machine Sys2Proof.Laws

variable {s u w : State} {r : Ref} {grp : Group}

/-! ### Gathers (R91, R243, R404) -/

/-- A gather of a live group that may go out: this Proend's shard is placed, and the others are asked for theirs. -/
def gatherBegun (r : Ref) (grp : Group) (w : State) : State :=
  gatherDone r (placeShard r grp.rank 0 (tensorSlice (srcOf w r.t.job) (r.slotView 1) 0 (tensorBytes (r.slotView 1)))
    (beginGather r.t false grp (tLogical (((tget r.b.tensors (dT r.d 1)).map (·.raw)).getD [])) (tensorBytes (r.slotView 1))
      (setRunning r 0 w)))

theorem saddleGather_live (group : groupOf u r.d = some grp) (pages : ensurePages r u = (w, true)) (room : gathersInFlight u < 64)
    (whole : badRead r w = none) : saddleGather r u = gatherBegun r grp w := by
  simp only [saddleGather, group, pages, not_true, false_or, if_neg (Nat.not_le.2 room), whole, Option.isSome_none, Bool.false_eq_true,
    if_false, gatherViews, gatherBegun]

/-- A descriptor that names no group of its generation stops its program (R220). -/
theorem saddleGather_groupless (dead : groupOf u r.d = none) : saddleGather r u = programFault r.t 0x67 u := by
  simp only [saddleGather, dead]

theorem stagingResume_free {slice set : Nat} (free : stagedWays s slice set < 8) : stagingResume slice set s =
    (tgetD s.cache.holds (slice * 64 + set) []).foldl (fun s t => resumeGather t s)
      { s with cache := { s.cache with holds := terase s.cache.holds (slice * 64 + set) } } :=
  if_neg (Nat.not_le.2 free)

/-! ### Collectives (R389 to R394) -/

theorem collStart_groupless (dead : groupOf u r.d = none) : collStart r u = programFault r.t 0x67 u := by
  simp only [collStart, dead]

/-- A collective of a live group whose input is there gathers or reduces, by its opcode. -/
theorem collStart_live (group : groupOf u r.d = some grp) (pages : bringPages r.t.job (r.pages (opReads r.d)) u = (w, true))
    (whole : badRead r w = none) :
    collStart r u = if dOp r.d = 0x21 then startGathering r grp w else startReducing r grp w := by
  simp only [collStart, group, pages, whole, not_true, Option.isSome_none, Bool.false_eq_true, if_false]

theorem collStart_gathers (op : dOp r.d = 0x21) (group : groupOf u r.d = some grp)
    (pages : bringPages r.t.job (r.pages (opReads r.d)) u = (w, true)) (whole : badRead r w = none) :
    collStart r u = startGathering r grp w := by
  rw [collStart_live group pages whole, if_pos op]

theorem collStart_reduces (op : dOp r.d ≠ 0x21) (group : groupOf u r.d = some grp)
    (pages : bringPages r.t.job (r.pages (opReads r.d)) u = (w, true)) (whole : badRead r w = none) :
    collStart r u = startReducing r grp w := by
  rw [collStart_live group pages whole, if_neg op]

/-- A command that starts a collective has its effect, and then what the job's queues hold tries again. -/
theorem exec_of_collective {c : Instr} {t : TaskRef} {op : Nat}
    (row : exec c s = .next (settle (retryHeld t.job (withDesc t op collStart s)))) (h : Starts s t op r u) :
    exec c s = .next (settle (retryHeld t.job (collStart r u))) := by
  rw [row, withDesc_starts collStart h]

/-- Settles O38, by the cases of a gather and by those of the three collectives. -/
theorem gathersAndCollectivesStart : Obligations.GathersAndCollectivesStart := by
  unfold Obligations.GathersAndCollectivesStart
  intro s u t r grp
  refine ⟨fun w start group pages room whole => ?gather, fun start dead => ?gatherless, fun slice set ready free => ?resume,
    fun w group pages whole => ⟨fun start => ?allGather, fun start => ?reduceScatter, fun start => ?allReduce⟩,
    fun dead => ⟨fun start => ?_, fun start => ?_, fun start => ?_⟩⟩
  case gather =>
    obtain rfl := refOf_task start.now
    rw [exec_of_starts (c := .saddleGather r.t) rfl start, saddleGather_live group pages room whole]
    rfl
  case gatherless =>
    obtain rfl := refOf_task start.now
    rw [exec_of_starts (c := .saddleGather r.t) rfl start, saddleGather_groupless dead]
  case resume => rw [exec_of_alive (c := .saddleStagingResume slice set) rfl ready, stagingResume_free free]
  case allGather =>
    obtain rfl := refOf_task start.now
    rw [exec_of_collective (c := .allGather r.t) rfl start, collStart_gathers start.op group pages whole]
  case reduceScatter =>
    obtain rfl := refOf_task start.now
    rw [exec_of_collective (c := .reduceScatter r.t) rfl start, collStart_reduces (by simp [start.op]) group pages whole]
  case allReduce =>
    obtain rfl := refOf_task start.now
    rw [exec_of_collective (c := .allReduce r.t) rfl start, collStart_reduces (by simp [start.op]) group pages whole]
  all_goals
    obtain rfl := refOf_task start.now
    rw [exec_of_collective rfl start, collStart_groupless dead]

end Sys2Proof.Proofs

/-! SUPPORT. Requests of cores to the Plain cache: what the checks before the mesh answer, where a slice puts a request, and how the oldest
of a miss queue goes on, one equation per case of R71, R74, R80, R82, R87, R88, R92 and R93; O41 is assembled from them. -/

namespace Sys2Proof.Proofs

open Sys2Proof Sys2Proof.Machine Sys2Proof.Laws

variable {s e h m : State} {r : CoreReq} {b : Job} {slice : Nat}

/-! ### Into a slice (R88, R92, R93) -/

/-- The requests in a slice's miss queue. -/
def missQueue (s : State) (slice : Nat) : List CoreReq := tgetD s.cache.queue slice []

theorem sliceTakes_hit (hit : tryHit slice r s = (h, true)) : sliceTakes slice r s = (h, true) := by
  simp only [sliceTakes, hit, if_true]

section

variable (miss : tryHit slice r s = (h, false))

include miss

theorem sliceTakes_register (register : takeMiss slice (missQueue s slice).isEmpty r h = (m, true)) :
    sliceTakes slice r s = (m, true) := by
  unfold missQueue at register
  simp only [sliceTakes, miss, register, Bool.false_eq_true, if_false, if_true]

variable (unregistered : takeMiss slice (missQueue s slice).isEmpty r h = (m, false))

include unregistered

theorem sliceTakes_queue (room : (missQueue s slice).length < 32) : sliceTakes slice r s =
    ({ m with cache := { m.cache with queue := tset m.cache.queue slice (missQueue s slice ++ [r]) } }, true) := by
  unfold missQueue at unregistered room ⊢
  simp only [sliceTakes, miss, unregistered, Bool.false_eq_true, if_false, if_pos room]

theorem sliceTakes_nowhere (full : 32 ≤ (missQueue s slice).length) : sliceTakes slice r s = (m, false) := by
  unfold missQueue at unregistered full
  simp only [sliceTakes, miss, unregistered, Bool.false_eq_true, if_false, if_neg (Nat.not_lt.2 full)]

end

/-! ### Up to the slice -/

/-- A request outside the tile store (R74) or its job's carve-out (R87). -/
def requestOutside (b : Job) (r : CoreReq) : Bool := (r.kind == .read256 && decide (0x5FFF < r.tile + 255)) || !(reqAllowed b r)

theorem requestOutside_iff :
    requestOutside b r = true ↔ (r.kind = .read256 ∧ 0x5FFF < r.tile + 255) ∨ ¬ reqAllowed b r = true := by
  simp [requestOutside]

/-- The home slice of a request. -/
def homeOf (s : State) (r : CoreReq) : Nat := sliceOf s r.job (reqLine r * 256)

/-- The state in which a request is on its way to its home slice. -/
def requestLeft (r : CoreReq) (s : State) : State := threadWaits r (cacheDir (homeOf s r) r s)

/-- A request at the input of its home slice's router, behind those that wait there (R80, R93). -/
def reachSlice (r : CoreReq) (s : State) : State :=
  let n := inputOf (homeOf s r) r.core
  let w := requestLeft r s
  if (inputAt w n).isEmpty then
    let h := sliceTakes (homeOf s r) r w
    if h.2 then h.1 else setInput n [r] h.1
  else setInput n (inputAt w n ++ [r]) w

section

variable (job : tget s.jobs r.job = some b)

include job

theorem cacheAccess_reserved {k : Nat} (kind : r.kind = .reserved k) : cacheAccess r s = reservedPacket r s := by
  simp only [cacheAccess, job, kind]

/-- A request that is no reserved packet takes the last arm of the access: its place is judged first, then its core's miss registers. -/
theorem cacheAccess_request (kind : ∀ k, r.kind ≠ .reserved k) : cacheAccess r s =
    if requestOutside b r then refuse r s
    else if registersBusy s r then modCore r.core (waitRegister r) s
    else reachSlice r s := by
  have checked : cacheAccess r s =
      if r.kind = .read256 ∧ 0x5FFF < r.tile + 255 then refuse r s
      else if ¬ reqAllowed b r then refuse r s
      else if registersBusy s r then modCore r.core (waitRegister r) s
      else reachSlice r s := by
    simp only [cacheAccess, job]
    rfl
  rw [checked]
  by_cases past : r.kind = .read256 ∧ 0x5FFF < r.tile + 255
  · rw [if_pos past, if_pos (requestOutside_iff.2 (.inl past))]
  · by_cases allowed : reqAllowed b r = true
    · rw [if_neg past, if_neg (not_not_intro allowed), if_neg (mt requestOutside_iff.1 (not_or.2 ⟨past, not_not_intro allowed⟩))]
    · rw [if_neg past, if_pos allowed, if_pos (requestOutside_iff.2 (.inr allowed))]

variable (kind : ∀ k, r.kind ≠ .reserved k)

include kind

theorem cacheAccess_outside (outside : requestOutside b r = true) : cacheAccess r s = refuse r s := by
  rw [cacheAccess_request job kind, if_pos outside]

variable (inside : requestOutside b r = false)

include inside

theorem cacheAccess_busy (busy : registersBusy s r = true) : cacheAccess r s = modCore r.core (waitRegister r) s := by
  rw [cacheAccess_request job kind, if_neg (Bool.not_eq_true _ ▸ inside), if_pos busy]

theorem cacheAccess_leaves (free : registersBusy s r = false) : cacheAccess r s = reachSlice r s := by
  rw [cacheAccess_request job kind, if_neg (Bool.not_eq_true _ ▸ inside), if_neg (Bool.not_eq_true _ ▸ free)]

end

theorem reservedPacket_task {t : TaskRef} (task : r.task = some t) : reservedPacket r s = taskFault t 0x62 s := by
  simp only [reservedPacket, task]

theorem refuse_task {t : TaskRef} (task : r.task = some t) : refuse r s = programFault t 0x60 (answerCore r 3 none s) := by
  simp only [refuse, task]

theorem reachSlice_behind (others : inputAt (requestLeft r s) (inputOf (homeOf s r) r.core) ≠ []) : reachSlice r s =
    setInput (inputOf (homeOf s r) r.core) (inputAt (requestLeft r s) (inputOf (homeOf s r) r.core) ++ [r]) (requestLeft r s) :=
  if_neg (by simpa using others)

section

variable (alone : inputAt (requestLeft r s) (inputOf (homeOf s r) r.core) = [])

include alone

theorem reachSlice_taken (taken : sliceTakes (homeOf s r) r (requestLeft r s) = (h, true)) : reachSlice r s = h := by
  simp only [reachSlice, alone, List.isEmpty_nil, taken, if_true]

theorem reachSlice_waits (waits : sliceTakes (homeOf s r) r (requestLeft r s) = (h, false)) :
    reachSlice r s = setInput (inputOf (homeOf s r) r.core) [r] h := by
  simp only [reachSlice, alone, List.isEmpty_nil, waits, Bool.false_eq_true, if_true, if_false]

end

/-- A request of whose words none is lost acts in the state that their reports leave (R592, R594). -/
theorem exec_plainCacheAccess {ecc : List EccReport} (ready : alive s = true)
    (words : meetWords { task := r.task, job := some r.job } ecc (dropDamaged r ecc s) = (e, true)) :
    exec (.plainCacheAccess r ecc) s = .next (settle (cacheAccess r e)) := by
  rw [exec_of_alive (c := .plainCacheAccess r ecc) rfl ready]
  simp only [words, if_true]

/-! ### Out of the miss queue (R93) -/

/-- The oldest request has left a miss queue, and what the mesh holds goes on behind it. -/
def queuePopped (slice : Nat) (rest : List CoreReq) (s : State) : State :=
  drainInputs slice { s with cache := { s.cache with queue := tsetD s.cache.queue slice rest [] } }

section

variable {rest : List CoreReq} (queue : tgetD s.cache.queue slice [] = r :: rest)

include queue

theorem dequeueMiss_hit (hit : tryHit slice r s = (h, true)) : dequeueMiss slice s = queuePopped slice rest h := by
  simp only [dequeueMiss, queue, hit, if_true, queuePopped]

variable (miss : tryHit slice r s = (h, false))

include miss

theorem dequeueMiss_register (register : takeMiss slice true r h = (m, true)) : dequeueMiss slice s = queuePopped slice rest m := by
  simp only [dequeueMiss, queue, miss, register, Bool.false_eq_true, if_false, if_true, queuePopped]

theorem dequeueMiss_stays (unregistered : takeMiss slice true r h = (m, false)) : dequeueMiss slice s = s := by
  simp only [dequeueMiss, queue, miss, unregistered, Bool.false_eq_true, if_false]

end

theorem exec_missQueueDequeue (ready : alive s = true) :
    exec (.missQueueDequeue slice) s = .next (settle (dequeueMiss slice s)) := exec_of_alive rfl ready

/-- Settles O41, by the checks before the mesh, the place that the home slice gives a request, and the oldest of a miss queue. -/
theorem cacheTakesRequests : Obligations.CacheTakesRequests := by
  unfold Obligations.CacheTakesRequests
  refine ⟨?access, ?dequeue⟩
  case access =>
    intro s e r ecc b ready words job
    rw [exec_plainCacheAccess ready words]
    refine ⟨fun t k kind task => ?_, fun kind => ?_⟩
    · rw [cacheAccess_reserved job kind, reservedPacket_task task]
    intro outside slice w n q
    refine ⟨fun t out task => ?outside, fun inside busy => ?busy, fun inside free others => ?behind, fun inside free alone =>
      ⟨fun h hit => ?hit, fun h m miss register => ?register, fun h m miss unregistered => ⟨fun room => ?queue, fun full => ?waits⟩⟩⟩
    case outside => rw [cacheAccess_outside job kind out, refuse_task task]
    case busy => rw [cacheAccess_busy job kind inside busy]
    case behind =>
      rw [cacheAccess_leaves job kind inside free, reachSlice_behind others]
      rfl
    case hit => rw [cacheAccess_leaves job kind inside free, reachSlice_taken alone (sliceTakes_hit hit)]
    case register => rw [cacheAccess_leaves job kind inside free, reachSlice_taken alone (sliceTakes_register miss register)]
    case queue =>
      rw [cacheAccess_leaves job kind inside free, reachSlice_taken alone (sliceTakes_queue miss unregistered room)]
      rfl
    case waits =>
      rw [cacheAccess_leaves job kind inside free, reachSlice_waits alone (sliceTakes_nowhere miss unregistered full)]
      rfl
  case dequeue =>
    intro s slice r rest ready queue pop
    rw [exec_missQueueDequeue ready]
    refine ⟨fun h hit => ?_, fun h m miss register => ?_, fun h m miss unregistered => ?_⟩
    · rw [dequeueMiss_hit queue hit]
      rfl
    · rw [dequeueMiss_register queue miss register]
      rfl
    · rw [dequeueMiss_stays queue miss unregistered]

end Sys2Proof.Proofs

/-! SUPPORT. Lines from and to Vale: what the response to a slice's read does with its register, and what a controller does with an
agent's request, one equation per case of R312, R316 and R323 to R325; O42 is assembled from them. -/

namespace Sys2Proof.Proofs

open Sys2Proof Sys2Proof.Machine Sys2Proof.Laws

variable {s : State} {slice line p v l : Nat} {m : MissReg} {first second : Fetch} {ecc : List EccReport} {r : ValeReq}

/-! ### The response to a slice's read (R88) -/

/-- A response that its slice can take: the register whose read holds a tag, with no write to the line held before it (R312), and the
line's place once the tag is free. -/
structure FillArrives (s : State) (slice line p v : Nat) (m : MissReg) : Prop where
  register : ((missRegs s slice).find? fun m => m.line == line && m.pchan.isSome) = some m
  channel : m.pchan = some p
  accepted : (slice, line) ∉ (pchanAt s p).waiting
  unheld : heldBefore s m.job line = false
  place : translate (freeTagOf p s) m.job (line * 256) = some v

/-- The task that a register's oldest request works for. -/
def missTask (m : MissReg) : Option TaskRef := (m.reqs.head?).bind (·.task)

/-- A register is free, and its requests have the status of a line that did not come. -/
def answerMiss (slice line status : Nat) (m : MissReg) (s : State) : State :=
  m.reqs.foldl (fun t r => answerCore r status none t) (modMiss slice m.job line (fun _ => none) s)

/-- A register is free, and its requests are performed on the line that has come. -/
def performMiss (slice line v : Nat) (m : MissReg) (s : State) : State :=
  m.reqs.foldl (fun t r => performReq r t) (mergeFill slice m.job line v (modMiss slice m.job line (fun _ => none) s))

/-- The response frees the tag; the anchor, the line's read and its words then decide. -/
theorem lineFill_arrives (h : FillArrives s slice line p v m) : lineFill slice line first second ecc s =
    if ¬ anchorOk (freeTagOf p s) m.job (v / 256) then answerMiss slice line 3 m (freeTagOf p s)
    else
      let f := readLine (v / 256) first second (freeTagOf p s)
      if f.2 then
        let e := meetWords { task := missTask m, job := some m.job } ecc f.1
        if e.2 then performMiss slice line v m e.1 else answerMiss slice line 2 m e.1
      else answerMiss slice line 1 m (lineFails (v / 256) 0 (missTask m) f.1) := by
  have taken : ¬ ((pchanAt s p).waiting.contains (slice, line) = true ∨ heldBefore s m.job line = true) := by simp [h.accepted, h.unheld]
  simp only [lineFill, h.register, h.channel, Option.getD_some, if_neg taken, h.place]
  cases (readLine (v / 256) first second (freeTagOf p s)).2 with
  | false => simp only [Bool.false_eq_true, if_false, answerMiss, missTask]
  | true =>
    simp only [if_true, answerMiss, performMiss, missTask]
    rfl

section

variable (h : FillArrives s slice line p v m)

include h

/-- Another job owns the region (R316). -/
theorem lineFill_foreign (foreign : anchorOk (freeTagOf p s) m.job (v / 256) = false) :
    lineFill slice line first second ecc s = answerMiss slice line 3 m (freeTagOf p s) := by
  rw [lineFill_arrives h, if_pos (Bool.not_eq_true _ ▸ foreign)]

variable (owned : anchorOk (freeTagOf p s) m.job (v / 256) = true) {f : State}

include owned

/-- Both reads of the line failed (R323). -/
theorem lineFill_failed (read : readLine (v / 256) first second (freeTagOf p s) = (f, false)) :
    lineFill slice line first second ecc s = answerMiss slice line 1 m (lineFails (v / 256) 0 (missTask m) f) := by
  simp only [lineFill_arrives h, owned, read, not_true, Bool.false_eq_true, if_false]

variable (read : readLine (v / 256) first second (freeTagOf p s) = (f, true)) {e : State}

include read

/-- A word of the line was uncorrectable. -/
theorem lineFill_uncorrectable (words : meetWords { task := missTask m, job := some m.job } ecc f = (e, false)) :
    lineFill slice line first second ecc s = answerMiss slice line 2 m e := by
  simp only [lineFill_arrives h, owned, read, words, not_true, Bool.false_eq_true, if_false, if_true]

theorem lineFill_whole (words : meetWords { task := missTask m, job := some m.job } ecc f = (e, true)) :
    lineFill slice line first second ecc s = performMiss slice line v m e := by
  simp only [lineFill_arrives h, owned, read, words, not_true, if_false, if_true]

end

theorem exec_lineFill (ready : alive s = true) :
    exec (.lineFill slice line first second ecc) s = .next (settle (lineFill slice line first second ecc s)) := exec_of_alive rfl ready

/-! ### Tags (R339) -/

theorem tagAccept_free (free : (pchanAt s p).held < 256) (waits : (pchanAt s p).waiting ≠ []) :
    tagAccept p s = modPchan p (fun x => { held := x.held + 1, waiting := x.waiting.drop 1 }) s :=
  if_pos ⟨free, by simpa using waits⟩

/-! ### An agent's request -/

/-- A request under another key id than that of the region's owner is refused (R316). -/
theorem agentReq_foreign (x : Blocked) (foreign : ownedReq s r = false) : agentReq r x s = answerVale (some r) 3 [] s :=
  if_pos (Bool.not_eq_true _ ▸ foreign)

theorem agentReq_waits (x : Blocked) (owned : ownedReq s r = true) (waits : mustWait (r.address / 256) s = true) :
    agentReq r x s = holdRequest x s := by
  rw [agentReq, if_neg (not_not_intro owned), if_pos waits]

theorem agentReq_served (x : Blocked) (owned : ownedReq s r = true) (free : mustWait (r.address / 256) s = false) :
    agentReq r x s = performHeld x s := by
  rw [agentReq, if_neg (not_not_intro owned), if_neg (Bool.not_eq_true _ ▸ free)]

/-! ### Serving it (R323 to R325) -/

theorem performRead_whole {f : State} (read : readLine (r.address / 256) first second s = (f, true)) :
    performRead r first second s = answerVale (some r) 0 (readData r f) f := by
  simp only [performRead, read, if_true]

theorem performRead_failed {f : State} (read : readLine (r.address / 256) first second s = (f, false)) :
    performRead r first second s = lineFails (r.address / 256) (accessOf r.agent) r.task (answerVale (some r) 1 [] f) := by
  simp only [performRead, read, Bool.false_eq_true, if_false]

section

variable {x : Blocked} (req : x.req = some r)

include req

theorem performHeld_read (isRead : x.isRead = true) : performHeld x s = performRead r x.fetches.1 x.fetches.2 s := by
  simp only [performHeld, req, isRead, if_true]

variable (writes : x.isRead = false)

include writes

/-- A full-line write verifies nothing. -/
theorem performHeld_full (full : x.mask = fullMask) : performHeld x s = performWrite x s := by
  simp only [performHeld, req, writes, Bool.false_eq_true, if_false, full, if_true]

/-- A partial write reads its line first. -/
theorem performHeld_partial (part : x.mask ≠ fullMask) : performHeld x s = performPartial x r s := by
  simp only [performHeld, req, writes, Bool.false_eq_true, if_false, part]

end

theorem performPartial_whole {x : Blocked} {f : State} (read : readLine (r.address / 256) x.fetches.1 x.fetches.2 s = (f, true)) :
    performPartial x r s = performWrite x f := by
  simp only [performPartial, read, if_true]

theorem performPartial_failed {x : Blocked} {f : State} (read : readLine (r.address / 256) x.fetches.1 x.fetches.2 s = (f, false)) :
    performPartial x r s = lineFails (r.address / 256) 1 none (answerVale (some r) 1 [] f) := by
  simp only [performPartial, read, Bool.false_eq_true, if_false]

/-! ### The commands -/

/-- A read as its controller may hold it. -/
def heldRead (r : ValeReq) (first second : Fetch) : Blocked :=
  { writeOf (r.address / 256) 0 [] with isRead := true, req := some r, fetches := (first, second) }

/-- A full-line write as its controller may hold it. -/
def heldFull (r : ValeReq) (data : Bytes) : Blocked := { writeOf (r.address / 256) fullMask (sub data 0 256) with req := some r }

/-- A partial write as its controller may hold it. -/
def heldPartial (r : ValeReq) (mask : BitVec 256) (data : Bytes) (first second : Fetch) : Blocked :=
  { writeOf (r.address / 256) mask.toNat (sub data 0 256) with req := some r, fetches := (first, second) }

section

variable (ready : alive s = true)

include ready

theorem exec_valeRead : exec (.valeRead r first second) s = .next (settle (agentReq r (heldRead r first second) s)) :=
  exec_of_alive rfl ready

theorem exec_valeFullLineWrite (data : Bytes) :
    exec (.valeFullLineWrite r data) s = .next (settle (agentReq r (heldFull r data) s)) := exec_of_alive rfl ready

theorem exec_valePartialWrite (mask : BitVec 256) (data : Bytes) : exec (.valePartialWrite r mask data first second) s =
    .next (settle (agentReq r (heldPartial r mask data first second) s)) := exec_of_alive rfl ready

end

/-- Settles O42, by the cases of a response, the freed tag, and whether an agent's request is refused, waits or is served. -/
theorem linesMoveFromVale : Obligations.LinesMoveFromVale := by
  unfold Obligations.LinesMoveFromVale
  refine ⟨?fill, ?tag, ?agents⟩
  case fill =>
    intro s slice line p v first second ecc m ready register channel accepted unheld u answered place
    have arrives : FillArrives s slice line p v m := ⟨register, channel, accepted, unheld, place⟩
    rw [exec_lineFill ready]
    refine ⟨fun owned => ⟨fun f e read words => ?_, fun f e read words => ?_, fun f read => ?_⟩, fun foreign => ?_⟩
    · rw [lineFill_whole arrives owned read words]
      rfl
    · rw [lineFill_uncorrectable arrives owned read words]
      rfl
    · rw [lineFill_failed arrives owned read]
      rfl
    · rw [lineFill_foreign arrives foreign]
      rfl
  case tag =>
    intro s p ready free waits
    rw [exec_of_alive (c := .valeRequestAccept p) rfl ready, tagAccept_free free waits]
  case agents =>
    intro s r first second data mask ready l read full part
    rw [exec_valeRead ready, exec_valeFullLineWrite ready, exec_valePartialWrite ready]
    refine ⟨fun foreign => ?refused, fun owned waits => ?held, fun owned free => ?served⟩
    case refused => simp only [agentReq_foreign _ foreign, and_self]
    case held =>
      simp only [agentReq_waits _ owned waits]
      exact ⟨rfl, rfl, rfl⟩
    case served =>
      simp only [agentReq_served _ owned free]
      refine ⟨fun f whole => ?_, fun f failed => ?_, ?_, fun all => ?_, fun f partly whole => ?_, fun f partly failed => ?_⟩
      · rw [performHeld_read rfl rfl, heldRead, performRead_whole whole]
      · rw [performHeld_read rfl rfl, heldRead, performRead_failed failed]
      · rw [performHeld_full rfl rfl rfl]
        rfl
      · rw [performHeld_full rfl rfl all]
        rfl
      · rw [performHeld_partial rfl rfl partly, performPartial_whole whole]
        rfl
      · rw [performHeld_partial rfl rfl partly, performPartial_failed failed]

end Sys2Proof.Proofs

/-! SUPPORT. Tamper and the loss of VBAT, ceilings that only fall, the audit and the microcode stores: what the state of a core, of the
key store and of the reloads is after them; O55 is assembled from them. -/

namespace Sys2Proof.Proofs

open Sys2Proof Sys2Proof.Machine Sys2Proof.Laws

variable {s : State} {c n : Nat}

/-! ### The management processor at work -/

theorem managed_of_power (main : s.power.mainPower = true) (released : s.power.resetHeld = false) (begun : 1 ≤ s.start.step) :
    managed s = true := by
  simp [managed, main, released, begun]

/-- A command of the management processor has its effect while the processor is at work. -/
theorem exec_of_managed {i : Instr} {x : State} (row : exec i s = .next (if managed s then x else s)) (h : managed s = true) :
    exec i s = .next x := by
  rw [row, if_pos h]

/-! ### Tamper and VBAT (R485, R486, R617) -/

theorem exec_tamperTrip (source : TamperSource) (main : s.power.mainPower = true) :
    exec (.tamperTrip source) s = .next (railsOff (zeroise (2 ^ tamperBit source) s)) :=
  congrArg Host.Outcome.next (if_pos main)

/-- On VBAT alone a sample in which the lid or the temperature is out of its range zeroises. -/
theorem exec_tamperSample {lid temperature : Bool} (main : s.power.mainPower = false) (vbat : s.power.vbat = true)
    (out : lid = true ∨ temperature = true) :
    exec (.tamperSample lid temperature) s = .next (zeroise (lid.toNat + 8 * temperature.toNat) s) := by
  have sampled : (!s.power.mainPower && s.power.vbat && (lid || temperature)) = true := by simp [main, vbat, out]
  exact congrArg Host.Outcome.next (if_pos sampled)

/-! ### A core that is changed -/

theorem tget_tsetD_other {α : Type} [DecidableEq α] (t : Tab α) (k i : Nat) (v d : α) (other : i ≠ k) :
    tget (tsetD t k v d) i = tget t i := by
  unfold tsetD
  split
  · exact tget_terase_other t k i other
  · exact tget_tset_other t k i v other

theorem tget_tsetD_same {α : Type} [DecidableEq α] (t : Tab α) (k : Nat) {v d : α} (listed : v ≠ d) :
    tget (tsetD t k v d) k = some v := by
  rw [tsetD, if_neg listed, tget_tset_same]

theorem coreAt_modCore_other (f : CoreSt → CoreSt) (other : c ≠ n) : coreAt (modCore n f s) c = coreAt s c :=
  congrArg (fun v : Option CoreSt => v.getD {}) (tget_tsetD_other _ _ _ _ _ other)

/-- A core that does not become an unlisted one is what the change makes of it. -/
theorem coreAt_modCore_same {f : CoreSt → CoreSt} (listed : f (coreAt s c) ≠ {}) : coreAt (modCore c f s) c = f (coreAt s c) :=
  congrArg (fun v : Option CoreSt => v.getD {}) (tget_tsetD_same _ _ listed)

theorem coreAt_of_cores {t : State} (same : t.cores = s.cores) : coreAt t c = coreAt s c := by
  simp only [coreAt, same]

/-! ### Derates (R94 to R96) -/

/-- A core takes a derate. -/
def setDerate (x : Nat × Nat) (s : State) : State := modCore x.1 (fun c => { c with derate := x.2 }) s

/-- A core's derate stays at or above a bound that it meets and that the derate given to it meets. -/
theorem le_derate_setDerate {x : Nat × Nat} (held : n ≤ (coreAt s c).derate) (given : x.1 = c → n ≤ x.2) :
    n ≤ (coreAt (setDerate x s) c).derate := by
  obtain ⟨core, derate⟩ := x
  by_cases same : core = c
  · subst same
    have bound : n ≤ derate := given rfl
    by_cases fresh : derate = 0
    · omega
    · have listed : { coreAt s core with derate } ≠ ({} : CoreSt) := fun e => fresh (congrArg CoreSt.derate e)
      rw [setDerate, coreAt_modCore_same listed]
      exact bound
  · rw [setDerate, coreAt_modCore_other _ (Ne.symm same)]
    exact held

theorem le_derate_foldl_setDerate (l : List (Nat × Nat)) (held : n ≤ (coreAt s c).derate) (given : ∀ x ∈ l, x.1 = c → n ≤ x.2) :
    n ≤ (coreAt (l.foldl (fun t x => setDerate x t) s) c).derate := by
  induction l generalizing s with
  | nil => exact held
  | cons x xs ih =>
    exact ih (le_derate_setDerate held (given x List.mem_cons_self)) fun y hy => given y (List.mem_cons_of_mem x hy)

/-- The records of a derate leave the cores alone. -/
theorem ceilingRecords_cores (blocks : List Nat) (s : State) :
    (blocks.foldl (fun t b => ledgerSelf 0x0B 1 0xFF false 0 (ceilingDetail t b) t) s).cores = s.cores := by
  induction blocks generalizing s with
  | nil => rfl
  | cons b bs ih => exact ih _

/-- The derate that a monitor's reading gives its core: at least the core's own, and no more than its fused step otherwise. -/
def derateGiven (s : State) (x : Nat × Nat) : Nat := max (coreAt s x.1).derate (min x.2 (Config.fusedStep x.1).val)

/-- The cores whose derates the monitors' readings raise, each with its new one. -/
def derateMoves (l : List (Nat × Nat)) (s : State) : List (Nat × Nat) :=
  ((l.filter fun x => decide (x.1 < 80000)).filter fun x => decide ((coreAt s x.1).derate < derateGiven s x)).map
    fun x => (x.1, derateGiven s x)

theorem derateMoves_rise {l : List (Nat × Nat)} {x : Nat × Nat} (moves : x ∈ derateMoves l s) : (coreAt s x.1).derate < x.2 := by
  obtain ⟨y, rises, rfl⟩ := List.mem_map.1 moves
  exact of_decide_eq_true (List.mem_filter.1 rises).2

/-- The monitors' readings change no more of the cores than those derates. -/
theorem takeDerates_cores (l : List (Nat × Nat)) (s : State) :
    (takeDerates l s).cores = ((derateMoves l s).foldl (fun t x => setDerate x t) s).cores := by
  simp only [takeDerates]
  split
  · exact ceilingRecords_cores _ _
  · exact ceilingRecords_cores _ _

/-- No core's derate falls (R94). -/
theorem derate_le_takeDerates (l : List (Nat × Nat)) (s : State) (c : Nat) :
    (coreAt s c).derate ≤ (coreAt (takeDerates l s) c).derate := by
  rw [coreAt_of_cores (takeDerates_cores l s)]
  refine le_derate_foldl_setDerate _ (Nat.le_refl _) ?_
  rintro x moves rfl
  exact Nat.le_of_lt (derateMoves_rise moves)

/-! ### Microcode stores (R594) -/

theorem mem_microcodeReload {q k : Nat} : k ∈ (microcodeReload q s).errors.reloads ↔ k ∈ s.errors.reloads ∧ k ≠ q := by
  simp [microcodeReload]

/-- Settles O55, by the causes that zeroise, the ceilings, the audit and the reload. -/
theorem tamperAgeingAndAuditAct : Obligations.TamperAgeingAndAuditAct := by
  unfold Obligations.TamperAgeingAndAuditAct
  intro s
  refine ⟨?trip, ?sample, ?vbat, ?managed, ?reload⟩
  case trip => exact fun source main => ⟨_, exec_tamperTrip source main, rfl, rfl, rfl, rfl, rfl⟩
  case sample => exact fun lid temperature main vbat out => exec_tamperSample main vbat out
  case vbat => exact fun main => congrArg Host.Outcome.next (if_neg (by simp [main]))
  case managed =>
    intro main released begun
    have ready := managed_of_power main released begun
    exact ⟨fun l => ⟨exec_of_managed rfl ready, derate_le_takeDerates l s⟩, exec_of_managed rfl ready⟩
  case reload => exact fun q => ⟨microcodeReload q s, rfl, rfl, fun k => mem_microcodeReload⟩

end Sys2Proof.Proofs

/-! SUPPORT. Control descriptors: what SPAN_END does with its span, and what a signal and a bubble do inside a span and outside one; O17
is assembled from them. -/

namespace Sys2Proof.Proofs

open Sys2Proof Sys2Proof.Machine Sys2Proof.Laws

variable {s u : State} {t : TaskRef} {r : Ref}

/-- SPAN_END retires once the span it stands in has committed (R205). -/
theorem exec_spanEnd {k : Nat} {x : SpanSt} (start : Starts s t 2 r u) (inside : spanPos r.u t.desc = some k)
    (span : spanAt r.u k = some x) :
    exec (.spanEnd t) s = .next (settle (if x.committed then retire t u else u)) := by
  rw [exec_of_starts (c := .spanEnd t) rfl start]
  simp only [inside, Option.bind_some, span]

/-- A signal inside a span is left to the span's commit (R207). -/
theorem fenceSignalDesc_eq (t : TaskRef) (r : Ref) (u : State) :
    fenceSignalDesc t r u = retire t (if (spanPos r.u t.desc).isSome then u else signalDesc t.job r.d u) := by
  unfold fenceSignalDesc
  cases spanPos r.u t.desc with
  | none => rfl
  | some k => rfl

/-- A bubble inside a span is left to the span's commit (R276). -/
theorem bubbleOpen_eq (t : TaskRef) (r : Ref) (u : State) :
    bubbleOpen t r u = retire t (if (spanPos r.u t.desc).isSome then u else openBubble t r.d u) := by
  unfold bubbleOpen
  cases spanPos r.u t.desc with
  | none => rfl
  | some k => rfl

/-- Settles O17, descriptor by descriptor. -/
theorem controlDescriptorsRun : Obligations.ControlDescriptorsRun := by
  unfold Obligations.ControlDescriptorsRun
  intro s u t r
  refine ⟨?nop, ?spanBegin, ?spanEnd, ?fenceWait, ?fenceSignal, ?phaseHint, ?bubbleOpen⟩
  case nop => exact fun start => exec_of_starts (c := .nop t) rfl start
  case spanBegin => exact fun start => exec_of_starts (c := .spanBegin t) rfl start
  case spanEnd => exact fun k x start inside span => exec_spanEnd start inside span
  case fenceWait => exact fun start => exec_of_starts (c := .fenceWaitDescriptor t) rfl start
  case fenceSignal =>
    intro start
    rw [exec_of_starts (c := .fenceSignalDescriptor t) rfl start, fenceSignalDesc_eq]
  case phaseHint => exact fun start => exec_of_starts (c := .phaseHint t) rfl start
  case bubbleOpen =>
    intro start
    rw [exec_of_starts (c := .bubbleOpen t) rfl start, bubbleOpen_eq]

end Sys2Proof.Proofs

/-! SUPPORT. A span's commit, its discard and its rerun, one equation per case; O19 is assembled from them. -/

namespace Sys2Proof.Proofs

open Sys2Proof Sys2Proof.Machine Sys2Proof.Laws

variable {s : State} {j k id pos : Nat} {b : Job} {u : Sub} {x : SpanSt}

/-- A span of a submission of a job, and where it stands. -/
structure SpanFound (s : State) (j k pos : Nat) (b : Job) (u : Sub) (x : SpanSt) : Prop where
  job : tget s.jobs j = some b
  sub : tget b.subs k = some u
  span : spanAt u pos = some x

theorem SpanFound.getSub_eq (h : SpanFound s j k pos b u x) : getSub s j k = some u := by
  simp only [getSub, h.job, Option.bind_some, h.sub]

/-- A span that its id finds is run on, while the Proend is at work. -/
theorem withSpan_found (f : Nat → State → State) (ready : alive s = true) (h : SpanFound s j k pos b u x)
    (named : posOfSpan u id = some pos) : withSpan j k id f s = f pos s := by
  simp only [withSpan, ready, not_true, if_false, h.getSub_eq, Option.bind_some, named]

/-! ### Commit (R156, R170) -/

theorem commitSpan_logged {n : NumState} (h : SpanFound s j k pos b u x) (may : maySpanCommit u pos x = true)
    (log : commitLog b u x = some n) : commitSpan j k pos s = commitEffect j k pos b u x n s := by
  simp only [commitSpan, h.job, h.getSub_eq, h.span, may, not_true, if_false, log]

theorem commitSpan_log_full (h : SpanFound s j k pos b u x) (may : maySpanCommit u pos x = true)
    (full : commitLog b u x = none) : commitSpan j k pos s = jobFault j 0x66 x.last { prog := u.prog } s := by
  simp only [commitSpan, h.job, h.getSub_eq, h.span, may, not_true, if_false, full]

theorem commitSpan_not_ready (h : SpanFound s j k pos b u x) (mayNot : maySpanCommit u pos x = false) :
    commitSpan j k pos s = s := by
  simp only [commitSpan, h.job, h.getSub_eq, h.span, mayNot, Bool.false_eq_true, not_false_eq_true, if_true]

/-! ### Discard (R171) -/

theorem discardSpan_idle (h : SpanFound s j k pos b u x) (failed : x.failures ≠ []) (uncommitted : x.committed = false)
    (kept : x.discarded = false) (idle : spanIdle s j k u pos = true) :
    discardSpan j k pos s = enterPromotion j k pos (modSub j k (discardFrom pos) s) := by
  have may : ¬ x.failures.isEmpty ∧ ¬ x.committed ∧ ¬ x.discarded ∧ spanIdle s j k u pos := by
    simp [failed, uncommitted, kept, idle]
  simp only [discardSpan, h.getSub_eq, h.span, if_pos may]

/-! ### Rerun (R174, R177) -/

/-- The promotion area takes a rerun where no other uses it, or where there is room beside the others (R177). -/
theorem rerunSpan_room (h : SpanFound s j k pos b u x) (discarded : x.discarded = true) (failed : x.failures ≠ [])
    (noCapture : b.capture.phase ≠ .entered) (going : u.stop = none)
    (room : promotionUsed b k pos = 0 ∨
      promotionUsed b k pos + promotedBytes b u x (x.rung + 1) ≤ b.cfg.promotionGib * 2 ^ 30) :
    rerunSpan j k pos s = ladder j k pos s := by
  have may : ¬ (¬ x.discarded ∨ x.failures.isEmpty ∨ b.capture.phase = .entered ∨ u.stop.isSome) := by
    simp [discarded, failed, noCapture, going]
  have fits : ¬ (0 < promotionUsed b k pos ∧
      b.cfg.promotionGib * 2 ^ 30 < promotionUsed b k pos + promotedBytes b u x (x.rung + 1)) := by omega
  simp only [rerunSpan, h.job, h.getSub_eq, h.span, if_neg may, if_neg fits]

/-! ### The commands -/

section

variable (ready : alive s = true) (h : SpanFound s j k pos b u x) (named : posOfSpan u id = some pos)

include ready h named

/-- After the commit, what waited for it is tried again (R19). -/
theorem exec_spanCommit : exec (.spanCommit j k id) s = .next (settle (retryHeld j (commitSpan j k pos s))) := by
  rw [← withSpan_found (commitSpan j k) ready h named]
  rfl

theorem exec_spanDiscard : exec (.spanDiscard j k id) s = .next (settle (discardSpan j k pos s)) := by
  rw [← withSpan_found (discardSpan j k) ready h named]
  rfl

theorem exec_spanRerun : exec (.spanRerun j k id) s = .next (settle (rerunSpan j k pos s)) := by
  rw [← withSpan_found (rerunSpan j k) ready h named]
  rfl

end

/-- Settles O19, by the cases of a commit, a discard and a rerun. -/
theorem spansCommitOrRerun : Obligations.SpansCommitOrRerun := by
  unfold Obligations.SpansCommitOrRerun
  intro s j k id pos b u x ready job sub named span
  have h : SpanFound s j k pos b u x := ⟨job, sub, span⟩
  rw [exec_spanCommit ready h named, exec_spanDiscard ready h named, exec_spanRerun ready h named]
  refine ⟨?logged, ?logFull, ?notReady, ?discard, ?rerun⟩
  case logged => exact fun n may log => by rw [commitSpan_logged h may log]
  case logFull => exact fun may full => by rw [commitSpan_log_full h may full]
  case notReady => exact fun mayNot => by rw [commitSpan_not_ready h mayNot]
  case discard =>
    exact fun failed uncommitted kept idle => by rw [discardSpan_idle h failed uncommitted kept idle]
  case rerun =>
    exact fun discarded failed noCapture going room => by rw [rerunSpan_room h discarded failed noCapture going room]

end Sys2Proof.Proofs

/-! SUPPORT. The descriptor that a task reference names, after a change of its submission or of its job's numeric state, and the entry
that retirement leaves; O18 is assembled from them. -/

namespace Sys2Proof.Proofs

open Sys2Proof Sys2Proof.Machine Sys2Proof.Laws

variable {s : State} {t : TaskRef} {r : Ref} {u : Sub}

/-! ### A reference and its submission -/

/-- A descriptor that is found stands in its submission. -/
theorem getSub_of_refOf (found : refOf s t = some r) :
    getSub s t.job t.sub = some r.u ∧ r.u.descs[t.desc]? = some r.d := by
  unfold refOf at found
  split at found
  · cases found
  next b job =>
    split at found
    · cases found
    next v sub =>
      obtain ⟨d, desc, rfl⟩ := Option.map_eq_some_iff.1 found
      exact ⟨by simp only [getSub, job, Option.bind_some, sub], desc⟩

/-- A descriptor of a submission is found. -/
theorem refOf_of_getSub {d : Bytes} (sub : getSub s t.job t.sub = some u) (desc : u.descs[t.desc]? = some d) :
    ∃ r', refOf s t = some r' ∧ r'.d = d ∧ r'.u = u := by
  obtain ⟨b, job, sub⟩ := Option.bind_eq_some_iff.1 sub
  exact ⟨⟨t, b, u, d, partCfg s t.job⟩, by simp only [refOf, job, sub, desc, Option.map_some], rfl, rfl⟩

/-! ### Submissions after a change -/

theorem getSub_modJob (j k : Nat) (f : Job → Job) : getSub (modJob j f s) j k = (tget s.jobs j).bind fun b => tget (f b).subs k := by
  simp only [getSub, modJob, tget_tmod, if_true, Option.bind_map]
  rfl

theorem getSub_modSub (j k : Nat) (f : Sub → Sub) : getSub (modSub j k f s) j k = (getSub s j k).map f := by
  simp only [modSub, getSub_modJob, tget_tmod, if_true]
  rw [getSub, Option.map_bind]
  rfl

@[simp] theorem getSub_modNum (j k : Nat) (f : NumState → NumState) : getSub (modNum j f s) j k = getSub s j k :=
  getSub_modJob j k _

@[simp] theorem getSub_occupySlot (j k slot stride : Nat) : getSub (occupySlot j slot stride s) j k = getSub s j k :=
  getSub_modNum j k _

@[simp] theorem getSub_freeSlot (j k slot : Nat) : getSub (freeSlot j slot s) j k = getSub s j k :=
  getSub_modNum j k _

/-- The lines of a gather that go are of the cache alone (R244). -/
@[simp] theorem getSub_dropStaged (j k : Nat) : getSub (dropStaged t s) j k = getSub s j k := by
  unfold dropStaged
  split
  · rfl
  · rfl

/-! ### The entry of a descriptor -/

theorem descAt_tset_same (u : Sub) (i : Nat) (st : DescSt) : descAt { u with state := tset u.state i st } i = st := by
  simp only [descAt, tgetD, tget_tset_same, Option.getD_some]

theorem descAt_tset_other (u : Sub) {i k : Nat} (st : DescSt) (other : k ≠ i) :
    descAt { u with state := tset u.state i st } k = descAt u k := by
  simp only [descAt, tgetD, tget_tset_other _ _ _ _ other]

/-- A submission in which a descriptor has retired. -/
def markRetired (i : Nat) (u : Sub) : Sub := { u with state := tset u.state i { descAt u i with retired := true } }

/-- Retirement marks the descriptor in its submission, and what it does to slots and to staged lines leaves the submission alone. -/
theorem getSub_retire (found : refOf s t = some r) : getSub (retire t s) t.job t.sub = some (markRetired t.desc r.u) := by
  have sub := (getSub_of_refOf found).1
  simp only [retire, found, getSub_dropStaged, apply_ite fun x => getSub x t.job t.sub, getSub_occupySlot, getSub_freeSlot, ite_self,
    getSub_modSub, sub, Option.map_some, markRetired]

/-- Settles O18, by what retirement leaves of the submission. -/
theorem retireMarksOne : Obligations.RetireMarksOne := by
  unfold Obligations.RetireMarksOne
  intro s t r found
  have desc : (markRetired t.desc r.u).descs[t.desc]? = some r.d := (getSub_of_refOf found).2
  obtain ⟨r', found', same, sub⟩ := refOf_of_getSub (getSub_retire found) desc
  refine ⟨r', found', same, ?_, ?_⟩
  · rw [sub, markRetired, descAt_tset_same]
  · intro i other
    rw [sub, markRetired, descAt_tset_other _ _ other]

end Sys2Proof.Proofs

/-! SUPPORT. TENSOR_DEFINE and TENSOR_RELEASE: what each answers on a live job, and the entry that a definition leaves in the table of
its job; O15 is assembled from them. -/

namespace Sys2Proof.Proofs

open Sys2Proof Sys2Proof.Machine Sys2Proof.Laws

variable {s : State} {m : Msg} {j i : Nat} {b : Job} {raw : Bytes}

/-! ### The entry after a definition -/

theorem tget_jobs_modJob (f : Job → Job) : tget (modJob j f s).jobs j = (tget s.jobs j).map f := by
  simp only [modJob, tget_tmod, if_true]

/-- Marks of pages are kept beside the jobs. -/
@[simp] theorem foldl_modDir_jobs (pages : List Nat) (f : DirE → DirE) (s : State) :
    (pages.foldl (fun t p => modDir j p f t) s).jobs = s.jobs := by
  induction pages generalizing s with
  | nil => rfl
  | cons p ps ih => rw [List.foldl_cons, ih, modDir_jobs]

/-- A job whose tensor is dropped stays. -/
theorem dropTensor_keeps_job (job : tget s.jobs j = some b) : ∃ b', tget (dropTensor j i s).jobs j = some b' := by
  simp only [dropTensor, job]
  split
  · exact ⟨b, job⟩
  · simp only [tget_jobs_modJob, apply_ite State.jobs, foldl_modDir_jobs, ite_self, job, Option.map_some, Option.some.injEq,
      exists_eq']

/-- A definition puts the bytes as written, with an empty owner mask and readable, into its entry (R197). -/
theorem tensorAt_defineTensor (job : tget s.jobs j = some b) :
    tensorAt (defineTensor j i raw s) j i = some { raw, units := headerUnits raw } := by
  obtain ⟨b', job'⟩ := dropTensor_keeps_job (i := i) job
  unfold tensorAt defineTensor
  simp only [tget_jobs_modJob, job', Option.map_some]
  split
  · simp only [foldl_modDir_jobs, tget_jobs_modJob, job', Option.map_some, Option.bind_some, tget_tset_same]
  · simp only [tget_jobs_modJob, job', Option.map_some, Option.bind_some, tget_tset_same]

/-! ### Definition (R197, R654) -/

section

variable (live : liveJob s m = some j)

include live

theorem tensorDefineBody_short (short : (msgBody m.bytes).length ≠ 64) : tensorDefineBody m s = complete m 0x12 s := by
  simp only [tensorDefineBody, live, if_pos short]

variable (job : tget s.jobs j = some b) (length : (msgBody m.bytes).length = 64)

include job length

/-- A descriptor of 64 bytes is judged by the table of R654. -/
theorem tensorDefineBody_judged : tensorDefineBody m s =
    (defineCheck s j b (arg m.bytes 0 2) (msgBody m.bytes)).elim
      (complete m 0x00 (defineTensor j (arg m.bytes 0 2) (msgBody m.bytes) s)) fun c => complete m c s := by
  simp only [tensorDefineBody, live, job, Option.getD_some, if_neg (not_not_intro length)]
  cases defineCheck s j b (arg m.bytes 0 2) (msgBody m.bytes) with
  | none => rfl
  | some c => rfl

end

/-! ### Release (R442) -/

theorem tensorReleaseBody_held (live : liveJob s m = some j) (job : tget s.jobs j = some b) (named : arg m.bytes 0 2 ≠ 0xFFFF)
    (defined : (tget b.tensors (arg m.bytes 0 2)).isSome = true)
    (first : (s.running.any fun r => r.kind == .tensorRelease j (arg m.bytes 0 2)) = false) :
    tensorReleaseBody m s = keepRunning m (.tensorRelease j (arg m.bytes 0 2)) s := by
  have there : ¬ (tensorAt s j (arg m.bytes 0 2)).isNone = true := by
    simpa [tensorAt, job, Option.isSome_iff_ne_none] using defined
  simp only [tensorReleaseBody, live, if_neg named, if_neg there, first, Bool.false_eq_true, if_false]

/-- Settles O15, by the answers to a definition and to a release. -/
theorem tensorsAreDefined : Obligations.TensorsAreDefined := by
  unfold Obligations.TensorsAreDefined
  intro s ctx m j b t i raw live job
  refine ⟨fun front length fits => ⟨?defined, tensorAt_defineTensor job⟩, fun front short => ?short,
    fun c front length fails => ?refused, fun front named there first => ?release⟩
  case defined =>
    rw [exec_of_front (c := .tensorDefine ctx) rfl front, tensorDefineBody_judged live job length, fits, Option.elim_none]
  case short => rw [exec_of_front (c := .tensorDefine ctx) rfl front, tensorDefineBody_short live short]
  case refused =>
    rw [exec_of_front (c := .tensorDefine ctx) rfl front, tensorDefineBody_judged live job length, fails, Option.elim_some]
  case release =>
    rw [exec_of_front (c := .tensorRelease ctx) rfl front, tensorReleaseBody_held live job named there first]

end Sys2Proof.Proofs

/-! SUPPORT. PROGRAM_SUBMIT and PROGRAM_ABORT of a program of a job, one equation per case; O16 is assembled from them. -/

namespace Sys2Proof.Proofs

open Sys2Proof Sys2Proof.Machine Sys2Proof.Laws

variable {s : State} {m : Msg} {o : Obj} {j off len : Nat} {b : Job}

/-- The message's header names a program of a job that is there. -/
structure NamesProgram (s : State) (m : Msg) (o : Obj) (j : Nat) (b : Job) : Prop where
  object : headerObject s m isProgram = .ok o
  ofJob : o.job = some j
  job : tget s.jobs j = some b

/-- An object that a header names is of the kind that its message asks for. -/
theorem kind_of_headerObject {kind : ObjData → Bool} (named : headerObject s m kind = .ok o) : kind o.data = true := by
  unfold headerObject at named
  dsimp only at named
  split at named
  · cases named
  split at named
  · cases named
  split at named
  · cases named
  split at named
  · cases named
  next ofKind =>
    split at named
    · cases named
      exact Classical.not_not.1 ofKind
    · cases named

/-- A program is code at a place. -/
theorem isProgram_iff {d : ObjData} : isProgram d = true ↔ ∃ off len, d = .program off len := by
  constructor
  · intro h
    cases d with
    | program off len => exact ⟨off, len, rfl⟩
    | _ => cases h
  · rintro ⟨off, len, rfl⟩
    rfl

/-! ### Submission (R212) -/

section

variable (h : NamesProgram s m o j b) (live : o.destroying = false)

include h live

/-- A job that has a fault or awaits a restore takes no program. -/
theorem submitBody_barred (barred : b.fault ≠ none ∨ awaitsRestore b = true) : submitBody m s = complete m 0x18 s := by
  obtain ⟨off, len, data⟩ := isProgram_iff.1 (kind_of_headerObject h.object)
  have unfit : b.fault.isSome = true ∨ awaitsRestore b = true := barred.imp_left Option.isSome_iff_ne_none.2
  simp only [submitBody, h.object, live, Bool.false_eq_true, if_false, h.ofJob, data, h.job, if_pos unfit]

variable (data : o.data = .program off len) (sound : b.fault = none) (whole : awaitsRestore b = false)

include data sound whole

theorem submitBody_accepted {p : Prog} (accepted : submitCheck s j off len = .ok p) :
    submitBody m s = keepRunning m (.submit j b.nextSub) (modJob j (fun b => { b with
      subs := tset b.subs b.nextSub (newSub (msgObj m.bytes) (msgGen m.bytes) p), nextSub := b.nextSub + 1
      peers := (b.peers ++ sendPeers p.ds).eraseDups }) s) := by
  simp only [submitBody, h.object, live, h.ofJob, data, h.job, sound, whole, accepted, Option.isSome_none, Bool.false_eq_true,
    or_self, if_false]

theorem submitBody_refused {x : Refused} (refused : submitCheck s j off len = .error x) :
    submitBody m s = completeWith m x.status
      { obj := msgObj m.bytes, gen := msgGen m.bytes, desc := x.desc, tensor := x.tensor } s := by
  simp only [submitBody, h.object, live, h.ofJob, data, h.job, sound, whole, refused, Option.isSome_none, Bool.false_eq_true,
    or_self, if_false]

end

/-! ### Abort (R661) -/

theorem abortBody_named (h : NamesProgram s m o j b) :
    abortBody m s = keepRunning m (.abort j (msgObj m.bytes)) (modJob j (fun b => { b with
      subs := b.subs.map fun u => (u.1, if u.2.prog = msgObj m.bytes then stopSub 0x1F 0xFFFF u.2 else u.2) }) s) := by
  simp only [abortBody, h.object, h.ofJob, Option.getD_some]

/-- Settles O16, by the answers to a submission and to an abort. -/
theorem programsRunAndStop : Obligations.ProgramsRunAndStop := by
  unfold Obligations.ProgramsRunAndStop
  intro s ctx m o j b t object ofJob job
  have h : NamesProgram t m o j b := ⟨object, ofJob, job⟩
  refine ⟨fun off len p front live data sound whole accepted _ => ?accepted,
    fun off len x front live data sound whole refused => ?refused, fun front live barred => ?barred, fun front => ?abort⟩
  case accepted =>
    rw [exec_of_front (c := .programSubmit ctx) rfl front, submitBody_accepted h live data sound whole accepted]
  case refused =>
    rw [exec_of_front (c := .programSubmit ctx) rfl front, submitBody_refused h live data sound whole refused]
  case barred => rw [exec_of_front (c := .programSubmit ctx) rfl front, submitBody_barred h live barred]
  case abort => rw [exec_of_front (c := .programAbort ctx) rfl front, abortBody_named h]

end Sys2Proof.Proofs

/-! SUPPORT. The launch of an operation on the units of its tile map: where its pages are there, where they are still to come, and where
it reads a line that fails; and the operands of MATMUL, plain or promoted. O36 is assembled from them. -/

namespace Sys2Proof.Proofs

open Sys2Proof Sys2Proof.Machine Sys2Proof.Laws

variable {s u w : State} {t : TaskRef} {r : Ref} {units : Nat} {effect : State → State → State}

/-! ### Launch (R73, R211, R323) -/

/-- What a launched operation leaves once its pages are there: its effect, or that it is to have it with its last boundary (R211). -/
def launched (units : Nat) (effect : State → State → State) (t : TaskRef) (r : Ref) (w : State) : State :=
  if wholeRuns w r = true then effect w (setRunning r units w)
  else modDesc t (fun d => { d with late := true }) (setRunning r units w)

theorem launch_runs (pages : ensurePages r u = (w, true)) (whole : badRead r w = none) :
    launch units effect r u = launched units effect r.t r w := by
  simp only [launch, pages, not_true, if_false, whole, launched]

/-- What a launch that does not run leaves: the pages asked for, or the failure of the line that it reads. -/
inductive Unlaunched (r : Ref) (u : State) : State → Prop where
  | pages {w : State} (coming : ensurePages r u = (w, false)) : Unlaunched r u w
  | line {w : State} {l : Nat} (pages : ensurePages r u = (w, true)) (bad : badRead r w = some l) :
    Unlaunched r u (lineFails l 0 (some r.t) w)

theorem launch_unlaunched {x : State} (h : Unlaunched r u x) : launch units effect r u = x := by
  cases h with
  | pages coming => simp only [launch, coming, Bool.false_eq_true, not_false_eq_true, if_true]
  | line pages bad => simp only [launch, pages, not_true, if_false, bad]

/-! ### Operations on units -/

section

variable {c : Instr} {op : Nat} {count : Ref → Nat} {out : Ref → State → OpOut}
  (row : exec c s = .next (settle (withDesc t op (runUnits count out) s))) (start : Starts s t op r u)

include row start

theorem exec_units_run (pages : ensurePages r u = (w, true)) (whole : badRead r w = none) :
    exec c s = .next (settle (launched (count r) (outputs out r) t r w)) := by
  rw [exec_of_starts row start, runUnits, launch_runs pages whole, refOf_task start.now]

theorem exec_units_unlaunched {x : State} (h : Unlaunched r u x) : exec c s = .next (settle x) := by
  rw [exec_of_starts row start, runUnits, launch_unlaunched h]

end

/-! ### Each command starts its operation on units -/

theorem exec_matmulDx (t : TaskRef) (s : State) : exec (.matmulDx t) s =
    .next (settle (withDesc t 0x11 (runUnits mapUnits fun r s => dxOut r s (r.optView 5)) s)) := rfl
theorem exec_matmulDw (t : TaskRef) (s : State) : exec (.matmulDw t) s =
    .next (settle (withDesc t 0x12 (runUnits mapUnits fun r s => dwOut r s 0 2 (r.optView 5)) s)) := rfl
theorem exec_matmulAlt (t : TaskRef) (s : State) : exec (.matmulAlt t) s =
    .next (settle (withDesc t 0x13 (runUnits altUnits matmulAlt) s)) := rfl
theorem exec_attentionFwd (t : TaskRef) (s : State) : exec (.attentionFwd t) s =
    .next (settle (withDesc t 0x14 (runUnits mapUnits attentionFwdOut) s)) := rfl
theorem exec_attentionBwd (t : TaskRef) (s : State) : exec (.attentionBwd t) s =
    .next (settle (withDesc t 0x15 (runUnits mapUnits attentionBwdOut) s)) := rfl

/-! ### MATMUL (R223, R591, R43, R176) -/

variable {ecc : List EccReport} {f g : List Nat → Val × NumFlags}

theorem matmul_plain (met : meetWords { task := some r.t } ecc s = (u, true)) (plain : r.promoted = none) :
    matmul ecc r s =
      runOp (matmulOut (logical (srcOf u r.t.job) (r.slotView 1)) (logical (srcOf u r.t.job) (r.slotView 2))) r u := by
  simp only [matmul, met, not_true, if_false, plain, Option.isNone_none, if_true]

theorem matmul_promoted {x y z : State} (met : meetWords { task := some r.t } ecc s = (x, true)) (promoted : r.promoted ≠ none)
    (first : promotedValues r (r.slotView 1) x = (y, some f)) (second : promotedValues r (r.slotView 2) y = (z, some g)) :
    matmul ecc r s = runOp (matmulOut f g) r
      (orMasks r.t.job (weightMask z r (r.slotView 1) ||| weightMask z r (r.slotView 2)) (opWrites r.d) z) := by
  have raised : ¬ r.promoted.isNone = true := by simpa [Option.isNone_iff_eq_none] using promoted
  simp only [matmul, met, not_true, if_false, if_neg raised, first, second]

/-- Settles O36, operation by operation. -/
theorem matrixOperationsRun : Obligations.MatrixOperationsRun := by
  unfold Obligations.MatrixOperationsRun
  refine ⟨?run, ?unlaunched⟩
  case run =>
    intro s u w t r pages whole runs
    refine ⟨fun v ecc start met plain => ?plain, fun v x y z ecc f g start met promoted first second masked => ?promoted,
      fun start => ?dx, fun start => ?dw, fun start => ?alt, fun start => ?forward, fun start => ?backward⟩
    case plain =>
      obtain rfl := refOf_task start.now
      rw [exec_of_starts (c := .matmul r.t ecc) rfl start, matmul_plain met plain, runOp, runUnits, launch_runs pages whole]
      rfl
    case promoted =>
      obtain rfl := refOf_task start.now
      rw [exec_of_starts (c := .matmul r.t ecc) rfl start, matmul_promoted met promoted first second, ← masked, runOp, runUnits,
        launch_runs pages whole]
      rfl
    case dx => exact (exec_units_run (exec_matmulDx t s) start pages whole :)
    case dw => exact (exec_units_run (exec_matmulDw t s) start pages whole :)
    case alt => exact (exec_units_run (exec_matmulAlt t s) start pages whole :)
    case forward => exact (exec_units_run (exec_attentionFwd t s) start pages whole :)
    case backward => exact (exec_units_run (exec_attentionBwd t s) start pages whole :)
  case unlaunched =>
    intro s u w t r x ends
    have ended {op : Nat} (start : Starts s t op r u) : ∃ y, Unlaunched r u y ∧ x = .next (settle y) := by
      obtain rfl := refOf_task start.now
      obtain ⟨coming, rfl⟩ | ⟨l, pages, bad, rfl⟩ := ends
      · exact ⟨w, .pages coming, rfl⟩
      · exact ⟨_, .line pages bad, rfl⟩
    refine ⟨fun start => ?_, fun start => ?_, fun start => ?_, fun start => ?_, fun start => ?_⟩
    all_goals obtain ⟨y, h, rfl⟩ := ended start
    · exact exec_units_unlaunched (exec_matmulDx t s) start h
    · exact exec_units_unlaunched (exec_matmulDw t s) start h
    · exact exec_units_unlaunched (exec_matmulAlt t s) start h
    · exact exec_units_unlaunched (exec_attentionFwd t s) start h
    · exact exec_units_unlaunched (exec_attentionBwd t s) start h

end Sys2Proof.Proofs

/-! SUPPORT. The row, element and copy operations, the digest and the statistics record: each is an effect that a launch on the units of its
tile map has; O37 is assembled from them. -/

namespace Sys2Proof.Proofs

open Sys2Proof Sys2Proof.Machine Sys2Proof.Laws

variable {s u w : State} {t : TaskRef} {r : Ref}

/-- A command whose body is a launch has the effect of the launch, where its pages are there and no line of its reads fails. -/
theorem exec_launch_run {c : Instr} {op : Nat} {body : Ref → State → State} {units : Nat} {effect : State → State → State}
    (row : exec c s = .next (settle (withDesc t op body s))) (start : Starts s t op r u)
    (launches : body r u = launch units effect r u) (pages : ensurePages r u = (w, true)) (whole : badRead r w = none) :
    exec c s = .next (settle (launched units effect t r w)) := by
  rw [exec_of_starts row start, launches, launch_runs pages whole, refOf_task start.now]

/-! ### The modes of SOFTMAX (R234, R235) -/

theorem softmaxOut_plain (plain : rd r.d 28 1 = 0) (e : State) : softmaxOut r e =
    softmaxOp (srcOf e r.t.job) (r.f32 32).rat 1 (r.slotView 0) (r.slotView 1) none none := if_pos plain

theorem softmaxOut_loss (loss : rd r.d 28 1 ≠ 0) (e : State) : softmaxOut r e =
    softmaxOp (srcOf e r.t.job) (r.f32 32).rat (lossFactor r) (r.slotView 0) (r.slotView 1) (some (r.slotView 2)) (r.optView 3) :=
  if_neg loss

/-! ### DIGEST (R256) -/

/-- The digest of a descriptor's tensor, of its stored bytes and, where the descriptor asks for them, of its scales. -/
def digestValue (r : Ref) (e : State) : Bytes :=
  let m := srcOf e r.t.job
  sha256 (storedBytes m (r.slotView 1) ++ (if bit (rd r.d 28 1) 0 then scaleBytes m (r.slotView 1) else []))

/-- The digest stored, with the owner masks of its tensor (R43). -/
def digestStored (r : Ref) (e on : State) : State :=
  let x := applyStores r.t.job (wordStores (r.slotView 0) (digestValue r e)) on
  orMasks r.t.job (masksOf x r.t.job (opReads r.d)) (opWrites r.d) x

/-- A difference from the reference is noted with the descriptor's span, or by the event where it stands in none. -/
def noteMismatch (r : Ref) (s : State) : State :=
  match spanPos r.u r.t.desc with
  | some k => modSpan r.t.job r.t.sub k (fun y => { y with mismatches := y.mismatches ++ [dT r.d 1] }) s
  | none => mismatchEvent r.t.job r.u.prog (dT r.d 1) s

section

variable (plain : dStats r.d = 0xFFFF) {e on : State}

include plain

theorem digestOut_matches (same : ∀ v, r.optView 2 = some v → storedBytes (srcOf e r.t.job) v = digestValue r e) :
    digestOut r e on = digestStored r e on := by
  unfold digestOut
  cases ref : r.optView 2 with
  | none => simp only [plain, if_true, Bool.false_eq_true, if_false]; rfl
  | some v =>
    have equal : (storedBytes (srcOf e r.t.job) v != digestValue r e) = false := bne_eq_false_iff_eq.2 (same v ref)
    unfold digestValue at equal
    simp only [plain, if_true, equal, Bool.false_eq_true, if_false]
    rfl

variable {v : TV} (ref : r.optView 2 = some v) (differs : storedBytes (srcOf e r.t.job) v ≠ digestValue r e)

include ref differs

theorem digestOut_differs : digestOut r e on = noteMismatch r (digestStored r e on) := by
  have unequal : (storedBytes (srcOf e r.t.job) v != digestValue r e) = true := bne_iff_ne.2 differs
  unfold digestValue at unequal
  simp only [digestOut, ref, plain, if_true, unequal]
  rfl

end

/-! ### STATISTICS (R257) -/

theorem statisticsOut_alone (plain : dStats r.d = 0xFFFF) (e on : State) : statisticsOut r e on =
    putRecord r (dT r.d 0) (dT r.d 1) (recordOf r (statisticsOf (srcOf e r.t.job) (r.slotView 1)).1 (dT r.d 1))
      (raiseEvents r [r.slotView 1] (statisticsOf (srcOf e r.t.job) (r.slotView 1)).2
        (orMasks r.t.job (masksOf e r.t.job (opReads r.d)) (opWrites r.d) on)) := if_pos plain

/-- Settles O37, operation by operation. -/
theorem rowAndCopyOperationsRun : Obligations.RowAndCopyOperationsRun := by
  unfold Obligations.RowAndCopyOperationsRun
  intro s u w t r pages whole on runs fin m mode
  have task {op : Nat} (start : Starts s t op r u) : r.t = t := refOf_task start.now
  refine ⟨fun start => ?norm, fun start => ?normBwd, fun start plain => ?softmax, fun start loss => ?softmaxLoss,
    fun start => ?elementwise, fun start => ?reduce, fun start => ?cast, fun start => ?transpose, fun start => ?copy,
    fun start => ?fill, fun start => ?scatter, ⟨fun start => ?stash, fun start => ?unstash⟩,
    fun start plain => ⟨fun same => ?digest, fun v ref differs => ⟨fun k span => ?inSpan, fun span => ?outside⟩⟩,
    fun start plain => ?statistics⟩
  all_goals obtain rfl := task start
  case norm => exact (exec_units_run (c := .norm r.t) (count := mapUnits) (out := normOut) rfl start pages whole :)
  case normBwd => exact (exec_units_run (c := .normBwd r.t) (count := mapUnits) (out := normBwdOut) rfl start pages whole :)
  case softmax =>
    refine (exec_units_run (c := .softmax r.t) (count := mapUnits) (out := softmaxOut) rfl start pages whole).trans ?_
    simp only [launched, outputs, softmaxOut_plain plain]
    rfl
  case softmaxLoss =>
    refine (exec_units_run (c := .softmax r.t) (count := mapUnits) (out := softmaxOut) rfl start pages whole).trans ?_
    simp only [launched, outputs, softmaxOut_loss loss]
    rfl
  case elementwise => exact (exec_units_run (c := .elementwise r.t) (count := mapUnits) (out := elementwiseOut) rfl start pages whole :)
  case reduce => exact (exec_units_run (c := .reduce r.t) (count := mapUnits) (out := reduceOut) rfl start pages whole :)
  case cast => exact (exec_units_run (c := .cast r.t) (count := mapUnits) (out := castOut) rfl start pages whole :)
  case transpose => exact (exec_units_run (c := .transposeCopy r.t) (count := mapUnits) (out := transposeOut) rfl start pages whole :)
  case copy => exact (exec_units_run (c := .copy r.t) (count := mapUnits) (out := copyOut) rfl start pages whole :)
  case fill => exact (exec_units_run (c := .fill r.t) (count := mapUnits) (out := fillOut) rfl start pages whole :)
  case scatter => exact (exec_units_run (c := .scatterReduce r.t) (count := mapUnits) (out := scatterOut) rfl start pages whole :)
  case stash => exact (exec_launch_run (c := .stash r.t) rfl start rfl pages whole :)
  case unstash => exact (exec_launch_run (c := .unstash r.t) rfl start rfl pages whole :)
  case digest =>
    refine (exec_launch_run (c := .digest r.t) rfl start rfl pages whole).trans ?_
    rw [launched, digestOut_matches plain same]
    rfl
  case inSpan =>
    refine (exec_launch_run (c := .digest r.t) rfl start rfl pages whole).trans ?_
    rw [launched, digestOut_differs plain ref differs, noteMismatch, span]
    rfl
  case outside =>
    refine (exec_launch_run (c := .digest r.t) rfl start rfl pages whole).trans ?_
    rw [launched, digestOut_differs plain ref differs, noteMismatch, span]
    rfl
  case statistics =>
    refine (exec_launch_run (c := .statistics r.t) rfl start rfl pages whole).trans ?_
    rw [launched, statisticsOut_alone plain]
    rfl

end Sys2Proof.Proofs

/-! SUPPORT. Sends and receives, the timeouts, and the verdict: its start and its end, one equation per case; O39 is assembled from
them. -/

namespace Sys2Proof.Proofs

open Sys2Proof Sys2Proof.Machine Sys2Proof.Laws

variable {s u w : State} {t : TaskRef} {r : Ref} {grp : Group}

/-- A command that may let packets that wait go on has its descriptor's effect, and then they try again (R373). -/
theorem exec_of_starts_retrying {c : Instr} {op : Nat} {body : Ref → State → State}
    (row : exec c s = .next (settle (retryHeld t.job (withDesc t op body s)))) (h : Starts s t op r u) :
    exec c s = .next (settle (retryHeld t.job (body r u))) := by
  rw [row, withDesc_starts body h]

/-! ### Sends and receives (R248, R249) -/

/-- The transfer that a send or a receive opens. -/
def xferOpened (r : Ref) (isSend : Bool) : Xfer :=
  { task := r.t, peer := xferPeer r.d, tag := rd r.d 34 2, vc := rd r.d 32 1, isSend }

/-- The descriptor runs, and its transfer is among its job's. -/
def withXfer (r : Ref) (isSend : Bool) (w : State) : State :=
  modJob r.t.job (fun b => { b with xfers := b.xfers ++ [xferOpened r isSend] }) (setRunning r 0 w)

/-- The clear-to-send of a send's peer and tag that has come first. -/
def clearOf (r : Ref) : Option (Nat × Nat × Nat) := r.b.clears.find? fun c => c.1 == xferPeer r.d && c.2.1 == rd r.d 34 2

section

variable (pages : ensurePages r u = (w, true))

include pages

theorem sendStart_waits (uncleared : clearOf r = none) : sendStart r u = withXfer r true w := by
  unfold clearOf at uncleared
  simp only [sendStart, pages, not_true, if_false, uncleared]
  rfl

theorem sendStart_cleared {c : Nat × Nat × Nat} (clear : clearOf r = some c) : sendStart r u =
    transmit r c.2.2 (modJob r.t.job (fun b => { b with clears := b.clears.erase c }) (withXfer r true w)) := by
  unfold clearOf at clear
  simp only [sendStart, pages, not_true, if_false, clear]
  rfl

theorem receiveStart_posts : receiveStart r u = sendOrFault r.t.job
    { typ := 2, vc := rd r.d 32 1, dst := xferPeer r.d, tag := rd r.d 34 2, payload := leBytes 8 (tensorBytes (r.slotView 0)) }
    (withXfer r false w) := by
  simp only [receiveStart, pages, not_true, if_false]
  rfl

end

/-! ### Timeouts (R220, R248, R389) -/

theorem collTimeout_running
    (runs : (collAt s t).isSome = true ∨ (gatherAt s t false).isSome = true ∨ (gatherAt s t true).isSome = true) :
    collTimeout t s = taskFault t 0x64 s := if_pos runs

theorem xferTimeout_running (found : refOf s t = some r) (runs : (r.b.xfers.any fun x => x.task == t) = true)
    (limited : rd r.d 36 4 ≠ 0) : xferTimeout t s = taskFault t 0x64 s := by
  simp only [xferTimeout, found, runs, true_and, if_pos limited]

/-! ### The start of a verdict (R250, R251) -/

/-- A verdict is in progress. -/
def verdictRuns (b : Job) : Bool := b.colls.any fun c => c.kind == 0x26

/-- The collective that a verdict of a group opens: this Proend's word and then its step go to the others. -/
def verdictColl (r : Ref) (grp : Group) (tag : Nat) : Coll :=
  { task := r.t, kind := 0x26, vc := 0, tag, members := grp.members, rank := grp.rank, radices := grp.radices
    own := leBytes 8 r.b.num.word ++ leBytes 8 (rd r.d 32 8) }

/-- A verdict that may begin sends its word to every other member of its group. -/
def verdictSent (r : Ref) (grp : Group) (u : State) : State :=
  let tag := takeTag (rd r.d 28 2) u
  let c := verdictColl r grp tag.1
  (otherRanks c).foldl (fun s q => sendAll r.t.job (cutTransfer 1 0 (grp.members.getD q 0) 0 c.tag c.own) s)
    (modJob r.t.job (fun b => { b with colls := b.colls ++ [c] }) (setRunning r 0 tag.2))

section

variable (group : groupOf u r.d = some grp)

include group

theorem verdictStart_untimely (untimely : rd r.d 32 8 ≠ r.b.num.verdicts ∨ verdictRuns r.b = true) :
    verdictStart r u = verdictFault r.t u := by
  simp only [verdictStart, group]
  exact if_pos untimely

variable (step : rd r.d 32 8 = r.b.num.verdicts) (alone : verdictRuns r.b = false)

include step alone

/-- One of the job's step with no other in progress is judged by its group. -/
theorem verdictStart_timely : verdictStart r u =
    if (knownMembers u r.t.job).all grp.members.contains then verdictSent r grp u else taskFault r.t 0x66 u := by
  have timely : ¬ (rd r.d 32 8 ≠ r.b.num.verdicts ∨ verdictRuns r.b = true) := by simp [step, alone]
  unfold verdictRuns at timely
  simp only [verdictStart, group, if_neg timely, ite_not]
  rfl

end

/-! ### The end of a verdict (R160, R250) -/

theorem verdictDone_whole {j word : Nat} {b : Job} {c : Coll} (job : tget s.jobs j = some b)
    (found : (b.colls.find? fun c => c.kind == 0x26) = some c) (task : refOf s c.task = some r) (sound : r.b.fault = none)
    (whole : verdictWhole c = true) (agreed : verdictWord c = word) (pages : ensureOutputs r s = (w, true)) :
    verdictDone j word s = retryHeld j (endColl c.task (applyVerdict j word (storeWord r word w))) := by
  have may : ¬ (¬ verdictWhole c = true ∨ verdictWord c ≠ word ∨ r.b.fault.isSome = true) := by simp [whole, agreed, sound]
  simp only [verdictDone, job, Option.bind_some, found, task, if_neg may, pages, not_true, if_false]

/-- Settles O39, by the cases of a transfer, of a timeout, of a verdict's start and of its end. -/
theorem transfersAndVerdictsRun : Obligations.TransfersAndVerdictsRun := by
  unfold Obligations.TransfersAndVerdictsRun
  refine ⟨?transfers, ?timeouts, ?verdict, ?complete⟩
  case transfers =>
    intro s u w t r pages x added
    refine ⟨fun start uncleared => ?waits, fun c start clear => ?cleared, fun start => ?receive⟩
    all_goals obtain rfl := refOf_task start.now
    case waits =>
      rw [exec_of_starts (c := .send r.t) rfl start, sendStart_waits pages uncleared]
      rfl
    case cleared =>
      rw [exec_of_starts (c := .send r.t) rfl start, sendStart_cleared pages clear]
      rfl
    case receive =>
      rw [exec_of_starts_retrying (c := .receive r.t) rfl start, receiveStart_posts pages]
      rfl
  case timeouts =>
    intro s t r ready found
    refine ⟨fun runs => ?collective, fun runs limited => ?transfer⟩
    case collective => rw [exec_of_alive (c := .collectiveTimeout t) rfl ready, collTimeout_running runs]
    case transfer => rw [exec_of_alive (c := .transferTimeout t) rfl ready, xferTimeout_running found runs limited]
  case verdict =>
    intro s u t r grp start group tag own c alone
    obtain rfl := refOf_task start.now
    rw [exec_of_starts_retrying (c := .verdict r.t) rfl start]
    refine ⟨fun step single known => ?sent, fun step single omits => ?omits, fun untimely => ?untimely⟩
    case sent =>
      rw [verdictStart_timely group step single, if_pos known]
      rfl
    case omits =>
      rw [verdictStart_timely group step single, omits, if_neg Bool.false_ne_true]
    case untimely =>
      rw [verdictStart_untimely group (untimely.imp_right eq_true_of_ne_false)]
  case complete =>
    intro s w j word b c r ready job found task sound whole agreed pages
    rw [exec_of_alive (c := .verdictComplete j word) rfl ready, verdictDone_whole job found task sound whole agreed pages]

end Sys2Proof.Proofs

/-! SUPPORT. The start of an optimiser_step, and the moment and weight tasks of a page that is resident, by its header in the two modes;
O40 is assembled from them. -/

namespace Sys2Proof.Proofs

open Sys2Proof Sys2Proof.Machine Sys2Proof.Laws

variable {s u w : State} {t : TaskRef} {r : Ref} {page : Nat}

/-! ### The start (R24, R253, R660) -/

/-- The last verdict skipped its step (R163). -/
def lastSkipped (b : Job) : Bool := (b.num.last.map (·.skipped)).getD false

theorem optimiserStart_early (early : r.b.num.verdicts ≤ optStep r.d) : optimiserStart r u = u := if_pos early

theorem optimiserStart_late (late : optStep r.d + 1 < r.b.num.verdicts) : optimiserStart r u = taskFault r.t 0x66 u := by
  simp only [optimiserStart, if_neg (show ¬ r.b.num.verdicts ≤ optStep r.d by omega), if_pos late]

/-- In the verdict's own step, what that verdict did decides. -/
theorem optimiserStart_due (due : optStep r.d + 1 = r.b.num.verdicts) : optimiserStart r u =
    if lastSkipped r.b then skipOptim r u else if r.optPages = 0 then retire r.t u else setRunning r 0 u := by
  have notEarly : ¬ r.b.num.verdicts ≤ optStep r.d := by omega
  have notLate : ¬ optStep r.d + 1 < r.b.num.verdicts := by omega
  cases last : r.b.num.last with
  | none => simp only [optimiserStart, if_neg notEarly, if_neg notLate, lastSkipped, last, Option.map_none, Option.getD_none]
  | some v => simp only [optimiserStart, if_neg notEarly, if_neg notLate, lastSkipped, last, Option.map_some, Option.getD_some]

/-! ### Tasks of pages (R254, R298) -/

/-- A page whose task may run: its descriptor is a running optimiser_step of which it has not ended, and its tier pages are resident. -/
structure PageRuns (s : State) (t : TaskRef) (page : Nat) (r : Ref) (w : State) : Prop where
  found : refOf s t = some r
  op : dOp r.d = 0x29
  may : mayTask s r page = true
  inside : page < r.optPages
  unended : page ∉ (descAt r.u t.desc).ended
  resident : residentPage r page s = (w, true)

theorem withPage_runs {reads : Ref → State → List (Option TV)} {body : Ref → State → State} (h : PageRuns s t page r w)
    (whole : badPage (reads r w) r page w = none) : withPage t page reads body s = body r w := by
  have may : dOp r.d = 0x29 ∧ mayTask s r page = true ∧ page < r.optPages ∧ ¬ (descAt r.u t.desc).ended.contains page = true := by
    simp [h.op, h.may, h.inside, h.unended]
  simp only [withPage, h.found, if_pos may, h.resident, not_true, if_false, whole]

/-- A command that runs a task on a page that may run has the effect of the task's body. -/
theorem exec_of_page {c : Instr} {reads : Ref → State → List (Option TV)} {body : Ref → State → State}
    (row : exec c s = .next (settle (withPage t page reads body s))) (h : PageRuns s t page r w)
    (whole : badPage (reads r w) r page w = none) : exec c s = .next (settle (body r w)) := by
  rw [row, withPage_runs h whole]

/-! ### The moment task (R254, R290, R294) -/

/-- The moments of a page are updated: its bytes, its flags and masks, the copy that the tile store keeps, its header. -/
def momentsWritten (page : Nat) (r : Ref) (w : State) : State :=
  let n := optStep r.d
  let o := momentStores (srcOf w r.t.job) r.optP (r.optP.mult / (2 : Rat) ^ heldExponent r.b n) (r.slotView 1) (r.optView 2)
    (r.slotView 3) page
  modDesc r.t (fun d => { d with moments := d.moments ++ [page] }) (setHeader r.t.job (headerOf r page) (n + 1, n)
    (modCore (pagePlace r page).1 (fun c => { c with kept := tset c.kept (pagePlace r page).2 ⟨r.t, page, o.1⟩ })
      (pageEffects r page o.2 (applyStores r.t.job o.1 w))))

/-- In normal mode the moment task of a page that has had none acts where the header stands at the step. -/
theorem momentTask_normal (normal : optComplete r.d = false) (first : page ∉ (descAt r.u r.t.desc).moments) : momentTask page r w =
    if headerAt r.b (headerOf r page) = (optStep r.d, optStep r.d) then momentsWritten page r w else taskFault r.t 0x68 w := by
  have may : ¬ (optComplete r.d = true ∨ (descAt r.u r.t.desc).moments.contains page = true) := by simp [normal, first]
  simp only [momentTask, if_neg may, ne_eq, ite_not]
  rfl

/-! ### The weight task (R254, R255, R291) -/

/-- Where a header stands after its moment task, the weight task writes the page, in complete mode or after that task. -/
theorem weightTask_writes (ready : optComplete r.d = true ∨ page ∈ (descAt r.u r.t.desc).moments)
    (header : headerAt r.b (headerOf r page) = (optStep r.d + 1, optStep r.d)) :
    weightTask page r w = endPage r page 1 0 (writeWeights page r (headerOf r page) w) := by
  unfold weightTask
  by_cases complete : optComplete r.d = true
  · simp only [if_pos complete, if_pos header]
  · have moments : ¬ ¬ (descAt r.u r.t.desc).moments.contains page = true := by simp [ready.resolve_left complete]
    simp only [if_neg complete, if_neg moments, if_pos header]

theorem weightTask_normal_fails (normal : optComplete r.d = false) (moments : page ∈ (descAt r.u r.t.desc).moments)
    (header : headerAt r.b (headerOf r page) ≠ (optStep r.d + 1, optStep r.d)) :
    weightTask page r w = taskFault r.t 0x68 w := by
  have after : ¬ ¬ (descAt r.u r.t.desc).moments.contains page = true := by simp [moments]
  simp only [weightTask, normal, Bool.false_eq_true, if_false, if_neg after, if_neg header]

section

variable (complete : optComplete r.d = true)

include complete

theorem weightTask_complete_finished (header : headerAt r.b (headerOf r page) = (optStep r.d + 1, optStep r.d + 1)) :
    weightTask page r w = endPage r page 0 1 (unpinParameter r.t.job (parameterPage r page) w) := by
  have other : ¬ (optStep r.d + 1, optStep r.d + 1) = (optStep r.d + 1, optStep r.d) := by simp
  simp only [weightTask, if_pos complete, header, if_neg other, if_true]

theorem weightTask_complete_not_started (header : headerAt r.b (headerOf r page) = (optStep r.d, optStep r.d)) :
    weightTask page r w = endPage r page 0 0 w := by
  have moments : ¬ (optStep r.d, optStep r.d) = (optStep r.d + 1, optStep r.d) := by simp
  have finished : ¬ (optStep r.d, optStep r.d) = (optStep r.d + 1, optStep r.d + 1) := by simp
  simp only [weightTask, if_pos complete, header, if_neg moments, if_neg finished, if_true]

theorem weightTask_complete_fails (moments : headerAt r.b (headerOf r page) ≠ (optStep r.d + 1, optStep r.d))
    (finished : headerAt r.b (headerOf r page) ≠ (optStep r.d + 1, optStep r.d + 1))
    (unstarted : headerAt r.b (headerOf r page) ≠ (optStep r.d, optStep r.d)) : weightTask page r w = taskFault r.t 0x68 w := by
  simp only [weightTask, if_pos complete, if_neg moments, if_neg finished, if_neg unstarted]

end

/-- Settles O40, by the step's place among the verdicts and by a page's header in the two modes. -/
theorem optimiserPagesAdvance : Obligations.OptimiserPagesAdvance := by
  unfold Obligations.OptimiserPagesAdvance
  refine ⟨?start, ?pages⟩
  case start =>
    intro s u t r start
    obtain rfl := refOf_task start.now
    rw [exec_of_starts (c := .optimiserStep r.t) rfl start]
    refine ⟨fun due kept some => ?begins, fun due skipped => ?skips, fun late => ?late, fun early => ?early⟩
    case begins => rw [optimiserStart_due due, lastSkipped, kept, if_neg Bool.false_ne_true, if_neg some]
    case skips => rw [optimiserStart_due due, lastSkipped, if_pos skipped]
    case late => rw [optimiserStart_late late]
    case early => rw [optimiserStart_early early]
  case pages =>
    intro s w t page r found op may inside unended resident n h o place fails
    have runs : PageRuns s t page r w := ⟨found, op, may, inside, unended, resident⟩
    obtain rfl := refOf_task found
    refine ⟨fun whole normal first => ?moment, fun whole => ?weight⟩
    case moment =>
      rw [exec_of_page (c := .momentTask r.t page) rfl runs whole, momentTask_normal normal first]
      refine ⟨fun header => ?_, fun header => ?_⟩
      · rw [if_pos header]
        rfl
      · rw [if_neg header]
    case weight =>
      rw [exec_of_page (c := .weightTask r.t page) rfl runs whole]
      refine ⟨fun ready header => ?_, fun complete header => ?_, fun complete header => ?_,
        fun complete moments finished unstarted => ?_, fun normal moments header => ?_⟩
      · rw [weightTask_writes ready header]
      · rw [weightTask_complete_finished complete header]
      · rw [weightTask_complete_not_started complete header]
      · rw [weightTask_complete_fails complete moments finished unstarted]
      · rw [weightTask_normal_fails normal moments header]

end Sys2Proof.Proofs

/-! SUPPORT. The Steppe tier: what a queue pair's operations leave of the jobs, and what an attach, a move, a chunk that arrives and an
eviction that ends answer, one equation per case; O21 is assembled from them. -/

namespace Sys2Proof.Proofs

open Sys2Proof Sys2Proof.Machine Sys2Proof.Laws

variable {s : State} {m : Msg} {j p c : Nat} {b : Job}

/-! ### Operations of queue pairs leave the jobs -/

@[simp] theorem putOut_jobs (q : Nat) (o : Out) (s : State) : (putOut q o s).jobs = s.jobs := by
  unfold putOut
  split
  · exact emit_jobs o s
  · dsimp only
    split
    · rfl
    · exact emit_jobs o s

@[simp] theorem addFlight_jobs (q : Nat) (k : FlightKind) (segments : Nat) (s : State) :
    (addFlight q k segments s).jobs = s.jobs := modQp_jobs q _ s

@[simp] theorem nextReads_jobs (s : State) (q : Nat) : (nextReads s q).jobs = s.jobs := by
  unfold nextReads
  split
  · rfl
  · refine List.foldlRecOn (motive := fun (t : State) => t.jobs = s.jobs) _ _ (modQp_jobs q _ s) fun t kept x _ => ?_
    rw [addFlight_jobs, putOut_jobs, kept]

@[simp] theorem dropFlight_jobs (k : FlightKind) (s : State) : (dropFlight k s).jobs = s.jobs := by
  unfold dropFlight
  refine List.foldlRecOn (motive := fun (t : State) => t.jobs = s.jobs) _ _ rfl fun t kept x _ => ?_
  rw [nextReads_jobs, kept]

/-! ### The tier of a job that is changed -/

theorem tget_jobs_modTier (f : Tier → Tier) (job : tget s.jobs j = some b) :
    tget (modTier j f s).jobs j = some { b with tier := f b.tier } := by
  rw [modTier, tget_jobs_modJob, job, Option.map_some]

theorem tget_jobs_restPage (f : DirE → DirE) (job : tget s.jobs j = some b) : tget (restPage j p f s).jobs j =
    some { b with tier := { b.tier with framesUsed := b.tier.framesUsed.filter (· != (dirAt s j p).frame) } } :=
  tget_jobs_modTier _ job

/-! ### STEPPE_ATTACH (R340, R439) -/

/-- The extent records of a STEPPE_ATTACH that a live job may take: whole records, 1 to 16 of them, with their reserved bytes zero. -/
structure ExtentsFit (s : State) (m : Msg) (j : Nat) (b : Job) : Prop where
  live : liveJob s m = some j
  job : tget s.jobs j = some b
  whole : (msgBody m.bytes).length % 24 = 0
  nonempty : extentRecords m ≠ []
  few : (extentRecords m).length ≤ 16
  clean : ((extentRecords m).all fun e => allZero (sub e 3 5)) = true
  unattached : b.tier.extents = []

theorem steppeAttachBody_fits (h : ExtentsFit s m j b)
    (named : ∀ e ∈ extentRecords m, extentStatus s (partOf j) 2 (xQp e) (rd e 2 1) = none)
    (room : ∀ e ∈ extentRecords m, ceilDiv b.carve.dirCount (extentRecords m).length * 1056768 ≤ xLen e) :
    steppeAttachBody m s = complete m 0x00 (modTier j (fun x => { x with extents := extentRecords m }) s) := by
  have formed : ¬ ((msgBody m.bytes).length % 24 ≠ 0 ∨ (extentRecords m).isEmpty = true ∨ 16 < (extentRecords m).length ∨
      ¬ ((extentRecords m).all fun e => allZero (sub e 3 5)) = true) := by
    simp only [h.whole, h.clean, List.isEmpty_iff, h.nonempty, Nat.not_lt.2 h.few, ne_eq, not_true, or_self, not_false_eq_true]
  have passed : ((extentRecords m).findSome? fun e => extentStatus s (partOf j) 2 (xQp e) (rd e 2 1)) = none :=
    List.findSome?_eq_none_iff.2 named
  have holds : ¬ ((extentRecords m).any fun e =>
      decide (xLen e < ceilDiv b.carve.dirCount (extentRecords m).length * 1056768)) = true := by
    simpa using room
  unfold steppeAttachBody
  simp only [h.live, h.job, Option.getD_some, if_neg formed, h.unattached, List.isEmpty_nil, not_true, if_false, passed, if_neg holds]

/-! ### TIER_MOVE (R347, R348) -/

/-- What a TIER_MOVE asks of a page, by its direction. -/
def pageMove (evict : Bool) (j p : Nat) (s : State) : State := if evict then hostEvict j p s else requestPage j p s

theorem tierMoveBody_inside (evict : Bool) (live : liveJob s m = some j)
    (inside : arg m.bytes 0 4 + arg m.bytes 4 4 ≤ (carveOf s j).dirCount) :
    tierMoveBody evict m s = pagesMoved j (keepRunning m (.tierMove j (arg m.bytes 0 4) (arg m.bytes 4 4) evict)
      ((List.range (arg m.bytes 4 4)).foldl (fun t k => pageMove evict j (arg m.bytes 0 4 + k) t) s)) := by
  unfold tierMoveBody
  simp only [live, if_neg (Nat.not_lt.2 inside)]
  rfl

/-- The row whose direction a message's selector names runs it. -/
theorem tierMove_selected {ctx : Nat} (evict : Bool) (front : Front s ctx 0x06 m)
    (selected : arg m.bytes 8 1 = evict.toNat) : tierMove ctx evict s = tierMoveBody evict m (popInbox ctx s) := by
  obtain ⟨rest, inbox⟩ := front.first
  have known : ¬ 1 < arg m.bytes 8 1 := by rw [selected]; exact Nat.not_lt.2 (Bool.toNat_le evict)
  have ours : ¬ arg m.bytes 8 1 = (if evict = true then 0 else 1) := by rw [selected]; cases evict <;> decide
  unfold tierMove
  simp only [inbox, List.headD_cons, if_neg ours]
  rw [withMessage_front _ front, if_neg known]

theorem exec_tierMoveFetch (ctx : Nat) (s : State) : exec (.tierMoveFetch ctx) s = .next (settle (tierMove ctx false s)) := rfl

theorem exec_tierMoveEvict (ctx : Nat) (s : State) : exec (.tierMoveEvict ctx) s = .next (settle (tierMove ctx true s)) := rfl

/-! ### Fetches (R346, R347, R349) -/

theorem frameResume_waiting {rest : List Nat} (job : tget s.jobs j = some b) (waits : b.tier.frameWaits = p :: rest) :
    frameResume j s = pagesMoved j (modTier j (fun x => { x with waitsCounted := b.tier.waitsCounted }) (startFetch j p s)) := by
  simp only [frameResume, job, waits]

/-- The plaintext of a chunk record under its page's version (R341). -/
def chunkOpened (s : State) (j p c : Nat) (b : Job) (record : Bytes) : Option Bytes :=
  gcmOpen (steppeKey b) (chunkIv p (dirAt s j p).version c) [] (sub record 0 4096) (sub record 4096 16)

/-- A fetch of a page is under way, and this chunk of it has not come yet. -/
structure ChunkAwaited (s : State) (j p c : Nat) (b : Job) (f : FetchSt) : Prop where
  job : tget s.jobs j = some b
  fetch : tget b.tier.fetches p = some f
  inPage : c < 256
  new : c ∉ f.chunks

section

variable {f : FetchSt} {a : Nat} {record data : Bytes} (h : ChunkAwaited s j p c b f)

include h

theorem ChunkAwaited.not_ignored : ¬ (256 ≤ c ∨ f.chunks.contains c = true) :=
  not_or.2 ⟨Nat.not_le.2 h.inPage, by simpa using h.new⟩

theorem chunkArrives_fails (bad : record.length ≠ 4112 ∨ chunkOpened s j p c b record = none) :
    chunkArrives j p c record s = fetchFails j p c s := by
  unfold chunkOpened at bad
  unfold chunkArrives
  simp only [h.job, h.fetch, if_neg h.not_ignored]
  split
  next opened _ =>
    have short : record.length ≠ 4112 := bad.resolve_right (by rw [opened]; exact Option.some_ne_none _)
    rw [if_pos short]
  next => rfl

variable (opened : chunkOpened s j p c b record = some data) (place : frameAddress b.carve f.frame = some a)
  (whole : record.length = 4112)

include opened place whole

theorem chunkArrives_more (more : f.chunks.length < 255) : chunkArrives j p c record s =
    modTier j (fun t => { t with fetches := tset t.fetches p { f with chunks := f.chunks ++ [c] } })
      (valeWrite 17 (a + 4096 * c) data s) := by
  unfold chunkOpened at opened
  have notLast : ¬ f.chunks.length + 1 = 256 := by omega
  unfold chunkArrives
  simp only [h.job, h.fetch, if_neg h.not_ignored, opened, place, whole, ne_eq, not_true, if_false, if_neg notLast]

theorem chunkArrives_last (last : f.chunks.length = 255) : chunkArrives j p c record s =
    pagesMoved j (modDir j p (fun e => { e with st := .resident, dirty := false })
      (modTier j (fun t => { t with fetches := terase t.fetches p })
        (dropFlight (.fetch j p) (valeWrite 17 (a + 4096 * c) data s)))) := by
  unfold chunkOpened at opened
  unfold chunkArrives
  simp only [h.job, h.fetch, if_neg h.not_ignored, opened, place, whole, last, ne_eq, not_true, if_false, if_true]

end

/-! ### Evictions (R345, R348) -/

/-- A page whose image is out under the next version: it rests, and no access waits for its fetch any more. -/
def evictionRested (j p : Nat) (s : State) : State :=
  modTier j (fun t => { t with thenFetch := t.thenFetch.filter (· != p) })
    (restPage j p (fun e => { e with version := e.version + 1 }) (dropFlight (.evict j p) s))

/-- The oldest of the fetches that wait for a frame starts. -/
def oldestStarts (j : Nat) (waits : List Nat) (s : State) : State :=
  match waits with
  | [] => s
  | x :: _ => startFetch j x s

/-- The end of an eviction leaves the fetches that wait for a frame. -/
theorem frameWaits_evictionRested (job : tget s.jobs j = some b) :
    (tget (evictionRested j p s).jobs j).bind (fun b => b.tier.frameWaits.head?) = b.tier.frameWaits.head? := by
  rw [← dropFlight_jobs (.evict j p) s] at job
  rw [evictionRested, tget_jobs_modTier _ (tget_jobs_restPage _ job)]
  rfl

theorem evictDone_evicting (job : tget s.jobs j = some b) (evicting : (dirAt s j p).st = .evicting) :
    evictDone j p s = pagesMoved j (if b.tier.thenFetch.contains p
      then requestPage j p (oldestStarts j b.tier.frameWaits (evictionRested j p s))
      else oldestStarts j b.tier.frameWaits (evictionRested j p s)) := by
  have oldest := frameWaits_evictionRested (p := p) job
  have rested := tget_jobs_restPage (p := p) (fun e => { e with version := e.version + 1 })
    ((congrArg (tget · j) (dropFlight_jobs (.evict j p) s)).trans job)
  unfold evictionRested at oldest
  unfold evictDone evictionRested
  simp only [evicting, ne_eq, not_true, if_false, oldest, rested, Option.map_some, Option.getD_some]
  cases b.tier.frameWaits with
  | nil => rfl
  | cons x rest => rfl

/-- Settles O21, by the cases of an attach, a move, a chunk, an eviction's end and a fold. -/
theorem pagesMoveBetweenTiers : Obligations.PagesMoveBetweenTiers := by
  unfold Obligations.PagesMoveBetweenTiers
  refine ⟨?commands, ?events⟩
  case commands =>
    intro s ctx m j b t first count
    refine ⟨?attach, ?fetch, ?evict, ?resume⟩
    case attach =>
      intro live job front whole nonempty few clean unattached named room
      rw [exec_of_front (c := .steppeAttach ctx) rfl front,
        steppeAttachBody_fits ⟨live, job, whole, nonempty, few, clean, unattached⟩ named room]
    case fetch =>
      intro live front selected inside
      rw [exec_tierMoveFetch, tierMove_selected false front selected, tierMoveBody_inside false live inside]
      rfl
    case evict =>
      intro live front selected inside
      rw [exec_tierMoveEvict, tierMove_selected true front selected, tierMoveBody_inside true live inside]
      rfl
    case resume =>
      intro p rest ready job waits
      rw [exec_of_alive (c := .fetchFrameResume j) rfl ready, frameResume_waiting job waits]
  case events =>
    intro s j p b ready job
    refine ⟨?chunk, ?badChunk, ?eviction, ?fold⟩
    case chunk =>
      intro f c a record data fetch inPage new place whole opened
      have h : ChunkAwaited s j p c b f := ⟨job, fetch, inPage, new⟩
      rw [exec_of_alive (c := .steppeChunkArrival j p c record) rfl ready]
      exact ⟨fun more => by rw [chunkArrives_more h opened place whole more],
        fun last => by rw [chunkArrives_last h opened place whole last]⟩
    case badChunk =>
      intro f c record fetch inPage new bad
      rw [exec_of_alive (c := .steppeChunkArrival j p c record) rfl ready, chunkArrives_fails ⟨job, fetch, inPage, new⟩ bad]
      rfl
    case eviction =>
      intro u w evicting
      rw [exec_of_alive (c := .evictionComplete j p) rfl ready, evictDone_evicting job evicting]
      rfl
    case fold => exact exec_of_alive rfl ready

end Sys2Proof.Proofs

/-! SUPPORT. What one step keeps of the byte memories: a command does on the state with the queue's rest, and an idle period on the state
itself; O4 is read off the relation that both keep. -/

namespace Sys2Proof.Proofs

open Sys2Proof Sys2Proof.Machine Sys2Proof.Laws

variable {s t : State}

/-- A state that follows one whose memories are canonical has canonical memories. -/
theorem memoriesWf_of_follows (wf : memoriesWf s) (h : Follows s t) : memoriesWf t := by
  obtain ⟨vale, tiles⟩ := wf
  exact ⟨h.mem vale, h.cores tiles⟩

/-- What a step answers follows its state, but for the command that has left the queue. -/
theorem step_follows (e : step s = .next t) : ∃ rest, Follows { s with pending := rest } t := by
  unfold step at e
  split at e
  next => exact ⟨s.pending, by cases e; exact idle_follows (.refl s)⟩
  next c rest _ => exact ⟨rest, exec_follows e⟩

/-- Settles O4: a step follows its state, and the queue is no memory. -/
theorem memoriesStayCanonical : Obligations.MemoriesStayCanonical := by
  unfold Obligations.MemoriesStayCanonical
  intro s t wf e
  obtain ⟨rest, follows⟩ := step_follows e
  have dequeued : memoriesWf { s with pending := rest } := wf
  exact memoriesWf_of_follows dequeued follows

end Sys2Proof.Proofs

/-! SUPPORT. The write of a line: what a masked write leaves at each address, and what a write that waits for nothing leaves of Vale's
bytes and of the line's metadata (R321); O43 is assembled from them. -/

namespace Sys2Proof.Proofs

open Sys2Proof Sys2Proof.Machine Sys2Proof.Laws

/-! ### Bytes under a mask -/

/-- A masked write of the bytes from byte `i` of a line on: their addresses whose mask bit is set hold them, every other is as before. -/
theorem maskedWrite_read_from {m : Memory} (wf : m.wf = true) (base mask i : Nat) (data : Bytes) (a : Nat) :
    (maskedWrite m base mask i data).read a =
      if base + i ≤ a ∧ a < base + i + data.length ∧ bit mask (a - base) = true then data.getD (a - base - i) 0 else m.read a := by
  induction data generalizing m i with
  | nil =>
    have outside : ¬ (base + i ≤ a ∧ a < base + i + ([] : Bytes).length ∧ bit mask (a - base) = true) := by
      rw [List.length_nil]; omega
    rw [maskedWrite, if_neg outside]
  | cons b data ih =>
    have kept : (if bit mask i = true then m.write (base + i) b else m).wf = true := by
      split
      · exact Memory_write_wf _ _ wf
      · exact wf
    have others (c : Nat) (other : c ≠ base + i) : (if bit mask i = true then m.write (base + i) b else m).read c = m.read c := by
      split
      · exact Memory_read_write_other m _ c b other
      · rfl
    rw [maskedWrite, ih kept, List.length_cons]
    obtain below | rfl | above := Nat.lt_trichotomy a (base + i)
    · have low : ¬ base + i ≤ a := by omega
      have low' : ¬ base + (i + 1) ≤ a := by omega
      simp only [low, low', false_and, if_false, others a (by omega)]
    · have low : ¬ base + (i + 1) ≤ base + i := by omega
      have high : base + i < base + i + (data.length + 1) := by omega
      simp only [low, high, Nat.le_refl, false_and, true_and, if_false, Nat.add_sub_cancel_left, Nat.sub_self, List.getD_cons_zero]
      split
      · exact Memory_read_write_same m _ b wf
      · rfl
    · have low : base + (i + 1) ≤ a ↔ base + i ≤ a := by omega
      have high : a < base + (i + 1) + data.length ↔ a < base + i + (data.length + 1) := by omega
      have next : a - base - i = a - base - (i + 1) + 1 := by omega
      simp only [low, high, next, List.getD_cons_succ, others a (by omega)]

theorem maskedWrite_read {m : Memory} (wf : m.wf = true) (base mask : Nat) (data : Bytes) (a : Nat) :
    (maskedWrite m base mask 0 data).read a =
      if base ≤ a ∧ a < base + data.length ∧ bit mask (a - base) = true then data.getD (a - base) 0 else m.read a := by
  simpa only [Nat.add_zero, Nat.sub_zero] using maskedWrite_read_from wf base mask 0 data a

/-! ### The write of a line -/

variable {s u : State} {l mask : Nat} {data : Bytes}

/-- A copy before a write (R528) leaves Vale. -/
theorem spillUnit_vale (l : Nat) (s : State) : (spillUnit l s).1.vale = s.vale := by
  unfold spillUnit
  split
  · rfl
  · split
    · rfl
    · split
      · split
        · rfl
        · exact modJob_vale _ _ s
      · rfl

theorem joinQueue_lineMeta (r : Nat) (v : Vale) : (joinQueue r v).lineMeta = v.lineMeta := by
  unfold joinQueue
  split <;> rfl

/-- The key id under which a line is written: its region's. -/
def lineKeyId (s : State) (l : Nat) : Nat := (regionOf s (lineRegion l)).key

/-- A write that goes ahead: it fails no read where it is of part of its line, the line's counter is not exhausted under its region's key
id, and the line's unit is copied where a capture needs it. -/
structure GoesAhead (s : State) (x : Blocked) (l : Nat) (u : State) : Prop where
  line : x.address / 256 = l
  verifies : x.mask = fullMask ∨ lineBad s l = false
  counts : ¬ ((metaOf s l).2 = lineKeyId s l ∧ (metaOf s l).1 = 0xFFFFFFFF)
  copied : spillUnit l s = (u, true)

theorem answerVale_mem (req : Option ValeReq) (status : Nat) (data : Bytes) (s : State) :
    (answerVale req status data s).vale.mem = s.vale.mem := by
  cases req <;> rfl

theorem answerVale_lineMeta (req : Option ValeReq) (status : Nat) (data : Bytes) (s : State) :
    (answerVale req status data s).vale.lineMeta = s.vale.lineMeta := by
  cases req <;> rfl

theorem valeLineWrite_free (free : mustWait l s = false) : valeLineWrite l mask data s = performWrite (writeOf l mask data) s :=
  if_neg (by rw [free]; exact Bool.noConfusion)

section

variable {x : Blocked} (h : GoesAhead s x l u)

include h

/-- What such a write leaves of Vale's bytes and metadata. -/
theorem performWrite_vale : (performWrite x s).vale.mem = maskedWrite s.vale.mem (l * 256) x.mask 0 x.data ∧
    (performWrite x s).vale.lineMeta = tsetD s.vale.lineMeta l (nextMeta (metaOf s l) (lineKeyId s l)) (0, 0) := by
  obtain ⟨rfl, verifies, counts, copied⟩ := h
  have whole : ¬ (x.mask ≠ fullMask ∧ lineBad s (x.address / 256) = true) := fun ⟨part, bad⟩ =>
    verifies.elim part (by rw [bad]; exact Bool.noConfusion)
  have vale : u.vale = s.vale := by rw [← spillUnit_vale (x.address / 256) s, copied]
  unfold lineKeyId at counts ⊢
  unfold performWrite
  dsimp only
  rw [if_neg whole, if_neg counts, copied, ← vale]
  dsimp only
  rw [answerVale_mem, answerVale_lineMeta]
  split
  · exact ⟨joinQueue_mem _ _, joinQueue_lineMeta _ _⟩
  · exact ⟨rfl, rfl⟩

theorem performWrite_read (whole : x.data.length = 256) (wf : s.vale.mem.wf = true) (a : Nat) : (performWrite x s).vale.mem.read a =
    if l * 256 ≤ a ∧ a < l * 256 + 256 ∧ bit x.mask (a - l * 256) = true then x.data.getD (a - l * 256) 0
    else s.vale.mem.read a := by
  rw [(performWrite_vale h).1, maskedWrite_read wf, whole]

theorem metaOf_performWrite_other {k : Nat} (other : k ≠ l) : metaOf (performWrite x s) k = metaOf s k := by
  unfold metaOf tgetD
  rw [(performWrite_vale h).2]
  unfold tsetD
  split
  · rw [tget_terase_other _ _ _ other]
  · rw [tget_tset_other _ _ _ _ other]

/-- Under a key id that is not the vacant one the new metadata is listed. -/
theorem metaOf_performWrite_same (keyed : lineKeyId s l ≠ 0) :
    metaOf (performWrite x s) l = nextMeta (metaOf s l) (lineKeyId s l) := by
  have key : (nextMeta (metaOf s l) (lineKeyId s l)).2 = lineKeyId s l := by
    unfold nextMeta
    split <;> rfl
  have listed : nextMeta (metaOf s l) (lineKeyId s l) ≠ (0, 0) := fun vacant => keyed (by rw [← key, vacant])
  rw [metaOf, (performWrite_vale h).2, tsetD, if_neg listed, tgetD, tget_tset_same, Option.getD_some]

end

/-- Settles O43, by what the write leaves of the bytes, of the line's metadata and of the other lines'. -/
theorem lineWritesStoreTheirMask : Obligations.LineWritesStoreTheirMask := by
  unfold Obligations.LineWritesStoreTheirMask
  intro s u l mask data wf length free verifies keyed counts copied t
  have written : t = performWrite (writeOf l mask data) s := valeLineWrite_free free
  have ahead : GoesAhead s (writeOf l mask data) l u := ⟨Nat.mul_div_cancel l (by decide), verifies, counts, copied⟩
  rw [written]
  refine ⟨fun a => ?bytes, ?line, fun k other => metaOf_performWrite_other ahead other⟩
  case bytes => exact performWrite_read ahead length wf a
  case line => exact metaOf_performWrite_same ahead keyed

end Sys2Proof.Proofs

/-! SUPPORT. Re-key sweeps and key ids: how a sweep begins, what it does with its next line, which held request goes on, and how a key id
retires and is freed, one equation per case of R330 to R336; O44 is assembled from them. -/

namespace Sys2Proof.Proofs

open Sys2Proof Sys2Proof.Machine Sys2Proof.Laws

variable {s u : State} {r j k : Nat} {b : Job} {w : Sweep} {first second : Fetch}

/-! ### The start of a sweep (R331, R332) -/

/-- A region whose sweep may start: the first of the queue with no sweep in progress, and of a job that is not in teardown. -/
structure SweepReady (s : State) (r j : Nat) (b : Job) : Prop where
  head : ∃ rest, s.vale.sweepQueue = r :: rest
  unswept : s.vale.sweep = none
  owner : (regionOf s r).owner = some j
  job : tget s.jobs j = some b
  lives : b.teardown = none

section

variable (h : SweepReady s r j b)

include h

theorem sweepStart_begins (newer : b.keys.newest ≠ (regionOf s r).key) : sweepStart s = beginSweep r b.keys.newest s := by
  obtain ⟨rest, head⟩ := h.head
  simp only [sweepStart, head, h.unswept, h.owner, h.job, h.lives, Option.isSome_none, Bool.false_eq_true, if_false, if_pos newer]

theorem sweepStart_allocates (current : b.keys.newest = (regionOf s r).key) (coming : sweepKeyComing s j = false)
    (mirrors : s.ledger.mirrorFault = false) (free : freeKeyId s = some k) : sweepStart s = allocSweepKey j k b s := by
  obtain ⟨rest, head⟩ := h.head
  simp only [sweepStart, head, h.unswept, h.owner, h.job, h.lives, Option.isSome_none, Bool.false_eq_true, if_false, current, ne_eq,
    not_true, coming, mirrors, or_self, free]

end

theorem exec_sweepStart (ready : alive s = true) (settled : s.fw.activating = none) : exec .sweepStart s = .next (sweepStart s) :=
  congrArg Host.Outcome.next (if_pos (by rw [ready, settled]; rfl))

/-! ### Its next line (R332, R334) -/

/-- The line of a sweep that is next. -/
def sweepLine (w : Sweep) : Nat := w.region * 2 ^ 22 + w.next

/-- A line moved under a key id with counter 0. -/
def lineMoved (l target : Nat) (s : State) : State :=
  { s with vale := { s.vale with lineMeta := tsetD s.vale.lineMeta l (0, target) (0, 0) } }

/-- What a sweep makes of a line: nothing where it is under the target already, a move where it verifies, else a failure. -/
inductive LineSwept (s : State) (first second : Fetch) (l target : Nat) : State → Prop where
  | under (same : (metaOf s l).2 = target) : LineSwept s first second l target s
  | moved {f : State} (old : (metaOf s l).2 ≠ target) (read : readLine l first second s = (f, true)) :
    LineSwept s first second l target (lineMoved l target f)
  | failed {f : State} (old : (metaOf s l).2 ≠ target) (read : readLine l first second s = (f, false)) :
    LineSwept s first second l target (lineFails l 2 none f)

/-- A sweep past its last line: the region's lines are all under its key id. -/
def sweepEnded (w : Sweep) (s : State) : State :=
  modRegion w.region (fun x => { x with previous := none }) { s with vale := { s.vale with sweep := none } }

/-- A sweep past a line that is not its last; the cursor is stored every 4,096 lines. -/
def sweepAdvanced (w : Sweep) (s : State) : State :=
  { s with vale := { s.vale with
      sweep := some { w with next := w.next + 1, cursor := if (w.next + 1) % 4096 = 0 then w.next + 1 else w.cursor } } }

/-- A step that has its line's tag sweeps the line, and goes on or ends. -/
theorem sweepStep_swept (sweeps : s.vale.sweep = some w) (tag : tagFree s (sweepLine w) = true)
    (swept : LineSwept s first second (sweepLine w) (regionOf s w.region).key u) : sweepStep first second s =
      if w.next + 1 = 2 ^ 22 then sweepEnded w u else sweepAdvanced w u := by
  unfold sweepLine at tag swept
  unfold sweepStep
  cases swept with
  | under same => simp only [sweeps, tag, not_true, if_false, same, if_true, sweepEnded, sweepAdvanced]
  | moved old read => simp only [sweeps, tag, not_true, if_false, if_neg old, read, if_true, sweepEnded, sweepAdvanced, lineMoved]
  | failed old read =>
    simp only [sweeps, tag, not_true, if_false, if_neg old, read, Bool.false_eq_true, sweepEnded, sweepAdvanced]

theorem exec_sweepStep (ready : alive s = true) (settled : s.fw.activating = none) :
    exec (.sweepStep first second) s = .next (settle (sweepStep first second s)) :=
  congrArg Host.Outcome.next (if_pos (by rw [ready, settled]; rfl))

/-! ### Held requests that go on (R312, R335, R339) -/

/-- A held request has left its controller's books, and the tag that it held is free. -/
def heldLeft (x : Blocked) (s : State) : State :=
  let t := { s with vale := { s.vale with blocked := s.vale.blocked.erase x } }
  if x.tag then freeTagOf (pchanOf (x.address / 256)) t else t

theorem resumeBlocked_oldest {x : Blocked} (oldest : (s.vale.blocked.find? fun x => mayResume s x) = some x) :
    resumeBlocked s = endStall x.region (performHeld { x with tag := false } (heldLeft x s)) := by
  simp only [resumeBlocked, oldest, heldLeft]

/-! ### Key ids (R336) -/

theorem keyIdRetire_unused {x : KeyId} (key : tget s.vale.keyIds k = some x) (active : x.retiring = false)
    (unused : keyUnused s k = true) :
    keyIdRetire k s = { s with vale := { s.vale with keyIds := tset s.vale.keyIds k { x with retiring := true } } } := by
  simp only [keyIdRetire, key, active, unused, Bool.false_eq_true, not_true, or_self, if_false]

/-- A key id that is free, its slot destroyed before. -/
def keyIdLeft (k : Nat) (s : State) : State :=
  let u := destroySlot 3 (15 + k) s
  { u with vale := { u.vale with keyIds := terase u.vale.keyIds k } }

theorem keyIdFree_retiring {x : KeyId} (key : tget s.vale.keyIds k = some x) (retiring : x.retiring = true) : keyIdFree k s =
    ledgerSelf 0x05 1 (partOf x.job) false (((tget (keyIdLeft k s).jobs x.job).map (·.id)).getD 0) (leBytes 1 k) (keyIdLeft k s) := by
  simp only [keyIdFree, key, retiring, not_true, if_false, keyIdLeft]

/-- Settles O44, by the cases of a sweep's start and of its next line, of a held request and of a key id. -/
theorem sweepsMoveLines : Obligations.SweepsMoveLines := by
  unfold Obligations.SweepsMoveLines
  intro s ready
  refine ⟨?start, ?line, ?resume, ?retire, ?free⟩
  case start =>
    intro r rest j b settled head unswept owner job lives
    have h : SweepReady s r j b := ⟨⟨rest, head⟩, unswept, owner, job, lives⟩
    rw [exec_sweepStart ready settled]
    refine ⟨fun newer => ?_, fun k current coming mirrors free => ?_⟩
    · rw [sweepStart_begins h newer]
    · rw [sweepStart_allocates h current coming mirrors free]
  case line =>
    intro w u first second settled sweeps l target tag outcome
    have swept : LineSwept s first second l target u := by
      obtain ⟨same, rfl⟩ | ⟨old, f, read, rfl⟩ | ⟨old, f, read, rfl⟩ := outcome
      · exact .under same
      · exact .moved old read
      · exact .failed old read
    rw [exec_sweepStep ready settled, sweepStep_swept sweeps tag swept]
    refine ⟨fun more => ?_, fun last => ?_⟩
    · rw [if_neg more]
      rfl
    · rw [if_pos last]
      rfl
  case resume =>
    intro x oldest
    rw [exec_of_alive (c := .blockedWriteResume) rfl ready, resumeBlocked_oldest oldest]
    rfl
  case retire =>
    intro k x key active unused
    rw [exec_of_alive (c := .keyIdRetire k) rfl ready, keyIdRetire_unused key active unused]
  case free =>
    intro k x key retiring
    rw [exec_of_alive (c := .keyIdFree k) rfl ready, keyIdFree_retiring key retiring]
    rfl

end Sys2Proof.Proofs

/-! SUPPORT. Link-control packets and timers of a Pass port: when a port takes one, what a HELLO settles, and what an uncorrectable codeword
leaves, one equation per case of R354, R355, R359 and R360; O46 is assembled from them. -/

namespace Sys2Proof.Proofs

open Sys2Proof Sys2Proof.Machine Sys2Proof.Laws

variable {s : State} {n k : Nat} {b : Bytes}

/-! ### What a port takes -/

theorem isPort_of_lt (port : n < 32) : isPort n = true := decide_eq_true port

theorem upPort_of_up {p : PassPort} (up : p.st = .up) : upPort p = true := beq_iff_eq.2 up

/-- A link-control packet of a subtype reaches a port of a Proend with main power and its rails. -/
structure ControlReaches (s : State) (n : Nat) (b : Bytes) (subtype : Nat) : Prop where
  power : s.power.mainPower = true
  rails : s.power.railsOn = true
  port : n < 32
  length : b.length = 32
  control : rd b 0 1 = 0
  subtype : rd b 1 1 = subtype

/-- A port whose state takes such a packet runs its effect. -/
theorem onControl_taken (h : ControlReaches s n b k) {ok : PassPort → Bool} (takes : ok (portAt s n) = true)
    (f : PassPort → State → State) : onControl n b k ok f s = f (portAt s n) s := by
  have control : isControl b k = true := by simp only [isControl, h.length, h.control, h.subtype, beq_self_eq_true, Bool.and_self]
  unfold onControl
  simp only [h.power, h.rails, isPort_of_lt h.port, control, takes, Bool.and_self, if_true]

/-- A port of the 32 whose rails are on. -/
structure PortPowered (s : State) (n : Nat) : Prop where
  rails : s.power.railsOn = true
  port : n < 32

theorem PortPowered.powered (h : PortPowered s n) : (s.power.railsOn && isPort n) = true := by
  rw [h.rails, isPort_of_lt h.port]; rfl

/-- A port that its timers and its codewords act on. -/
structure PortRuns (s : State) (n : Nat) : Prop extends PortPowered s n where
  up : (portAt s n).st = .up

theorem PortRuns.runs (h : PortRuns s n) : (s.power.railsOn && isPort n && upPort (portAt s n)) = true := by
  rw [h.powered, upPort_of_up h.up]; rfl

theorem onTimer_runs (h : PortRuns s n) (f : PassPort → State → State) : onTimer n f s = f (portAt s n) s := if_pos h.runs

/-! ### HELLO (R359, R360) -/

/-- The version settled: PLP 2 where the peer marks it, else PLP 1 where the peer marks it and the port is a mixed one. -/
theorem commonPlp_marked (v : Nat) : commonPlp (markedVersions s n) v =
    if bit v 2 = true then 2 else if bit v 1 = true ∧ portRole s n = 2 then 1 else 0 := by
  have own2 : bit 6 2 = true ∧ bit 6 1 = true ∧ bit 4 2 = true ∧ bit 4 1 = false := by decide
  obtain ⟨mixed2, mixed1, fabric2, fabric1⟩ := own2
  unfold commonPlp markedVersions
  by_cases role : portRole s n = 2
  · simp only [role, if_true, mixed2, mixed1, Bool.true_and, and_true]
  · simp only [role, if_false, fabric2, fabric1, Bool.true_and, Bool.false_and, and_false, Bool.false_eq_true]

/-- The version that a HELLO settles on a port. -/
def helloVersion (s : State) (n : Nat) (b : Bytes) : Nat := commonPlp (markedVersions s n) (rd b 2 1)

theorem helloVersion_two (two : bit (rd b 2 1) 2 = true) : helloVersion s n b = 2 := by
  rw [helloVersion, commonPlp_marked, if_pos two]

theorem helloVersion_one (two : ¬ bit (rd b 2 1) 2 = true) (one : bit (rd b 2 1) 1 = true ∧ portRole s n = 2) :
    helloVersion s n b = 1 := by
  rw [helloVersion, commonPlp_marked, if_neg two, if_pos one]

theorem helloVersion_none (two : ¬ bit (rd b 2 1) 2 = true) (one : ¬ (bit (rd b 2 1) 1 = true ∧ portRole s n = 2)) :
    helloVersion s n b = 0 := by
  rw [helloVersion, commonPlp_marked, if_neg two, if_neg one]

/-- A version that a link of its rate runs: any but PLP 2 on a half-rate link (R360). -/
def VersionFits (s : State) (n : Nat) (b : Bytes) : Prop :=
  helloVersion s n b ≠ 0 ∧ ¬ (helloVersion s n b = 2 ∧ (portAt s n).half = true)

/-- The peer that a HELLO names is kept on the port. -/
def peerKept (n : Nat) (b : Bytes) (s : State) : State :=
  modPort n (fun p => { p with peer := rd b 4 3 % 2 ^ 20, peerValid := true }) s

theorem helloArrives_settles (fits : VersionFits s n b) (other : rd b 4 3 % 2 ^ 20 ≠ deviceAddress s) : helloArrives n b s =
    modPort n (fun p => { p with plp := helloVersion s n b, helloSeen := true }) (peerKept n b s) := by
  obtain ⟨common, rate⟩ := fits
  have passes : helloFailure s n b = none := by
    unfold helloVersion at common rate
    simp only [helloFailure, if_neg common, if_neg rate, if_neg other]
  rw [helloArrives, passes]
  rfl

theorem helloArrives_fails {c : Nat} (fails : helloFailure s n b = some c) : helloArrives n b s =
    portDown n c (modPort n (fun p => { p with helloFails := p.helloFails + 1 }) (peerKept n b s)) := by
  rw [helloArrives, fails]
  rfl

theorem helloFailure_no_version (none : helloVersion s n b = 0) : helloFailure s n b = some 5 := if_pos none

theorem helloFailure_half_rate (two : helloVersion s n b = 2) (half : (portAt s n).half = true) : helloFailure s n b = some 6 := by
  have some : helloVersion s n b ≠ 0 := by rw [two]; decide
  exact (if_neg some).trans (if_pos ⟨two, half⟩)

theorem helloFailure_own_address (fits : VersionFits s n b) (own : rd b 4 3 % 2 ^ 20 = deviceAddress s) : helloFailure s n b = some 7 :=
  (if_neg fits.1).trans ((if_neg fits.2).trans (if_pos own))

/-! ### An uncorrectable codeword (R354, R599) -/

/-- The codeword is counted, in its second as well, and a NAK names the last packet accepted. -/
def codewordNoted (n : Nat) (s : State) : State :=
  sendControl n 5 (leBytes 2 (portAt s n).inSeq) (modPort n (fun p => { p with
    second := s.timeNs / 1000000000
    codewords := (if p.second = s.timeNs / 1000000000 then p.codewords else 0) + 1
    nakSent := true }) (bumpPort n 0 s))

section

variable (h : PortRuns s n) (vc units : Nat)

include h

theorem badCodeword_alone : badCodeword n vc units none s = settle (evalWarnings (codewordNoted n s)) := by
  simp only [badCodeword, h.runs, not_true, if_false]
  rfl

/-- The copy that had begun to leave by a port is aborted while that port is up (R355). -/
theorem badCodeword_forwarded : badCodeword n vc units (some k) s = settle (evalWarnings
    (if isPort k && upPort (portAt (codewordNoted n s) k) then abortCopy k vc units (codewordNoted n s) else codewordNoted n s)) := by
  simp only [badCodeword, h.runs, not_true, if_false]
  rfl

theorem badCodeword_aborts (port : k < 32) (up : (portAt (codewordNoted n s) k).st = .up) :
    badCodeword n vc units (some k) s = settle (evalWarnings (abortCopy k vc units (codewordNoted n s))) := by
  rw [badCodeword_forwarded h, isPort_of_lt port, upPort_of_up up]
  rfl

theorem badCodeword_gone (gone : (portAt (codewordNoted n s) k).st ≠ .up) :
    badCodeword n vc units (some k) s = settle (evalWarnings (codewordNoted n s)) := by
  have stopped : upPort (portAt (codewordNoted n s) k) = false := beq_eq_false_iff_ne.2 gone
  rw [badCodeword_forwarded h, stopped, Bool.and_false]
  rfl

end

/-! ### The commands -/

theorem exec_plpHello (h : ControlReaches s n b 1) (trains : (portAt s n).st = .training) (step : (portAt s n).step = 5)
    (first : (portAt s n).helloSeen = false) : exec (.plpHello n b) s = .next (settle (checkReady (helloArrives n b s))) := by
  have takes : ((portAt s n).st == .training && (portAt s n).step == 5 && !(portAt s n).helloSeen) = true := by
    rw [trains, step, first]; rfl
  exact congrArg (fun t => Host.Outcome.next (settle t)) (onControl_taken h takes _)

theorem exec_creditInit (h : ControlReaches s n b 2) (trains : (portAt s n).st = .training) (step : (portAt s n).step = 6)
    (first : (portAt s n).initSeen = false) : exec (.creditInit n b) s = .next
      (modPort n (fun p => { p with credits := countTab (readCounts b), initSeen := true }) (ackUpTo n (rd b 2 2) s)) := by
  have takes : ((portAt s n).st == .training && (portAt s n).step == 6 && !(portAt s n).initSeen) = true := by
    rw [trains, step, first]; rfl
  exact congrArg Host.Outcome.next (onControl_taken h takes _)

section

variable (up : (portAt s n).st = .up)

include up

theorem exec_creditReturn (h : ControlReaches s n b 3) : exec (.creditReturn n b) s =
    .next (settle (drainPort n (modPort n (fun p => { p with
      credits := (readCounts b).zipIdx.foldl (fun t x => tsetD t x.2 (tgetD t x.2 0 + x.1) 0) p.credits }) s))) :=
  congrArg (fun t => Host.Outcome.next (settle t)) (onControl_taken h (upPort_of_up up) _)

theorem exec_ack (h : ControlReaches s n b 4) :
    exec (.ack n b) s = .next (settle (drainPort n (ackUpTo n (rd b 2 2) s))) :=
  congrArg (fun t => Host.Outcome.next (settle t)) (onControl_taken h (upPort_of_up up) _)

theorem exec_nak (h : ControlReaches s n b 5) :
    exec (.nak n b) s = .next (settle (drainPort n (resend n (ackUpTo n (rd b 2 2) s)))) :=
  congrArg (fun t => Host.Outcome.next (settle t)) (onControl_taken h (upPort_of_up up) _)

theorem exec_idle (h : ControlReaches s n b 6) : exec (.idle n b) s = .next s :=
  congrArg Host.Outcome.next (onControl_taken h (upPort_of_up up) _)

end

/-- The units that a credit return gives back, channel by channel. -/
def unitsGiven (p : PassPort) : List Nat := (List.range 8).map fun vc => min 65535 (tgetD p.toReturn vc 0)

section

variable (h : PortRuns s n)

include h

theorem exec_ackTimer : exec (.ackTimer n) s = .next (sendControl n 4 (leBytes 2 (portAt s n).inSeq) s) :=
  congrArg Host.Outcome.next (onTimer_runs h _)

theorem exec_creditReturnTimer : exec (.creditReturnTimer n) s = .next (if (portAt s n).toReturn.isEmpty then s else
    sendControl n 3 (countFields 0 (unitsGiven (portAt s n))) (modPort n (fun p => { p with
      toReturn := (unitsGiven (portAt s n)).zipIdx.foldl (fun t x => tsetD t x.2 (tgetD t x.2 0 - x.1) 0) p.toReturn }) s)) :=
  congrArg Host.Outcome.next (onTimer_runs h _)

theorem exec_idleTimer : exec (.idleTimer n) s =
    .next (if (portAt s n).queues.all fun q => q.2.isEmpty then sendControl n 6 [] s else s) :=
  congrArg Host.Outcome.next (onTimer_runs h _)

theorem exec_abortMarker {vc : Nat} (channel : vc < 8) (units : Nat) : exec (.abortMarker n vc units) s =
    .next (modPort n (fun p => { p with
      inSeq := (p.inSeq + 1) % 65536, toReturn := tsetD p.toReturn vc (tgetD p.toReturn vc 0 + units) 0 }) s) := by
  have takes : (s.power.railsOn && isPort n && upPort (portAt s n) && decide (vc < 8)) = true := by
    rw [h.runs, decide_eq_true channel]; rfl
  exact congrArg Host.Outcome.next (if_pos takes)

end

theorem exec_uncorrectableCodeword (vc units : Nat) (forwarded : Option Nat) :
    exec (.uncorrectableCodeword n vc units forwarded) s = .next (badCodeword n vc units forwarded s) := rfl

/-- Settles O46, by the subtype of a link-control packet, the outcome of a HELLO, the timers, and the two ways in which a packet is cut
short. -/
theorem linksKeepTheirPackets : Obligations.LinksKeepTheirPackets := by
  unfold Obligations.LinksKeepTheirPackets
  refine ⟨?packets, ?timers⟩
  case packets =>
    intro s n b power rails port length control p peer two one seen
    have reaches {k : Nat} (subtype : rd b 1 1 = k) : ControlReaches s n b k := ⟨power, rails, port, length, control, subtype⟩
    refine ⟨?hello, ?init, ?up⟩
    case hello =>
      intro subtype trains step first fails
      have fails_of {c : Nat} (h : helloFailure s n b = some c) : fails c := by
        show exec (.plpHello n b) s = _
        rw [exec_plpHello (reaches subtype) trains step first, helloArrives_fails h]
        rfl
      have settles_of {v : Nat} (version : helloVersion s n b = v) (fits : VersionFits s n b) (other : peer ≠ deviceAddress s) :
          exec (.plpHello n b) s = .next (settle (checkReady (modPort n (fun p => { p with plp := v, helloSeen := true }) seen))) := by
        rw [exec_plpHello (reaches subtype) trains step first, helloArrives_settles fits other, version]
        rfl
      have full_rate (h : two) (whole : p.half = false) : VersionFits s n b :=
        ⟨by rw [helloVersion_two h]; decide, fun half => Bool.eq_false_iff.1 whole half.2⟩
      have old_link (h : ¬ two) (h1 : one) : VersionFits s n b := by
        rw [VersionFits, helloVersion_one h h1]; omega
      refine ⟨?_, ?_, ?_, ?_, ?_⟩
      · exact fun h whole other => settles_of (helloVersion_two h) (full_rate h whole) other
      · exact fun h h1 other => settles_of (helloVersion_one h h1) (old_link h h1) other
      · exact fun h h1 => fails_of (helloFailure_no_version (helloVersion_none h h1))
      · exact fun h half => fails_of (helloFailure_half_rate (helloVersion_two h) half)
      · exact fun h own => fails_of (helloFailure_own_address (h.elim (fun h => full_rate h.1 h.2) (fun h => old_link h.1 h.2)) own)
    case init => exact fun subtype trains step first => exec_creditInit (reaches subtype) trains step first
    case up =>
      exact fun up => ⟨fun subtype => exec_creditReturn up (reaches subtype), fun subtype => exec_ack up (reaches subtype),
        fun subtype => exec_nak up (reaches subtype), fun subtype => exec_idle up (reaches subtype)⟩
  case timers =>
    intro s n rails port up p
    have runs : PortRuns s n := ⟨⟨rails, port⟩, up⟩
    refine ⟨exec_ackTimer runs, ?none, ?units, ?idle, ?busy, fun vc units channel => exec_abortMarker runs channel units, ?codeword⟩
    case none =>
      intro none
      rw [exec_creditReturnTimer runs, if_pos (List.isEmpty_iff.2 none)]
    case units =>
      intro some give
      rw [exec_creditReturnTimer runs, if_neg (mt List.isEmpty_iff.1 some)]
      rfl
    case idle =>
      intro idle
      rw [exec_idleTimer runs, if_pos idle]
    case busy =>
      intro busy
      rw [exec_idleTimer runs, if_neg (Bool.eq_false_iff.1 busy)]
    case codeword =>
      intro vc units _ now noted
      refine ⟨?_, fun k kPort kUp => ?_, fun k gone => ?_⟩
      · rw [exec_uncorrectableCodeword, badCodeword_alone runs]
        rfl
      · rw [exec_uncorrectableCodeword, badCodeword_aborts runs vc units kPort kUp]
        rfl
      · rw [exec_uncorrectableCodeword, badCodeword_gone runs vc units gone]
        rfl

end Sys2Proof.Proofs

/-! SUPPORT. Training of Pass ports: how it begins, the end of each step, a failed attempt and the loss of a peer, one equation per case of
R356 to R358 and R384 to R386; O47 is assembled from them. -/

namespace Sys2Proof.Proofs

open Sys2Proof Sys2Proof.Machine Sys2Proof.Laws

variable {s : State} {n : Nat}

/-! ### What acts on a port -/

/-- A port that trains. -/
structure PortTrains (s : State) (n : Nat) : Prop extends PortPowered s n where
  trains : (portAt s n).st = .training

theorem PortTrains.training (h : PortTrains s n) : (s.power.railsOn && isPort n && (portAt s n).st == .training) = true := by
  rw [h.powered, h.trains]; rfl

/-! ### How training begins (R356, R358) -/

theorem exec_portTraining (h : PortPowered s n) (lit : (portAt s n).lit = true) (role : portRole s n ≠ 0)
    (dark : (portAt s n).st = .dark) : exec (.portTraining n) s = .next (beginFull n s) := by
  have takes : (s.power.railsOn && isPort n && (portAt s n).lit && (portAt s n).st == .dark && portRole s n != 0) = true := by
    rw [h.powered, lit, dark, bne_iff_ne.2 role]; rfl
  exact congrArg Host.Outcome.next (if_pos takes)

theorem exec_fullTrainingRetry (h : PortPowered s n) (lit : (portAt s n).lit = true) (role : portRole s n ≠ 0)
    (down : (portAt s n).st = .down) : exec (.fullTrainingRetry n) s = .next (beginFull n s) := by
  have takes : (s.power.railsOn && isPort n && (portAt s n).st == .down && (portAt s n).lit && portRole s n != 0) = true := by
    rw [h.powered, lit, down, bne_iff_ne.2 role]; rfl
  exact congrArg Host.Outcome.next (if_pos takes)

theorem exec_fastRetrain (h : PortRuns s n) : exec (.fastRetrain n) s = .next (beginFast n s) :=
  congrArg Host.Outcome.next (if_pos h.runs)

/-! ### The end of a step (R356, R358) -/

theorem exec_trainingStepDone (h : PortTrains s n) (rev : Bool) :
    exec (.trainingStepDone n rev) s = .next (settle (stepEnds n rev s)) :=
  congrArg Host.Outcome.next (if_pos h.training)

/-- A port goes into a step of its training. -/
def stepEntered (n k : Nat) (s : State) : State := modPort n (fun p => { p with step := k }) s

section

variable (rev : Bool)

theorem stepEnds_one (step : (portAt s n).step = 1) : stepEnds n rev s = stepEntered n 2 s := by
  rw [stepEnds, step]; rfl

theorem stepEnds_two (step : (portAt s n).step = 2) : stepEnds n rev s = stepEntered n (if (portAt s n).fast then 4 else 3) s := by
  rw [stepEnds, step]; rfl

theorem stepEnds_three (step : (portAt s n).step = 3) : stepEnds n rev s = stepEntered n 4 s := by
  rw [stepEnds, step]; rfl

theorem stepEnds_four (step : (portAt s n).step = 4) : stepEnds n rev s =
    sendControl n 1 (helloFields s n) (stepEntered n 5 (modPort n (fun p => { p with reversed := rev }) s)) := by
  rw [stepEnds, step]; rfl

theorem stepEnds_five (step : (portAt s n).step = 5) (hello : (portAt s n).helloSeen = true) : stepEnds n rev s =
    sendControl n 2 (countFields (portAt s n).inSeq (freeUnits s (portAt s n))) (stepEntered n 6 s) := by
  rw [stepEnds, step]; exact if_pos hello

theorem stepEnds_six (step : (portAt s n).step = 6) (init : (portAt s n).initSeen = true) : stepEnds n rev s = checkReady (portUp n s) := by
  rw [stepEnds, step]; exact if_pos init

end

/-- A port as it comes up. -/
def portRaised (n : Nat) (s : State) : State :=
  modPort n (fun p => { p with st := .up, step := 0, fast := false, fullFails := 0, lost := false, toReturn := [], nakSent := false }) s

theorem portUp_kept (kept : (portAt s n).lost = false) : portUp n s = drainPort n (resend n (portRaised n s)) := by
  rw [portUp, kept]; rfl

theorem portUp_lost (lost : (portAt s n).lost = true) : portUp n s = drainPort n (resend n (portEvent n 4 (portRaised n s))) := by
  rw [portUp, lost]; rfl

/-! ### A failed attempt (R357, R386) -/

theorem exec_clockLockTimeout (h : PortTrains s n) (step : (portAt s n).step = 2) (mixed : portRole s n = 2)
    (whole : (portAt s n).half = false) (full : (portAt s n).fast = false) :
    exec (.clockLockTimeout n) s = .next (modPort n (fun p => { p with half := true }) s) := by
  have takes : (s.power.railsOn && isPort n && (portAt s n).st == .training && (portAt s n).step == 2) = true := by
    rw [h.training, step]; rfl
  have repeats : portRole s n = 2 ∧ ¬ (portAt s n).half = true ∧ ¬ (portAt s n).fast = true :=
    ⟨mixed, Bool.eq_false_iff.1 whole, Bool.eq_false_iff.1 full⟩
  exact congrArg Host.Outcome.next ((if_pos takes).trans (if_pos repeats))

theorem exec_trainingStepTimeout (h : PortTrains s n) (other : (portAt s n).step ≠ 2 ∨ (portAt s n).fast = true) :
    exec (.trainingStepTimeout n) s = .next (settle (checkReady (attemptFails n s))) := by
  have takes : (s.power.railsOn && isPort n && (portAt s n).st == .training && ((portAt s n).step != 2 || (portAt s n).fast)) = true := by
    rw [h.training, Bool.true_and, Bool.or_eq_true, bne_iff_ne]
    exact other
  exact congrArg Host.Outcome.next (if_pos takes)

section

variable (full : (portAt s n).fast = false)

include full

theorem attemptFails_again (kept : (portAt s n).lost = false) (few : (portAt s n).fullFails < 2) : attemptFails n s =
    beginFull n (modPort n (fun p => { p with fullFails := p.fullFails + 1 }) s) := by
  simp only [attemptFails, full, kept, Bool.false_eq_true, if_false, if_neg (Nat.not_le.2 few)]

theorem attemptFails_third (kept : (portAt s n).lost = false) (third : 2 ≤ (portAt s n).fullFails) :
    attemptFails n s = portDown n 3 s := by
  simp only [attemptFails, full, kept, Bool.false_eq_true, if_false, if_pos third]

theorem attemptFails_lost (lost : (portAt s n).lost = true) :
    attemptFails n s = modPort n (fun p => { p with st := .down, step := 0 }) s := by
  simp only [attemptFails, full, lost, Bool.false_eq_true, if_false, if_true]

end

/-- The fast retrains that failed within the last second, with one that fails now. -/
def recentFails (s : State) (n : Nat) : List Nat :=
  ((portAt s n).fastFails.filter fun t => decide (s.timeNs < t + 1000000000)) ++ [s.timeNs]

section

variable (fast : (portAt s n).fast = true)

include fast

theorem attemptFails_retrains (few : (recentFails s n).length < 3) :
    attemptFails n s = beginFast n (modPort n (fun p => { p with fastFails := recentFails s n }) s) := by
  rw [attemptFails, if_pos fast]
  exact if_neg (Nat.not_le.2 few)

theorem attemptFails_full_training (third : 3 ≤ (recentFails s n).length) : attemptFails n s =
    beginFull n (modPort n (fun p => { p with fastFails := [] }) (modPort n (fun p => { p with fastFails := recentFails s n }) s)) := by
  rw [attemptFails, if_pos fast]
  exact if_pos third

end

/-! ### The loss of a peer (R384, R385) -/

theorem losePeer_held (h : PortPowered s n) (peer : (portAt s n).st = .up ∨ (portAt s n).st = .training ∧ (portAt s n).fast = true)
    (cause : Nat) : losePeer n cause s = settle (portDown n cause s) := by
  have held : hasPeer (portAt s n) = true := by
    rw [hasPeer, Bool.or_eq_true, Bool.and_eq_true, beq_iff_eq, beq_iff_eq]
    exact peer
  have takes : (s.power.railsOn && isPort n && hasPeer (portAt s n)) = true := by rw [h.powered, held]; rfl
  exact if_pos takes

theorem exec_lightAbsent {lane : Nat} (fits : lane < 4) : exec (.lightAbsent n lane) s = .next (losePeer n 1 s) :=
  congrArg Host.Outcome.next (if_pos fits)

theorem exec_noValidPacket : exec (.noValidPacket n) s = .next (losePeer n 2 s) := rfl

/-- Settles O47, by the step that ends, the attempt that fails, and the cause that takes the port down. -/
theorem portsTrain : Obligations.PortsTrain := by
  unfold Obligations.PortsTrain
  intro s n rails port p full go
  have powered : PortPowered s n := ⟨rails, port⟩
  have trains (training : p.st = .training) : PortTrains s n := ⟨powered, training⟩
  refine ⟨?begins, fun up => exec_fastRetrain ⟨powered, up⟩, ?steps, ?clock, ?attempt, ?fast, ?lost⟩
  case begins =>
    intro lit role
    exact ⟨fun dark => exec_portTraining powered lit role dark, fun down => exec_fullTrainingRetry powered lit role down⟩
  case steps =>
    intro training rev
    rw [exec_trainingStepDone (trains training)]
    refine ⟨fun step => ?_, fun step => ?_, fun step => ?_, fun step => ?_, fun step hello => ?_, fun step init kept => ?_,
      fun step init lost => ?_⟩
    · rw [stepEnds_one rev step]; rfl
    · rw [stepEnds_two rev step]; rfl
    · rw [stepEnds_three rev step]; rfl
    · rw [stepEnds_four rev step]; rfl
    · rw [stepEnds_five rev step hello]; rfl
    · rw [stepEnds_six rev step init, portUp_kept kept]; rfl
    · rw [stepEnds_six rev step init, portUp_lost lost]; rfl
  case clock => exact fun training step mixed whole full => exec_clockLockTimeout (trains training) step mixed whole full
  case attempt =>
    intro training step full
    rw [exec_trainingStepTimeout (trains training) (.inl step)]
    refine ⟨fun kept few => ?_, fun kept third => ?_, fun lost => ?_⟩
    · rw [attemptFails_again full kept few]
    · rw [attemptFails_third full kept third]
    · rw [attemptFails_lost full lost]
  case fast =>
    intro training fast recent
    rw [exec_trainingStepTimeout (trains training) (.inr fast)]
    refine ⟨fun few => ?_, fun third => ?_⟩
    · rw [attemptFails_retrains fast few]; rfl
    · rw [attemptFails_full_training fast third]; rfl
  case lost =>
    intro peer
    refine ⟨fun lane fits => ?_, ?_⟩
    · rw [exec_lightAbsent fits, losePeer_held powered peer]
    · rw [exec_noValidPacket, losePeer_held powered peer]

end Sys2Proof.Proofs

/-! SUPPORT. A packet at its destination: what becomes of one that its port takes, and each check of R368 that drops it; O48 is assembled
from them. -/

namespace Sys2Proof.Proofs

open Sys2Proof Sys2Proof.Machine Sys2Proof.Laws

variable {s w t : State} {n j : Nat} {b bytes p : Bytes} {ecc : List EccReport} {l : LinkKey} {job : Job}

/-! ### Up to the checks -/

section

variable {fits : State → Bytes → Bool} (body : Nat → Nat → Bytes → State → State) (h : Accepted s n bytes ecc w)
  (type : fits s (bytes.drop 4) = true)

include h type

theorem arrive_dropped (checks : checkPacket n (bytes.drop 4) w = (t, none)) : arrive n bytes ecc fits body s = settle t := by
  obtain ⟨u, taken, met⟩ := h.words
  simp only [arrive, h.here, type, not_true, or_self, if_false, taken, met, checks]

theorem arrive_passes (checks : checkPacket n (bytes.drop 4) w = (t, some (j, p))) :
    arrive n bytes ecc fits body s = settle (body j n p t) := by
  obtain ⟨u, taken, met⟩ := h.words
  simp only [arrive, h.here, type, not_true, or_self, if_false, taken, met, checks]

end

/-! ### The checks of R368 -/

/-- A packet that is dropped gives its units back. -/
def packetDropped (n : Nat) (b : Bytes) (s : State) : State × Option (Nat × Bytes) :=
  (freeBuffer n (pVc b) (creditUnits b) s, none)

theorem typeDefined_iff : typeDefined b = true ↔ pVersion b = 2 ∧ 1 ≤ pType b ∧ pType b ≤ 9 ∧ headerWhole b = true := by
  simp only [typeDefined, Bool.and_eq_true, beq_iff_eq, decide_eq_true_eq, and_assoc]

theorem checkPacket_malformed (bad : ¬ typeDefined b = true) : checkPacket n b s = packetDropped n b (bumpPort n 4 s) := if_pos bad

theorem checkPacket_unknown (defined : typeDefined b = true) (unknown : linkOf s (pJob b) = none) :
    checkPacket n b s = packetDropped n b (bumpPort n 5 s) := by
  simp only [checkPacket, defined, not_true, if_false, unknown]
  rfl

/-- A job id whose entries are all cleared has no link key (R594). -/
theorem linkOf_cleared {id : Nat} (cleared : ∀ l ∈ s.pass.linkKeys, l.2.jobId = id → l.2.cleared = true) : linkOf s id = none := by
  have absent : (s.pass.linkKeys.find? fun l => l.2.jobId == id && !l.2.cleared) = none := by
    rw [List.find?_eq_none]
    intro l mem here
    rw [Bool.and_eq_true, beq_iff_eq] at here
    rw [cleared l mem here.1] at here
    exact Bool.noConfusion here.2
  rw [linkOf, absent]
  rfl

/-- A packet of a defined type, under the link key of a job of this Proend. -/
structure PacketKnown (s : State) (b : Bytes) (l : LinkKey) (job : Job) : Prop where
  defined : typeDefined b = true
  link : linkOf s (pJob b) = some l
  job : tget s.jobs l.job = some job

/-- A sequence that a job's replay state takes: above the last of its entry, or of a new entry where there is room (R368). -/
def SequenceNew (job : Job) (b : Bytes) : Prop :=
  (∃ q, tget job.replay (replayKey b) = some q ∧ q < pSeq b) ∨ tget job.replay (replayKey b) = none ∧ job.replay.length < 65536

/-- The sequence of a packet that passes is the last of its entry. -/
def sequenceKept (j : Nat) (b : Bytes) (s : State) : State :=
  modJob j (fun b' => { b' with replay := tset b'.replay (replayKey b) (pSeq b) }) s

section

variable (h : PacketKnown s b l job)

include h

theorem checkPacket_late (retired : n ∈ l.retired) :
    checkPacket n b s = packetDropped n b (mechFault l.job 0x63 (bumpPort n 9 s)) := by
  simp only [checkPacket, h.defined, not_true, if_false, h.link, h.job, List.contains_iff_mem, retired, if_true]
  rfl

variable (current : n ∉ l.retired)

include current

theorem checkPacket_repeated {q : Nat} (last : tget job.replay (replayKey b) = some q) (old : pSeq b ≤ q) :
    checkPacket n b s = packetDropped n b (mechFault l.job 0x63 (bumpJob l.job 0 s)) := by
  simp only [checkPacket, h.defined, not_true, if_false, h.link, h.job, List.contains_iff_mem, current, last, decide_eq_true old, if_true]
  rfl

theorem checkPacket_no_room (last : tget job.replay (replayKey b) = none) (full : 65536 ≤ job.replay.length) :
    checkPacket n b s = packetDropped n b (mechFault l.job 0x63 s) := by
  simp only [checkPacket, h.defined, not_true, if_false, h.link, h.job, List.contains_iff_mem, current, last, Bool.false_eq_true,
    Option.isNone_none, full, and_self, if_true]
  rfl

/-- The sequence is kept, and what acts is the plaintext, where the tag verifies. -/
theorem checkPacket_tag (new : SequenceNew job b) : checkPacket n b s = (openPacket job b).elim
    (packetDropped n b (mechFault l.job 0x63 (bumpJob l.job 1 s))) (fun p => (sequenceKept l.job b s, some (l.job, p))) := by
  obtain ⟨q, last, above⟩ | ⟨last, room⟩ := new
  · simp only [checkPacket, h.defined, not_true, if_false, h.link, h.job, List.contains_iff_mem, current, last,
      decide_eq_false (Nat.not_le.2 above), Option.isNone_some, Bool.false_eq_true, false_and]
    cases openPacket job b <;> rfl
  · simp only [checkPacket, h.defined, not_true, if_false, h.link, h.job, List.contains_iff_mem, current, last, Bool.false_eq_true,
      if_neg (not_and_of_not_right _ (Nat.not_le.2 room))]
    cases openPacket job b <;> rfl

theorem checkPacket_unverified (new : SequenceNew job b) (unverified : openPacket job b = none) :
    checkPacket n b s = packetDropped n b (mechFault l.job 0x63 (bumpJob l.job 1 s)) := by
  rw [checkPacket_tag h current new, unverified]
  rfl

end

/-! ### The command -/

theorem exec_data : exec (.data n bytes ecc) s = .next (arrive n bytes ecc (hasType 1) request s) := rfl

theorem hasType_self (s : State) : hasType (pType b) s b = true := by
  rw [hasType, beq_self_eq_true]; rfl

/-- A packet of no defined type comes as a data packet. -/
theorem hasType_undefined (undefined : pType b = 0 ∨ 9 < pType b) : hasType 1 s b = true := by
  simp only [hasType, beq_self_eq_true, Bool.true_and, Bool.or_eq_true, beq_iff_eq, decide_eq_true_eq, undefined, or_true]

/-- Settles O48, check by check. -/
theorem packetsAreChecked : Obligations.PacketsAreChecked := by
  unfold Obligations.PacketsAreChecked
  intro s w n bytes ecc accepted b drops
  have dropped (t : State) (type : hasType 1 s b = true) (checks : checkPacket n b w = packetDropped n b t) : drops t :=
    congrArg Host.Outcome.next (arrive_dropped request accepted type checks)
  have data (type : pType b = 1) : hasType 1 s b = true := by rw [← type]; exact hasType_self s
  refine ⟨fun undefined => ?undefined, fun type broken => ?broken, fun type version whole => ?whole⟩
  case undefined =>
    have bad : ¬ typeDefined b = true := fun h => by
      obtain ⟨-, low, high, -⟩ := typeDefined_iff.1 h
      omega
    exact dropped _ (hasType_undefined undefined) (checkPacket_malformed bad)
  case broken =>
    have bad : ¬ typeDefined b = true := fun h => by
      obtain ⟨version, -, -, whole⟩ := typeDefined_iff.1 h
      exact broken.elim (fun other => other version) (fun broken => Bool.eq_false_iff.1 broken whole)
    exact dropped _ (data type) (checkPacket_malformed bad)
  case whole =>
    have defined : typeDefined b = true := typeDefined_iff.2 ⟨version, by omega, by omega, whole⟩
    refine ⟨fun cleared => dropped _ (data type) (checkPacket_unknown defined (linkOf_cleared cleared)), ?_⟩
    intro l job link held last
    have known : PacketKnown w b l job := ⟨defined, link, held⟩
    refine ⟨fun retired => ?_, fun q current seen old => ?_, fun current fresh full => ?_, fun current new unverified => ?_⟩
    · exact dropped _ (data type) (checkPacket_late known retired)
    · exact dropped _ (data type) (checkPacket_repeated known current seen old)
    · exact dropped _ (data type) (checkPacket_no_room known current fresh full)
    · have fails : openPacket job b = none := Option.map_eq_none_iff.2 unverified
      exact dropped _ (data type) (checkPacket_unverified known current new fails)

end Sys2Proof.Proofs

/-! SUPPORT. Request-class packets that pass the checks: they wait behind their channel, are used, or wait for what they need (R371, R373);
O49 is assembled from them. -/

namespace Sys2Proof.Proofs

open Sys2Proof Sys2Proof.Machine Sys2Proof.Laws

variable {s t u : State} {n j k : Nat} {bytes p : Bytes} {ecc : List EccReport}

/-- What a packet that passes the checks does is its type's body, on the state after the checks. -/
theorem arrive_delivered {fits : State → Bytes → Bool} (body : Nat → Nat → Bytes → State → State)
    (h : Delivered s n bytes ecc k j p t) (type : fits s (bytes.drop 4) = true) : arrive n bytes ecc fits body s = settle (body j n p t) := by
  obtain ⟨w, accepted, checks⟩ := h.taken
  exact arrive_passes body accepted type checks

theorem hasType_delivered (h : Delivered s n bytes ecc k j p t) : hasType k s (bytes.drop 4) = true := by
  rw [← h.type]; exact hasType_self s

/-! ### A request and its channel -/

/-- The request waits at its port, and its job wants what it needs. -/
def requestWaits (j n : Nat) (p : Bytes) (s : State) : State := markWanted j (addWaiting n (some j, p) s)

theorem request_behind (behind : stalled t n (pVc p) = true) : request j n p t = requestWaits j n p t := if_pos behind

section

variable (first : stalled t n (pVc p) = false)

include first

theorem request_used (used : takeRequest j p t = (u, .used)) : request j n p t = freeBuffer n (pVc p) (unitsBy p) u := by
  simp only [request, first, Bool.false_eq_true, if_false, tryPacket, used]

theorem request_held (held : takeRequest j p t = (u, .held)) : request j n p t = requestWaits j n p u := by
  simp only [request, first, Bool.false_eq_true, if_false, tryPacket, held]
  rfl

end

/-! ### The commands -/

theorem exec_readRequest : exec (.readRequest n bytes) s = .next (arrive n bytes [] (hasType 4) request s) := rfl

theorem exec_fenceSignalPacket : exec (.fenceSignalPacket n bytes) s = .next (arrive n bytes [] (hasType 6) request s) := rfl

/-- Settles O49, by whether the channel waits and by what the operation makes of the request. -/
theorem requestPacketsAct : Obligations.RequestPacketsAct := by
  unfold Obligations.RequestPacketsAct
  intro s t u n j k bytes p ecc delivered acts waits
  have acts_of {v : State} (request_eq : request j n p t = v) : acts v := by
    refine ⟨?data, ?read, ?fence⟩
    case data =>
      rintro rfl
      rw [exec_data, arrive_delivered request delivered (hasType_delivered delivered), request_eq]
    case read =>
      rintro rfl rfl
      rw [exec_readRequest, arrive_delivered request delivered (hasType_delivered delivered), request_eq]
    case fence =>
      rintro rfl rfl
      rw [exec_fenceSignalPacket, arrive_delivered request delivered (hasType_delivered delivered), request_eq]
  exact ⟨fun behind => acts_of (request_behind behind), fun first used => acts_of (request_used first used),
    fun first held => acts_of (request_held first held)⟩

end Sys2Proof.Proofs

/-! SUPPORT. Response-class packets that pass the checks: each gives its units back and acts at once (R371), and a barrier packet acts by
its phase and under its capture's serial (R522); O50 is assembled from them. -/

namespace Sys2Proof.Proofs

open Sys2Proof Sys2Proof.Machine Sys2Proof.Laws

variable {s t u w : State} {n j k : Nat} {b bytes p : Bytes} {job : Job}

/-! ### The control packet in plain -/

/-- The link layer leaves the jobs and the link keys. -/
theorem linkTake_keeps {vc units : Nat} (taken : linkTake n bytes vc units s = some u) :
    u.jobs = s.jobs ∧ u.pass.linkKeys = s.pass.linkKeys := by
  unfold linkTake at taken
  split at taken
  · cases taken
  · split at taken
    · cases taken
      exact ⟨rfl, rfl⟩
    · dsimp only at taken
      split at taken
      · cases taken
        exact ⟨rfl, rfl⟩
      · cases taken

theorem checkPacket_no_job {l : LinkKey} (defined : typeDefined b = true) (link : linkOf w (pJob b) = some l)
    (absent : tget w.jobs l.job = none) : checkPacket n b w = packetDropped n b (bumpPort n 5 w) := by
  simp only [checkPacket, defined, not_true, if_false, link, absent]
  rfl

/-- A packet that passes the checks is of a known job, and what acts is its plaintext. -/
theorem checkPacket_some (checks : checkPacket n b w = (t, some (j, p))) :
    ∃ l job, PacketKnown w b l job ∧ l.job = j ∧ openPacket job b = some p := by
  have passes {v : State} (drops : checkPacket n b w = packetDropped n b v) : False :=
    Option.some_ne_none _ (Prod.mk.inj (checks.symm.trans drops)).2
  have defined : typeDefined b = true := Decidable.byContradiction fun bad => passes (checkPacket_malformed bad)
  cases link : linkOf w (pJob b) with
  | none => exact (passes (checkPacket_unknown defined link)).elim
  | some l =>
    cases held : tget w.jobs l.job with
    | none => exact (passes (checkPacket_no_job defined link held)).elim
    | some job =>
      have known : PacketKnown w b l job := ⟨defined, link, held⟩
      have current : n ∉ l.retired := fun retired => passes (checkPacket_late known retired)
      have new : SequenceNew job b := by
        cases last : tget job.replay (replayKey b) with
        | none => exact .inr ⟨last, Nat.lt_of_not_le fun full => passes (checkPacket_no_room known current last full)⟩
        | some q => exact .inl ⟨q, last, Nat.lt_of_not_le fun old => passes (checkPacket_repeated known current last old)⟩
      cases opened : openPacket job b with
      | none => exact (passes (checkPacket_unverified known current new opened)).elim
      | some plain =>
        rw [checkPacket_tag known current new, opened] at checks
        obtain ⟨rfl, rfl⟩ := Prod.mk.inj (Option.some.inj (Prod.mk.inj checks).2)
        exact ⟨l, job, known, rfl, opened⟩

/-- The kind and the phase of a job-control packet are judged on its plaintext. -/
theorem hasControl_delivered {kind phase : Nat} (h : Delivered s n bytes [] 7 j p t) (kindIs : rd p 32 1 = kind)
    (phaseIs : kind = 3 → rd p 33 1 = phase) : hasControl kind phase s (bytes.drop 4) = true := by
  obtain ⟨w, accepted, checks⟩ := h.taken
  obtain ⟨u, taken, met⟩ := accepted.words
  obtain ⟨rfl, -⟩ := Prod.mk.inj met
  obtain ⟨l, job, known, -, opened⟩ := checkPacket_some checks
  obtain ⟨jobs, keys⟩ := linkTake_keeps taken
  have link : linkOf s (pJob (bytes.drop 4)) = some l := by
    rw [← known.link, linkOf, linkOf, ← keys]
  have held : tget s.jobs l.job = some job := by
    rw [← known.job, ← jobs]
  have judged : (kind != 3 || rd p 33 1 == phase) = true := by
    rw [Bool.or_eq_true, bne_iff_ne, beq_iff_eq]
    exact Decidable.or_iff_not_imp_left.2 fun barrier => phaseIs (Decidable.not_not.1 barrier)
  simp only [hasControl, h.type, beq_self_eq_true, Bool.true_and, link, held, Option.bind_some, opened, kindIs, judged]

/-! ### Acting at once -/

/-- A packet that passes the checks has given its units back. -/
def responseFreed (n : Nat) (p : Bytes) (s : State) : State := freeBuffer n (pVc p) (unitsBy p) s

theorem response_delivered (h : Delivered s n bytes [] k j p t) (f : Nat → Bytes → State → State) :
    arrive n bytes [] (hasType k) (response f) s = settle (f j p (responseFreed n p t)) :=
  arrive_delivered (response f) h (hasType_delivered h)

section

variable (h : Delivered s n bytes [] 7 j p t)

include h

/-- A job-control packet other than a barrier's has no phase. -/
theorem control_delivered {kind : Nat} (kindIs : rd p 32 1 = kind) (other : kind ≠ 3) (f : Nat → Bytes → State → State) :
    arrive n bytes [] (hasControl kind 0) (response f) s = settle (f j p (responseFreed n p t)) :=
  arrive_delivered (response f) h (hasControl_delivered h kindIs (absurd · other))

theorem barrier_delivered {phase : Nat} (kindIs : rd p 32 1 = 3) (phaseIs : rd p 33 1 = phase) (f : Nat → Bytes → State → State) :
    barrier phase n bytes f s = settle (f j p (responseFreed n p t)) :=
  arrive_delivered (response f) h (hasControl_delivered h kindIs fun _ => phaseIs)

end

theorem ofCapture_current (held : tget s.jobs j = some job) (serial : barSerial p = job.capture.serial % 2 ^ 32)
    (f : Nat → Bytes → State → State) : ofCapture f j p s = f j p s := by
  simp only [ofCapture, held, serial, if_true]

/-- A barrier packet of the capture in progress acts. -/
theorem barrier_current (h : Delivered s n bytes [] 7 j p t) {phase : Nat} (kindIs : rd p 32 1 = 3) (phaseIs : rd p 33 1 = phase)
    (held : tget (responseFreed n p t).jobs j = some job) (serial : barSerial p = job.capture.serial % 2 ^ 32)
    (f : Nat → Bytes → State → State) : barrier phase n bytes (ofCapture f) s = settle (f j p (responseFreed n p t)) := by
  rw [barrier_delivered h kindIs phaseIs, ofCapture_current held serial]

/-! ### Error packets (R364) -/

theorem errorArrives_signal (refused : rd (pPayload p) 0 1 = 0x67) :
    errorArrives j p s = signalRefused j (rd (pPayload p) 2 2) s := if_pos refused

theorem errorArrives_transfer {task : TaskRef} (answers : rd (pPayload p) 0 1 = 0x61 ∨ rd (pPayload p) 0 1 = 0x66)
    (tagged : tagTask s j (pSrc p) (rd (pPayload p) 2 2) = some task) : errorArrives j p s = taskFault task (rd (pPayload p) 0 1) s := by
  have other : rd (pPayload p) 0 1 ≠ 0x67 := by omega
  simp only [errorArrives, if_neg other, if_pos answers, tagged]

theorem errorArrives_job (other : rd (pPayload p) 0 1 ≠ 0x67) (answers : ¬ (rd (pPayload p) 0 1 = 0x61 ∨ rd (pPayload p) 0 1 = 0x66)) :
    errorArrives j p s = mechFault j (rd (pPayload p) 0 1) s := by
  simp only [errorArrives, if_neg other, if_neg answers]

/-! ### The commands -/

theorem exec_errorPacket (h : Delivered s n bytes [] 8 j p t) (act : errorArrives j p (responseFreed n p t) = u) :
    exec (.errorPacket n bytes) s = .next (settle u) := by
  rw [← act]
  exact congrArg Host.Outcome.next (response_delivered h errorArrives)

/-- Settles O50, by the type of the packet, the code of an error, and the kind and the phase of a job-control packet. -/
theorem responsePacketsAct : Obligations.ResponsePacketsAct := by
  unfold Obligations.ResponsePacketsAct
  intro s t n j k bytes p delivered u x acts
  refine ⟨?clear, ?placed, ?read, ?signal, ?transfer, ?jobError, ?retire, ?notice, ?barriers⟩
  case clear => rintro rfl; exact congrArg Host.Outcome.next (response_delivered delivered _)
  case placed => rintro rfl; exact congrArg Host.Outcome.next (response_delivered delivered _)
  case read => rintro rfl; exact congrArg Host.Outcome.next (response_delivered delivered _)
  case signal =>
    rintro rfl refused
    exact exec_errorPacket delivered (errorArrives_signal refused)
  case transfer =>
    rintro rfl answers task tagged
    exact exec_errorPacket delivered (errorArrives_transfer answers tagged)
  case jobError =>
    rintro rfl vale transfer signal
    exact exec_errorPacket delivered (errorArrives_job signal (not_or.2 ⟨vale, transfer⟩))
  case retire => rintro rfl kind; exact congrArg Host.Outcome.next (control_delivered delivered kind (by decide) _)
  case notice => rintro rfl kind; exact congrArg Host.Outcome.next (control_delivered delivered kind (by decide) _)
  case barriers =>
    rintro rfl kind phase part value
    have act {q : Nat} (phaseIs : phase = q) (f : Nat → Bytes → State → State) :
        (.next (barrier q n bytes f s) : Host.Outcome State Fault Refusal) = .next (settle (f j p u)) :=
      congrArg Host.Outcome.next (barrier_delivered delivered kind phaseIs f)
    refine ⟨fun h => act h _, fun h => act h _, fun h => act h _, fun h => act h _, fun h => act h _, fun h => act h _,
      fun h => act h _, ?_⟩
    intro b held serial
    have actNow {q : Nat} (phaseIs : phase = q) (f : Nat → Bytes → State → State) :
        (.next (barrier q n bytes (ofCapture f) s) : Host.Outcome State Fault Refusal) = .next (settle (f j p u)) :=
      congrArg Host.Outcome.next (barrier_current delivered kind phaseIs held serial f)
    exact ⟨fun h => actNow h _, fun h => actNow h _, fun h => actNow h _, fun h => actNow h _, fun h => actNow h _⟩

end Sys2Proof.Proofs

/-! SUPPORT. Packets in transit: the wait behind their channel, the way that R375 gives them, and the PLP 1 packets of R361, one equation
per case; O51 is assembled from them. -/

namespace Sys2Proof.Proofs

open Sys2Proof Sys2Proof.Machine Sys2Proof.Laws

variable {s u w : State} {n e : Nat} {b bytes : Bytes} {ecc : List EccReport}

/-! ### A packet for another device (R371, R373, R375, R376) -/

/-- A packet for another device is taken by its port in order, and no word of it is lost. -/
structure Transits (s : State) (n : Nat) (bytes : Bytes) (ecc : List EccReport) (w : State) : Prop where
  other : isLocal s n (bytes.drop 4) = false
  words : ∃ u, linkTake n bytes (pVc (bytes.drop 4)) (creditUnits (bytes.drop 4)) s = some u ∧ meetWords {} ecc u = (w, true)

/-- It waits behind its channel if it is a request and the channel waits; else it is forwarded. -/
theorem transit_taken (h : Transits s n bytes ecc w) : transit n bytes ecc s =
    settle (if stalled w n (pVc (bytes.drop 4)) ∧ ¬ isResponse (pType (bytes.drop 4))
      then addWaiting n (none, bytes.drop 4) w else forward n (bytes.drop 4) w) := by
  obtain ⟨u, taken, met⟩ := h.words
  simp only [transit, h.other, Bool.false_eq_true, if_false, taken, met, not_true]
  split <;> rfl

section

variable (h : Transits s n bytes ecc w)

include h

theorem exec_transitForward_waits (behind : stalled w n (pVc (bytes.drop 4)) = true) (request : isResponse (pType (bytes.drop 4)) = false) :
    exec (.transitForward n bytes ecc) s = .next (settle (addWaiting n (none, bytes.drop 4) w)) := by
  have waits := (transit_taken h).trans (congrArg settle (if_pos ⟨behind, Bool.eq_false_iff.1 request⟩))
  exact congrArg Host.Outcome.next waits

theorem exec_transitForward_goes (free : stalled w n (pVc (bytes.drop 4)) = false ∨ isResponse (pType (bytes.drop 4)) = true) :
    exec (.transitForward n bytes ecc) s = .next (settle (forward n (bytes.drop 4) w)) := by
  have goes : ¬ (stalled w n (pVc (bytes.drop 4)) = true ∧ ¬ isResponse (pType (bytes.drop 4)) = true) := fun ⟨behind, request⟩ =>
    free.elim (fun first => Bool.eq_false_iff.1 first behind) request
  exact congrArg Host.Outcome.next ((transit_taken h).trans (congrArg settle (if_neg goes)))

end

theorem forward_out {k vc : Nat} (way : route s (pDst b) (pSrc b) (pVc b) (pHops b) (some n) = .out k vc) :
    forward n b s = egress k vc (some (n, pVc b)) (setHops (pHops b + 1) (setVc vc b)) s := by
  simp only [forward, way]

/-- A packet in transit that goes no further: it is counted, and its units go back. -/
def transitDropped (n i vc : Nat) (b : Bytes) (s : State) : State := freeBuffer n vc (creditUnits b) (bumpPort n i s)

theorem forward_noRoute (way : route s (pDst b) (pSrc b) (pVc b) (pHops b) (some n) = .noRoute) :
    forward n b s = transitDropped n 6 (pVc b) b s := by
  simp only [forward, way, transitDropped]

theorem forward_hopLimit (way : route s (pDst b) (pSrc b) (pVc b) (pHops b) (some n) = .hopLimit) :
    forward n b s = transitDropped n 7 (pVc b) b s := by
  simp only [forward, way, transitDropped]

/-! ### A PLP 1 packet (R361, R362) -/

/-- Its channel (log 31). -/
def oldChannel (b : Bytes) : Nat := Config.plp1Channel b % 4

/-- The ports of a route entry that are up. -/
def livePorts (s : State) (e : Nat) : List Nat := ((List.range (rCount e)).map (· + rBase e)).filter fun k => (portAt s k).st == .up

/-- The port of the entry's group that it leaves by (log 31). -/
def oldOut (s : State) (e : Nat) (b : Bytes) : Nat := (livePorts s e).getD (Config.plp1Choice b % (livePorts s e).length) 0

/-- A PLP 1 packet is taken in order by a port that runs PLP 1, and an entry covers its destination. -/
structure OldRouted (s : State) (n : Nat) (bytes : Bytes) (u : State) (e : Nat) : Prop where
  old : (portAt s n).plp = 1
  version : rd (bytes.drop 4) 0 1 / 16 = 1
  port : n < 32
  taken : linkTake n bytes (oldChannel (bytes.drop 4)) (creditUnits (bytes.drop 4)) s = some u
  entry : lookup u.config.image.pass.routes (rd (bytes.drop 4) 4 2) = some e

/-- What the entry says of a PLP 1 packet that its port has taken. -/
def oldForward (n e : Nat) (b : Bytes) (u : State) : State :=
  let dropped := fun (i : Nat) => transitDropped n i (oldChannel b) b u
  if rDrop e then dropped 6
  else if rLocal e then dropped 8
  else if 63 ≤ rd b 8 1 then dropped 7
  else if (livePorts u e).isEmpty then dropped 6
  else if (portAt u (oldOut u e b)).plp ≠ 1 then dropped 8
  else egress (oldOut u e b) (oldChannel b) (some (n, oldChannel b)) (overlay b 8 (leBytes 1 (rd b 8 1 + 1))) u

theorem exec_plp1Forward (h : OldRouted s n bytes u e) :
    exec (.plp1Forward n bytes) s = .next (settle (oldForward n e (bytes.drop 4) u)) := by
  obtain ⟨old, version, port, taken, entry⟩ := h
  unfold oldChannel at taken
  have fits : ¬ ((portAt s n).plp ≠ 1 ∨ rd (bytes.drop 4) 0 1 / 16 ≠ 1 ∨ n = 32) := by omega
  have forwarded : plp1 n bytes s = settle (oldForward n e (bytes.drop 4) u) := by
    simp only [plp1, plp1Dst, plp1Hops, if_neg fits, taken, entry, oldForward, apply_ite settle]
    rfl
  exact congrArg Host.Outcome.next forwarded

theorem oldForward_drop (drop : rDrop e = true) : oldForward n e b u = transitDropped n 6 (oldChannel b) b u := if_pos drop

section

variable (kept : rDrop e = false)

include kept

theorem oldForward_local (here : rLocal e = true) : oldForward n e b u = transitDropped n 8 (oldChannel b) b u := by
  simp only [oldForward, kept, here, Bool.false_eq_true, if_false, if_true]

variable (onward : rLocal e = false)

include onward

theorem oldForward_hopLimit (far : 63 ≤ rd b 8 1) : oldForward n e b u = transitDropped n 7 (oldChannel b) b u := by
  simp only [oldForward, kept, onward, Bool.false_eq_true, if_false, if_pos far]

variable (near : rd b 8 1 < 63)

include near

theorem oldForward_no_port (dead : livePorts u e = []) : oldForward n e b u = transitDropped n 6 (oldChannel b) b u := by
  simp only [oldForward, kept, onward, Bool.false_eq_true, if_false, if_neg (Nat.not_le.2 near), dead, List.isEmpty_nil, if_true]

variable (live : livePorts u e ≠ [])

include live

theorem oldForward_other_version (other : (portAt u (oldOut u e b)).plp ≠ 1) :
    oldForward n e b u = transitDropped n 8 (oldChannel b) b u := by
  simp only [oldForward, kept, onward, Bool.false_eq_true, if_false, if_neg (Nat.not_le.2 near), if_neg (mt List.isEmpty_iff.1 live),
    if_pos other]

theorem oldForward_out (old : (portAt u (oldOut u e b)).plp = 1) : oldForward n e b u =
    egress (oldOut u e b) (oldChannel b) (some (n, oldChannel b)) (overlay b 8 (leBytes 1 (rd b 8 1 + 1))) u := by
  simp only [oldForward, kept, onward, Bool.false_eq_true, if_false, if_neg (Nat.not_le.2 near), if_neg (mt List.isEmpty_iff.1 live),
    if_neg (not_not_intro old)]

end

/-- Settles O51, by the channel and the route of a packet, and by the entry and the port of a PLP 1 packet. -/
theorem transitPacketsGoOn : Obligations.TransitPacketsGoOn := by
  unfold Obligations.TransitPacketsGoOn
  intro s u n bytes b given
  refine ⟨?transit, ?old⟩
  case transit =>
    intro w ecc other taken met goes
    have h : Transits s n bytes ecc w := ⟨other, u, taken, met⟩
    refine ⟨exec_transitForward_waits h, fun free => ?_⟩
    have forwards {v : State} (forward_eq : forward n b w = v) : goes v := by
      rw [← forward_eq]
      exact exec_transitForward_goes h free
    exact ⟨fun k vc way => forwards (forward_out way), fun way => forwards (forward_noRoute way),
      fun way => forwards (forward_hopLimit way)⟩
  case old =>
    intro e old version port vc taken entry live out drops
    have h : OldRouted s n bytes u e := ⟨old, version, port, taken, entry⟩
    have forwards {v : State} (forward_eq : oldForward n e b u = v) : exec (.plp1Forward n bytes) s = .next (settle v) := by
      rw [← forward_eq]
      exact exec_plp1Forward h
    refine ⟨fun drop => forwards (oldForward_drop drop), fun kept here => forwards (oldForward_local kept here), fun kept onward => ?_⟩
    exact ⟨fun far => forwards (oldForward_hopLimit kept onward far),
      fun near dead => forwards (oldForward_no_port kept onward near dead),
      fun near some other => forwards (oldForward_other_version kept onward near some other),
      fun near some old => forwards (oldForward_out kept onward near some old)⟩

end Sys2Proof.Proofs

/-! SUPPORT. WINDOW_OPEN, GROUP_CREATE and QP_CREATE past their checks: the object that each creates, and the queue pair and the context
that the last one adds; O11 is assembled from them. -/

namespace Sys2Proof.Proofs

open Sys2Proof Sys2Proof.Machine Sys2Proof.Laws

variable {s : State} {m : Msg} {j q : Nat}

/-! ### Windows (R436, R438) -/

/-- The job in whose carve-out a window lies: the one that the message names, or the primary of its context's partition
(log 24). -/
def windowJob (s : State) (m : Msg) : Option Nat :=
  if msgJob m.bytes = 0 then some (2 * ctxPart s (m.ctx.getD 0)) else liveJob s m

/-- What WINDOW_OPEN finds in order: a job, a live queue pair of its partition that belongs to no other job, and bytes of the job's
carve-out. -/
structure WindowFits (s : State) (m : Msg) (j q : Nat) (o : Obj) : Prop where
  job : windowJob s m = some j
  generation : genOf s (arg m.bytes 10 2) = arg m.bytes 12 1
  object : objAt s (arg m.bytes 10 2) = some o
  pair : o.data = .queuePair q
  live : o.destroying = false
  owner : o.job = none ∨ o.job = some j
  partition : (tget s.eth.qps q).map (·.partition) = some (partOf j)
  nonempty : arg m.bytes 5 5 ≠ 0
  range : rangeIn (carveOf s j) (arg m.bytes 0 5) (arg m.bytes 5 5) = true

theorem windowOpenBody_fits {o : Obj} (h : WindowFits s m j q o) : windowOpenBody m s =
    createObject m (if msgJob m.bytes = 0 then none else some j)
      (.window ⟨j, arg m.bytes 0 5, arg m.bytes 5 5, arg m.bytes 10 2, (freshNat s).1 % 256⟩)
      (fun i => leBytes 2 i ++ leBytes 1 (genOf s i) ++ leBytes 1 ((freshNat s).1 % 256)) (freshNat s).2 := by
  obtain ⟨job, generation, object, pair, live, owner, partition, nonempty, range⟩ := h
  obtain ⟨owning, _, _, _⟩ := o
  simp only at pair live owner
  subst pair live
  have ours : ¬ (owning.isSome = true ∧ owning ≠ some j) := fun ⟨held, other⟩ =>
    owner.elim (fun free => by simp [free] at held) other
  unfold windowJob at job
  unfold windowOpenBody
  simp only [job, generation, object, ours, partition, nonempty, range, ne_eq, not_true, Bool.false_eq_true, if_false]
  rfl

/-! ### Collective groups (R387, R440) -/

/-- The radix list of a GROUP_CREATE, whose bytes hold each radix less one. -/
def groupRadices (m : Msg) : List Nat := [arg m.bytes 8 1 + 1, arg m.bytes 9 1 + 1, arg m.bytes 10 1 + 1]

/-- The device addresses that a GROUP_CREATE lists in the memory of its job. -/
def groupMembers (s : State) (m : Msg) (j : Nat) : List Nat :=
  (List.range (arg m.bytes 5 3)).map fun i => leNat (peekN s j (arg m.bytes 0 5 + 4 * i) 4)

/-- What GROUP_CREATE finds in order: a live job, a size that its radices make, a list in the job's memory in which this Proend has a
rank, and room in the job's pool. -/
structure GroupFits (s : State) (m : Msg) (j r : Nat) (b : Job) : Prop where
  live : liveJob s m = some j
  job : tget s.jobs j = some b
  size : 1 ≤ arg m.bytes 5 3 ∧ arg m.bytes 5 3 ≤ 1048576
  radices : product (groupRadices m) = arg m.bytes 5 3
  range : rangeOk s j (arg m.bytes 0 5) (4 * arg m.bytes 5 3) = true
  rank : groupRank s (arg m.bytes 5 3) (arg m.bytes 11 4) (groupRadices m) (groupMembers s m j) = some r
  room : poolUsed s j + 1 + ceilDiv (4 * arg m.bytes 5 3) 64 ≤ poolSize b

theorem groupCreateBody_fits {r : Nat} {b : Job} (h : GroupFits s m j r b) : groupCreateBody m s = createObject m (some j)
    (.group { members := groupMembers s m j, rank := r, radices := groupRadices m, timeout := arg m.bytes 11 4 })
    (fun _ => leBytes 4 r) s := by
  obtain ⟨live, job, ⟨atLeast, atMost⟩, radices, range, rank, room⟩ := h
  have sized : ¬ (arg m.bytes 5 3 < 1 ∨ 1048576 < arg m.bytes 5 3 ∨ product (groupRadices m) ≠ arg m.bytes 5 3) :=
    not_or.2 ⟨Nat.not_lt.2 atLeast, not_or.2 ⟨Nat.not_lt.2 atMost, not_not_intro radices⟩⟩
  unfold groupRadices at sized rank
  unfold groupMembers at rank
  unfold groupCreateBody groupMembers groupRadices
  simp only [live, if_neg sized, range, not_true, if_false, rank, job, Option.getD_some, if_neg (Nat.not_lt.2 room)]

/-! ### Queue pairs (R409, R411, R434) -/

/-- The queue pair that the body of a QP_CREATE describes (log 15). -/
def createdQp (part i : Nat) (b : Bytes) : Qp :=
  { partition := part, port := rd b 1 1, cls := rd b 0 1, source := rd b 2 1, remoteQpn := rd b 8 3
    remoteAddress := sub b 16 16, nextHop := sub b 38 6, mtu := rd b 3 1, timeout := rd b 4 1, retry := rd b 5 1
    retriesLeft := rd b 5 1, sendPsn := rd b 32 3, recvPsn := rd b 35 3, ctx := rd b 6 2, obj := i }

/-- The fields of a QP_CREATE's body are in their ranges, its reserved bytes are zero, and the port and the source address that it names
are the partition's (R409, R411). -/
structure QpBodyFits (s : State) (b : Bytes) (part : Nat) : Prop where
  length : b.length = 64
  cls : rd b 0 1 < 4
  port : rd b 1 1 < 4
  mtu : rd b 3 1 < 3
  timeout : 10 ≤ rd b 4 1 ∧ rd b 4 1 ≤ 20
  retry : rd b 5 1 < 8
  context : 16 ≤ rd b 6 2 ∧ rd b 6 2 < 4096
  reserved : rd b 11 1 = 0 ∧ allZero (b.drop 44) = true
  mask : bit (s.config.image.eth.getD (rd b 1 1) {}).mask part = true
  source : sourceOwner s (rd b 1 1) (rd b 2 1) = some part

theorem QpBodyFits.not_refused {b : Bytes} {part : Nat} (h : QpBodyFits s b part) :
    ¬ (b.length ≠ 64 ∨ 4 ≤ rd b 0 1 ∨ 4 ≤ rd b 1 1 ∨ 3 ≤ rd b 3 1 ∨ rd b 4 1 < 10 ∨ 20 < rd b 4 1 ∨ 8 ≤ rd b 5 1 ∨ rd b 6 2 < 16 ∨
      4096 ≤ rd b 6 2 ∨ rd b 11 1 ≠ 0 ∨ ¬ allZero (b.drop 44) = true ∨
      ¬ bit (s.config.image.eth.getD (rd b 1 1) {}).mask part = true ∨ sourceOwner s (rd b 1 1) (rd b 2 1) ≠ some part) := by
  obtain ⟨length, cls, port, mtu, ⟨slow, fast⟩, retry, ⟨low, high⟩, ⟨reserved, zero⟩, mask, source⟩ := h
  simp only [length, zero, mask, source, reserved, not_or, ne_eq, not_true, not_false_eq_true, true_and, and_true]
  omega

/-- The job that a QP_CREATE names, if any, is one of the partition's and not closing. -/
def QpJobFits (s : State) (id part : Nat) : Prop :=
  id = 0 ∨ (jobIndex s id).map partOf = some part ∧ ((jobIndex s id).bind fun j => tget s.jobs j).map (·.phase) ≠ some .closing

theorem QpJobFits.not_refused {id part : Nat} (h : QpJobFits s id part) : ¬ (id ≠ 0 ∧ ((jobIndex s id).map partOf ≠ some part ∨
    (((jobIndex s id).bind fun j => tget s.jobs j).map (·.phase) == some .closing) = true)) := by
  rintro ⟨named, refused⟩
  obtain ⟨ours, opened⟩ := h.resolve_left named
  exact refused.elim (fun other => other ours) fun closing => opened (eq_of_beq closing)

/-- A queue pair for a context that is not there yet brings its context with it. -/
theorem qpCreateBody_make_newContext {part jobId i : Nat} {job : Option Nat} {b : Bytes} (context : tget s.ctxs (rd b 6 2) = none)
    (free : freeQp s = some q) (entry : freeEntry s = some i) :
    qpCreateBody.make m part (rd b 0 1) (rd b 1 1) (rd b 6 2) jobId job b s =
      createObject m job (.queuePair q) (fun _ => leBytes 4 (0x1000 + q)) { s with
        eth := { s.eth with qps := tset s.eth.qps q (createdQp part i b) }
        ctxs := tset s.ctxs (rd b 6 2) { jobId, partition := part } } := by
  simp only [qpCreateBody.make, free, entry, context, createdQp]

theorem qpCreateBody_newContext {i : Nat} (fits : QpBodyFits s (msgBody m.bytes) (ctxPart s (m.ctx.getD 0)))
    (job : QpJobFits s (rd (msgBody m.bytes) 12 4) (ctxPart s (m.ctx.getD 0)))
    (context : tget s.ctxs (rd (msgBody m.bytes) 6 2) = none) (free : freeQp s = some q) (entry : freeEntry s = some i) :
    qpCreateBody m s = createObject m (jobIndex s (rd (msgBody m.bytes) 12 4)) (.queuePair q) (fun _ => leBytes 4 (0x1000 + q)) { s with
      eth := { s.eth with qps := tset s.eth.qps q (createdQp (ctxPart s (m.ctx.getD 0)) i (msgBody m.bytes)) }
      ctxs := tset s.ctxs (rd (msgBody m.bytes) 6 2)
        { jobId := rd (msgBody m.bytes) 12 4, partition := ctxPart s (m.ctx.getD 0) } } := by
  unfold qpCreateBody
  simp only [if_neg fits.not_refused, if_neg job.not_refused, context, qpCreateBody_make_newContext context free entry]

/-- Settles O11, by the three messages. -/
theorem windowsGroupsAndQueuePairsAreCreated : Obligations.WindowsGroupsAndQueuePairsAreCreated := by
  unfold Obligations.WindowsGroupsAndQueuePairsAreCreated
  intro s ctx m t
  refine ⟨?window, ?group, ?queuePair⟩
  case window =>
    rintro j q qi o front job rfl generation object pair live owner partition nonempty range
    have fits : WindowFits t m j q o :=
      ⟨by rw [windowJob, front.context]; exact job, generation, object, pair, live, owner, partition, nonempty, range⟩
    rw [exec_of_front (c := .windowOpen ctx) rfl front, windowOpenBody_fits fits]
  case group =>
    rintro j g r b front live job rfl range radices members made atLeast atMost rank room
    have fits : GroupFits t m j r b := ⟨live, job, ⟨atLeast, atMost⟩, made, range, rank, room⟩
    rw [exec_of_front (c := .groupCreate ctx) rfl front, groupCreateBody_fits fits]
    rfl
  case queuePair =>
    rintro q i _ _ front b rfl length cls port mtu slow fast retry low high reserved zero mask source rfl job context free entry
    have part : ctxPart t (m.ctx.getD 0) = ctxPart t ctx := by rw [front.context, Option.getD_some]
    have fits : QpBodyFits t b (ctxPart t ctx) :=
      ⟨length, cls, port, mtu, ⟨slow, fast⟩, retry, ⟨low, high⟩, ⟨reserved, zero⟩, mask, source⟩
    rw [exec_of_front (c := .qpCreate ctx) rfl front,
      qpCreateBody_newContext (s := t) (part ▸ fits) (part ▸ job) context free entry, part]
    rfl

end Sys2Proof.Proofs

/-! SUPPORT. The machine as a whole: what one step keeps (the Ledger's chain, the fuses), what a command only adds, the idle period, the
state at power-enable, and which commands stop. O1 to O3 and O5 to O8 are read off these. -/

namespace Sys2Proof.Proofs

open Sys2Proof Sys2Proof.Machine Sys2Proof.Laws

variable {s t : State}

/-! ### One step -/

/-- Settles O1: a step on a queue that is not empty is the command at its front. -/
theorem stepRunsCommand : Obligations.StepRunsCommand := by
  unfold Obligations.StepRunsCommand
  exact fun _ _ _ => rfl

theorem step_idle (empty : s.pending = []) : step s = .next (idle s) := by
  unfold step
  rw [empty]

theorem idle_unpowered (off : ¬ (s.power.mainPower = true ∧ s.power.sysclk = true)) : idle s = s := if_neg off

theorem idle_powered (main : s.power.mainPower = true) (clock : s.power.sysclk = true) :
    idle s = bubbleTick { s with timeNs := s.timeNs + 10 } := if_pos ⟨main, clock⟩

/-- Settles O2: the idle step is one period of the clock where main power and SYSCLK are there, and nothing elsewhere. -/
theorem idlePasses : Obligations.IdlePasses := by
  unfold Obligations.IdlePasses
  intro s empty
  refine ⟨fun off => ?_, fun main clock => ⟨_, step_idle empty, ?_⟩⟩
  · rw [step_idle empty, idle_unpowered off]
  · rw [idle_powered main clock]
    exact ⟨rfl, rfl⟩

/-! ### The state at power-enable -/

/-- A Ledger of one record, in ring and mirror alike, is chained. -/
theorem chained_single (r : Bytes) : Chained { ring := [(0, r)], next := 1, headDigest := sha256 r, mirror := [(0, r)], mirrored := 1 } := by
  have held {n : Nat} {x : Bytes} (h : holdsRecord { ring := [(0, r)], next := 1, headDigest := sha256 r, mirror := [(0, r)], mirrored := 1 } n x) :
      n = 0 ∧ x = r := by
    simpa [holdsRecord] using h
  refine ⟨?one, ?below, ?mirrorBelow, Nat.le_refl _, ?head, ?link⟩
  case one => exact fun n x y hx hy => (held hx).2.trans (held hy).2.symm
  case below => exact fun n x hx => by rw [(held hx).1]; exact Nat.one_pos
  case mirrorBelow => exact fun n x hx => by rw [(held (.inr hx)).1]; exact Nat.one_pos
  case head => exact fun n x hx _ => by rw [(held hx).2]
  case link => exact fun n x y _ hy => absurd (held hy).1 (Nat.succ_ne_zero n)

/-- Settles O3: the state at power-enable has empty memories and lists, and a Ledger of the one record of manufacture. -/
theorem resetKeepsPromises : Obligations.ResetKeepsPromises := by
  unfold Obligations.ResetKeepsPromises
  exact ⟨⟨rfl, fun _ none => absurd none List.not_mem_nil⟩, chained_single record0, rfl, rfl, rfl, rfl⟩

/-! ### What a step keeps -/

/-- Settles O5: what a step answers follows its state, and the queue is no part of the Ledger. -/
theorem ledgerStaysChained : Obligations.LedgerStaysChained := by
  unfold Obligations.LedgerStaysChained
  intro s t chained e
  obtain ⟨rest, follows⟩ := step_follows e
  exact follows.ledger chained

/-- Settles O6: what a step answers follows its state, and the queue is no part of the fuses. -/
theorem fusesOnlyBurn : Obligations.FusesOnlyBurn := by
  unfold Obligations.FusesOnlyBurn
  intro s t e
  obtain ⟨rest, follows⟩ := step_follows e
  exact follows.fuses

/-- Settles O7: these are parts of what every command keeps. -/
theorem commandsOnlyAdd : Obligations.CommandsOnlyAdd := by
  unfold Obligations.CommandsOnlyAdd
  intro c s t e
  have follows : Follows s t := exec_follows e
  exact ⟨follows.pending, follows.sent, follows.boot, follows.tickets, follows.free⟩

/-! ### Which commands stop (R615) -/

/-- The supply voltage that a command reports, where it is one of the three that stop beyond the absolute maximum. -/
def supplyOf : Instr → Option Nat
  | .powerInterval meas => some meas.vinMv
  | .inputOvervoltage v => some v
  | .inputOvervoltageTrip v => some v
  | _ => none

theorem exec_supply_over {c : Instr} {v : Nat} (supply : supplyOf c = some v) (excess : 45000 < v) :
    exec c s = .fault .beyondAbsoluteMaximum := by
  have stops : overMaximum v = true := decide_eq_true excess
  cases c <;> cases supply <;> exact if_pos stops

theorem exec_supply_within {c : Instr} {v : Nat} (supply : supplyOf c = some v) (within : ¬ 45000 < v) :
    ∃ t, exec c s = .next t := by
  have goesOn : ¬ overMaximum v = true := fun excess => within (of_decide_eq_true excess)
  cases c <;> cases supply <;> exact ⟨_, if_neg goesOn⟩

/-- Every other command has a next state. -/
theorem exec_next_of_no_supply {c : Instr} (other : supplyOf c = none) (s : State) : ∃ t, exec c s = .next t := by
  cases c
  case powerInterval => cases other
  case inputOvervoltage => cases other
  case inputOvervoltageTrip => cases other
  all_goals exact ⟨_, rfl⟩

theorem exec_supply_fault_iff {c : Instr} {v : Nat} (supply : supplyOf c = some v) :
    exec c s = .fault .beyondAbsoluteMaximum ↔ 45000 < v := by
  refine ⟨fun stops => ?_, exec_supply_over supply⟩
  by_contra within
  obtain ⟨t, next⟩ := exec_supply_within (s := s) supply within
  rw [next] at stops
  cases stops

/-- Whatever a command that is no supply event answers is a next state, and a supply event answers a next state or the one fault. -/
theorem exec_answers (c : Instr) (s : State) :
    (∃ t, exec c s = .next t) ∨ ∃ v, supplyOf c = some v ∧ exec c s = .fault .beyondAbsoluteMaximum := by
  obtain other | ⟨v, supply⟩ := (supplyOf c).eq_none_or_eq_some
  · exact .inl (exec_next_of_no_supply other s)
  · by_cases excess : 45000 < v
    · exact .inr ⟨v, supply, exec_supply_over supply excess⟩
    · exact .inl (exec_supply_within supply excess)

theorem supply_event {c : Instr} {v : Nat} (supply : supplyOf c = some v) :
    (∃ meas, c = .powerInterval meas) ∨ (∃ v, c = .inputOvervoltage v) ∨ ∃ v, c = .inputOvervoltageTrip v := by
  cases c <;> cases supply
  case powerInterval => exact .inl ⟨_, rfl⟩
  case inputOvervoltage => exact .inr (.inl ⟨_, rfl⟩)
  case inputOvervoltageTrip => exact .inr (.inr ⟨_, rfl⟩)

/-- Settles O8, by the supply voltage that a command reports. -/
theorem onlyExcessVoltageStops : Obligations.OnlyExcessVoltageStops := by
  unfold Obligations.OnlyExcessVoltageStops
  refine ⟨fun c s r refused => ?refused, fun meas s => ?_, fun v s => ?_, fun v s => ?_, fun c s f stops => ?stops⟩
  case refused =>
    obtain ⟨t, next⟩ | ⟨v, -, fault⟩ := exec_answers c s
    · rw [next] at refused
      cases refused
    · rw [fault] at refused
      cases refused
  case stops =>
    obtain ⟨t, next⟩ | ⟨v, supply, -⟩ := exec_answers c s
    · rw [next] at stops
      cases stops
    · exact supply_event supply
  all_goals exact exec_supply_fault_iff rfl

end Sys2Proof.Proofs

/-! SUPPORT. The SEC-DED code: the check byte is linear over flips of single bits, and every column has odd weight, so that two flips
leave a syndrome of even weight, which is neither zero nor a column; O45 is assembled from these. -/

namespace Sys2Proof.Proofs

open Sys2Proof Sys2Proof.Machine Sys2Proof.Laws

variable {w k c d e i j : Nat}

/-! ### Weights -/

/-- The weight of a sum of two words has the parity of the sum of their weights. -/
theorem popcount_xor_mod_two (n x y : Nat) : popcount n (x ^^^ y) % 2 = (popcount n x + popcount n y) % 2 := by
  induction n generalizing x y with
  | zero => rfl
  | succ n ih =>
    have low : (x ^^^ y) % 2 = (x + y) % 2 := Nat.xor_mod_two_eq
    have high : (x ^^^ y) / 2 = x / 2 ^^^ y / 2 := Nat.xor_div_two
    have rest := ih (x / 2) (y / 2)
    simp only [popcount, high]
    omega

/-- A value that is flipped by some column or check bit: of odd weight. -/
def OddWeight (c : Nat) : Prop := popcount 8 c % 2 = 1

theorem column_oddWeight (h : c ∈ columns) : OddWeight c := by
  have all : ∀ c ∈ columns, popcount 8 c % 2 = 1 := by decide +kernel
  exact all c h

theorem checkBit_weight (h : i < 8) : popcount 8 (2 ^ i) = 1 := by
  have all : ∀ i < 8, popcount 8 (2 ^ i) = 1 := by decide +kernel
  exact all i h

theorem checkBit_oddWeight (h : i < 8) : OddWeight (2 ^ i) := by
  rw [OddWeight, checkBit_weight h]

theorem xor_weight_even {x y : Nat} (hx : OddWeight x) (hy : OddWeight y) : popcount 8 (x ^^^ y) % 2 = 0 := by
  unfold OddWeight at hx hy
  rw [popcount_xor_mod_two]
  omega

/-! ### Columns -/

/-- The column of data bit `d`. -/
def columnOf (d : Nat) : Nat := columns.getD d 0

theorem columns_length : columns.length = 64 := by decide +kernel

theorem columnOf_eq_getElem (h : d < columns.length) : columnOf d = columns[d] := by
  rw [columnOf, List.getD_eq_getElem?_getD, List.getElem?_eq_getElem h, Option.getD_some]

theorem columnOf_mem (h : d < 64) : columnOf d ∈ columns := by
  have inside : d < columns.length := by rw [columns_length]; exact h
  rw [columnOf_eq_getElem inside]
  exact List.getElem_mem inside

theorem columnOf_oddWeight (h : d < 64) : OddWeight (columnOf d) := column_oddWeight (columnOf_mem h)

/-- No column is that of a check bit. -/
theorem columnOf_weight_ne_one (h : d < 64) : popcount 8 (columnOf d) ≠ 1 := by
  have all : ∀ c ∈ columns, popcount 8 c ≠ 1 := by decide +kernel
  exact all _ (columnOf_mem h)

theorem columnOf_injective (hd : d < 64) (he : e < 64) (same : columnOf d = columnOf e) : d = e := by
  have nodup : columns.Nodup := by decide +kernel
  rw [← columns_length] at hd he
  rw [columnOf_eq_getElem hd, columnOf_eq_getElem he] at same
  exact (List.Nodup.getElem_inj_iff nodup).1 same

theorem columnOf_ne_zero (h : d < 64) : columnOf d ≠ 0 := by
  intro zero
  have odd := columnOf_oddWeight h
  rw [zero, OddWeight] at odd
  exact absurd odd (by decide)

theorem columnOf_ne_checkBit (hd : d < 64) (hi : i < 8) : columnOf d ≠ 2 ^ i := fun same =>
  columnOf_weight_ne_one hd (same ▸ checkBit_weight hi)

/-! ### What a reader finds by the syndrome (R591) -/

theorem find_column (h : d < 64) : columns.zipIdx.find? (fun x => x.1 == columnOf d) = some (columnOf d, d) := by
  have all : ∀ d < 64, columns.zipIdx.find? (fun x => x.1 == columnOf d) = some (columnOf d, d) := by decide +kernel
  exact all d h

theorem find_no_column {s : Nat} (h : s ∉ columns) : columns.zipIdx.find? (fun x => x.1 == s) = none := by
  rw [List.find?_eq_none]
  rintro ⟨c, d⟩ listed
  have column : c ∈ columns := List.fst_mem_of_mem_zipIdx listed
  rw [beq_iff_eq]
  rintro rfl
  exact h column

theorem readWord_clean (h : k ^^^ checkByte w = 0) : readWord w k = some (w, 0) := by
  simp only [readWord, h, if_true]

theorem readWord_checkBit (h : popcount 8 (k ^^^ checkByte w) = 1) : readWord w k = some (w, k ^^^ checkByte w) := by
  have flipped : k ^^^ checkByte w ≠ 0 := fun zero => absurd (zero ▸ h : popcount 8 0 = 1) (by decide)
  simp only [readWord, if_neg flipped, if_pos h]

theorem readWord_dataBit (hd : d < 64) (h : columnOf d = k ^^^ checkByte w) :
    readWord w k = some (w ^^^ 2 ^ d, k ^^^ checkByte w) := by
  have flipped := columnOf_ne_zero hd
  have data := columnOf_weight_ne_one hd
  have found := find_column hd
  rw [h] at flipped data found
  simp only [readWord, if_neg flipped, if_neg data, found]

theorem readWord_uncorrectable (flipped : k ^^^ checkByte w ≠ 0) (data : popcount 8 (k ^^^ checkByte w) ≠ 1)
    (unlisted : k ^^^ checkByte w ∉ columns) : readWord w k = none := by
  simp only [readWord, if_neg flipped, if_neg data, find_no_column unlisted]

/-- A syndrome of even weight other than zero is that of two flips at least. -/
theorem readWord_even (flipped : k ^^^ checkByte w ≠ 0) (even : popcount 8 (k ^^^ checkByte w) % 2 = 0) : readWord w k = none := by
  refine readWord_uncorrectable flipped (fun one => ?_) (fun listed => ?_)
  · rw [one] at even
    exact absurd even (by decide)
  · have odd := column_oddWeight listed
    rw [OddWeight, even] at odd
    exact absurd odd (by decide)

/-- The syndrome is the sum of two different odd values. -/
theorem readWord_two {x y : Nat} (h : k ^^^ checkByte w = x ^^^ y) (hx : OddWeight x) (hy : OddWeight y) (differ : x ≠ y) :
    readWord w k = none := by
  refine readWord_even ?_ ?_
  · rw [h]
    exact fun zero => differ (Nat.xor_eq_zero_iff.1 zero)
  · rw [h]
    exact xor_weight_even hx hy

/-! ### The check byte under a flip (R590) -/

theorem bit_xor_two_pow (w d n : Nat) : bit (w ^^^ 2 ^ d) n = (bit w n ^^ decide (d = n)) := by
  rw [bit_testBit, bit_testBit, Nat.testBit_xor, Nat.testBit_two_pow]

/-- The check byte's sum over columns from index `n` on. -/
def checkSum (w : Nat) (l : List Nat) (n c : Nat) : Nat := (l.zipIdx n).foldl (fun c x => if bit w x.2 then c ^^^ x.1 else c) c

theorem checkSum_cons (w x : Nat) (l : List Nat) (n c : Nat) :
    checkSum w (x :: l) n c = checkSum w l (n + 1) (if bit w n then c ^^^ x else c) := rfl

/-- What the sum begins with is added to it. -/
theorem checkSum_xor (w : Nat) (l : List Nat) (n c x : Nat) : checkSum w l n (c ^^^ x) = checkSum w l n c ^^^ x := by
  induction l generalizing n c with
  | nil => rfl
  | cons y l ih =>
    rw [checkSum_cons, checkSum_cons, ← ih]
    congr 1
    split
    · rw [Nat.xor_right_comm]
    · rfl

/-- A flip below the first index changes nothing. -/
theorem checkSum_flip_below (w : Nat) (l : List Nat) (n c : Nat) (below : d < n) : checkSum (w ^^^ 2 ^ d) l n c = checkSum w l n c := by
  induction l generalizing n c with
  | nil => rfl
  | cons y l ih =>
    have same : bit (w ^^^ 2 ^ d) n = bit w n := by
      rw [bit_xor_two_pow, decide_eq_false (Nat.ne_of_lt below), Bool.xor_false]
    rw [checkSum_cons, checkSum_cons, same, ih (n + 1) _ (Nat.lt_succ_of_lt below)]

/-- A flip of a bit adds its column. -/
theorem checkSum_flip (w : Nat) (l : List Nat) (n c : Nat) (inside : d < l.length) :
    checkSum (w ^^^ 2 ^ (n + d)) l n c = checkSum w l n c ^^^ l.getD d 0 := by
  induction l generalizing n c d with
  | nil => exact absurd inside (Nat.not_lt_zero d)
  | cons y l ih =>
    rw [checkSum_cons, checkSum_cons]
    cases d with
    | zero =>
      have flipped : bit (w ^^^ 2 ^ n) n = !bit w n := by rw [bit_xor_two_pow, decide_eq_true rfl, Bool.xor_true]
      rw [Nat.add_zero, flipped, checkSum_flip_below w l (n + 1) _ (Nat.lt_succ_self n), List.getD_cons_zero, ← checkSum_xor]
      congr 1
      cases bit w n with
      | false => rfl
      | true => exact (xor_cancel_right c y).symm
    | succ d =>
      have same : bit (w ^^^ 2 ^ (n + (d + 1))) n = bit w n := by
        rw [bit_xor_two_pow, decide_eq_false (by omega), Bool.xor_false]
      have next : n + (d + 1) = n + 1 + d := by omega
      rw [same, List.getD_cons_succ, next, ih (n + 1) _ (Nat.lt_of_succ_lt_succ inside)]

theorem checkByte_flip (h : d < 64) (w : Nat) : checkByte (w ^^^ 2 ^ d) = checkByte w ^^^ columnOf d := by
  have flipped := checkSum_flip w columns 0 0 (d := d) (by rw [columns_length]; exact h)
  rwa [Nat.zero_add] at flipped

/-- Settles O45, by the syndrome: none, that of a check bit, a column, or the sum of two of these. -/
theorem wordsCorrectOneFlip : Obligations.WordsCorrectOneFlip := by
  unfold Obligations.WordsCorrectOneFlip
  refine ⟨?syndromes, ?flips⟩
  case syndromes =>
    intro w k s
    refine ⟨readWord_clean, readWord_checkBit, fun d hd h => readWord_dataBit hd h, ?_⟩
    intro flipped data unlisted
    refine readWord_uncorrectable flipped data fun listed => ?_
    obtain ⟨d, inside, found⟩ := List.getElem_of_mem listed
    exact unlisted d (columns_length ▸ inside) ((columnOf_eq_getElem inside).trans found)
  case flips =>
    intro w k
    refine ⟨fun i hi => ?checkBit, fun d hd => ?dataBit, fun d e hd he differ => ?twoData, fun d i hd hi => ?both,
      fun i j hi hj differ => ?twoCheck⟩
    case checkBit =>
      have syndrome : k ^^^ 2 ^ i ^^^ checkByte w = 2 ^ i := by rw [Nat.xor_right_comm, Nat.xor_self, Nat.zero_xor]
      rw [readWord_checkBit (by rw [syndrome]; exact checkBit_weight hi), syndrome]
    case dataBit =>
      have syndrome : k ^^^ checkByte (w ^^^ 2 ^ d) = columnOf d := by rw [checkByte_flip hd, xor_cancel_left]
      rw [readWord_dataBit hd syndrome.symm, syndrome, xor_cancel_right, columnOf]
    case twoData =>
      have syndrome : k ^^^ checkByte (w ^^^ 2 ^ d ^^^ 2 ^ e) = columnOf d ^^^ columnOf e := by
        rw [checkByte_flip he, checkByte_flip hd, Nat.xor_assoc, xor_cancel_left]
      exact readWord_two syndrome (columnOf_oddWeight hd) (columnOf_oddWeight he) fun same => differ (columnOf_injective hd he same)
    case both =>
      have syndrome : k ^^^ 2 ^ i ^^^ checkByte (w ^^^ 2 ^ d) = 2 ^ i ^^^ columnOf d := by
        rw [checkByte_flip hd, Nat.xor_right_comm, xor_cancel_left, Nat.xor_comm]
      exact readWord_two syndrome (checkBit_oddWeight hi) (columnOf_oddWeight hd) (columnOf_ne_checkBit hd hi).symm
    case twoCheck =>
      have syndrome : k ^^^ 2 ^ i ^^^ 2 ^ j ^^^ checkByte w = 2 ^ i ^^^ 2 ^ j := by
        rw [Nat.xor_assoc k, Nat.xor_right_comm, Nat.xor_self, Nat.zero_xor]
      exact readWord_two syndrome (checkBit_oddWeight hi) (checkBit_oddWeight hj) fun same =>
        differ (Nat.pow_right_injective (Nat.le_refl 2) same)

end Sys2Proof.Proofs

/-! SUPPORT. Reads of management registers over the sideband and the I3C target: what a read of a counter, of the word after one, and of
the Ledger's number answers and latches; O58 and O59 are assembled from these. -/

namespace Sys2Proof.Proofs

open Sys2Proof Sys2Proof.Machine Sys2Proof.Laws

variable {s : State} {a c n : Nat}

/-! ### Counters (R628) -/

/-- The low word of every counter lies at a multiple of 8. -/
theorem counterAt_aligned (h : counterAt s a = some c) : a % 8 = 0 := by
  unfold counterAt at h
  split at h
  · omega
  split at h
  · omega
  split at h
  · unfold throttleAt at h
    split at h
    · omega
    · cases h
  split at h
  · omega
  split at h
  · omega
  split at h
  · unfold portCounter at h
    split at h
    · omega
    · cases h
  split at h
  · unfold portCounter at h
    split at h
    · omega
    · cases h
  · cases h

/-- The word after a counter's low word is none. -/
theorem counterAt_next (h : counterAt s a = some c) : counterAt s (a + 4) = none := by
  have low := counterAt_aligned h
  rw [Option.eq_none_iff_forall_not_mem]
  intro v high
  have aligned := counterAt_aligned high
  omega

theorem registerWord_counter (h : counterAt s a = some c) : registerWord s a = c % 2 ^ 32 := by
  simp only [registerWord, h]

/-- The word after a counter's low word reads as what was latched. -/
theorem registerWord_next (h : counterAt s a = some c) : registerWord s (a + 4) = tgetD s.mgmt.high a 0 := by
  have latched : 4 ≤ a + 4 ∧ (counterAt s a).isSome = true := ⟨Nat.le_add_left 4 a, by rw [h]; rfl⟩
  simp only [registerWord, counterAt_next h, Nat.add_sub_cancel, if_pos latched]

theorem latch_counter (other : a ≠ 0x122000) (h : counterAt s a = some c) :
    latch a s = { s with mgmt := { s.mgmt with high := tset s.mgmt.high a (c / 2 ^ 32 % 2 ^ 32) } } := by
  simp only [latch, if_neg other, h]

theorem latch_none (other : a ≠ 0x122000) (h : counterAt s a = none) : latch a s = s := by
  simp only [latch, if_neg other, h]

/-! ### The Ledger's number (R645) -/

/-- No counter's low word lies at the Ledger's number or before it. -/
theorem counterAt_ledger : counterAt s 0x122000 = none ∧ counterAt s (0x122000 - 4) = none := by
  simp [counterAt]

theorem counterAt_ne_ledger (h : counterAt s a = some c) : a ≠ 0x122000 := by
  rintro rfl
  rw [counterAt_ledger.1] at h
  cases h

theorem next_ne_ledger (h : counterAt s a = some c) : a + 4 ≠ 0x122000 := fun next => by
  have low := counterAt_aligned h
  omega

theorem registerWord_ledger : registerWord s 0x122000 = (s.ledger.next - 1) % 2 ^ 32 := by
  obtain ⟨none, before⟩ := counterAt_ledger (s := s)
  simp [registerWord, none, before, ledgerWord]

theorem accessStatus_ledger (released : s.power.resetHeld = false) : accessStatus s 0x122000 = 0 := by
  simp [accessStatus, addressMap, released]

/-! ### Reads (R626) -/

theorem readAt_unreached (main : s.power.mainPower = true) (bad : accessStatus s a ≠ 0) :
    readAt a s = emit (.sideband (leBytes 1 (accessStatus s a))) s := by
  simp only [readAt, main, bad, not_true, if_false, ne_eq, not_false_eq_true, if_true]

theorem readAt_reached (main : s.power.mainPower = true) (ok : accessStatus s a = 0) :
    readAt a s = emit (.sideband (0 :: leBytes 4 (registerWord s a))) (latch a s) := by
  simp only [readAt, main, ok, not_true, if_false, ne_eq]

theorem exec_counterLowRead (a : Nat) (s : State) : exec (.counterLowRead a) s = .next (readAt a s) := rfl

theorem exec_counterLowRead_low (main : s.power.mainPower = true) (ok : accessStatus s a = 0) (h : counterAt s a = some c) :
    exec (.counterLowRead a) s = .next (emit (.sideband (0 :: leBytes 4 (c % 2 ^ 32)))
      { s with mgmt := { s.mgmt with high := tset s.mgmt.high a (c / 2 ^ 32 % 2 ^ 32) } }) := by
  rw [exec_counterLowRead, readAt_reached main ok, registerWord_counter h, latch_counter (counterAt_ne_ledger h) h]

theorem exec_counterLowRead_high (main : s.power.mainPower = true) (ok : accessStatus s (a + 4) = 0) (h : counterAt s a = some c) :
    exec (.counterLowRead (a + 4)) s = .next (emit (.sideband (0 :: leBytes 4 (tgetD s.mgmt.high a 0))) s) := by
  rw [exec_counterLowRead, readAt_reached main ok, registerWord_next h, latch_none (next_ne_ledger h) (counterAt_next h)]

/-- Settles O59: the read of the low word latches under its own address, and the read of the next word answers from there. -/
theorem countersReadAsPairs : Obligations.CountersReadAsPairs := by
  unfold Obligations.CountersReadAsPairs
  intro s a c main counter
  refine ⟨fun ok => ⟨_, exec_counterLowRead_low main ok counter, rfl, tget_tset_same _ _ _, fun k other => ?_⟩,
    fun ok => exec_counterLowRead_high main ok counter⟩
  exact tget_tset_other _ _ _ _ other

/-! ### A selection and a scan that end (R645, R646) -/

/-- The management processor answers the sideband. -/
theorem answers_of_power (main : s.power.mainPower = true) (released : s.power.resetHeld = false) :
    s.power.mainPower = true ∧ ¬ s.power.resetHeld = true := ⟨main, by rw [released]; exact Bool.noConfusion⟩

theorem exec_ledgerSelectDone (main : s.power.mainPower = true) (released : s.power.resetHeld = false) :
    exec .ledgerSelectDone s = .next (ledgerFetched s) := congrArg Host.Outcome.next (if_pos (answers_of_power main released))

theorem ledgerFetched_mirror {b : Bytes} (fetch : s.mgmt.ledgerFetch = some n) (held : tget s.ledger.mirror n = some b) :
    ledgerFetched s = { s with mgmt := { s.mgmt with ledgerFetch := none, ledgerStatus := 3, ledgerData := b } } := by
  simp only [ledgerFetched, fetch, held]

theorem ledgerFetched_gone (fetch : s.mgmt.ledgerFetch = some n) (gone : tget s.ledger.mirror n = none) :
    ledgerFetched s = { s with mgmt := { s.mgmt with ledgerFetch := none, ledgerData := zeros 128 } } := by
  simp only [ledgerFetched, fetch, gone]

theorem exec_shScanDone (main : s.power.mainPower = true) (released : s.power.resetHeld = false) (scans : bit s.mgmt.shStatus 1 = true) :
    exec .shScanDone s = .next { s with mgmt := { s.mgmt with
      shStatus := s.mgmt.shStatus % 2, shFirst := (scanResult s).1, shRun := (scanResult s).2 } } :=
  congrArg Host.Outcome.next (if_pos ⟨main, (answers_of_power main released).2, scans⟩)

/-! ### The result of a message (R626) -/

/-- What the result registers answer. -/
def sidebandAnswer (s : State) : Bytes := if s.power.resetHeld then [3] else if s.mgmt.busy then [1] else 0 :: s.mgmt.result

theorem exec_sidebandResult (main : s.power.mainPower = true) :
    exec .sidebandResult s = .next (emit (.sideband (sidebandAnswer s)) s) := by
  have row : exec .sidebandResult s = .next (if ¬ s.power.mainPower then s else if s.power.resetHeld then emit (.sideband [3]) s
    else if s.mgmt.busy then emit (.sideband [1]) s else emit (.sideband (0 :: s.mgmt.result)) s) := rfl
  rw [row, if_neg (not_not_intro main), sidebandAnswer]
  split
  · rfl
  · split <;> rfl

/-! ### The I3C target (R611) -/

theorem addressed_of_some (main : s.power.mainPower = true) (held : s.i3c.address = some a) : addressed s = true := by
  simp only [addressed, main, held, Option.isSome_some, Bool.and_self]

/-- A command to the target has its effect where the target has an address. -/
theorem exec_of_addressed {i : Instr} {x : State} (row : exec i s = .next (if addressed s then x else s)) (h : addressed s = true) :
    exec i s = .next x := by
  rw [row, if_pos h]

theorem takeAddress_free {k : Nat} (main : s.power.mainPower = true) (free : s.i3c.address = none) (small : k < 128) :
    takeAddress k s = { s with i3c := { s.i3c with address := some k } } :=
  if_pos ⟨main, by rw [free]; rfl, small⟩

theorem not_isNone_of_some {α : Type} {o : Option α} {v : α} (h : o = some v) : ¬ o.isNone = true := by
  rw [h]
  exact Bool.noConfusion

theorem takeAddress_held {k : Nat} (held : s.i3c.address = some a) : takeAddress k s = s :=
  if_neg fun ⟨_, free, _⟩ => not_isNone_of_some held free

/-- What ENTDAA puts out: the target's identity, where it has no address. -/
def identified (s : State) : State :=
  if s.power.mainPower ∧ s.i3c.address.isNone then
    emit (.i3c (leBytes 6 (Config.i3cValue 0) ++ leBytes 1 (Config.i3cValue 1) ++ leBytes 1 (Config.i3cValue 2))) s
  else s

theorem exec_entdaa (k : Nat) (s : State) : exec (.entdaa k) s = .next (takeAddress k (identified s)) := rfl

theorem exec_setdasa (k : Nat) (s : State) : exec (.setdasa k) s = .next (takeAddress k s) := rfl

theorem identified_free (main : s.power.mainPower = true) (free : s.i3c.address = none) : identified s =
    emit (.i3c (leBytes 6 (Config.i3cValue 0) ++ leBytes 1 (Config.i3cValue 1) ++ leBytes 1 (Config.i3cValue 2))) s :=
  if_pos ⟨main, by rw [free]; rfl⟩

theorem identified_held (held : s.i3c.address = some a) : identified s = s := if_neg fun ⟨_, free⟩ => not_isNone_of_some held free

theorem sub_two (b : Bytes) : ∃ x y, sub b 0 2 = [x, y] := List.length_eq_two.1 (sub_length b 0 2)

theorem exec_getstatus (h : addressed s = true) : ∃ x y, exec .getstatus s = .next (emit (.i3c [x, y]) { s with free := s.free + 1 }) := by
  obtain ⟨x, y, two⟩ := sub_two (Config.freeBytes s.free 2)
  have answer : exec .getstatus s = .next (emit (.i3c (sub (Config.freeBytes s.free 2) 0 2)) { s with free := s.free + 1 }) :=
    exec_of_addressed (i := .getstatus) rfl h
  exact ⟨x, y, by rw [answer, two]⟩

/-- Settles O58, by the reads, the ends of a selection and of a scan, the result registers, and the commands of the I3C target. -/
theorem sidebandAnswers : Obligations.SidebandAnswers := by
  unfold Obligations.SidebandAnswers
  refine ⟨fun s main => ?sideband, fun s main => ?target⟩
  case sideband =>
    refine ⟨fun a bad => ?bad, fun a c ok _ counter => exec_counterLowRead_low main ok counter, fun a ok other none => ?word,
      fun released => ?ledger, fun released n fetch => ?fetched, exec_shScanDone main, fun held => ?held, fun released busy => ?busy,
      fun released idle => ?idle⟩
    case bad => rw [exec_counterLowRead, readAt_unreached main bad]
    case word => rw [exec_counterLowRead, readAt_reached main ok, latch_none other none]
    case ledger =>
      have row : exec .ledgerSeqLoRead s = .next (readAt 0x122000 s) := rfl
      rw [row, readAt_reached main (accessStatus_ledger released), registerWord_ledger]
      rfl
    case fetched =>
      exact ⟨fun b held => by rw [exec_ledgerSelectDone main released, ledgerFetched_mirror fetch held],
        fun gone => by rw [exec_ledgerSelectDone main released, ledgerFetched_gone fetch gone]⟩
    case held => rw [exec_sidebandResult main, sidebandAnswer, held, if_pos rfl]
    case busy => rw [exec_sidebandResult main, sidebandAnswer, released, busy, if_neg Bool.noConfusion, if_pos rfl]
    case idle => rw [exec_sidebandResult main, sidebandAnswer, released, idle, if_neg Bool.noConfusion, if_neg Bool.noConfusion]
  case target =>
    refine ⟨fun a free small => ⟨?entdaa, ?setdasa⟩, congrArg Host.Outcome.next (if_pos main), fun a held => ?addressed⟩
    case entdaa => rw [exec_entdaa, identified_free main free, takeAddress_free (by exact main) (by exact free) small]
    case setdasa => rw [exec_setdasa, takeAddress_free main free small]
    case addressed =>
      have h := addressed_of_some main held
      refine ⟨fun b => ⟨?_, ?_⟩, exec_of_addressed (i := .enec) rfl h, exec_of_addressed (i := .disec) rfl h,
        exec_of_addressed (i := .getpid) rfl h, exec_of_addressed (i := .getbcr) rfl h, exec_of_addressed (i := .getdcr) rfl h,
        exec_getstatus h⟩
      · rw [exec_entdaa, identified_held held, takeAddress_held held]
      · rw [exec_setdasa, takeAddress_held held]

end Sys2Proof.Proofs

/-! SUPPORT. Events of a live queue pair and of an Ethernet port: how each reaches its effect, and the effect of a timeout, an RNR NAK, a
mark and a quiet period by the queue pair's fields; O52 is assembled from these. -/

namespace Sys2Proof.Proofs

open Sys2Proof Sys2Proof.Machine Sys2Proof.Laws

variable {s : State} {c : Instr} {q n k : Nat} {p : Qp} {f : Qp → State → State}

/-- A change of an entry by what the entry holds now. -/
theorem tmod_const {α : Type} {t : Tab α} {k : Nat} {v : α} (f : α → α) (h : tget t k = some v) : tmod t k f = tmod t k fun _ => f v := by
  induction t with
  | nil => rfl
  | cons x t ih =>
    obtain ⟨i, w⟩ := x
    simp only [tget] at h
    simp only [tmod]
    split at h
    next same =>
      cases h
      rw [if_pos same, if_pos same]
    next other => rw [if_neg other, if_neg other, ih h]

/-! ### Events of a queue pair -/

/-- A queue pair that takes events: the Proend is at work, and the queue pair is there and not in error. -/
structure LivePair (s : State) (q : Nat) (p : Qp) : Prop where
  ready : alive s = true
  there : tget s.eth.qps q = some p
  sound : p.error = false

theorem onQp_live (h : LivePair s q p) : onQp q f s = f p s := by
  obtain ⟨ready, there, sound⟩ := h
  have live : liveQp s q = some p := by
    simp [liveQp, qpAt, ready, there, sound]
  simp only [onQp, live]

/-- An event of a live queue pair has its effect. -/
theorem exec_onQp (row : exec c s = .next (onQp q f s)) (h : LivePair s q p) : exec c s = .next (f p s) := by
  rw [row, onQp_live h]

/-- One after which what waits goes on. -/
theorem exec_onQp_settle (row : exec c s = .next (settle (onQp q f s))) (h : LivePair s q p) : exec c s = .next (settle (f p s)) := by
  rw [row, onQp_live h]

theorem modQp_const (f : Qp → Qp) (there : tget s.eth.qps q = some p) : modQp q f s = modQp q (fun _ => f p) s := by
  rw [modQp, tmod_const f there, modQp]

section

variable (h : LivePair s q p)

include h

/-! ### WRITEs (R413, R594) -/

theorem exec_rdmaWrite_whole {rkey off : Nat} {data : Bytes} {fetches : List Fetch} {ecc : List EccReport}
    (whole : segmentLost ecc = false) : exec (.rdmaWrite q rkey off data fetches ecc) s = .next (settle
      (arriveOp q p { target := some (rkey, off), data, fetches } (meetWords {} ecc s).1)) := by
  rw [exec_onQp_settle (c := .rdmaWrite q rkey off data fetches ecc) rfl h, whole, if_neg Bool.noConfusion]

theorem exec_rdmaWrite_lost {rkey off : Nat} {data : Bytes} {fetches : List Fetch} {ecc : List EccReport}
    (lost : segmentLost ecc = true) :
    exec (.rdmaWrite q rkey off data fetches ecc) s = .next (settle (meetWords {} ecc s).1) := by
  rw [exec_onQp_settle (c := .rdmaWrite q rkey off data fetches ecc) rfl h, if_pos lost]

/-! ### Timeouts and RNR NAKs (R417, R418) -/

theorem exec_rcAckTimeout_idle (none : p.flights = []) : exec (.rcAckTimeout q) s = .next (settle s) := by
  rw [exec_onQp_settle (c := .rcAckTimeout q) rfl h, none, if_pos List.isEmpty_nil]

section

variable (flies : p.flights ≠ [])

include flies

theorem exec_rcAckTimeout_last (last : p.retriesLeft = 0) : exec (.rcAckTimeout q) s = .next (settle (qpFails q p s)) := by
  rw [exec_onQp_settle (c := .rcAckTimeout q) rfl h, if_neg (mt List.isEmpty_iff.1 flies), if_pos last]

theorem exec_rcAckTimeout_again (left : p.retriesLeft ≠ 0) : exec (.rcAckTimeout q) s = .next (settle
    (putOut q (.retransmit q) (modQp q (fun y => { y with retriesLeft := p.retriesLeft - 1 }) s))) := by
  rw [exec_onQp_settle (c := .rcAckTimeout q) rfl h, if_neg (mt List.isEmpty_iff.1 flies), if_neg left]

theorem exec_rnrNak_again : exec (.rnrNak q) s = .next (putOut q (.retransmit q) s) := by
  rw [exec_onQp (c := .rnrNak q) rfl h, if_neg (mt List.isEmpty_iff.1 flies)]

end

theorem exec_rnrNak_idle (none : p.flights = []) : exec (.rnrNak q) s = .next s := by
  rw [exec_onQp (c := .rnrNak q) rfl h, none, if_pos List.isEmpty_nil]

/-! ### Congestion (R419, R420) -/

/-- No notification has gone out in the last 50 µs. -/
def mayNotify (p : Qp) (now : Nat) : Bool := match p.lastNote with | none => true | some t => decide (t + 50000 ≤ now)

theorem exec_congestionExperienced : exec (.congestionExperienced q) s = .next (if mayNotify p s.timeNs then
    bumpEth p.port 2 1 (putOut q (.congestionNote q) (modQp q (fun y => { y with lastNote := some s.timeNs }) s)) else s) :=
  exec_onQp (c := .congestionExperienced q) rfl h

theorem exec_ratePeriod : exec (.ratePeriod q) s = .next (modQp q (fun _ => afterQuiet p) s) := by
  rw [exec_onQp (c := .ratePeriod q) rfl h, modQp_const afterQuiet h.there]

end

theorem mayNotify_of_quiet (h : p.lastNote = none ∨ ∃ t, p.lastNote = some t ∧ t + 50000 ≤ n) : mayNotify p n = true := by
  obtain none | ⟨t, last, past⟩ := h
  · simp only [mayNotify, none]
  · simp only [mayNotify, last, decide_eq_true past]

theorem mayNotify_of_recent {t : Nat} (last : p.lastNote = some t) (recent : n < t + 50000) : mayNotify p n = false := by
  simp only [mayNotify, last, decide_eq_false (Nat.not_le.2 recent)]

/-! ### Ports (R421, R426) -/

theorem pfcOn_of (port : n < 4) (priority : k < 8) (on : bit (s.config.image.eth.getD n {}).pfc k = true) : pfcOn s n k = true := by
  simp only [pfcOn, decide_eq_true port, decide_eq_true priority, on, Bool.and_self]

/-- A command of flow control has its effect on a priority whose flow control is on. -/
theorem exec_flowControl {x : State} (row : exec c s = .next (if alive s && pfcOn s n k then x else s)) (ready : alive s = true)
    (on : pfcOn s n k = true) : exec c s = .next x := by
  rw [row, ready, on, Bool.and_self, if_pos rfl]

/-- An event of the link of a lit port has its effect. -/
theorem exec_ethLink {x : State} (row : exec c s = .next (if s.power.railsOn && decide (n < 4) && !(s.eth.ports.getD n {}).dark
    then x else s)) (rails : s.power.railsOn = true) (port : n < 4) (lit : (s.eth.ports.getD n {}).dark = false) :
    exec c s = .next x := by
  rw [row, rails, decide_eq_true port, lit, Bool.not_false, Bool.and_self, Bool.and_self, if_pos rfl]

/-- Settles O52, by the events of a live queue pair, of its congestion control, of a port's flow control and of its link. -/
theorem ethernetActs : Obligations.EthernetActs := by
  unfold Obligations.EthernetActs
  refine ⟨?operations, ?congestion, ?flowControl, ?links⟩
  case operations =>
    intro s w q p ready there sound
    have h : LivePair s q p := ⟨ready, there, sound⟩
    refine ⟨fun b => exec_onQp_settle (c := .rdmaSend q b) rfl h,
      fun rkey off data imm fetches => exec_onQp_settle (c := .rdmaWriteWithImmediate q rkey off data imm fetches) rfl h,
      ?write, exec_onQp (c := .rdmaRead q) rfl h, exec_onQp (c := .atomic q) rfl h, ?ack, exec_onQp_settle (c := .rcNak q) rfl h,
      exec_rcAckTimeout_last h, exec_rcAckTimeout_again h, exec_rnrNak_again h,
      fun none => ⟨exec_rnrNak_idle h none, exec_rcAckTimeout_idle h none⟩⟩
    case write =>
      rintro rkey off data fetches ecc rfl
      exact ⟨exec_rdmaWrite_whole h, exec_rdmaWrite_lost h⟩
    case ack =>
      rintro n ecc rfl
      exact exec_onQp_settle (c := .rdmaAck q n ecc) rfl h
  case congestion =>
    intro s q p ready there sound
    have h : LivePair s q p := ⟨ready, there, sound⟩
    refine ⟨fun quiet => ?notified, fun t last recent => ?kept, exec_onQp (c := .congestionNotification q) rfl h,
      _, afterQuiet p, exec_ratePeriod h, rfl, rfl, rfl, rfl, rfl, rfl⟩
    case notified => rw [exec_congestionExperienced h, if_pos (mayNotify_of_quiet quiet)]
    case kept => rw [exec_congestionExperienced h, mayNotify_of_recent last recent, if_neg Bool.noConfusion]
  case flowControl =>
    intro s n k ready port priority on
    have flow : pfcOn s n k = true := pfcOn_of port priority on
    exact ⟨exec_flowControl (c := .pause n k) rfl ready flow, exec_flowControl (c := .resume n k) rfl ready flow⟩
  case links =>
    intro s n rails port lit
    exact ⟨exec_ethLink (c := .ethLinkLoss n) rfl rails port lit, exec_ethLink (c := .ethLinkReturn n) rfl rails port lit⟩

end Sys2Proof.Proofs

/-! SUPPORT. HELLO, the messages that create programs, fences and proxies, and those that signal, wait for, query and destroy objects, one
equation per case of R432 and R437 to R452; O9, O10 and O12 to O14 are assembled from these. -/

namespace Sys2Proof.Proofs

open Sys2Proof Sys2Proof.Machine Sys2Proof.Laws

variable {s : State} {m : Msg} {o : Obj} {ctx i j : Nat}

/-! ### HELLO (R432) -/

/-- The first message of a context is a HELLO that its wait fence lets go. -/
structure HelloFront (s : State) (ctx : Nat) (m : Msg) : Prop where
  ready : alive s = true
  context : m.ctx = some ctx
  first : ∃ rest, ((tget s.ctxs ctx).map (·.inbox)).getD [] = m.bytes :: rest
  type : msgType m.bytes = 0x01
  free : waitState s m.bytes = .go

theorem exec_hello (h : HelloFront s ctx m) : exec (.hello ctx) s = .next (settle (helloBody ctx m (popInbox ctx s))) := by
  obtain ⟨ready, context, ⟨rest, first⟩, type, free⟩ := h
  obtain ⟨from_, bytes⟩ := m
  cases context
  have row : execHello ctx s = .next (settle (helloBody ctx ⟨some ctx, bytes⟩ (popInbox ctx s))) := by
    simp only [execHello, ready, first, type, free, ne_eq, not_true, if_false]
  exact row

/-- A context whose version is settled. -/
def withVersion (ctx v : Nat) (s : State) : State := { s with ctxs := tmod s.ctxs ctx fun c => { c with version := v } }

theorem helloBody_settles {v : Nat} (clean : headerClean m.bytes = true) (common : chooseVersion (arg m.bytes 0 1) = some v) :
    helloBody ctx m s = completeResult m 0x00 (leBytes 2 (v * 256) ++ leBytes 2 0x8012 ++ leBytes 1 0xB0) (withVersion ctx v s) := by
  simp only [helloBody, clean, not_true, if_false, common, withVersion]

theorem helloBody_none (clean : headerClean m.bytes = true) (none : chooseVersion (arg m.bytes 0 1) = none) :
    helloBody ctx m s = complete m 0x10 s := by
  simp only [helloBody, clean, not_true, if_false, none]

theorem chooseVersion_higher {mask v : Nat}
    (h : bit mask 3 = true ∧ v = 3 ∨ bit mask 3 = false ∧ bit mask 2 = true ∧ v = 2) : chooseVersion mask = some v := by
  obtain ⟨three, rfl⟩ | ⟨three, two, rfl⟩ := h
  · exact if_pos three
  · simp only [chooseVersion, three, two, Bool.false_eq_true, if_false, if_true]

theorem chooseVersion_none {mask : Nat} (three : bit mask 3 = false) (two : bit mask 2 = false) : chooseVersion mask = none := by
  simp only [chooseVersion, three, two, Bool.false_eq_true, if_false]

theorem tget_withVersion_popInbox {v : Nat} {c : Ctx} (held : tget s.ctxs ctx = some c) :
    tget (withVersion ctx v (popInbox ctx s)).ctxs ctx = some { c with inbox := c.inbox.drop 1, version := v } := by
  simp only [withVersion, popInbox, tget_tmod, held, Option.map_some, if_true]

/-- The product and the stepping that a HELLO answers. -/
theorem helloAnswer_identity : leBytes 2 0x8012 ++ leBytes 1 0xB0 = [0x12, 0x80, 0xB0] := by decide

/-- Settles O9, by the mask of the versions that the message names. -/
theorem helloSettlesVersion : Obligations.HelloSettlesVersion := by
  unfold Obligations.HelloSettlesVersion
  intro s ctx m rest ready context first type free clean
  have front : HelloFront s ctx m := ⟨ready, context, ⟨rest, first⟩, type, free⟩
  refine ⟨fun v common => ⟨_, rfl, fun c held => tget_withVersion_popInbox held, ?_⟩, fun three two => ?_⟩
  · rw [exec_hello front, helloBody_settles clean (chooseVersion_higher common), List.append_assoc, helloAnswer_identity]
    rfl
  · rw [exec_hello front, helloBody_none clean (chooseVersion_none three two)]

/-! ### Creation (R445) -/

/-- An object that a message of its context creates in a free entry. -/
theorem createObject_free (entry : freeEntry s = some i) (context : m.ctx = some ctx) (job : Option Nat) (d : ObjData) :
    createObject m job d (fun _ => []) s =
      completeWith m 0x00 { obj := i, gen := genOf s i } (putObject i { job, ctx, data := d } s) := by
  simp only [createObject, entry, context, Option.getD_some]
  rfl

section

variable (live : liveJob s m = some j)

include live

theorem programCreateBody_fits (nonempty : arg m.bytes 5 4 ≠ 0) (range : rangeOk s j (arg m.bytes 0 5) (arg m.bytes 5 4) = true) :
    programCreateBody m s = createObject m (some j) (.program (arg m.bytes 0 5) (arg m.bytes 5 4)) (fun _ => []) s := by
  simp only [programCreateBody, live, if_neg nonempty, range, not_true, if_false]

theorem fenceCreateBody_fits (flags : arg m.bytes 8 1 < 4) (vc : arg m.bytes 9 1 < 8) (room : fenceRoom s j = true) :
    fenceCreateBody m s = createObject m (some j) (.fence {
      value := arg m.bytes 0 8, sharedContexts := bit (arg m.bytes 8 1) 0, sharedDevices := bit (arg m.bytes 8 1) 1
      vc := arg m.bytes 9 1 }) (fun _ => []) s := by
  have sized : ¬ (4 ≤ arg m.bytes 8 1 ∨ 8 ≤ arg m.bytes 9 1) := not_or.2 ⟨Nat.not_le.2 flags, Nat.not_le.2 vc⟩
  simp only [fenceCreateBody, live, if_neg sized, room, not_true, if_false]

theorem fenceImportBody_fits (peer : arg m.bytes 0 3 < 2 ^ 20) (vc : arg m.bytes 6 1 < 8) (room : fenceRoom s j = true) :
    fenceImportBody m s = createObject m (some j) (.proxy {
      peer := arg m.bytes 0 3, index := arg m.bytes 3 2, generation := arg m.bytes 5 1, vc := arg m.bytes 6 1 }) (fun _ => []) s := by
  have sized : ¬ (2 ^ 20 ≤ arg m.bytes 0 3 ∨ 8 ≤ arg m.bytes 6 1) := not_or.2 ⟨Nat.not_le.2 peer, Nat.not_le.2 vc⟩
  simp only [fenceImportBody, live, if_neg sized, room, not_true, if_false]

end

/-- Settles O10: each of the three messages creates its object in the entry that is free. -/
theorem objectsAreCreated : Obligations.ObjectsAreCreated := by
  unfold Obligations.ObjectsAreCreated
  intro s ctx m j i live entry made
  have entry : freeEntry (popInbox ctx s) = some i := entry
  refine ⟨fun front nonempty range => ?program, fun front flags vc room => ?fence, fun front peer vc room => ?proxy⟩
  case program =>
    rw [exec_of_front (c := .programCreate ctx) rfl front, programCreateBody_fits live nonempty range,
      createObject_free entry front.context]
    rfl
  case fence =>
    rw [exec_of_front (c := .fenceCreate ctx) rfl front, fenceCreateBody_fits live flags vc room,
      createObject_free entry front.context]
    rfl
  case proxy =>
    rw [exec_of_front (c := .fenceImport ctx) rfl front, fenceImportBody_fits live peer vc room,
      createObject_free entry front.context]
    rfl

/-! ### Signals, waits and queries (R437, R448, R454) -/

section

variable (named : headerObject s m isFenceOrProxy = .ok o)

include named

theorem fenceSignalBody_slot {f : Fence} (data : o.data = .fence f)
    (slot : msgObj m.bytes ∈ s.objects.resident ∨ s.objects.resident.length < 64) :
    fenceSignalBody m s = complete m 0x00 (applySignal (msgObj m.bytes) (arg m.bytes 0 8) s) := by
  simp only [fenceSignalBody, named, data, if_pos slot]

theorem fenceSignalBody_waits {f : Fence} (data : o.data = .fence f)
    (noSlot : ¬ (msgObj m.bytes ∈ s.objects.resident ∨ s.objects.resident.length < 64)) :
    fenceSignalBody m s = keepRunning m (.fenceSignal (msgObj m.bytes) (arg m.bytes 0 8)) (touchFence (msgObj m.bytes) s) := by
  simp only [fenceSignalBody, named, data, if_neg noSlot]

theorem fenceSignalBody_proxy {p : Proxy} (data : o.data = .proxy p) (live : o.destroying = false) :
    fenceSignalBody m s = complete m 0x00 (remoteSignal (o.job.getD 0) (msgObj m.bytes) p (arg m.bytes 0 8) s) := by
  simp only [fenceSignalBody, named, data, live, Bool.false_eq_true, if_false]

end

section

variable (named : headerObject s m isFence = .ok o) (live : o.destroying = false)

include named live

theorem fenceWaitBody_live :
    fenceWaitBody m s = keepRunning m (.fenceWait (msgObj m.bytes) (arg m.bytes 0 8)) (touchFence (msgObj m.bytes) s) := by
  simp only [fenceWaitBody, named, live, Bool.false_eq_true, if_false]

theorem fenceQueryBody_live {f : Fence} (data : o.data = .fence f) :
    fenceQueryBody m s = completeResult m 0x00 (leBytes 8 f.value ++ leBytes 1 f.faulted.toNat) s := by
  simp only [fenceQueryBody, named, live, data, Bool.false_eq_true, if_false]

end

/-- Settles O12, by the body of each message on the object that its header names. -/
theorem fencesAreUsed : Obligations.FencesAreUsed := by
  unfold Obligations.FencesAreUsed
  intro s ctx m o t i
  refine ⟨fun f front named data slot => ?slot, fun f front named data away full => ?waits, fun p front named data live => ?proxy,
    fun front named live => ?wait, fun f front named live data => ?query⟩
  case slot => rw [exec_of_front (c := .fenceSignal ctx) rfl front, fenceSignalBody_slot named data slot]
  case waits =>
    have noSlot : ¬ (i ∈ t.objects.resident ∨ t.objects.resident.length < 64) := not_or.2 ⟨away, Nat.not_lt.2 full⟩
    rw [exec_of_front (c := .fenceSignal ctx) rfl front, fenceSignalBody_waits named data noSlot]
  case proxy => rw [exec_of_front (c := .fenceSignal ctx) rfl front, fenceSignalBody_proxy named data live]
  case wait => rw [exec_of_front (c := .fenceWait ctx) rfl front, fenceWaitBody_live named live]
  case query => rw [exec_of_front (c := .fenceQuery ctx) rfl front, fenceQueryBody_live named live data]

/-! ### The distance of a signal (R449 to R451) -/

/-- How far ahead of a fence's value a signal's value lies, modulo 2^64. -/
def signalDistance (f : Fence) (v : Nat) : Nat := (v + 2 ^ 64 - f.value) % 2 ^ 64

section

variable {f : Fence} {v : Nat}

theorem signalFence_faulted (faulted : f.faulted = true) : signalFence f v = ({ f with ignored := f.ignored + 1 }, false) :=
  if_pos faulted

variable (small : v < 2 ^ 64) (normal : f.faulted = false)

include small normal

theorem signalFence_normal : signalFence f v =
    if signalDistance f v = 0 ∨ 2 ^ 63 ≤ signalDistance f v then ({ f with ignored := f.ignored + 1 }, false)
    else if signalDistance f v ≤ 2 ^ 62 then ({ f with value := v }, false)
    else ({ f with faulted := true }, true) := by
  simp only [signalFence, normal, Nat.mod_eq_of_lt small, Bool.false_eq_true, if_false, signalDistance]

theorem signalFence_ignored (d : signalDistance f v = 0 ∨ 2 ^ 63 ≤ signalDistance f v) :
    signalFence f v = ({ f with ignored := f.ignored + 1 }, false) := by
  rw [signalFence_normal small normal, if_pos d]

theorem signalFence_moves (forward : 1 ≤ signalDistance f v) (near : signalDistance f v ≤ 2 ^ 62) :
    signalFence f v = ({ f with value := v }, false) := by
  rw [signalFence_normal small normal, if_neg (by omega), if_pos near]

theorem signalFence_faults (far : 2 ^ 62 < signalDistance f v) (ahead : signalDistance f v < 2 ^ 63) :
    signalFence f v = ({ f with faulted := true }, true) := by
  rw [signalFence_normal small normal, if_neg (by omega), if_neg (Nat.not_le.2 far)]

end

theorem reached_iff {c v : Nat} (small : v < 2 ^ 64) : reached c v = true ↔ (c + 2 ^ 64 - v) % 2 ^ 64 < 2 ^ 63 := by
  rw [reached, Nat.mod_eq_of_lt small, decide_eq_true_iff]

/-- Settles O13, by the distance of the signal. -/
theorem signalMovesFence : Obligations.SignalMovesFence := by
  unfold Obligations.SignalMovesFence
  refine ⟨fun c v _ small => reached_iff small, ?_⟩
  intro f v _ small d
  exact ⟨signalFence_faulted, signalFence_ignored small, signalFence_moves small, signalFence_faults small⟩

/-! ### Destruction and the ends of waits (R431, R442 to R452) -/

theorem objectDestroyBody_live (named : headerObject s m (fun _ => true) = .ok o) (live : o.destroying = false) :
    objectDestroyBody m s = keepRunning m (.destroy (msgObj m.bytes))
      (modObj (msgObj m.bytes) (fun o => { o with destroying := true }) s) := by
  simp only [objectDestroyBody, named, live, Bool.false_eq_true, if_false]

theorem objectFree_idle (idle : objIdle s i = true) (held : objAt s i = some o) (dying : o.destroying = true) :
    objectFree (.object i) s = finish (.destroy i) 0x00 {} (releaseObject i s) :=
  if_pos ⟨idle, by rw [held]; exact dying⟩

theorem objectFree_tensor (released : (s.running.any fun r => r.kind == .tensorRelease j i) = true) (free : tensorNamed s j i = false) :
    objectFree (.tensor j i) s = finish (.tensorRelease j i) 0x00 { tensor := i } (dropTensor j i s) :=
  if_pos ⟨released, by rw [free]; exact Bool.noConfusion⟩

theorem evictionDone_noLoad (leaving : i ∈ s.objects.evicting) (none : s.objects.loads = []) :
    evictionDone i s = { s with objects := { s.objects with
      evicting := s.objects.evicting.filter (· != i), resident := s.objects.resident.filter (· != i) } } := by
  simp only [evictionDone, if_pos leaving, none]

theorem waitTimeout_host {cookie : Nat} {r : Running} (waits : hostWait s ctx cookie = some r) :
    waitTimeout (.host ctx cookie) s = completeWith r.msg 0x1D { obj := msgObj r.msg.bytes, gen := msgGen r.msg.bytes }
      { s with running := s.running.erase r } := by
  simp only [waitTimeout, waits]

theorem waitTimeout_program {t : TaskRef} {r : Ref} (there : refOf s t = some r) (wait : dOp r.d = 3) (begins : begun r.u t.desc = true)
    (open_ : (descAt r.u t.desc).retired = false) (timed : rd r.d 32 4 ≠ 0) :
    waitTimeout (.program t) s = programFault t 0x1D s := by
  have runs : dOp r.d = 3 ∧ begun r.u t.desc = true ∧ ¬ (descAt r.u t.desc).retired = true ∧ rd r.d 32 4 ≠ 0 :=
    ⟨wait, begins, by rw [open_]; exact Bool.noConfusion, timed⟩
  simp only [waitTimeout, there, if_pos runs]

theorem waitRelease_go {b : Bytes} {rest : List Bytes} (first : ((tget s.ctxs ctx).map (·.inbox)).getD [] = b :: rest)
    (waits : bit (msgFlags b) 1 = true) (go : waitState s b = .go) : waitRelease ctx s = { s with
      ctxs := tmod s.ctxs ctx fun c => { c with inbox := overlay b 3 (leBytes 1 (msgFlags b - 2)) :: rest } } := by
  simp only [waitRelease, first, waits, not_true, if_false, go]

/-- Settles O14, by each of the seven ends. -/
theorem objectsEnd : Obligations.ObjectsEnd := by
  unfold Obligations.ObjectsEnd
  refine ⟨?destroy, ?free, ?tensor, ?eviction, ?host, ?program, ?release⟩
  case destroy =>
    intro s ctx m o front named live
    rw [exec_of_front (c := .objectDestroy ctx) rfl front, objectDestroyBody_live named live]
  case free =>
    intro s i o idle held dying
    exact congrArg (fun t => Host.Outcome.next (settle t)) (objectFree_idle idle held dying)
  case tensor =>
    intro s j i released free
    exact congrArg (fun t => Host.Outcome.next (settle t)) (objectFree_tensor released free)
  case eviction =>
    intro s i leaving none
    exact congrArg (fun t => Host.Outcome.next (settle (retryHeld 0 t))) (evictionDone_noLoad leaving none)
  case host =>
    intro s ctx cookie r waits
    exact congrArg (fun t => Host.Outcome.next (settle t)) (waitTimeout_host waits)
  case program =>
    intro s t r there wait begins open_ timed
    exact congrArg (fun t => Host.Outcome.next (settle t)) (waitTimeout_program there wait begins open_ timed)
  case release =>
    intro s ctx b rest ready first waits go
    rw [exec_of_alive (c := .messageWaitRelease ctx) rfl ready, waitRelease_go first waits go]

end Sys2Proof.Proofs

/-! SUPPORT. The slots of configuration images, the Ledger's commands and the request buffer, one equation per case of R464 to R469,
R478, R479 and R577; O29 and O30 are assembled from these. -/

namespace Sys2Proof.Proofs

open Sys2Proof Sys2Proof.Machine Sys2Proof.Laws

variable {s t : State} {m : Msg} {src : MsgRef} {c : Instr} {ctx n slot : Nat}

/-! ### Messages from a management context or the sideband -/

/-- A command that starts a message of an inbox or of the sideband has the effect of the message's body. -/
theorem exec_of_arrives {typ : Nat} {body : Msg → State → State} (row : exec c s = .next (settle (withMsgRef src typ body s)))
    (h : Arrives s typ src m t) : exec c s = .next (settle (body m t)) := by
  rw [row, withMsgRef_arrives body h]

theorem not_unmanaged (h : isManagement m = true) : ¬ ¬ isManagement m = true := not_not_intro h

/-- A message about one of two slots runs. -/
theorem forSlot_runs (body : State → State) (manages : isManagement m = true) (two : slot ≤ 1) : forSlot m slot body s = body s := by
  unfold forSlot
  rw [if_neg (not_unmanaged manages), if_neg (Nat.not_lt.2 two)]

/-- A command whose message is about one of two slots. -/
theorem exec_of_slot {typ : Nat} {at' : Msg → Nat} {body : Msg → State → State}
    (row : exec c s = .next (settle (withMsgRef src typ (fun m s => forSlot m (at' m) (body m) s) s))) (h : Arrives s typ src m t)
    (manages : isManagement m = true) (two : at' m ≤ 1) : exec c s = .next (settle (body m t)) := by
  rw [exec_of_arrives row h, forSlot_runs (body m) manages two]

/-! ### Configuration slots (R464 to R469) -/

/-- What a write that is judged leaves, with the change that it makes where nothing refuses it. -/
def judgedWrite (m : Msg) (status : Option Nat) (change s : State) : State :=
  match status with
  | some c => complete m c s
  | none => complete m 0x00 change

theorem judgedWrite_eq (m : Msg) (status : Option Nat) (change s : State) : judgedWrite m status change s =
    if status.isSome then complete m (status.getD 0) s else complete m 0x00 change := by
  cases status <;> rfl

theorem exec_configWrite (h : Arrives s 0x71 src m t) (manages : isManagement m = true) (two : arg m.bytes 4 1 ≤ 1) :
    exec (.configWrite src) s = .next (settle (judgedWrite m (writeStatus m (slotOf t.config.slots (arg m.bytes 4 1)) (2 ^ 20))
      (modConfig (arg m.bytes 4 1) (writtenSlot (arg m.bytes 0 4) (msgBody m.bytes)) t) t)) :=
  exec_of_slot (c := .configWrite src) (at' := fun m => arg m.bytes 4 1) (body := fun m s =>
    judgedWrite m (writeStatus m (slotOf s.config.slots (arg m.bytes 4 1)) (2 ^ 20))
      (modConfig (arg m.bytes 4 1) (writtenSlot (arg m.bytes 0 4) (msgBody m.bytes)) s) s) rfl h manages two

/-- What CONFIG_COMMIT does to a slot of two. -/
def configCommitted (m : Msg) (slot : Nat) (s : State) : State :=
  let f := slotOf s.config.slots slot
  if f.writer ≠ some (senderId m) then complete m 0x13 s
  else
    match imageFault (slotImage f) with
    | some x => completeResult m 0x12 (leBytes 1 x.1 ++ [0] ++ leBytes 2 x.2.1 ++ leBytes 4 x.2.2)
        (modConfig slot (fun f => { f with writer := none }) s)
    | none =>
      let s := modConfig slot (fun f => { f with writer := none, valid := true }) s
      completeResult m 0x00 (flashRead f 0x20 32) (ledgerFor m 0x02 2 0xFF false 0 (slotDetail02 s slot) s)

theorem exec_configCommit (h : Arrives s 0x72 src m t) (manages : isManagement m = true) (two : arg m.bytes 0 1 ≤ 1) :
    exec (.configCommit src) s = .next (settle (configCommitted m (arg m.bytes 0 1) t)) :=
  exec_of_slot (c := .configCommit src) (at' := fun m => arg m.bytes 0 1)
    (body := fun m s => configCommitted m (arg m.bytes 0 1) s) rfl h manages two

section

variable (writer : (slotOf s.config.slots slot).writer = some (senderId m))

include writer

theorem configCommitted_sound (sound : imageFault (slotImage (slotOf s.config.slots slot)) = none) :
    configCommitted m slot s = completeResult m 0x00 (flashRead (slotOf s.config.slots slot) 0x20 32)
      (ledgerFor m 0x02 2 0xFF false 0 (slotDetail02 (modConfig slot (fun f => { f with writer := none, valid := true }) s) slot)
        (modConfig slot (fun f => { f with writer := none, valid := true }) s)) := by
  simp only [configCommitted, writer, sound, ne_eq, not_true, if_false]

theorem configCommitted_faulty {x : CheckFail} (faulty : imageFault (slotImage (slotOf s.config.slots slot)) = some x) :
    configCommitted m slot s = completeResult m 0x12 (leBytes 1 x.1 ++ [0] ++ leBytes 2 x.2.1 ++ leBytes 4 x.2.2)
      (modConfig slot (fun f => { f with writer := none }) s) := by
  simp only [configCommitted, writer, faulty, ne_eq, not_true, if_false]

end

/-- What CONFIG_SELECT does to a slot of two. -/
def configSelected (m : Msg) (slot : Nat) (s : State) : State :=
  if ¬ (slotOf s.config.slots slot).valid then complete m 0x12 s
  else if s.ledger.mirrorFault then complete m 0x1A s
  else deferChange m (.configSelect slot) (ledgerFor m 0x02 3 0xFF true 0 (slotDetail02 s slot) s)

theorem exec_configSelect (h : Arrives s 0x73 src m t) (manages : isManagement m = true) (two : arg m.bytes 0 1 ≤ 1) :
    exec (.configSelect src) s = .next (settle (configSelected m (arg m.bytes 0 1) t)) :=
  exec_of_slot (c := .configSelect src) (at' := fun m => arg m.bytes 0 1)
    (body := fun m s => configSelected m (arg m.bytes 0 1) s) rfl h manages two

theorem configSelected_valid (valid : (slotOf s.config.slots slot).valid = true) (mirrors : s.ledger.mirrorFault = false) :
    configSelected m slot s = deferChange m (.configSelect slot) (ledgerFor m 0x02 3 0xFF true 0 (slotDetail02 s slot) s) := by
  simp only [configSelected, valid, mirrors, not_true, Bool.false_eq_true, if_false]

/-- The records of an activation: its own, and that of a lock that it brings. -/
def activationRecords (m : Msg) (img : Image) (d : Bytes) (s : State) : State :=
  let u := ledgerFor m 0x02 4 0xFF true 0 d s
  if img.lock = true ∧ u.config.locked = false then ledgerFor m 0x02 6 0xFF true 0 d u else u

theorem configActivateRun_valid (manages : isManagement m = true) (two : arg m.bytes 0 1 ≤ 1) (idle : configBusy s = false)
    (valid : (slotOf s.config.slots (arg m.bytes 0 1)).valid = true)
    (free : activationBarred s (readImage (slotImage (slotOf s.config.slots (arg m.bytes 0 1)))) = false)
    (mirrors : s.ledger.mirrorFault = false) :
    configActivateRun m s = deferChange m
      (.configActivate (arg m.bytes 0 1) (readImage (slotImage (slotOf s.config.slots (arg m.bytes 0 1)))))
      (activationRecords m (readImage (slotImage (slotOf s.config.slots (arg m.bytes 0 1)))) (slotDetail02 s (arg m.bytes 0 1)) s) := by
  unfold configActivateRun
  simp only [forSlot_runs _ manages two, idle, valid, free, mirrors, Bool.false_eq_true, Bool.true_eq_false, if_false,
    activationRecords, Bool.not_eq_true]

/-- Settles O29, by what each of the five messages does to a slot of two. -/
theorem configSlotsAreManaged : Obligations.ConfigSlotsAreManaged := by
  unfold Obligations.ConfigSlotsAreManaged
  intro s t src m manages a f
  refine ⟨fun h two => ?erase, fun h two => ?write, fun h two writer sound => ?commit, fun x h two writer faulty => ?fails,
    fun h two valid mirrors => ?select, fun h two idle valid free mirrors => ?activate⟩
  case erase =>
    exact exec_of_slot (c := .configErase src) (at' := fun m => arg m.bytes 0 1) (body := fun m s => complete m 0x00
      (modConfig (arg m.bytes 0 1) (fun _ => erasedSlot (senderId m))
        (ledgerFor m 0x02 1 0xFF false 0 (slotDetail02 s (arg m.bytes 0 1)) s))) rfl h manages two
  case write => rw [exec_configWrite h manages two, judgedWrite_eq]
  case commit => rw [exec_configCommit h manages two, configCommitted_sound writer sound]
  case fails => rw [exec_configCommit h manages two, configCommitted_faulty writer faulty]
  case select => rw [exec_configSelect h manages two, configSelected_valid valid mirrors]
  case activate =>
    rw [exec_of_arrives (c := .configActivate src) rfl h, configActivateRun_valid manages two idle valid free mirrors]
    rfl

/-! ### The Ledger's commands (R478, R479) -/

/-- A command whose message only a management context may send. -/
theorem exec_of_managing {typ : Nat} {body : Msg → State → State}
    (row : exec c s = .next (settle (withMessage ctx typ (fun m s => if ¬ isManagement m then complete m 0x13 s else body m s) s)))
    (front : Front s ctx typ m) (manages : isManagement m = true) : exec c s = .next (settle (body m (popInbox ctx s))) := by
  rw [exec_of_front row front, if_neg (not_unmanaged manages)]

/-- The offset set to the time that a message gives, with the record under it. -/
def anchored (m : Msg) (s : State) : State :=
  complete m 0x00 (ledgerFor m 0x0C 1 0xFF false 0 (leBytes 8 (arg m.bytes 0 8))
    { s with ledger := { s.ledger with offset := (arg m.bytes 0 8 : Int) - s.timeNs, anchored := true } })

/-- The stream of a context ended. -/
def streamStopped (ctx : Nat) (m : Msg) (s : State) : State :=
  complete m 0x00 { s with ledger := { s.ledger with streams := terase s.ledger.streams ctx } }

section

variable (manages : isManagement m = true) (room : (terase s.ledger.streams ctx).length < 4)

include manages room

/-- A stream that begins with a number that is held, or still to come. -/
theorem streamBody_from (held : oldestRecord (complete m 0x00 (ledgerNote 2 (arg m.bytes 0 8) s)) ≤ arg m.bytes 0 8) :
    streamBody ctx m s =
      let u := complete m 0x00 (ledgerNote 2 (arg m.bytes 0 8) s)
      pumpStreams { u with ledger := { u.ledger with streams := tset u.ledger.streams ctx (arg m.bytes 0 8) } } := by
  unfold streamBody
  simp only [if_neg (not_unmanaged manages), if_neg (Nat.not_le.2 room), if_neg (Nat.not_lt.2 held)]

/-- One whose number is gone begins with the oldest record held. -/
theorem streamBody_gone {r : Bytes} (gone : arg m.bytes 0 8 < oldestRecord (complete m 0x00 (ledgerNote 2 (arg m.bytes 0 8) s)))
    (oldest : recordAt (complete m 0x00 (ledgerNote 2 (arg m.bytes 0 8) s))
      (oldestRecord (complete m 0x00 (ledgerNote 2 (arg m.bytes 0 8) s))) = some r) :
    streamBody ctx m s =
      let u := complete m 0x00 (ledgerNote 2 (arg m.bytes 0 8) s)
      let w := sendRecord ctx (oldestRecord u) 1 r u
      pumpStreams { w with ledger := { w.ledger with streams := tset w.ledger.streams ctx (oldestRecord u + 1) } } := by
  unfold streamBody
  simp only [if_neg (not_unmanaged manages), if_neg (Nat.not_le.2 room), if_pos gone, oldest]

end

/-! ### Glen's request buffer (R577) -/

/-- REQ_WRITE with a body of 1 to 960 bytes that the buffer holds. -/
theorem exec_reqWrite_fits (h : Arrives s 0x88 src m t) (manages : isManagement m = true) (some_ : msgBody m.bytes ≠ [])
    (short : (msgBody m.bytes).length ≤ 960) (fits : arg m.bytes 0 4 + (msgBody m.bytes).length ≤ 65536) :
    exec (.reqWrite src) s = .next (settle (complete m 0x00 { t with glen := { t.glen with
      requestBuffer := (if arg m.bytes 0 4 = 0 then [] else t.glen.requestBuffer) ++ [(arg m.bytes 0 4, msgBody m.bytes)] } })) := by
  have sized : ¬ ((msgBody m.bytes).isEmpty = true ∨ 960 < (msgBody m.bytes).length ∨
      65536 < arg m.bytes 0 4 + (msgBody m.bytes).length) :=
    not_or.2 ⟨mt List.isEmpty_iff.1 some_, not_or.2 ⟨Nat.not_lt.2 short, Nat.not_lt.2 fits⟩⟩
  rw [exec_of_arrives (c := .reqWrite src) rfl h, if_neg (not_unmanaged manages), if_neg sized]

/-- Settles O30, by the three messages of the Ledger and the write of the request buffer. -/
theorem ledgerMessagesAct : Obligations.LedgerMessagesAct := by
  unfold Obligations.LedgerMessagesAct
  refine ⟨?ledger, fun s t src m h manages => exec_reqWrite_fits h manages⟩
  case ledger =>
    intro s ctx m manages t n
    refine ⟨fun front => exec_of_managing (c := .ledgerAnchor ctx) (body := anchored) rfl front manages, ?stream,
      fun front => exec_of_managing (c := .ledgerStop ctx) (body := streamStopped ctx) rfl front manages⟩
    case stream =>
      intro front room u
      rw [exec_of_front (c := .ledgerStream ctx) rfl front]
      exact ⟨fun held => by rw [streamBody_from (s := t) manages room held],
        fun r gone oldest => by rw [streamBody_gone (s := t) manages room gone oldest]⟩

end Sys2Proof.Proofs

/-! SUPPORT. The firmware slots and the end of an activation (R576 to R578), the life cycle and debug (R581 to R587), and the three resets
(R562 to R566), one equation per case; O31 to O33 are assembled from these. -/

namespace Sys2Proof.Proofs

open Sys2Proof Sys2Proof.Machine Sys2Proof.Laws

variable {s t : State} {m : Msg} {src : MsgRef} {c : Instr} {ctx n slot kind : Nat}

/-! ### Firmware slots (R576, R577) -/

/-- What FW_ERASE does to a slot of two. -/
def fwErased (m : Msg) (slot : Nat) (s : State) : State :=
  if (s.fw.effect.map (·.slot)) = some slot then complete m 0x12 s
  else complete m 0x00 (modFw slot (fun _ => erasedSlot (senderId m)) s)

theorem exec_fwErase (h : Arrives s 0x83 src m t) (manages : isManagement m = true) (two : arg m.bytes 0 1 ≤ 1) :
    exec (.fwErase src) s = .next (settle (fwErased m (arg m.bytes 0 1) t)) :=
  exec_of_slot (c := .fwErase src) (at' := fun m => arg m.bytes 0 1) (body := fun m s => fwErased m (arg m.bytes 0 1) s) rfl h manages two

theorem exec_fwWrite (h : Arrives s 0x84 src m t) (manages : isManagement m = true) (two : arg m.bytes 4 1 ≤ 1) :
    exec (.fwWrite src) s = .next (settle (judgedWrite m (writeStatus m (slotOf t.fw.slots (arg m.bytes 4 1)) fwSlotSize)
      (modFw (arg m.bytes 4 1) (writtenSlot (arg m.bytes 0 4) (msgBody m.bytes)) t) t)) :=
  exec_of_slot (c := .fwWrite src) (at' := fun m => arg m.bytes 4 1) (body := fun m s =>
    judgedWrite m (writeStatus m (slotOf s.fw.slots (arg m.bytes 4 1)) fwSlotSize)
      (modFw (arg m.bytes 4 1) (writtenSlot (arg m.bytes 0 4) (msgBody m.bytes)) s) s) rfl h manages two

/-- What FW_COMMIT does to a slot of two. -/
def fwCommitted (m : Msg) (slot : Nat) (s : State) : State :=
  if (slotOf s.fw.slots slot).writer ≠ some (senderId m) then complete m 0x13 s
  else
    let fault := slotFault s slot
    let s := modFw slot (fun f => { f with writer := none }) s
    match fault with
    | some x => completeResult m 0x12 (fwResult x) s
    | none =>
      if s.ledger.mirrorFault then complete m 0x1A s
      else deferChange m (.fwCommit slot) (ledgerFor m 0x07 1 0xFF true 0 (fwDetail (slotManifest s slot) slot 0) s)

theorem exec_fwCommit (h : Arrives s 0x85 src m t) (manages : isManagement m = true) (two : arg m.bytes 0 1 ≤ 1) :
    exec (.fwCommit src) s = .next (settle (fwCommitted m (arg m.bytes 0 1) t)) :=
  exec_of_slot (c := .fwCommit src) (at' := fun m => arg m.bytes 0 1) (body := fun m s => fwCommitted m (arg m.bytes 0 1) s) rfl h
    manages two

section

variable (writer : (slotOf s.fw.slots slot).writer = some (senderId m))

include writer

theorem fwCommitted_sound (sound : slotFault s slot = none) (mirrors : s.ledger.mirrorFault = false) :
    fwCommitted m slot s =
      let u := modFw slot (fun f => { f with writer := none }) s
      deferChange m (.fwCommit slot) (ledgerFor m 0x07 1 0xFF true 0 (fwDetail (slotManifest u slot) slot 0) u) := by
  have mirrors' : (modFw slot (fun f => { f with writer := none }) s).ledger.mirrorFault = false := mirrors
  simp only [fwCommitted, writer, sound, mirrors', ne_eq, not_true, Bool.false_eq_true, if_false]

theorem fwCommitted_faulty {x : Nat × Nat × Nat} (faulty : slotFault s slot = some x) :
    fwCommitted m slot s = completeResult m 0x12 (fwResult x) (modFw slot (fun f => { f with writer := none }) s) := by
  simp only [fwCommitted, writer, faulty, ne_eq, not_true, if_false]

end

/-! ### FW_ACTIVATE (R578) -/

section

variable (manages : isManagement m = true) (two : arg m.bytes 0 1 ≤ 1) (valid : (slotOf s.fw.slots (arg m.bytes 0 1)).valid = true)

include manages two valid

theorem fwActivateBody_valid : fwActivateBody m s =
    if fwWaits s = true ∧ fwUnlisted s (slotManifest s (arg m.bytes 0 1)) = false then keepRunning m (.fwWait (arg m.bytes 0 1)) s
    else fwActivateRun m (arg m.bytes 0 1) s := by
  have fit : ¬ (1 < arg m.bytes 0 1 ∨ ¬ (slotOf s.fw.slots (arg m.bytes 0 1)).valid = true) :=
    not_or.2 ⟨Nat.not_lt.2 two, not_not_intro valid⟩
  simp only [fwActivateBody, if_neg (not_unmanaged manages), if_neg fit]
  simp only [Bool.not_eq_true]

theorem fwActivateBody_unlisted (unlisted : fwUnlisted s (slotManifest s (arg m.bytes 0 1)) = true) (mirrors : s.ledger.mirrorFault = false) :
    fwActivateBody m s = complete m 0x18
      (ledgerFor m 0x07 5 0xFF false 0 (fwDetail (slotManifest s (arg m.bytes 0 1)) (arg m.bytes 0 1) 0) s) := by
  have goesOn : ¬ (fwWaits s = true ∧ fwUnlisted s (slotManifest s (arg m.bytes 0 1)) = false) := fun ⟨_, listed⟩ => by
    rw [unlisted] at listed
    cases listed
  rw [fwActivateBody_valid manages two valid, if_neg goesOn]
  simp only [fwActivateRun, mirrors, valid, unlisted, Bool.false_eq_true, not_true, if_false, if_true]

theorem fwActivateBody_waits (waits : fwWaits s = true) (listed : fwUnlisted s (slotManifest s (arg m.bytes 0 1)) = false) :
    fwActivateBody m s = keepRunning m (.fwWait (arg m.bytes 0 1)) s := by
  rw [fwActivateBody_valid manages two valid, if_pos ⟨waits, listed⟩]

theorem fwActivateBody_passes (free : fwWaits s = false) (listed : fwUnlisted s (slotManifest s (arg m.bytes 0 1)) = false)
    (mirrors : s.ledger.mirrorFault = false) (sound : slotFault s (arg m.bytes 0 1) = none) :
    fwActivateBody m s = deferChange m (.fwActivate ⟨arg m.bytes 0 1, slotManifest s (arg m.bytes 0 1)⟩)
      (ledgerFor m 0x07 2 0xFF true 0 (fwDetail (slotManifest s (arg m.bytes 0 1)) (arg m.bytes 0 1) 0) s) := by
  have goesOn : ¬ (fwWaits s = true ∧ fwUnlisted s (slotManifest s (arg m.bytes 0 1)) = false) := fun ⟨waits, _⟩ => by
    rw [free] at waits
    cases waits
  rw [fwActivateBody_valid manages two valid, if_neg goesOn]
  simp only [fwActivateRun, mirrors, valid, listed, sound, Bool.false_eq_true, not_true, if_false]

end

/-- A measurement that every job's policy accepts is listed. -/
theorem fwUnlisted_of_accepts {new : Bytes} (accepts_ : ∀ b ∈ s.jobs, accepts b.2.policy (measureWith new (lifeCycle s)) = true) :
    fwUnlisted s new = false := by
  rw [fwUnlisted, List.any_eq_false]
  intro b held
  simp [accepts_ b held]

/-! ### FW_RATCHET (R576) -/

theorem exec_fwRatchet {e : FwEffect} (h : Arrives s 0x87 src m t) (manages : isManagement m = true) (inEffect : t.fw.effect = some e)
    (newest : olderSet t e = false) (mirrors : t.ledger.mirrorFault = false) : exec (.fwRatchet src) s = .next (settle
      (deferChange m (.fwRatchet (mSecurity e.manifest)) (ledgerFor m 0x07 6 0xFF true 0 (fwDetail e.manifest e.slot 0) t))) := by
  rw [exec_of_arrives (c := .fwRatchet src) rfl h]
  simp only [if_neg (not_unmanaged manages), inEffect, newest, mirrors, Bool.false_eq_true, if_false]

/-! ### The end of an activation (R578, R579) -/

/-- The state in which an activation's end acts: it is over, and no instruction is cached. -/
def activationOver (s : State) : State := clearCaches { s with fw := { s.fw with activating := none } }

theorem activationDone_takes {e : FwEffect} (runs : s.fw.activating = some (n, e)) :
    activationDone true s = releaseHeld (finish (.ticket n) 0x00 {} (takeSet e (activationOver s))) := by
  simp only [activationDone, runs, if_true, activationOver]

theorem activationDone_fails {e : FwEffect} (runs : s.fw.activating = some (n, e)) :
    activationDone false s =
      let u := activationOver s
      let failed := ledgerBy ((u.running.find? fun r => r.kind == .ticket n).map (·.msg)) 0x07 5 0xFF false (fwDetail e.manifest e.slot 4) u
      releaseHeld (finish (.ticket n) 0x12 { result := [4, 0] ++ (freshBytes 6 failed).1 } (freshBytes 6 failed).2) := by
  simp only [activationDone, runs, Bool.false_eq_true, if_false, activationOver]

/-- Settles O31, by what each message does to a slot of two, and by the two ends of an activation. -/
theorem firmwareSlotsAreManaged : Obligations.FirmwareSlotsAreManaged := by
  unfold Obligations.FirmwareSlotsAreManaged
  refine ⟨?messages, ?activation⟩
  case messages =>
    intro s t src m manages a
    refine ⟨fun h two other => ?erase, fun h two fits => ?write, ?commit, fun x h two writer faulty => ?fails,
      fun h two valid unlisted mirrors => ?unlisted, fun h two valid waits listed => ?waits,
      fun h two valid free mirrors accepted sound => ?passes, fun e h => exec_fwRatchet h manages⟩
    case erase => rw [exec_fwErase h manages two, fwErased, if_neg other]
    case write => rw [exec_fwWrite h manages two, fits, judgedWrite]
    case commit =>
      intro h two writer sound mirrors u
      rw [exec_fwCommit h manages two, fwCommitted_sound writer sound mirrors]
    case fails => rw [exec_fwCommit h manages two, fwCommitted_faulty writer faulty]
    case unlisted =>
      rw [exec_of_arrives (c := .fwActivate src) rfl h, fwActivateBody_unlisted manages two valid unlisted mirrors]
    case waits => rw [exec_of_arrives (c := .fwActivate src) rfl h, fwActivateBody_waits manages two valid waits listed]
    case passes =>
      rw [exec_of_arrives (c := .fwActivate src) rfl h,
        fwActivateBody_passes manages two valid free (fwUnlisted_of_accepts accepted) mirrors sound]
  case activation =>
    intro s n e runs u failed
    exact ⟨congrArg (fun t => Host.Outcome.next (settle t)) (activationDone_takes runs),
      congrArg (fun t => Host.Outcome.next (settle t)) (activationDone_fails runs)⟩

/-! ### Life cycle (R581 to R584) -/

theorem exec_lcTransition (h : Arrives s 0x89 src m t) (manages : isManagement m = true) (idle : t.glen.current = none) :
    exec (.lcTransition src) s = .next (settle (lcRun m t)) := by
  rw [exec_of_arrives (c := .lcTransition src) rfl h, if_neg (not_unmanaged manages), withGlen_idle lcRun idle]

/-- The state with the request that the buffer holds. -/
def lcStored (s : State) : State := { s with lc := { s.lc with request := bufferRead s 0 requestLength } }

section

variable (none : s.lc.ticket = none) (noReset : s.lc.resetDue = false)

include none noReset

theorem lcRun_refused {k : Nat} (cause : lcCause s (bufferRead s 0 requestLength) = some k) :
    lcRun m s = completeResult m 0x12 [BitVec.ofNat 8 k] s := by
  simp only [lcRun, none, noReset, cause, Option.isSome_none, Bool.false_eq_true, or_self, if_false]

theorem lcRun_stored (passes : lcCause s (bufferRead s 0 requestLength) = .none) (mirrors : s.ledger.mirrorFault = false) :
    lcRun m s =
      let w := ledgerFor m 0x08 1 0xFF true 0 (lcDetail (lcStored s) 0) (lcStored s)
      deferChange m (.lifeCycle 0) { w with lc := { w.lc with ticket := some w.tickets } } := by
  simp only [lcRun, none, noReset, passes, mirrors, Option.isSome_none, Bool.false_eq_true, or_self, if_false, lcStored]

end

/-! ### Debug (R585 to R587) -/

/-- The signed token in the request buffer. -/
def debugToken (s : State) : Bytes := bufferRead s 0 (0x40 + 29792)

/-- A token of the vendor for this unit and boot. -/
structure TokenFits (s : State) : Prop where
  signed : Config.slh256Verify (sub (Config.romKey 3) 0 64) (sub (debugToken s) 0 0x40) (sub (debugToken s) 0x40 29792) = true
  unit : sub (debugToken s) 8 32 = sub Config.unitId 0 32
  boot : rd (debugToken s) 4 4 = s.boot

theorem debugOpenRun_fits (h : TokenFits s) (mirrors : s.ledger.mirrorFault = false) : debugOpenRun m s =
    deferChange m (.debugOpen (rd (debugToken s) 2 1 % 8) (debugToken s))
      (ledgerFor m 0x09 1 0xFF true 0 (debugDetail (rd (debugToken s) 2 1 % 8) (debugToken s)) s) := by
  obtain ⟨signed, unit, boot⟩ := h
  unfold debugToken at signed unit boot ⊢
  simp only [debugOpenRun, signed, unit, boot, mirrors, ne_eq, not_true, Bool.false_eq_true, if_false]

theorem exec_debugOpen (front : Front s ctx 0x8A m) (manages : isManagement m = true) (idle : s.glen.current = none) :
    exec (.debugOpen ctx) s = .next (settle (debugOpenRun m (popInbox ctx s))) := by
  have idle : (popInbox ctx s).glen.current = none := idle
  rw [exec_of_front (c := .debugOpen ctx) rfl front, if_neg (not_unmanaged manages), withGlen_idle debugOpenRun idle]

theorem exec_debugClose (front : Front s ctx 0x8B m) (manages : isManagement m = true) (mirrors : s.ledger.mirrorFault = false) :
    exec (.debugClose ctx) s = .next (settle (deferChange m .debugClose
      (ledgerFor m 0x09 2 0xFF true 0 (debugDetail s.lc.scope s.lc.token) (popInbox ctx s)))) := by
  rw [exec_of_front (c := .debugClose ctx) rfl front]
  simp only [if_neg (not_unmanaged manages), popInbox_ledger, mirrors, Bool.false_eq_true, if_false, popInbox_lc]

/-- Settles O32, by the transition, the reset that is due, and the two messages of debug. -/
theorem lifeCycleMoves : Obligations.LifeCycleMoves := by
  unfold Obligations.LifeCycleMoves
  refine ⟨?transition, fun s env due => congrArg Host.Outcome.next (if_pos due), ?debug⟩
  case transition =>
    intro s t src m manages h idle none noReset r u w
    rw [exec_lcTransition h manages idle]
    exact ⟨fun passes mirrors => by rw [lcRun_stored none noReset passes mirrors]; rfl,
      fun c cause => by rw [lcRun_refused none noReset cause]⟩
  case debug =>
    intro s ctx m manages mirrors t k
    refine ⟨fun front idle signed unit boot => ?open_, fun front => exec_debugClose front manages mirrors⟩
    case open_ =>
      have fits : TokenFits t := ⟨signed, unit, boot⟩
      rw [exec_debugOpen front manages idle, debugOpenRun_fits fits mirrors]
      rfl

/-! ### Resets (R562 to R566) -/

/-- The message that arrives is the one at the front of its source. -/
theorem frontOf_arrives {typ : Nat} (h : Arrives s typ src m t) : frontOf s src = some m.bytes := by
  cases h with
  | inbox ctx m h =>
    obtain ⟨rest, first⟩ := h.first
    simp only [frontOf, first, List.head?_cons]
  | sideband b h => rfl

theorem withReset_arrives {body : Msg → State → State} (h : Arrives s 0x8C src m t) (manages : isManagement m = true)
    (kinds : arg m.bytes 0 1 = kind) : withReset src kind body s = body m t := by
  have same : otherReset kind m.bytes = false := by simp [otherReset, kinds]
  simp only [withReset, frontOf_arrives h, same, Bool.false_eq_true, if_false, withMsgRef_arrives _ h,
    if_neg (not_unmanaged manages), kinds, ne_eq, not_true]

theorem functionResetRun_free (manages : isManagement m = true) (named : arg m.bytes 1 1 < 16 ∨ arg m.bytes 1 1 = 0xFF)
    (free : resetWaits s = false) (opened : ((resetParts (arg m.bytes 1 1)).any (partCloses s)) = false) :
    functionResetRun m s = complete m 0x00 ((resetParts (arg m.bytes 1 1)).foldl (fun s p => resetPart p s) s) := by
  have fit : ¬ (16 ≤ arg m.bytes 1 1 ∧ arg m.bytes 1 1 ≠ 0xFF) := by omega
  simp only [functionResetRun, if_neg (not_unmanaged manages), if_neg fit, free, opened, Bool.false_eq_true, or_self, if_false]

theorem warmResetRun_waits (manages : isManagement m = true) (waits : resetWaits s = true) : warmResetRun m s = hold m s := by
  simp only [warmResetRun, if_neg (not_unmanaged manages), waits, if_true]

theorem warmResetRun_free (manages : isManagement m = true) (free : resetWaits s = false) : warmResetRun m s = startWarm (some m) s := by
  simp only [warmResetRun, if_neg (not_unmanaged manages), free, Bool.false_eq_true, if_false]

theorem startWarm_empty {o : Option Msg} (none : s.jobs = []) : startWarm o s = warmNow o s := by
  rw [startWarm, if_pos (List.isEmpty_iff.2 none)]

theorem startWarm_jobs {o : Option Msg} (some_ : s.jobs ≠ []) :
    startWarm o s = tearAll 4 { s with afterJobs := s.afterJobs ++ [.warmReset o] } := by
  rw [startWarm, if_neg (mt List.isEmpty_iff.1 some_)]

/-- Settles O33, by the three kinds of reset. -/
theorem resetsRun : Obligations.ResetsRun := by
  unfold Obligations.ResetsRun
  intro s t src m manages h
  have function (kinds : arg m.bytes 0 1 = 1) : exec (.functionReset src) s = .next (settle (functionResetRun m t)) :=
    congrArg (fun t => Host.Outcome.next (settle t)) (withReset_arrives h manages kinds)
  have warm (kinds : arg m.bytes 0 1 = 2) : exec (.warmReset src) s = .next (settle (warmResetRun m t)) :=
    congrArg (fun t => Host.Outcome.next (settle t)) (withReset_arrives h manages kinds)
  refine ⟨fun kinds named free opened => ?function, fun kinds free none => ?warm, fun kinds free some_ => ?tears,
    fun kinds waits => ?waits, fun env kinds => ?cold⟩
  case function => rw [function kinds, functionResetRun_free manages named free opened]
  case warm => rw [warm kinds, warmResetRun_free manages free, startWarm_empty none]
  case tears => rw [warm kinds, warmResetRun_free manages free, startWarm_jobs some_]
  case waits => rw [warm kinds, warmResetRun_waits manages waits, hold]
  case cold => exact congrArg Host.Outcome.next (withReset_arrives h manages kinds)

end Sys2Proof.Proofs

/-! SUPPORT. What a cold reset leaves of the Ledger (R476), the writes of the mirror (R476, R480), and what Glen ends and answers (R481,
R514, R647); O34 and O56 are assembled from these. -/

namespace Sys2Proof.Proofs

open Sys2Proof Sys2Proof.Machine Sys2Proof.Laws

variable {s : State} {n : Nat} {r : Bytes}

/-! ### The Ledger after a cold reset -/

theorem holdsRecord_coldLedger {l : Ledger} (h : holdsRecord (coldLedger l) n r) : (n, r) ∈ l.mirror :=
  h.elim (fun ring => absurd ring List.not_mem_nil) id

/-- The mirror of a chained Ledger is a chain of its own, numbered up to its own end. -/
theorem chained_coldLedger {l : Ledger} (h : Chained l) : Chained (coldLedger l) := by
  refine ⟨fun n r r' held held' => ?one, fun n r held => ?below, h.mirrorBelow, Nat.le_refl _, fun n r held newest => ?head,
    fun n r r' held held' => ?link⟩
  case one => exact h.one n r r' (.inr (holdsRecord_coldLedger held)) (.inr (holdsRecord_coldLedger held'))
  case below => exact h.mirrorBelow n r (holdsRecord_coldLedger held)
  case head =>
    have mirrored := holdsRecord_coldLedger held
    have last : l.mirrored - 1 = n := by
      have newest : n + 1 = l.mirrored := newest
      omega
    obtain ⟨r', found⟩ := tget_of_mem mirrored
    have same : r' = r := h.one n r' r (.inr (mem_of_tget found)) (.inr mirrored)
    have digest : (coldLedger l).headDigest = sha256 ((tget l.mirror (l.mirrored - 1)).getD []) := rfl
    rw [digest, last, found, Option.getD_some, same]
  case link => exact h.link n r r' (.inr (holdsRecord_coldLedger held)) (.inr (holdsRecord_coldLedger held'))

/-- Settles O34: each field is the one that the cold state takes over or begins anew, and the Ledger is its mirror. -/
theorem coldResetKeepsWhatLasts : Obligations.ColdResetKeepsWhatLasts := by
  unfold Obligations.ColdResetKeepsWhatLasts
  intro s t
  exact ⟨rfl, rfl, rfl, rfl, rfl, rfl, rfl, rfl, rfl, rfl, rfl, rfl, rfl, rfl, rfl, rfl, rfl, rfl, rfl, rfl, rfl, rfl, chained_coldLedger⟩

/-! ### Writes of the mirror (R476, R480) -/

theorem exec_ledgerMirrorWrite (ok : Bool) (main : s.power.mainPower = true) (released : s.power.resetHeld = false) :
    exec (.ledgerMirrorWrite ok) s = .next (settle (pumpStreams (afterTeardown (mirrorWrite ok s)))) :=
  congrArg Host.Outcome.next (if_pos (answers_of_power main released))

section

variable (oldest : nextUnmirrored s = some (n, r)) (works : s.ledger.mirrorFault = false)

include oldest works

theorem mirrorWrite_ok : mirrorWrite true s =
    applyMirrored { s with ledger := { s.ledger with mirror := mirrorPut n r s.ledger.mirror, mirrored := n + 1, failures := 0 } } := by
  simp only [mirrorWrite, oldest, works, Bool.false_eq_true, if_false, if_true]

theorem mirrorWrite_failed (early : s.ledger.failures + 1 < 3) :
    mirrorWrite false s = { s with ledger := { s.ledger with failures := s.ledger.failures + 1 } } := by
  simp only [mirrorWrite, oldest, works, Bool.false_eq_true, if_false, if_pos early]

theorem mirrorWrite_third (late : 2 ≤ s.ledger.failures) :
    mirrorWrite false s = mirrorFails n { s with ledger := { s.ledger with failures := s.ledger.failures + 1 } } := by
  have third : ¬ s.ledger.failures + 1 < 3 := by omega
  simp only [mirrorWrite, oldest, works, Bool.false_eq_true, if_false, if_neg third]

end

/-! ### The end of an attestation (R481) -/

theorem glenDone_attest {t j off : Nat} (runs : s.glen.current = some (.attest t j off r)) :
    glenDone s =
      let u := attestDone t j off r { s with glen := { s.glen with current := none } }
      glenDrain u.glen.queue.length u := by
  simp only [glenDone, runs]

/-! ### The sideband challenge (R514, R647) -/

/-- Glen answers no sooner than 1 ms after its last answer. -/
def answerDue (s : State) : Prop := ∀ t, s.glen.lastResponse = some t → t + 1000000 ≤ s.timeNs

theorem mayRespond_of (busy : s.glen.busy = true) (first : .challenge ∉ s.glen.queue) (due : answerDue s)
    (key : rootAlive s = false ∨ (tget s.glen.slots 2).isSome = true) : mayRespond s = true := by
  have past : (match s.glen.lastResponse with | none => true | some t => decide (t + 1000000 ≤ s.timeNs)) = true := by
    unfold answerDue at due
    cases last : s.glen.lastResponse with
    | none => rfl
    | some t => exact decide_eq_true (due t last)
  have keyed : (!rootAlive s || (tget s.glen.slots 2).isSome) = true := by
    obtain lost | held := key
    · rw [lost]
      rfl
    · rw [held, Bool.or_true]
  have unqueued : s.glen.queue.contains .challenge = false := by simpa using first
  unfold mayRespond
  rw [busy, unqueued, keyed, Bool.not_false, Bool.and_self, Bool.and_self, Bool.true_and]
  exact past

theorem exec_glenResponseDone (main : s.power.mainPower = true) (released : s.power.resetHeld = false) (may : mayRespond s = true) :
    exec .glenResponseDone s = .next (respond s) := by
  have row : exec .glenResponseDone s = .next (if s.power.mainPower && !s.power.resetHeld && mayRespond s then respond s else s) := rfl
  rw [row, main, released, may, Bool.not_false, Bool.and_self, Bool.and_self, if_pos rfl]

theorem challengeResponse_alive (root : rootAlive s = true) : challengeResponse s = hmac (slotMaterial s 2)
    (ascii "mutrum sideband" ++ [0] ++ sub Config.unitId 0 32 ++ s.glen.challenge.flatMap (leBytes 4) ++ challengeStatus s) := if_pos root

theorem challengeResponse_lost (lost : rootAlive s = false) : challengeResponse s = zeros 32 :=
  if_neg (by rw [lost]; exact Bool.noConfusion)

/-- Settles O56, by the three writes of the mirror, the end of an attestation, and the two answers to a challenge. -/
theorem mirrorAndGlenGoOn : Obligations.MirrorAndGlenGoOn := by
  unfold Obligations.MirrorAndGlenGoOn
  intro s main released
  refine ⟨?mirror, ?attest, ?challenge⟩
  case mirror =>
    intro n r oldest works done failed
    have oldest : nextUnmirrored s = some (n, r) := oldest
    have finished {t : State} {ok : Bool} (written : mirrorWrite ok s = t) : done t ok := by
      rw [← written]
      exact exec_ledgerMirrorWrite ok main released
    exact ⟨finished (mirrorWrite_ok oldest works), fun early => finished (mirrorWrite_failed oldest works early),
      fun late => finished (mirrorWrite_third oldest works late)⟩
  case attest =>
    intro t j off r ready runs u
    rw [exec_of_alive (c := .glenOperationComplete) rfl ready, glenDone_attest runs]
  case challenge =>
    intro busy first due answer
    have answered {b : Bytes} (key : rootAlive s = false ∨ (tget s.glen.slots 2).isSome = true) (response : challengeResponse s = b) :
        answer b := by
      rw [← response]
      exact exec_glenResponseDone main released (mayRespond_of busy first due key)
    exact ⟨fun root k held => answered (.inr (by rw [held]; rfl)) (challengeResponse_alive root),
      fun lost => answered (.inl lost) (challengeResponse_lost lost)⟩

end Sys2Proof.Proofs

/-! SUPPORT. The plan of a grant (R551): its frequencies are steps from 200 to 840 MHz, each lowering takes one of them a step down, and the
fuel is more than the steps that all of them can fall, so that the lowering ends by the demand or at the lowest steps; O53 is assembled from
this. -/

namespace Sys2Proof.Proofs

open Sys2Proof Sys2Proof.Machine Sys2Proof.Laws

variable {s : State} {ins : List (Nat × List BlockIn)} {plan : Tab Nat} {t k v w f p : Nat}

/-! ### Tables with rising keys -/

theorem lt_of_mem_sorted {α : Type} {i : Nat} {t : Tab α} (sorted : tsorted (some i) t = true) {x : Nat × α} (h : x ∈ t) : i < x.1 := by
  induction t generalizing i with
  | nil => cases h
  | cons y t ih =>
    obtain ⟨j, u⟩ := y
    simp only [tsorted, Bool.and_eq_true, decide_eq_true_eq] at sorted
    obtain ⟨rises, rest⟩ := sorted
    obtain same | later := List.mem_cons.1 h
    · rw [same]
      exact rises
    · exact Nat.lt_trans rises (ih rest later)

theorem tget_of_mem_sorted {α : Type} {lo : Option Nat} {t : Tab α} {v : α} (sorted : tsorted lo t = true) (h : (k, v) ∈ t) :
    tget t k = some v := by
  induction t generalizing lo with
  | nil => cases h
  | cons x t ih =>
    obtain ⟨i, u⟩ := x
    simp only [tsorted, Bool.and_eq_true] at sorted
    rw [tget]
    obtain same | later := List.mem_cons.1 h
    · cases same
      exact if_pos rfl
    · rw [if_neg (Nat.ne_of_lt (lt_of_mem_sorted sorted.2 later)), ih sorted.2 later]

theorem tgetD_tset (t : Tab Nat) (k n v d : Nat) : tgetD (tset t k v) n d = if n = k then v else tgetD t n d := by
  unfold tgetD
  split
  · rename_i same
    rw [same, tget_tset_same, Option.getD_some]
  · rename_i other
    rw [tget_tset_other _ _ _ _ other]

/-- A table whose values are changed by their keys. -/
theorem tget_map_value (g : Nat → Nat → Nat) (t : Tab Nat) (k : Nat) :
    tget (t.map fun x => (x.1, g x.1 x.2)) k = (tget t k).map (g k) := by
  induction t with
  | nil => rfl
  | cons x t ih =>
    obtain ⟨i, u⟩ := x
    simp only [List.map_cons, tget]
    split
    · rename_i same
      rw [same, Option.map_some]
    · exact ih

/-! ### Steps (R551) -/

/-- A frequency step: 200 to 840 MHz in steps of 5 MHz. -/
def IsStep (f : Nat) : Prop := ∃ k, k ≤ 128 ∧ f = 200 + 5 * k

theorem IsStep.range (h : IsStep f) : 200 ≤ f ∧ f ≤ 840 := by
  obtain ⟨k, _, rfl⟩ := h
  omega

theorem isStep_lowest : IsStep 200 := ⟨0, by omega, rfl⟩

theorem IsStep.lower (h : IsStep f) (above : 200 < f) : IsStep (f - 5) := by
  obtain ⟨k, bound, rfl⟩ := h
  exact ⟨k - 1, by omega, by omega⟩

theorem isStep_of_mem (h : f ∈ freqSteps) : IsStep f := by
  obtain ⟨i, inside, rfl⟩ := List.mem_map.1 h
  have inside := List.mem_range.1 inside
  exact ⟨128 - i, by omega, by omega⟩

theorem bestStep_isStep (l : List BlockIn) (cap : Nat) : IsStep (bestStep l cap) := by
  unfold bestStep
  cases found : freqSteps.find? fun f => decide (sumDemand l f ≤ cap) with
  | none => exact isStep_lowest
  | some f => exact isStep_of_mem (List.mem_of_find?_eq_some found)

/-! ### Plans -/

/-- A plan of frequencies: keys in order, each a partition, each at a step. -/
structure PlanOk (plan : Tab Nat) : Prop where
  sorted : tsorted none plan = true
  steps : ∀ x ∈ plan, IsStep x.2
  parts : ∀ x ∈ plan, x.1 < 16

theorem planOk_nil : PlanOk [] := ⟨rfl, fun _ h => absurd h List.not_mem_nil, fun _ h => absurd h List.not_mem_nil⟩

theorem PlanOk.set (h : PlanOk plan) (part : k < 16) (step : IsStep v) : PlanOk (tset plan k v) := by
  refine ⟨tset_sorted h.sorted (fun _ none => nomatch none), fun x listed => ?_, fun x listed => ?_⟩
  · obtain rfl | before := mem_tset listed
    · exact step
    · exact h.steps x before
  · obtain rfl | before := mem_tset listed
    · exact part
    · exact h.parts x before

/-- What a plan gives a partition is a step, where the partition is listed or not. -/
theorem PlanOk.isStep (h : PlanOk plan) (p : Nat) : IsStep (tgetD plan p 200) := by
  unfold tgetD
  cases found : tget plan p with
  | none => exact isStep_lowest
  | some v => exact h.steps (p, v) (mem_of_tget found)

/-! ### Height: the steps that a plan can still fall -/

/-- The steps of a frequency above the lowest. -/
def stepsAbove (f : Nat) : Nat := (f - 200) / 5

/-- The steps that all partitions of a plan stand above the lowest. -/
def planHeight (plan : Tab Nat) : Nat := ∑ p ∈ Finset.range 16, stepsAbove (tgetD plan p 200)

theorem planHeight_le (h : PlanOk plan) : planHeight plan ≤ 16 * 128 := by
  have each : ∀ p ∈ Finset.range 16, stepsAbove (tgetD plan p 200) ≤ 128 := fun p _ => by
    have bound := (h.isStep p).range
    unfold stepsAbove
    omega
  simpa [planHeight] using Finset.sum_le_card_nsmul _ _ _ each

/-- A step down of one partition lowers the height. -/
theorem planHeight_lower (h : PlanOk plan) {x : Nat × Nat} (listed : x ∈ plan) (above : 200 < x.2) :
    planHeight (tset plan x.1 (x.2 - 5)) < planHeight plan := by
  have now : tgetD plan x.1 200 = x.2 := by rw [tgetD, tget_of_mem_sorted h.sorted listed, Option.getD_some]
  obtain ⟨k, _, step⟩ := h.steps x listed
  refine Finset.sum_lt_sum (fun p _ => ?_) ⟨x.1, Finset.mem_range.2 (h.parts x listed), ?_⟩
  · rw [tgetD_tset]
    split
    · rename_i same
      rw [same, now]
      unfold stepsAbove
      omega
    · exact Nat.le_refl _
  · rw [tgetD_tset, if_pos rfl, now]
    unfold stepsAbove
    omega

/-! ### The partition that is lowered -/

/-- The choice between the best so far and the next entry. -/
def pickOne (best : Option (Nat × Nat)) (x : Nat × Nat) : Option (Nat × Nat) :=
  if x.2 ≤ 200 then best
  else match best with
    | none => some x
    | some y => if y.2 < x.2 then some x else best

theorem pickLower_eq (plan : Tab Nat) : pickLower plan = plan.foldl pickOne none := rfl

/-- What is chosen over a list is the best before it, or an entry of it above the lowest step. -/
theorem foldl_pickOne_some {l : List (Nat × Nat)} {best : Option (Nat × Nat)} {x : Nat × Nat} (h : l.foldl pickOne best = some x) :
    best = some x ∨ x ∈ l ∧ 200 < x.2 := by
  induction l generalizing best with
  | nil => exact .inl h
  | cons y l ih =>
    obtain chosen | ⟨listed, above⟩ := ih h
    · unfold pickOne at chosen
      split at chosen
      next => exact .inl chosen
      next high =>
        have first : y = x → x ∈ y :: l ∧ 200 < x.2 := by
          rintro rfl
          exact ⟨List.mem_cons_self, Nat.not_le.1 high⟩
        split at chosen
        next => exact .inr (first (Option.some.inj chosen))
        next =>
          split at chosen
          next => exact .inr (first (Option.some.inj chosen))
          next => exact .inl chosen
    · exact .inr ⟨List.mem_cons_of_mem y listed, above⟩

theorem pickOne_ne_none {y x : Nat × Nat} : pickOne (some y) x ≠ none := by
  unfold pickOne
  split
  · exact Option.some_ne_none y
  · dsimp only
    split <;> exact Option.some_ne_none _

/-- Nothing is chosen only where every entry is at the lowest step. -/
theorem foldl_pickOne_none {l : List (Nat × Nat)} {best : Option (Nat × Nat)} (h : l.foldl pickOne best = none) :
    best = none ∧ ∀ x ∈ l, x.2 ≤ 200 := by
  induction l generalizing best with
  | nil => exact ⟨h, fun _ listed => absurd listed List.not_mem_nil⟩
  | cons y l ih =>
    obtain ⟨first, rest⟩ := ih h
    cases best with
    | some z => exact absurd first pickOne_ne_none
    | none =>
      refine ⟨rfl, fun x listed => ?_⟩
      obtain rfl | later := List.mem_cons.1 listed
      · by_contra high
        rw [pickOne, if_neg high] at first
        cases first
      · exact rest x later

/-! ### The lowering -/

theorem lowerPlan_ok (h : PlanOk plan) (n : Nat) : PlanOk (lowerPlan ins t n plan) := by
  induction n generalizing plan with
  | zero => exact h
  | succ n ih =>
    rw [lowerPlan]
    split
    · exact h
    · split
      · exact h
      · rename_i x chosen
        obtain none | ⟨listed, above⟩ := foldl_pickOne_some (pickLower_eq plan ▸ chosen)
        · cases none
        · exact ih (h.set (h.parts x listed) ((h.steps x listed).lower above))

/-- A lowering keeps every partition that the plan lists. -/
theorem lowerPlan_listed (listed : (tget plan p).isSome = true) (n : Nat) : (tget (lowerPlan ins t n plan) p).isSome = true := by
  induction n generalizing plan with
  | zero => exact listed
  | succ n ih =>
    rw [lowerPlan]
    split
    · exact listed
    · split
      · exact listed
      · rename_i x _
        refine ih ?_
        by_cases same : p = x.1
        · rw [same, tget_tset_same]
          rfl
        · rw [tget_tset_other _ _ _ _ same]
          exact listed

/-- With more fuel than the plan has height, the lowering ends where the demand fits or every partition is at the lowest step. -/
theorem lowerPlan_ends (h : PlanOk plan) {n : Nat} (fuel : planHeight plan < n) :
    planDemand ins (lowerPlan ins t n plan) ≤ t ∨ ∀ p, tgetD (lowerPlan ins t n plan) p 200 = 200 := by
  induction n generalizing plan with
  | zero => exact absurd fuel (Nat.not_lt_zero _)
  | succ n ih =>
    rw [lowerPlan]
    split
    next fits => exact .inl fits
    next =>
      split
      next none =>
        refine .inr fun p => ?_
        obtain ⟨-, lowest⟩ := foldl_pickOne_none (pickLower_eq plan ▸ none)
        unfold tgetD
        cases found : tget plan p with
        | none => rfl
        | some v =>
          have low := lowest (p, v) (mem_of_tget found)
          have high := (h.steps (p, v) (mem_of_tget found)).range.1
          exact Nat.le_antisymm low high
      next x chosen =>
        obtain none | ⟨listed, above⟩ := foldl_pickOne_some (pickLower_eq plan ▸ chosen)
        · cases none
        · have lower := planHeight_lower h listed above
          exact ih (h.set (h.parts x listed) ((h.steps x listed).lower above)) (by omega)

/-! ### The plan of a budget -/

/-- The first plan of a budget: every partition at the highest step that its share carries. -/
def sharePlan (s : State) (t : Nat) (ins : List (Nat × List BlockIn)) (plan : Tab Nat) : Tab Nat :=
  ins.foldl (fun (plan : Tab Nat) p => tset plan p.1 (bestStep p.2 (shareOf s p.1 t))) plan

theorem planFor_eq (s : State) (ins : List (Nat × List BlockIn)) (t : Nat) :
    planFor s ins t = lowerPlan ins t (16 * 129) (sharePlan s t ins []) := rfl

theorem sharePlan_ok (h : PlanOk plan) (parts : ∀ x ∈ ins, x.1 < 16) : PlanOk (sharePlan s t ins plan) := by
  induction ins generalizing plan with
  | nil => exact h
  | cons y l ih =>
    exact ih (h.set (parts y List.mem_cons_self) (bestStep_isStep _ _)) fun x later => parts x (List.mem_cons_of_mem y later)

theorem sharePlan_listed (h : (tget plan p).isSome = true ∨ ∃ x ∈ ins, x.1 = p) : (tget (sharePlan s t ins plan) p).isSome = true := by
  induction ins generalizing plan with
  | nil =>
    obtain listed | ⟨x, none, -⟩ := h
    · exact listed
    · exact absurd none List.not_mem_nil
  | cons y l ih =>
    refine ih ?_
    by_cases same : p = y.1
    · exact .inl (by rw [same, tget_tset_same]; rfl)
    · rw [tget_tset_other _ _ _ _ same]
      obtain listed | ⟨x, listed, rfl⟩ := h
      · exact .inl listed
      · obtain rfl | later := List.mem_cons.1 listed
        · exact absurd rfl same
        · exact .inr ⟨x, later, rfl⟩

theorem grantInputs_part {x : Nat × List BlockIn} (h : x ∈ grantInputs s) : x.1 < 16 := by
  obtain ⟨p, listed, rfl⟩ := List.mem_map.1 h
  exact List.mem_range.1 (List.mem_filter.1 listed).1

section

variable (parts : ∀ x ∈ ins, x.1 < 16)

include parts

theorem planFor_ok : PlanOk (planFor s ins t) := by
  rw [planFor_eq]
  exact lowerPlan_ok (sharePlan_ok planOk_nil parts) _

theorem planFor_ends : planDemand ins (planFor s ins t) ≤ t ∨ ∀ p, tgetD (planFor s ins t) p 200 = 200 := by
  have first : PlanOk (sharePlan s t ins []) := sharePlan_ok planOk_nil parts
  have height := planHeight_le first
  rw [planFor_eq]
  exact lowerPlan_ends first (by omega)

end

theorem planFor_listed {x : Nat × List BlockIn} (h : x ∈ ins) : (tget (planFor s ins t) x.1).isSome = true := by
  rw [planFor_eq]
  exact lowerPlan_listed (sharePlan_listed (.inr ⟨x, h, rfl⟩)) _

/-! ### What a grant gives -/

/-- A partition that the plan lists is granted its plan, or what the bound on a rise lets it have. -/
theorem grantNow_freq {rise : Nat} (listed : (tget (planFor s (grantInputs s) (budgetOf s (grantInputs s))) p).isSome = true) :
    tgetD (grantNow rise s).power.freq p 200 =
      min (tgetD (planFor s (grantInputs s) (budgetOf s (grantInputs s))) p 200) (tgetD s.power.freq p 200 + rise) := by
  have granted : (grantNow rise s).power.freq = (planFor s (grantInputs s) (budgetOf s (grantInputs s))).map
      fun x => (x.1, min x.2 (tgetD s.power.freq x.1 200 + rise)) := rfl
  obtain ⟨v, found⟩ := Option.isSome_iff_exists.1 listed
  have planned : tgetD (planFor s (grantInputs s) (budgetOf s (grantInputs s))) p 200 = v := by rw [tgetD, found, Option.getD_some]
  rw [planned, granted, tgetD, tget_map_value (fun p f => min f (tgetD s.power.freq p 200 + rise)), found, Option.map_some,
    Option.getD_some]

theorem grantNow_budget (rise : Nat) (s : State) : (grantNow rise s).power.budget = budgetOf s (grantInputs s) := rfl

/-- Settles O53: the lowering ends in time, every plan is a step, and a grant is the plan under the bound on a rise. -/
theorem grantsFitTheBudget : Obligations.GrantsFitTheBudget := by
  unfold Obligations.GrantsFitTheBudget
  intro s rise ins u plan
  have parts : ∀ x ∈ ins, x.1 < 16 := fun x h => grantInputs_part h
  refine ⟨(planFor_ends parts).imp_right fun lowest x _ => lowest x.1, fun x h => ?_, ?_⟩
  · have ok : PlanOk plan := planFor_ok parts
    have step := (ok.isStep x.1).range
    exact ⟨step.1, step.2, grantNow_freq (planFor_listed h)⟩
  · rw [grantNow_budget, budgetOf]

end Sys2Proof.Proofs

/-! SUPPORT. The start order (R545 to R548, R563, R610) and the power manager's interval with the events of supply, heat and clocks (R544,
R549 to R561, R614): which command has which effect under its conditions; O35 and O54 are assembled from these. -/

namespace Sys2Proof.Proofs

open Sys2Proof Sys2Proof.Machine Sys2Proof.Laws

variable {s : State} {c : Instr} {x : State}

theorem ne_true_of_eq_false {b : Bool} (h : b = false) : ¬ b = true := by
  rw [h]
  exact Bool.noConfusion

/-! ### Loss and return of power (R545, R563, R610) -/

theorem exec_powerEnable (off : s.power.mainPower = false) : exec .powerEnable s = .next { coldState s with
    boot := s.boot + 1, power := { (coldState s).power with mainPower := true, sysclk := true, netclk := true }, start := {} } :=
  congrArg Host.Outcome.next (if_neg (ne_true_of_eq_false off))

theorem exec_powerLoss (main : s.power.mainPower = true) : exec .powerLoss s = .next { coldState s with
    power := { (coldState s).power with mainPower := false, resetHeld := false, vbat := true, shut := false, tripped := false
                                        tripClass := 0, tripIndex := 0 }
    start := {}, i3c := {} } :=
  congrArg Host.Outcome.next (if_pos main)

theorem exec_boardReset (main : s.power.mainPower = true) (released : s.power.resetHeld = false) : exec .boardReset s = .next
    { coldState s with
      boot := s.boot + 1, power := { (coldState s).power with resetHeld := true }, start := { (coldState s).start with step := 1 } } :=
  congrArg Host.Outcome.next (if_pos (answers_of_power main released))

/-! ### The steps (R545, R548) -/

theorem exec_startStepDone (env : StartEnv) (main : s.power.mainPower = true) :
    exec (.startStepDone env) s = .next (stepOfStart env s) := congrArg Host.Outcome.next (if_pos main)

section

variable {env : StartEnv}

theorem stepOfStart_supply (step : s.start.step = 0) : stepOfStart env s = { s with start := { s.start with step := 1 } } := by
  simp only [stepOfStart, step]

theorem stepOfStart_selfTest (step : s.start.step = 1) (released : s.power.resetHeld = false) (sound : s.start.selfTestFailed = false) :
    stepOfStart env s = glenStart env.boot s := by
  simp only [stepOfStart, step, released, sound, Bool.false_eq_true, or_self, if_false]

theorem stepOfStart_boot (step : s.start.step = 2) (goesOn : s.start.bootHold = false) : stepOfStart env s = bootLoad env.boot s := by
  simp only [stepOfStart, step, goesOn, Bool.false_eq_true, if_false]

theorem stepOfStart_stacks (step : s.start.step = 3) (unshut : s.power.shut = false) (cool : s.power.tripped = false)
    (sound : s.start.stackFailed = []) (ready : (env.stacksFailed.filter fun k => decide (k < 12)) = []) :
    stepOfStart env s = { s with power := { s.power with railsOn := true }, start := { s.start with step := 4 } } := by
  simp only [stepOfStart, step, unshut, cool, sound, stacksReady, ready, Bool.false_eq_true, List.isEmpty_nil, not_true, or_self,
    if_false, if_true]

theorem stepOfStart_vale (step : s.start.step = 4) (groups : s.start.groups = 100) : stepOfStart env s = { s with
    vale := if s.start.warm then s.vale else { rate := s.vale.rate }, start := { s.start with step := 5 } } := by
  simp only [stepOfStart, step, groups, Nat.lt_irrefl, if_false, valeReady]

theorem stepOfStart_lasers (step : s.start.step = 5) (lasers : s.start.lasers = 16) :
    stepOfStart env s = checkReady { s with start := { s.start with step := 6 } } := by
  simp only [stepOfStart, step, lasers, Nat.lt_irrefl, if_false]

theorem stepOfStart_training (step : s.start.step = 6) : stepOfStart env s = checkReady (ethTrained s) := by
  simp only [stepOfStart, step]

end

/-! ### Blocks and lasers (R547, R548) -/

/-- A command of the rails has its effect while they are on. -/
theorem exec_of_rails (row : exec c s = .next (if s.power.mainPower ∧ s.power.railsOn then x else s)) (main : s.power.mainPower = true)
    (rails : s.power.railsOn = true) : exec c s = .next x := by
  rw [row, if_pos ⟨main, rails⟩]

theorem blockSlot_group (step : s.start.step = 4) (more : s.start.groups < 100) : blockSlot s = startBlocks
    ((List.range 10).map fun k => 10 * s.start.groups + k) { s with start := { s.start with groups := s.start.groups + 1 } } :=
  if_pos ⟨step, more⟩

theorem blockSlot_left (step : s.start.step ≠ 4) : blockSlot s =
    startBlocks (s.start.toStart.take 10) { s with start := { s.start with toStart := s.start.toStart.drop 10 } } :=
  if_neg fun ⟨four, _⟩ => step four

theorem blockFails_started {b at' : Nat} (started : tget s.power.blockStarted b = some at') : blockFails b s = freeEvent { s with
    power := { s.power with blockStarted := terase s.power.blockStarted b }
    start := { s.start with blockFailed := (s.start.blockFailed.filter (· != b)) ++ [b] } } :=
  if_neg (not_isNone_of_some started)

/-- Settles O35, by the board's four commands, the seven steps, the slots of blocks and the laser step. -/
theorem startOrderRuns : Obligations.StartOrderRuns := by
  unfold Obligations.StartOrderRuns
  intro s
  refine ⟨exec_powerEnable, exec_powerLoss, exec_boardReset, rfl, fun env main => ?steps, fun main rails => ?rails⟩
  case steps =>
    rw [exec_startStepDone env main]
    have ends {t : State} (h : stepOfStart env s = t) : Host.Outcome.next (stepOfStart env s) =
        (Host.Outcome.next t : Host.Outcome State Fault Refusal) := congrArg _ h
    exact ⟨fun step => ends (stepOfStart_supply step), fun step released sound => ends (stepOfStart_selfTest step released sound),
      fun step goesOn => ends (stepOfStart_boot step goesOn),
      fun step unshut cool sound ready => ends (stepOfStart_stacks step unshut cool sound ready),
      fun step groups => ends (stepOfStart_vale step groups), fun step lasers => ends (stepOfStart_lasers step lasers),
      fun step => ends (stepOfStart_training step)⟩
  case rails =>
    refine ⟨fun step more => ?group, fun step => ?left, fun b at' started => ?fails, fun failed step more => ?laser⟩
    case group => rw [exec_of_rails (c := .blockGroupStart) rfl main rails, blockSlot_group step more]
    case left => rw [exec_of_rails (c := .blockGroupStart) rfl main rails, blockSlot_left step]
    case fails => rw [exec_of_rails (c := .blockRailTimeout b) rfl main rails, blockFails_started started]
    case laser => exact congrArg Host.Outcome.next (if_pos ⟨main, rails, step, more⟩)

/-! ### The interval leaves the errors alone -/

/-- What runs over a list keeps a part of the state that each of its steps keeps. -/
theorem foldl_keeps {α β : Type} (part : State → β) {f : State → α → State} (keeps : ∀ t y, part (f t y) = part t) (l : List α)
    (s : State) : part (l.foldl f s) = part s := by
  induction l generalizing s with
  | nil => rfl
  | cons y l ih => exact (ih (f s y)).trans (keeps s y)

theorem chargeThrottle_errors (s : State) : (chargeThrottle s).errors = s.errors := by
  unfold chargeThrottle
  refine foldl_keeps State.errors ?_ _ s
  exact fun _ _ => rfl

/-- The readings taken, with the blocks and the stacks judged by their heat. -/
def heated (m : PowerMeas) (s : State) : State :=
  heatStacks (((takeReadings m s).power.blockStarted.map (·.1)).foldl (fun v b => heatBlock v b) (takeReadings m s))

theorem heated_errors (m : PowerMeas) (s : State) : (heated m s).errors = s.errors :=
  foldl_keeps State.errors (f := heatBlock) (fun _ _ => rfl) _ (takeReadings m s)

/-- The interval up to the warnings: grants and charges where the rails are on. -/
def intervalGranted (m : PowerMeas) (s : State) : State :=
  if s.power.railsOn then chargeThrottle (grantNow 20 (heated m s)) else takeReadings m s

theorem intervalGranted_errors (m : PowerMeas) (s : State) : (intervalGranted m s).errors = s.errors := by
  unfold intervalGranted
  split
  · exact (chargeThrottle_errors _).trans (heated_errors m s)
  · rfl

theorem powerPass_eq (m : PowerMeas) (s : State) : powerPass m s =
    let w := evalWarnings (if s.errors.accounting then failWarn 32 (intervalGranted m s) else intervalGranted m s)
    alert (persistingAlerts w) w := by
  have passed : powerPass m s =
      let w := evalWarnings (if (intervalGranted m s).errors.accounting then failWarn 32 (intervalGranted m s) else intervalGranted m s)
      alert (persistingAlerts w) w := rfl
  rw [passed, intervalGranted_errors]

/-! ### Supply, heat and clocks -/

theorem not_overMaximum {v : Nat} (within : v ≤ 45000) : ¬ overMaximum v = true := fun excess =>
  Nat.not_lt.2 within (of_decide_eq_true excess)

theorem exec_powerInterval {m : PowerMeas} (within : m.vinMv ≤ 45000)
    (on : s.power.mainPower = true ∧ s.power.resetHeld = false ∧ 1 ≤ s.start.step) :
    exec (.powerInterval m) s = .next (settle (powerPass m s)) := by
  obtain ⟨main, released, begins⟩ := on
  have row : exec (.powerInterval m) s = if overMaximum m.vinMv then .fault .beyondAbsoluteMaximum
    else .next (if s.power.mainPower ∧ ¬ s.power.resetHeld ∧ 1 ≤ s.start.step then settle (powerPass m s) else s) := rfl
  rw [row, if_neg (not_overMaximum within), if_pos ⟨main, ne_true_of_eq_false released, begins⟩]

/-- An event that a condition admits has its effect. -/
theorem exec_of_both {a b : Bool} (row : exec c s = .next (if a && b then x else s)) (ha : a = true) (hb : b = true) :
    exec c s = .next x := by
  rw [row, ha, hb, Bool.and_self, if_pos rfl]

/-- One that stops beyond the absolute maximum has its effect within it. -/
theorem exec_within {v : Nat} {a b : Bool}
    (row : exec c s = if overMaximum v then .fault .beyondAbsoluteMaximum else .next (if a && b then x else s)) (within : v ≤ 45000)
    (ha : a = true) (hb : b = true) : exec c s = .next x := by
  rw [row, if_neg (not_overMaximum within), ha, hb, Bool.and_self, if_pos rfl]

theorem lt_sensorCount {k n : Nat} (h : k = 0 ∧ n < 1000 ∨ k = 1 ∧ n < 12 ∨ k = 2 ∧ n < 18) : n < sensorCount k := by
  obtain ⟨rfl, small⟩ | ⟨rfl, small⟩ | ⟨rfl, small⟩ := h <;> exact small

theorem exec_thermtrip {k n : Nat} (main : s.power.mainPower = true) (first : s.power.tripped = false) (sensor : n < sensorCount k) :
    exec (.thermtrip k n) s = .next
      (railsOff { s with power := { s.power with tripped := true, tripClass := k, tripIndex := n } }) := by
  have untripped : (s.power.mainPower && !s.power.tripped) = true := by rw [main, first]; rfl
  exact exec_of_both (c := .thermtrip k n) rfl untripped (decide_eq_true sensor)

/-- Settles O54, by the interval, the droops, the supply voltages, the sensors and the clocks. -/
theorem powerEventsAct : Obligations.PowerEventsAct := by
  unfold Obligations.PowerEventsAct
  intro s on hold
  refine ⟨?interval, ?railDroop, rfl, rfl, ?inputDroop, fun main => ?supply, ?inlet⟩
  case interval =>
    intro m within working t hot u w
    have granted : u = intervalGranted m s := rfl
    rw [granted, intervalGranted_errors, exec_powerInterval within working, powerPass_eq]
    exact ⟨rfl, rfl⟩
  case railDroop => exact fun blocks main rails => exec_of_both (c := .railDroop blocks) rfl main rails
  case inputDroop =>
    intro v ⟨main, released, begins⟩ low t
    exact exec_of_both (c := .inputDroop v) rfl (managed_of_power main released begins) (decide_eq_true low)
  case supply =>
    refine ⟨fun v low => exec_of_both (c := .inputUndervoltage v) rfl main (decide_eq_true low),
      fun v high within => exec_within (c := .inputOvervoltage v) rfl within main (decide_eq_true high),
      fun v high within => exec_within (c := .inputOvervoltageTrip v) rfl within main (decide_eq_true high),
      fun k n first sensor => exec_thermtrip main first (lt_sensorCount sensor), congrArg Host.Outcome.next (if_pos main),
      congrArg Host.Outcome.next (if_pos main), fun away => congrArg Host.Outcome.next (if_pos ⟨main, ne_true_of_eq_false away⟩)⟩
  case inlet =>
    intro r ⟨main, released, begins⟩ hot
    exact exec_of_both (c := .inletOvertemp r) rfl (managed_of_power main released begins) (decide_eq_true hot)

end Sys2Proof.Proofs

/-! SUPPORT. What does not start: every command of a message, of the sideband or of a descriptor is one of the three shared starts, whose
refusals are said once each; what the wait fence of a message says of it (R431); and a settling in which nothing can go on. O60 is assembled
from these. -/

namespace Sys2Proof.Proofs

open Sys2Proof Sys2Proof.Machine Sys2Proof.Laws

variable {s : State} {c : Instr} {ctx typ op : Nat} {b : Bytes}

/-! ### Each command is a shared start -/

/-- The command of a message starts that message, from the source and of the type that `mailbox` names. -/
theorem exec_mailbox {src : MsgRef} (h : mailbox c = some (src, typ)) :
    ∃ body, ∀ s, exec c s = .next (settle (withMsgRef src typ body s)) := by
  cases c <;> cases h <;> exact ⟨_, fun _ => rfl⟩

/-- The command of a descriptor starts that descriptor, of the opcode that `descriptorOf` names. -/
theorem exec_descriptor {t : TaskRef} (h : descriptorOf c = some (t, op)) :
    ∃ body : State → Ref → State → State, ∀ s, exec c s = .next (settle (withDesc t op (body s) s)) := by
  cases c <;> cases h <;> exact ⟨_, fun _ => rfl⟩

/-! ### Messages of an inbox -/

section

variable (body : Msg → State → State)

theorem withMessage_not_alive (h : alive s = false) : withMessage ctx typ body s = s := by
  unfold withMessage
  rw [if_pos (ne_true_of_eq_false h)]

theorem withMessage_empty (h : ((tget s.ctxs ctx).map (·.inbox)).getD [] = []) : withMessage ctx typ body s = s := by
  unfold withMessage
  rw [h]
  exact ite_self s

variable {rest : List Bytes} (first : ((tget s.ctxs ctx).map (·.inbox)).getD [] = b :: rest)

include first

theorem withMessage_holds (h : waitState s b = .hold) : withMessage ctx typ body s = s := by
  unfold withMessage
  simp only [first, h, ite_self]

variable (ready : alive s = true) (type : msgType b = typ)

include ready type

theorem withMessage_dead (h : waitState s b = .dead) :
    withMessage ctx typ body s = complete ⟨some ctx, b⟩ 0x1E (popInbox ctx s) := by
  unfold withMessage
  simp only [ready, first, type, h, ne_eq, not_true, if_false]

theorem withMessage_refused {st : Nat} (go : waitState s b = .go) (h : startCheck s ctx b = some st) :
    withMessage ctx typ body s = complete ⟨some ctx, b⟩ st (popInbox ctx s) := by
  unfold withMessage
  simp only [ready, first, type, go, h, ne_eq, not_true, if_false]

end

/-! ### Messages of the sideband -/

section

variable (body : Msg → State → State)

theorem fromSideband_off (h : s.power.mainPower = false ∨ s.power.resetHeld = true) : fromSideband b typ body s = s := by
  unfold fromSideband
  rw [if_pos (h.imp_left ne_true_of_eq_false)]

theorem sideband_sized (long : 64 ≤ b.length) (short : b.length ≤ 1024) : ¬ (b.length < 64 ∨ 1024 < b.length) :=
  not_or.2 ⟨Nat.not_lt.2 long, Nat.not_lt.2 short⟩

variable (main : s.power.mainPower = true) (released : s.power.resetHeld = false)

include main released

theorem sideband_answers : ¬ (¬ s.power.mainPower = true ∨ s.power.resetHeld = true) :=
  not_or.2 ⟨not_not_intro main, ne_true_of_eq_false released⟩

theorem fromSideband_length (h : b.length < 64 ∨ 1024 < b.length) :
    fromSideband b typ body s = { s with mgmt := { s.mgmt with accessErr := s.mgmt.accessErr ||| 4 } } := by
  unfold fromSideband
  rw [if_neg (sideband_answers main released), if_pos h]

variable (long : 64 ≤ b.length) (short : b.length ≤ 1024)

include long short

theorem fromSideband_busy (busy : s.mgmt.busy = true) : fromSideband b typ body s = s := by
  unfold fromSideband
  rw [if_neg (sideband_answers main released), if_neg (sideband_sized long short), if_pos busy]

theorem fromSideband_barred (idle : s.mgmt.busy = false) (barred : sidebandType (msgType b) = false) :
    fromSideband b typ body s = complete ⟨none, b⟩ 0x13 { s with mgmt := { s.mgmt with busy := true } } := by
  unfold fromSideband
  rw [if_neg (sideband_answers main released), if_neg (sideband_sized long short), if_neg (ne_true_of_eq_false idle)]
  exact if_pos (ne_true_of_eq_false barred)

end

/-! ### The wait fence of a message (R431, R449) -/

theorem waitState_unflagged (h : bit (msgFlags b) 1 = false) : waitState s b = .go := if_neg (ne_true_of_eq_false h)

section

variable (flagged : bit (msgFlags b) 1 = true)

include flagged

theorem waitState_gone (h : objAt s (rd b 24 2) = none) : waitState s b = .dead := by
  simp only [waitState, flagged, if_true, h]

/-- An entry of another generation than the message names is dead for it, whatever it holds. -/
theorem waitState_otherGeneration (h : genOf s (rd b 24 2) ≠ rd b 26 1) : waitState s b = .dead := by
  simp only [waitState, flagged, if_true, h, ne_eq, not_false_eq_true, true_or]
  split <;> rfl

theorem waitState_fence {o : Obj} {f : Fence} (there : objAt s (rd b 24 2) = some o) (data : o.data = .fence f)
    (generation : genOf s (rd b 24 2) = rd b 26 1) :
    waitState s b = if f.faulted = true then .dead else if reached f.value (rd b 28 8) then .go else .hold := by
  obtain ⟨job, ctx, data', destroying⟩ := o
  cases data
  simp only [waitState, flagged, if_true, there, generation, ne_eq, not_true, false_or]

end

/-! ### Descriptors (R191, R192) -/

theorem withDesc_gone {t : TaskRef} (body : Ref → State → State) (h : refOf s t = none) : withDesc t op body s = s := by
  unfold withDesc
  simp only [h]

theorem withDesc_barred {t : TaskRef} {r : Ref} (body : Ref → State → State) (there : refOf s t = some r)
    (h : dOp r.d ≠ op ∨ mayStart s r = false) : withDesc t op body s = s := by
  have barred : ¬ (dOp r.d = op ∧ mayStart s r = true) := fun ⟨same, may⟩ =>
    h.elim (fun other => other same) fun may' => ne_true_of_eq_false may' may
  unfold withDesc
  simp only [there, if_neg barred]

/-! ### Nothing can go on -/

theorem settleHeld_none {e : Nat × Qp} (h : e.2.held = [] ∨ inboundReady s e.2 true (e.2.held.headD {}) = false) :
    settleHeld s e = none := by
  unfold settleHeld
  split
  · rfl
  · rename_i x rest held
    obtain empty | unready := h
    · rw [held] at empty
      cases empty
    · rw [held, List.headD_cons] at unready
      exact if_neg (ne_true_of_eq_false unready)

theorem settleLoop_none (h : nextSettle s = none) (k : Nat) : settleLoop k s = s := by
  cases k with
  | zero => rfl
  | succ k => rw [settleLoop, h]

theorem settle_of_nextSettle_none (h : nextSettle s = none) : settle s = placeTasks s := by
  rw [settle, settleLoop_none h]

theorem nextSettle_none (reported : s.vale.failing = []) (waits : ∀ t ∈ openTasks s, settleWait s t = none)
    (runs : ∀ r ∈ s.running, settleRunning s r = none)
    (held : ∀ q ∈ s.eth.qps, q.2.held = [] ∨ inboundReady s q.2 true (q.2.held.headD {}) = false) : nextSettle s = none := by
  have noWait : (openTasks s).findSome? (settleWait s) = none := List.findSome?_eq_none_iff.2 waits
  have noRun : s.running.findSome? (settleRunning s) = none := List.findSome?_eq_none_iff.2 runs
  have noHeld : s.eth.qps.findSome? (settleHeld s) = none := List.findSome?_eq_none_iff.2 fun q listed => settleHeld_none (held q listed)
  simp only [nextSettle, reported, List.isEmpty_nil, not_true, if_false, noWait, noRun, noHeld, Option.or_none]

/-- Settles O60: each command is one of the three shared starts, and each start says what it leaves where nothing begins. -/
theorem commandsWaitTheirTurn : Obligations.CommandsWaitTheirTurn := by
  unfold Obligations.CommandsWaitTheirTurn
  refine ⟨?inbox, ?fence, ?sideband, ?descriptor, fun s reported waits runs held =>
    settle_of_nextSettle_none (nextSettle_none reported waits runs held)⟩
  case inbox =>
    intro c s ctx typ named inbox
    obtain ⟨body, row⟩ := exec_mailbox named
    have row : exec c s = .next (settle (withMessage ctx typ body s)) := row s
    rw [row]
    refine ⟨fun off => ?_, fun empty => ?_, fun b rest first stays => ?_,
      fun b rest ready first type => ⟨fun dead => ?_, fun st go refused => ?_⟩⟩
    · rw [withMessage_not_alive body off]
    · rw [withMessage_empty body empty]
    · obtain other | holds := stays
      · rw [withMessage_other body first other]
      · rw [withMessage_holds body first holds]
    · rw [withMessage_dead body first ready type dead]
    · rw [withMessage_refused body first ready type go refused]
  case fence =>
    intro s b i
    refine ⟨waitState_unflagged, fun flagged => ⟨fun dead => ?_, fun o f there data generation => ?_⟩⟩
    · exact dead.elim (waitState_gone flagged) (waitState_otherGeneration flagged)
    · rw [waitState_fence flagged there data generation]
      exact ⟨fun faulted => if_pos faulted, fun sound => if_neg (ne_true_of_eq_false sound)⟩
  case sideband =>
    intro c s b typ named t
    obtain ⟨body, row⟩ := exec_mailbox named
    have row : exec c s = .next (settle (fromSideband b typ body s)) := row s
    rw [row]
    refine ⟨fun off => ?_, fun main released => ⟨fun length => ?_, fun long short busy => ?_, fun long short idle barred => ?_⟩⟩
    · rw [fromSideband_off body off]
    · rw [fromSideband_length body main released length]
    · rw [fromSideband_busy body main released long short busy]
    · rw [fromSideband_barred body main released long short idle barred]
  case descriptor =>
    intro c s t op named
    obtain ⟨body, row⟩ := exec_descriptor named
    rw [row s]
    exact ⟨fun gone => by rw [withDesc_gone _ gone], fun r there barred => by rw [withDesc_barred _ there barred]⟩

end Sys2Proof.Proofs

/-! SUPPORT. Glen's messages (R481, R500 to R504, R509 to R512): what a message that needs Glen does while it is at work and while it is not,
and what each of the five does where its checks pass; O23 is assembled from them. -/

namespace Sys2Proof.Proofs

open Sys2Proof Sys2Proof.Machine Sys2Proof.Laws

variable {s : State} {c : Instr} {ctx j : Nat} {m : Msg} {b : Job}

/-! ### Messages that need Glen (R481) -/

/-- The state in which a message waits for Glen, behind what waits already. -/
def waitGlen (m : Msg) (s : State) : State :=
  keepRunning m (.ticket s.tickets)
    { s with tickets := s.tickets + 1, glen := { s.glen with queue := s.glen.queue ++ [.message s.tickets m] } }

theorem withGlen_busy {g : GlenOp} (body : Msg → State → State) (busy : s.glen.current = some g) : withGlen m body s = waitGlen m s := by
  simp only [withGlen, busy, Option.isSome_some, if_true, newTicket, waitGlen]

section

variable {typ : Nat} {body : Msg → State → State}
  (row : exec c s = .next (settle (withMessage ctx typ (fun m s => withGlen m body s) s))) (front : Front s ctx typ m)

include row front

theorem exec_of_glen_idle (idle : s.glen.current = none) : exec c s = .next (settle (body m (popInbox ctx s))) := by
  rw [exec_of_front row front, withGlen_idle (s := popInbox ctx s) body idle]

theorem exec_of_glen_busy {g : GlenOp} (busy : s.glen.current = some g) :
    exec c s = .next (settle (waitGlen m (popInbox ctx s))) := by
  rw [exec_of_front row front, withGlen_busy (s := popInbox ctx s) body busy]

end

/-! ### ATTEST and CERT_READ (R501, R512) -/

/-- A report does not depend on the tickets that were given. -/
theorem reportBytes_ticketed (n : Nat) (o : Option Nat) (nonce : Bytes) :
    reportBytes { s with tickets := n } o nonce = reportBytes s o nonce := rfl

theorem attestRun_begins (carve : carveIndex s m = some j) (root : rootAlive s = true)
    (range : rangeIn (carveOf s j) (arg m.bytes 0 5) 48864 = true) :
    attestRun m s = keepRunning m (.ticket s.tickets) { s with
      tickets := s.tickets + 1
      glen := { s.glen with current := some (.attest s.tickets j (arg m.bytes 0 5)
        (reportBytes s (if msgJob m.bytes = 0 then none else some j) (sub m.bytes 53 11))) } } := by
  simp only [attestRun, carve, root, range, not_true, if_false, newTicket]

theorem certReadBody_writes (carve : carveIndex s m = some j) (range : rangeIn (carveOf s j) (arg m.bytes 0 5) 29920 = true) :
    certReadBody m s = complete m 0x00 (engineWrite j (arg m.bytes 0 5) certBytes s) := by
  simp only [certReadBody, carve, range, not_true, if_false]

section

variable (live : liveJob s m = some j) (job : tget s.jobs j = some b)

include live job

/-! ### KEY_DELIVER (R36, R502 to R504) -/

section

variable (root : rootAlive s = true) (mirror : s.ledger.mirrorFault = false) (range : rangeOk s j (arg m.bytes 0 5) 31536 = true)
  {r : Bytes} (record : peekN s j (arg m.bytes 0 5) 31536 = r) (version : rd r 0 2 = 1) (owner : rd r 2 1 = arg m.bytes 5 1)
  (reserved : rd r 3 1 = 0) (id : rd r 4 4 = b.id) (zero : allZero (sub r 0x70 16) = true)

include root mirror range record version owner reserved id zero

/-- A well-formed record that opens to a key takes the lowest free slot. -/
theorem keyDeliverRun_opens {k : Bytes} {n : Nat} (opens : openDelivery s b r = .ok k) (free : (freeSlots s).head? = some n) :
    keyDeliverRun m s = deferChange m (.ownerKey j (rd r 2 1) (rd r 8 8) k n)
      (slotRecord 1 n b.id ⟨k, attrWord 9 0 j (rd r 2 1) 0x21⟩ s) := by
  simp only [keyDeliverRun, live, job, Option.getD_some, root, mirror, Bool.false_eq_true, not_true, or_self, if_false, range, record, version,
    ← owner, reserved, id, zero, ne_eq, opens, free]

/-- A well-formed record that does not open completes with the cause. -/
theorem keyDeliverRun_refused {c : Nat} (refused : openDelivery s b r = .error c) :
    keyDeliverRun m s = completeResult m 0x12 [BitVec.ofNat 8 c] s := by
  simp only [keyDeliverRun, live, job, Option.getD_some, root, mirror, Bool.false_eq_true, not_true, or_self, if_false, range, record, version,
    ← owner, reserved, id, zero, ne_eq, refused]

end

/-! ### Sealing (R509 to R511) -/

theorem sealRun_seals (held : b.keys.secret ≠ []) (range : rangeOk s j (arg m.bytes 0 5) 376 = true) :
    sealRun m s = complete m 0x00 (engineWrite j (arg m.bytes 0 5) (sealedBlob s b) s) := by
  simp only [sealRun, live, job, Option.getD_some, List.isEmpty_iff, held, range, not_true, if_false]

theorem unsealRun_opens {k : Bytes} {x : Change × State} (lead : b.isLead = true) (awaits : b.awaitUnseal = true) (created : b.phase = .created)
    (unkeyed : b.keys.secret = []) (still : keyComing s j = false) (range : rangeOk s j (arg m.bytes 0 5) 376 = true)
    (opens : openBlob s b (peekN s j (arg m.bytes 0 5) 376) = some k) (starts : startKeying j b k s = some x) :
    unsealRun m s = deferChange m x.1 x.2 := by
  simp only [unsealRun, live, job, Option.getD_some, lead, awaits, created, unkeyed, List.isEmpty_nil, still, Bool.false_eq_true, ne_eq, not_true,
    or_self, if_false, range, opens, starts]

end

/-- Settles O23: each message that needs Glen, by whether Glen is at work; where it is not, by its own checks. -/
theorem glenRunsMessages : Obligations.GlenRunsMessages := by
  intro s ctx m t off
  refine ⟨?attest, ?deliver, ?sealing, ?unsealing, ?certificate, fun g busy => ⟨?a, ?d, ?k, ?u⟩⟩
  case attest =>
    intro j front idle carve root range
    rw [exec_of_glen_idle (c := .attest ctx) rfl front idle, attestRun_begins carve root range, reportBytes_ticketed]
    rfl
  case deliver =>
    intro j b front idle live job root mirror range r version owner reserved id zero
    have runs := exec_of_glen_idle (c := .keyDeliver ctx) (body := keyDeliverRun) rfl front idle
    exact ⟨fun k n opens free => by rw [runs, keyDeliverRun_opens live job root mirror range rfl version owner reserved id zero opens free],
      fun c refused => by rw [runs, keyDeliverRun_refused live job root mirror range rfl version owner reserved id zero refused]⟩
  case sealing =>
    intro j b front idle live job held range
    rw [exec_of_glen_idle (c := .jobKeySeal ctx) rfl front idle, sealRun_seals live job held range]
  case unsealing =>
    intro j b k x front idle live job lead awaits created unkeyed still range opens starts
    rw [exec_of_glen_idle (c := .jobKeyUnseal ctx) rfl front idle,
      unsealRun_opens live job lead awaits created unkeyed still range opens starts]
  case certificate =>
    intro j front carve range
    rw [exec_of_front (c := .certRead ctx) rfl front, certReadBody_writes carve range]
  case a => exact fun front => exec_of_glen_busy (c := .attest ctx) (body := attestRun) rfl front busy
  case d => exact fun front => exec_of_glen_busy (c := .keyDeliver ctx) (body := keyDeliverRun) rfl front busy
  case k => exact fun front => exec_of_glen_busy (c := .jobKeySeal ctx) (body := sealRun) rfl front busy
  case u => exact fun front => exec_of_glen_busy (c := .jobKeyUnseal ctx) (body := unsealRun) rfl front busy

end Sys2Proof.Proofs

/-! SUPPORT. Restores (R536 to R542): RESTORE past its checks, the end of a shard's loading, STATE_IMPORT of a shard that fits, and the end of
an import, one equation per case; O28 is assembled from them. -/

namespace Sys2Proof.Proofs

open Sys2Proof Sys2Proof.Machine Sys2Proof.Laws

variable {s : State} {m : Msg} {j : Nat} {b : Job} {x : RestoreSt}

/-! ### RESTORE (R536, R537) -/

/-- What a RESTORE keeps of its checks, whose outcome is a cause, the shard's step, the manifest and the shard's header. -/
def checkedRestore (m : Msg) (c : Nat × Nat × Bytes × Bytes) : RestoreSt :=
  { msg := m, record := msgBody m.bytes, manifest := c.2.2.1, header := c.2.2.2, cause := c.1, step := c.2.1 }

/-- The state in which a job's message waits for the end of its restore. -/
def restoring (m : Msg) (j : Nat) (x : RestoreSt) (s : State) : State :=
  keepRunning m (.restore j) (modJob j (fun b => { b with restore := some x }) s)

/-- The checks of a RESTORE reach the lead, which may be this Proend itself. -/
def sendCheck (j : Nat) (b : Job) (c : Nat × Nat × Bytes × Bytes) (s : State) : State :=
  if b.isLead then checkArrives j (deviceAddress s) c.1 c.2.1 s else toLead j (barrierPayload 9 c.1 (rd c.2.2.1 8 4) c.2.1) s

theorem restoreBody_checks {manifest chunk : ReadResult} {c : Nat × Nat × Bytes × Bytes} (bound : boundJob s m = .ok j)
    (job : tget s.jobs j = some b) (length : (msgBody m.bytes).length = 64) (zero : allZero (sub (msgBody m.bytes) 45 19) = true)
    (keyed : b.phase = .keyed) (still : b.restore = none) (capture : b.capture.phase = .none)
    (extent : extentStatus s (partOf j) 3 (rd (msgBody m.bytes) 0 2) (rd (msgBody m.bytes) 2 1) = none)
    (checks : restoreCause s j b (msgBody m.bytes) manifest chunk = c)
    (addresses : rangeOk s j (rd (msgBody m.bytes) 40 5) (4 * rd c.2.2.1 0x18 4) = true)
    (report : b.isLead = true → rangeOk s j (rd (msgBody m.bytes) 3 5) (16 * rd c.2.2.1 0x18 4) = true) :
    restoreBody manifest chunk m s = sendCheck j b c (restoring m j (checkedRestore m c) s) := by
  have ranges : ¬ (¬ rangeOk s j (rd (msgBody m.bytes) 40 5) (4 * rd c.2.2.1 0x18 4) = true ∨
      b.isLead = true ∧ ¬ rangeOk s j (rd (msgBody m.bytes) 3 5) (16 * rd c.2.2.1 0x18 4) = true) :=
    not_or.2 ⟨not_not_intro addresses, fun ⟨lead, outside⟩ => outside (report lead)⟩
  simp only [restoreBody, bound, job, Option.getD_some, length, zero, keyed, still, capture, ne_eq, not_true, Option.isSome_none,
    Bool.false_eq_true, or_self, if_false, extent, checks, if_neg ranges]
  rfl

/-! ### The end of a loading (R538, R539) -/

/-- A member's loading has ended with a cause, which the lead hears. -/
def tellLoaded (j : Nat) (b : Job) (x : RestoreSt) (cause : Nat) (s : State) : State :=
  let w := modJob j (fun b => { b with restore := b.restore.map fun y => { y with cause, loaded := cause == 0 } }) s
  if b.isLead then doneArrives j (deviceAddress w) cause w else toLead j (barrierPayload 0xC cause (rd x.manifest 8 4) 0) w

/-- A member's entry of the manifest of a restore. -/
def restoreEntry (x : RestoreSt) : Bytes := manifestEntry x.manifest (rd x.record 36 4)

/-- The chunks of a shard that has come for a restore. -/
def restoreChunk (b : Job) (x : RestoreSt) (d : Bytes) : Nat → Option Bytes :=
  shardChunk (ckptKey b) (rd x.manifest 8 8) (rd x.record 36 4) d

/-- A shard is whole: it has the length and the digest of its manifest entry, and every chunk of it opens (R539). -/
structure ShardWhole (b : Job) (x : RestoreSt) (d : Bytes) : Prop where
  length : d.length = rd (restoreEntry x) 8 8
  digest : sha256 d = sub (restoreEntry x) 16 32
  opens : ∀ c, c < d.length / 4112 → (restoreChunk b x d c).isSome = true

/-- The model's own test of that. -/
theorem shardWhole_iff (d : Bytes) :
    (d.length == rd (restoreEntry x) 8 8 && decide (sha256 d = sub (restoreEntry x) 16 32) &&
      (List.range (d.length / 4112)).all fun c => (restoreChunk b x d c).isSome) = true ↔ ShardWhole b x d := by
  simp only [Bool.and_eq_true, beq_iff_eq, decide_eq_true_eq, List.all_eq_true, List.mem_range]
  exact ⟨fun ⟨⟨length, digest⟩, opens⟩ => ⟨length, digest, opens⟩, fun h => ⟨⟨h.length, h.digest⟩, h.opens⟩⟩

theorem not_shardWhole {d : Bytes} (h : d.length ≠ rd (restoreEntry x) 8 8 ∨ sha256 d ≠ sub (restoreEntry x) 16 32 ∨
    ∃ c, c < d.length / 4112 ∧ restoreChunk b x d c = none) : ¬ ShardWhole b x d := by
  intro whole
  obtain length | digest | ⟨c, inside, sealed⟩ := h
  · exact length whole.length
  · exact digest whole.digest
  · exact Option.isSome_iff_ne_none.1 (whole.opens c inside) sealed

section

variable (job : tget s.jobs j = some b) (restore : b.restore = some x) (own : x.imported = false) (going : x.going = true)
  (loading : x.loaded = false)

include job restore own going loading

theorem loadDone_failed : loadDone j .failed s = tellLoaded j b x 9 (dropFlight (.restoreRead j) s) := by
  simp only [loadDone, job, restore, own, going, loading, Bool.false_eq_true, not_true, or_self, if_false, ite_self]
  rfl

variable (up : ((qpOfObj s (rd x.record 0 2)).map (carries s)).getD false = true) {d : Bytes}

include up

theorem loadDone_whole (whole : ShardWhole b x d) :
    loadDone j (.bytes d) s = tellLoaded j b x 0 (loadShard j x (restoreChunk b x d) (dropFlight (.restoreRead j) s)) := by
  simp only [loadDone, job, restore, own, going, loading, Bool.false_eq_true, not_true, or_self, if_false, up, if_true]
  exact if_neg (not_not_intro ((shardWhole_iff d).2 whole))

theorem loadDone_broken (broken : ¬ ShardWhole b x d) :
    loadDone j (.bytes d) s = tellLoaded j b x 7 (dropFlight (.restoreRead j) s) := by
  simp only [loadDone, job, restore, own, going, loading, Bool.false_eq_true, not_true, or_self, if_false, up, if_true]
  exact if_pos (mt (shardWhole_iff d).1 broken)

end

/-! ### STATE_IMPORT (R541, R542) -/

/-- The pages of a job's tensor. -/
def tensorPages (b : Job) (target : Nat) : List Nat := (byteRange b.tensors 0 0 target).flatMap pagesOf

section

variable {r man h0 ix h d sc : Bytes} {e : TensorE} {dv sv : TV} (bound : boundJob s m = .ok j) (job : tget s.jobs j = some b)
  (body : msgBody m.bytes = r) (length : r.length = 64) (zero : allZero (sub r 3 5) = true) (source : rd r 36 4 < 2 ^ 20) (flags : rd r 40 1 < 2)
  (reserved : rd r 41 1 = 0) (rest : allZero (sub r 44 20) = true) (keyed : b.phase = .keyed) (still : b.restore = none)
  (extent : extentStatus s (partOf j) 3 (rd r 0 2) (rd r 2 1) = none) (target : tget b.tensors (rd r 42 2) = some e)
  (cause : manifestCause b man = 0) (optional : bit (rd man 2 1) 0 = true) (member : rd r 36 4 < rd man 0x18 4)
  (opens : shardChunk (ckptKey b) (rd man 8 8) (rd r 36 4) h0 0 = some h)
  (found : sourceTensor (tLogical e.raw) (indexEntries ix) = some (d, sc)) (destination : viewOf b 0 0 none (rd r 42 2) = some dv)
  (view : sourceView d sc b.cfg.block = some sv) (fits : importOk d e.raw sv dv = true)

include bound job body length zero source flags reserved rest keyed still extent target cause optional member opens found destination view fits

/-- An import that fits asks for every page of its target. -/
theorem importBody_fits :
    importBody (.bytes man) (.bytes h0) (.bytes ix) m s = (tensorPages b (rd r 42 2)).foldl (fun t p => requestPage j p t)
      (restoring m j { msg := m, record := r, manifest := man, header := h, imported := true, index := ix } s) := by
  have formed : ¬ (r.length ≠ 64 ∨ ¬ allZero (sub r 3 5) = true ∨ 2 ^ 20 ≤ rd r 36 4 ∨ 2 ≤ rd r 40 1 ∨ rd r 41 1 ≠ 0 ∨
      ¬ allZero (sub r 44 20) = true) := by
    simp only [length, zero, reserved, rest, ne_eq, not_true, false_or, or_false, not_or, Nat.not_le]
    exact ⟨source, flags⟩
  have judged : ¬ (manifestCause b man ≠ 0 ∨ ¬ bit (rd man 2 1) 0 = true ∨ rd man 0x18 4 ≤ rd r 36 4) := by
    simp only [cause, optional, ne_eq, not_true, false_or, Nat.not_le]
    exact member
  simp only [importBody, bound, job, Option.getD_some, body, if_neg formed, keyed, still, ne_eq, not_true, Option.isSome_none, Bool.false_eq_true,
    or_self, if_false, extent, target]
  rw [if_neg judged]
  simp only [opens, found, destination, view, fits, not_true, if_false]
  rfl

end

section

variable (job : tget s.jobs j = some b) (restore : b.restore = some x) (imports : x.imported = true)

include job restore imports

theorem importDone_failed : importDone j .failed s = endRestore j 9 s := by
  simp only [importDone, job, restore, imports, not_true, if_false]

variable {e : TensorE} {d src sc : Bytes} {dv sv : TV} (target : tget b.tensors (rd x.record 42 2) = some e)
  (destination : viewOf b 0 0 none (rd x.record 42 2) = some dv)
  (found : sourceTensor (tLogical e.raw) (indexEntries x.index) = some (src, sc)) (view : sourceView src sc b.cfg.block = some sv)
  (resident : ∀ p ∈ tensorPages b (rd x.record 42 2), (dirAt s j p).st = .resident)

include target destination found view resident

/-- With its target resident, an import ends by whether every byte of its source verifies. -/
theorem importDone_resident :
    importDone j (.bytes d) s = if ((importBytes b x d e src dv sv).any fun c => c.2.isNone) = true then endRestore j 7 s
      else finish (.restore j) 0x00 {} (modJob j (fun b => { b with restore := none }) (placeImport j b x d e src dv sv s)) := by
  have pages : ((tensorPages b (rd x.record 42 2)).all fun p => (dirAt s j p).st == .resident) = true :=
    List.all_eq_true.2 fun p inside => beq_iff_eq.2 (resident p inside)
  simp only [importDone, job, restore, imports, not_true, if_false, target, destination, found, view]
  exact if_neg (not_not_intro pages)

end

/-- Settles O28: RESTORE past its checks; a shard that is whole, broken or missing; an import that fits, and its three ends. -/
theorem restoresLoadWhole : Obligations.RestoresLoadWhole := by
  refine ⟨?restores, ?loads, ?imports, ?placed⟩
  case restores =>
    intro s ctx m j b manifest chunk t r c x w front bound job length zero keyed still capture extent addresses report
    rw [exec_of_front (c := .restore ctx manifest chunk) rfl front,
      restoreBody_checks bound job length zero keyed still capture extent rfl addresses report]
    rfl
  case loads =>
    intro s j b x ready job restore own going loading u tell member e
    have ends (r : ReadResult) : exec (.restoreLoadComplete j r) s = .next (settle (loadDone j r s)) := exec_of_alive rfl ready
    constructor
    · rw [ends, loadDone_failed job restore own going loading]
      rfl
    · intro up d chunk
      constructor
      · intro length digest opens
        rw [ends, loadDone_whole job restore own going loading up ⟨length, digest, opens⟩]
        rfl
      · intro broken
        rw [ends, loadDone_broken job restore own going loading up (not_shardWhole broken)]
        rfl
  case imports =>
    intro s ctx m j b man h0 ix h d sc e dv sv t r front bound job length zero source flags reserved rest keyed still extent target cause
      optional member opens found destination view fits
    rw [exec_of_front (c := .stateImport ctx (.bytes man) (.bytes h0) (.bytes ix)) rfl front,
      importBody_fits bound job rfl length zero source flags reserved rest keyed still extent target cause optional member opens found
        destination view fits]
    rfl
  case placed =>
    intro s j b x e d src sc dv sv ready job restore imports target destination found view resident
    have ends (r : ReadResult) : exec (.stateImportComplete j r) s = .next (settle (importDone j r s)) := exec_of_alive rfl ready
    refine ⟨fun verifies => ?_, fun ⟨c, copied, fails⟩ => ?_, ?_⟩
    · have whole : ¬ ((importBytes b x d e src dv sv).any fun c => c.2.isNone) = true := fun h => by
        obtain ⟨c, copied, fails⟩ := List.any_eq_true.1 h
        exact Option.isSome_iff_ne_none.1 (verifies c copied) (Option.isNone_iff_eq_none.1 fails)
      rw [ends, importDone_resident job restore imports target destination found view resident, if_neg whole]
    · rw [ends, importDone_resident job restore imports target destination found view resident,
        if_pos (List.any_eq_true.2 ⟨c, copied, Option.isNone_iff_eq_none.2 fails⟩)]
    · rw [ends, importDone_failed job restore imports]

end Sys2Proof.Proofs
